-- ==== Sys2Proof/Word.lean ====
section
/-! DEFINITION. The word types of the ZX9480 model and their plainest arithmetic. -/

namespace Sys2Proof

/-- A byte of memory, of a packet or of a register image. -/
abbrev Byte := BitVec 8

/-- A register word of BAR0 (R431). -/
abbrev Word32 := BitVec 32

/-- A device address, buffer handle or token tag (R336, R346, R187). -/
abbrev Word64 := BitVec 64

/-- The quotient rounded up; 0 when the divisor is 0. -/
def ceilDiv (a b : Nat) : Nat := if b = 0 then 0 else (a + b - 1) / b

/-- `a` rounded up to a multiple of `b`. -/
def roundUp (a b : Nat) : Nat := ceilDiv a b * b

/-- A count that saturates at 0xFFFF_FFFF, as most count registers do (R237, R302, R334, R405, R534). -/
def sat32 (n : Nat) : Nat := min n 0xFFFFFFFF

end Sys2Proof
end

