-- ==== Sys2Proof/Types.lean ====
section
/-! DEFINITION. The operand types of the commands: formats, queue ends, wait and signal fields, the MGI
operations with their operands (R114), the declarations of a station program (R99), and the messages that
arrive over the fabric (R211, R292, R381, R410). -/

namespace Sys2Proof

/-- The three grades of R2. -/
inductive Grade where
  | zx9480 | zx9460 | zx9440
  deriving DecidableEq, Repr

/-- The units of a core by the UNIT codes of R104: control core, MX, VX, LS and the ST path. -/
inductive EngUnit where
  | cc | mx | vx | ls | st
  deriving DecidableEq, Repr

/-- UNIT code of R104. -/
def EngUnit.code : EngUnit → Nat
  | .cc => 0 | .mx => 1 | .vx => 2 | .ls => 3 | .st => 4

/-- The element formats of R40. -/
inductive Fmt where
  | fp4 | e4m3 | e5m2 | int8 | bf16 | fp16 | fp32 | int32
  deriving DecidableEq, Repr

/-- An object that a wait or signal names (R84, R86). -/
inductive SigObj where
  | flag (i : Nat)
  | counter (i : Nat)
  deriving DecidableEq, Repr

/-- A wait field of R84: the object, the flag value or counter threshold awaited, and CONSUME. -/
structure WaitField where
  obj : SigObj
  value : Nat
  consume : Bool
  deriving DecidableEq, Repr

/-- The operation of a signal field (R86). -/
inductive SigOp where
  | set
  | clear
  | add (v : Nat)
  deriving DecidableEq, Repr

/-- A signal field of R86. `core = none` names the running core; `rank = none` names this device. -/
structure SigField where
  obj : SigObj
  op : SigOp
  core : Option Nat
  rank : Option Nat
  deriving DecidableEq, Repr

/-- An entry reference of R153: entry index and the low 16 bits of the iteration. -/
structure ScaleRef where
  idx : Nat
  iter : Nat
  deriving DecidableEq, Repr

/-- Memory named by an operation: a device address, or a handle and an offset (R114, R346). -/
inductive MemRef where
  | addr (a : Nat)
  | handle (h : Word64) (off : Nat)
  deriving DecidableEq, Repr

/-- A tile operand: a queue head (R78, with KEEP), or tiles in memory with their expected format and
optional stride (R572). `trans` is the transposed attribute of R48. -/
inductive TileSrc where
  | queue (q : Nat) (keep trans : Bool)
  | mem (ref : MemRef) (stride : Option Nat) (fmt : Fmt) (trans : Bool)
  deriving DecidableEq, Repr

/-- The drain work of the command that ends an accumulation (R141, R145). -/
inductive DrainKind where
  | plain
  | topk (k span pos : Nat) (withLse : Bool) (qVal qPos qLse : Nat)
  | lse (span pos qLse : Nat)
  deriving DecidableEq, Repr

/-- Operands of MATMUL, MATMUL_TOPK and MATMUL_LSE (R114, R141, R145). -/
structure MatmulArgs where
  a : TileSrc
  b : TileSrc
  kt : Nat
  out : Option Nat
  outFmt : Fmt
  entry : Option ScaleRef
  chain : Bool
  kind : DrainKind
  deriving DecidableEq, Repr

/-- GATE_FN of R179. -/
inductive GateFn where
  | softmaxAll | softmaxTopk | sigmoid
  deriving DecidableEq, Repr

/-- Operands of GATE (R179). `tokens` is T, `hidden` is H, `experts` is E, `group` is S. -/
structure GateArgs where
  x : TileSrc
  wg : TileSrc
  tokens : Nat
  hidden : Nat
  experts : Nat
  k : Nat
  fn : GateFn
  negotiated : Bool
  renorm : Bool
  routeTable : Nat
  members : Nat
  group : Nat
  pos : Nat
  layer : Nat
  microBatch : Nat
  choices : Word64
  summary : Word64
  deriving DecidableEq, Repr

/-- Comparisons of MAP's compare. -/
inductive Cmp where
  | lt | le | eq | ne | gt | ge
  deriving DecidableEq, Repr

/-- The element-wise operations of MAP and BROADCAST (R114). -/
inductive MapOp where
  | add | sub | mul | fma | min | max | compare (c : Cmp) | select
  | exp | log | recip | rsqrt | tanh | sigmoid | silu
  deriving DecidableEq, Repr

/-- The reductions of REDUCE (R114). -/
inductive RedOp where
  | sum | max | min | sumsq
  deriving DecidableEq, Repr

/-- A work item's DONE field (R91): logical core, counter, ADD value. -/
structure DoneField where
  core : Nat
  counter : Nat
  value : Nat
  deriving DecidableEq, Repr

/-- A work item of R91. -/
structure WorkItem where
  routine : Nat
  cls : Nat
  expert : Option Nat
  rows : Nat
  affinity : Option Nat
  done : Option DoneField
  /-- ARG0 to ARG5. -/
  args : Vector Word64 6
  deriving DecidableEq, Repr

/-- Operands common to DISPATCH and COMBINE (R208). `rankTable` is MEMBERS, `hidden` is H and `tokens`, `k`
are those of the round's GATE. -/
structure RoundArgs where
  bwd : Bool
  layer : Nat
  microBatch : Nat
  epoch : Nat
  members : Nat
  group : Nat
  pos : Nat
  tokens : Nat
  k : Nat
  hidden : Nat
  choices : Word64
  record : Word64
  deriving DecidableEq, Repr

/-- Operands of DISPATCH (R208). `negotiated` is the MODE of the round's GATE. -/
structure DispatchArgs where
  r : RoundArgs
  experts : Nat
  negotiated : Bool
  routeTable : Nat
  rowsIn : MemRef
  rowsFmt : Fmt
  recv : Word64
  expertIn : Word64
  routine : Nat
  cls : Nat
  done : Option DoneField
  reservation : Option Nat
  deriving DecidableEq, Repr

/-- Operands of COMBINE (R208). `unitWeight` is WEIGHTING = UNIT. -/
structure CombineArgs where
  r : RoundArgs
  expertOut : Word64
  expFmt : Fmt
  ret : Word64
  unitWeight : Bool
  out : Word64
  outFmt : Fmt
  outEntry : Option ScaleRef
  deriving DecidableEq, Repr

/-- The tree collectives of R272. -/
inductive CollOp where
  | allReduce | reduceScatter | globalNorm
  deriving DecidableEq, Repr

/-- DIV_MODE of R282. -/
inductive DivMode where
  | sum | meanRanks | meanCount
  deriving DecidableEq, Repr

/-- Operands of ALL_REDUCE, REDUCE_SCATTER and GLOBAL_NORM (R272). -/
structure CollArgs where
  op : CollOp
  leadPort : Nat
  channel : Nat
  collId : Nat
  epoch : Nat
  members : Nat
  n : Nat
  pos : Nat
  src : Word64
  nTiles : Nat
  dst : Word64
  scratch : Word64
  divMode : DivMode
  nanSkip : Bool
  itemTiles : Nat
  counts : Option Nat
  countsOut : Option Nat
  norm : Bool
  normOut : Nat
  buffers : List (Word64 × Nat)
  deadline : Nat
  record : Word64
  deriving DecidableEq, Repr

/-- Operands of PERMUTE (R416). -/
structure PermuteArgs where
  leadPort : Nat
  channel : Nat
  collId : Nat
  epoch : Nat
  members : Nat
  n : Nat
  pos : Nat
  sendMap : Word64
  sendCount : Nat
  recvMap : Word64
  recvCount : Nat
  deadline : Nat
  record : Word64
  deriving DecidableEq, Repr

/-- The PATTERN of FILL (R329). -/
inductive FillPattern where
  | zero
  | word (w : Nat)
  | tiles (fmt : Fmt) (rows cols : Nat)
  deriving DecidableEq, Repr

/-- The MX element formats of R54, and the MXFP6 ones that are rejected there. -/
inductive MxFmt where
  | mxfp8e4m3 | mxfp8e5m2 | mxfp4 | mxint8 | mxfp6e2m3 | mxfp6e3m2
  deriving DecidableEq, Repr

/-- The layout of a REQUANT operand (R322): TILED, RAW under R53, or MX under R54 (`axisCol` is axis COL). -/
inductive TensorLayout where
  | tiled (h : Word64) (fmt : Fmt)
  | raw (h : Word64) (rows cols : Nat) (fmt : Fmt)
  | mx (elems scales : Word64) (rows cols : Nat) (fmt : MxFmt) (axisCol : Bool)
  deriving DecidableEq, Repr

/-- The key and operands of a fold (R255). `part = none` is ZERO. -/
structure FoldArgs where
  group : Nat
  expert : Option Nat
  iter : Nat
  microBatch : Nat
  use : Nat
  chunk : Nat
  last : Bool
  rows : Nat
  part : Option Word64
  deriving DecidableEq, Repr

/-- The Well operations of R304 with their operands (R313, R321, R322, R324, R329, R331). -/
inductive WellOp where
  | optUpdate (group iter : Nat) (grad : Word64) (counts normIn : Option Nat)
  | sumsq (buffers : List (Word64 × Fmt × Nat)) (result : Nat)
  | requant (src dst : TensorLayout) (target : Fmt) (entry : Option ScaleRef) (stoch : Bool) (iter tiles hTiles : Nat)
  | scatterRows (src index dst : Word64) (srcRows dstRows hTiles : Nat)
  | fold (f : FoldArgs)
  | fill (dst : Word64) (off bytes : Nat) (pat : FillPattern)
  | scrub (base len : Nat)
  deriving DecidableEq, Repr

/-- Operands of ALLOC (R349). `result = none` for a host ALLOC, whose handle goes into its record (R444). -/
structure AllocArgs where
  pool : Nat
  bytes : Nat
  fmt : Option Fmt
  well : Nat
  alignWith : Word64
  result : Option Nat
  deriving DecidableEq, Repr

/-- The MGI operations that a command carries (R114), by unit. -/
inductive Op where
  -- LS
  | load (src : MemRef) (stride : Option Nat) (transposed : Bool) (n q : Nat)
  | store (q : Nat) (keep transposed : Bool) (dst : MemRef) (stride : Option Nat) (n : Nat)
  | gatherRows (src : MemRef) (fmt : Fmt) (transposed : Bool) (hTiles : Nat) (index : TileSrc) (q : Nat)
  | scatterRows (q : Nat) (keep transposed : Bool) (index : TileSrc) (dst : MemRef) (fmt : Fmt) (rowTiles hTiles : Nat)
  -- MX
  | matmul (m : MatmulArgs)
  | gate (g : GateArgs)
  -- VX
  | map (op : MapOp) (ins : List TileSrc) (out : Nat) (entry : Option ScaleRef) (n : Nat)
  | reduce (op : RedOp) (alongRows : Bool) (src : TileSrc) (out : Nat)
  | broadcast (op : MapOp) (tile vec : TileSrc) (out : Nat) (entry : Option ScaleRef)
  | convert (src : TileSrc) (out : Nat) (target : Fmt) (entry : Option ScaleRef) (stoch : Bool) (ordinal : Nat)
  | amax (src : TileSrc) (entry : ScaleRef)
  -- any engine
  | close (q : Nat)
  -- ST
  | listPush (die : Option Nat) (item : WorkItem)
  | dispatch (d : DispatchArgs)
  | combine (c : CombineArgs)
  | collective (c : CollArgs)
  | permute (p : PermuteArgs)
  | well (well : Nat) (record : Word64) (op : WellOp)
  | alloc (a : AllocArgs)
  | retain (h : Word64)
  | release (h : Word64)
  | stashAlloc (microBatch bytes : Nat) (result : Nat)
  | versionTake (group hold result : Nat)
  | versionDrop (group hold : Nat)
  deriving DecidableEq, Repr

/-- A command as the control core pushes it: its MGI operation index (R104), its first eight bytes as fetched
(R107; the format is private, R19), its wait and signal fields (R84), NAN_TRAP, and its operation. -/
structure Cmd where
  opIndex : Nat
  raw : Word64
  waits : List WaitField
  signals : List SigField
  nanTrap : Bool
  op : Op
  deriving DecidableEq, Repr

/-- One end of a declared tile queue; `rank = some r` when it lies on another device (R77, R409). -/
structure QEndpoint where
  rank : Option Nat
  core : Nat
  unit : EngUnit
  deriving DecidableEq, Repr

/-- A QUEUE declaration (R77, R409); `remoteWaitMs` is REMOTE_WAIT of R413. -/
structure QueueDecl where
  num : Nat
  fmt : Fmt
  cap : Nat
  prod : QEndpoint
  cons : QEndpoint
  remoteWaitMs : Nat
  deriving DecidableEq, Repr

/-- A unit that a program names by a constant (R99). -/
inductive UnitRef where
  | well (n : Nat)
  | port (n : Nat)
  | core (n : Nat)
  | mgmt (n : Nat)
  deriving DecidableEq, Repr

/-- What the load checks of R99 read of one MGI operation of a program: the constant fields. `index` is its MGI
operation index, `pushes` the queues it pushes to, `units` the units it names, `isEnd` marks END. -/
structure CodeOp where
  index : Nat
  waits : List WaitField
  signals : List SigField
  pushes : List Nat
  units : List UnitRef
  isEnd : Bool
  deriving DecidableEq, Repr

/-- A ROUTINE declaration (R94): its index and its operations. -/
structure RoutineDecl where
  index : Nat
  code : List CodeOp
  deriving DecidableEq, Repr

/-- A control routine bound to a logical core, with the core's WAIT_WINDOW in µs (R101) and the bytes of local
SRAM that its control core's data takes (R77). `placed = some layer` marks the gate routine of a layer, which the placement
engine binds to a core itself (R357); `core` is then not used. -/
structure CoreProg where
  core : Nat
  placed : Option Nat
  waitWindowUs : Nat
  ccDataBytes : Nat
  code : List CodeOp
  deriving DecidableEq, Repr

/-- One slot of a reservation (R96): the core that runs it, the local expert, and its ordinal within the expert. -/
structure SlotDecl where
  core : Nat
  expert : Nat
  ordinal : Nat
  deriving DecidableEq, Repr

/-- A RESERVE declaration (R96). -/
structure Reservation where
  layer : Nat
  caps : List Nat
  slots : List SlotDecl
  slotSteps : Nat
  deriving DecidableEq, Repr

/-- The content of a well-formed station program image. Its binary form is private (R19). `entryFmts` gives the
format the program declares for the tensor of a scale-table entry (R165). -/
structure Program where
  queues : List QueueDecl
  routines : List RoutineDecl
  cores : List CoreProg
  reservations : List Reservation
  entryFmts : List (Nat × Fmt)
  deriving DecidableEq, Repr

/-- What the image at PROG_ADDR reads as: a program, or a fault at a byte offset (R450, reason PROGRAM). -/
inductive ImageBody where
  | malformed (off : Nat)
  | program (p : Program)
  deriving DecidableEq, Repr

/-- A ZF transport packet under R381. -/
structure Packet where
  version : Nat
  cls : Nat
  op : Nat
  flags : Nat
  destId : Nat
  srcId : Nat
  jobId : Nat
  reqTag : Nat
  stream : Nat
  crc : Nat
  len : Nat
  addr : Nat
  payload : List Byte
  deriving DecidableEq, Repr

/-- The transport fields under which an ORDERED message arrives (R381, R577): sender, job, tag and port. -/
structure Via where
  srcId : Nat
  jobId : Nat
  reqTag : Nat
  port : Nat
  deriving DecidableEq, Repr

/-- A Bazaar message under R211: head fields and body. -/
structure BzMsg where
  version : Nat
  kind : Nat
  phase : Nat
  format : Nat
  layer : Nat
  microBatch : Nat
  resv : Nat
  src : Nat
  dst : Nat
  epoch : Nat
  crc : Nat
  hTiles : Nat
  resvHi : Nat
  body : List Byte
  deriving DecidableEq, Repr

/-- A reduction message under R292: head fields, then body and trailer as bytes. -/
structure RedMsg where
  version : Nat
  kind : Nat
  channel : Nat
  level : Nat
  src : Nat
  dst : Nat
  collId : Nat
  epoch : Nat
  crc : Nat
  segment : Nat
  resv : Nat
  body : List Byte
  deriving DecidableEq, Repr

/-- A message of an inter-device queue under R410: head fields and, for TILE, the tile. -/
structure QMsg where
  version : Nat
  kind : Nat
  queue : Nat
  consumer : Nat
  producer : Nat
  count : Nat
  tile : List Byte
  deriving DecidableEq, Repr

/-- A re-sharded tile of PERMUTE as it arrives (R419): the entry's KEY, the tile's index in the entry, the
entry's TILES, whether the tile failed its check at the sender, and the tile. -/
structure PermTile where
  channel : Nat
  collId : Nat
  epoch : Nat
  srcPos : Nat
  key : Nat
  index : Nat
  tiles : Nat
  failed : Bool
  tile : List Byte
  deriving DecidableEq, Repr

/-- How a device read of host memory completes (R426, R537). -/
inductive PcieStatus where
  | ok | unsupported | abort | poisoned | timeout
  deriving DecidableEq, Repr

/-- What a scrub of one line finds (R330). -/
inductive EccOutcome where
  | clean | corrected | uncorrectable
  deriving DecidableEq, Repr

/-- The straps of R563, as sampled. -/
structure Straps where
  stagger : Bool
  slotId : Nat
  fabReach : Bool
  coreSet : Nat
  testEn : Bool
  deriving DecidableEq, Repr

/-- The outcome of self-test (R464): failing physical cores, Wells, the bridge and ports, and the µs it took. -/
structure SelfTest where
  cores : List Nat
  wells : List Nat
  bridge : Bool
  ports : List Nat
  micros : Nat
  deriving DecidableEq, Repr

/-- How a stack's start ends (R326, R327): its Well has written every line, or Acwald firmware starts the stack tracked instead of
waiting for that. -/
structure StackStart where
  well : Nat
  tracked : Bool
  deriving DecidableEq, Repr

/-- A line of a row that is spared, by its number within the stack, and whether it cannot be read while it is copied (R332). -/
structure SpareLine where
  line : Nat
  unreadable : Bool
  deriving DecidableEq, Repr

/-- What LOAD or UPDATE meets (R470, R481): how the image read completed, its bytes, whether the management cores
and Wells passed their self-checks, whether all could restart on the old image, and the µs taken. -/
structure FwRun where
  read : PcieStatus
  image : List Byte
  startOk : Bool
  oldRestarts : Bool
  micros : Nat
  /-- The stalls of step 3 of R481: Well, begin and end in µs from the start of step 1. -/
  stalls : List (Nat × Nat × Nat) := []
  deriving DecidableEq, Repr

/-- The IEEE 1588 messages the device acts on (R527). -/
inductive PtpKind where
  | sync | followUp | delayResp | other
  deriving DecidableEq, Repr

/-- The events that wake the device (R524). -/
inductive WakeEvent where
  | barAccess | doorbell | configWrite | fabricPacket | doeRequest | mgmtPacket | routedError
  deriving DecidableEq, Repr

/-- The two request slots of the Tollhouse mailbox (R510). -/
inductive TollSlot where
  | acwald | smbus
  deriving DecidableEq, Repr

end Sys2Proof
end

