-- ==== Sys2Proof/Syntax.lean ====
section
/-! DEFINITION. The commands of the block: one constructor per row of spec/opcode_table.json, in the table's
order. A row that runs an MGI operation names the core only: the operation's operands (R114) are those of the
command that COMMAND_PUSH placed at the head of that core's queue, or that the ST path delivered to the station. -/

namespace Sys2Proof

/-- The 220 commands. Each docstring cites the row's rule; `core` is a logical core number. -/
inductive Instr where
  -- Caravans, Stations and Queues
  /-- R73: the control core pushes `cmd` to queue `unit`. -/
  | commandPush (core : Nat) (unit : EngUnit) (cmd : Cmd)
  /-- R74: the stalled control core resumes its push. -/
  | commandQueueRoom (core : Nat)
  /-- R85: the head of queue `unit` is evaluated and starts if its waits hold. -/
  | commandStart (core : Nat) (unit : EngUnit)
  /-- R89: the in-transit updates `ids` reach `core` in one step. -/
  | signalArrival (core : Nat) (ids : List Nat)
  /-- R81: the oldest tile in transit to `queue` of consumer `core` is written whole. -/
  | tileArrival (core queue : Nat)
  /-- R81: one credit returns to the producer of `queue`, whose consumer is `core`. -/
  | creditReturn (core queue : Nat)
  /-- R80: the CLOSE at the head of queue `unit` runs. -/
  | close (core : Nat) (unit : EngUnit)
  /-- R84: the control core runs WAIT. -/
  | wait (core opIndex : Nat) (raw : Word64) (waits : List WaitField)
  /-- R86: the control core runs SIGNAL. -/
  | signal (core opIndex : Nat) (raw : Word64) (sigs : List SigField)
  /-- R92: the LIST_PUSH at the head of the ST path runs. -/
  | listPush (core : Nat)
  /-- R93: the control core runs LIST_TAKE. -/
  | listTake (core opIndex : Nat)
  /-- R93: the oldest waiting take of the die's list is served. -/
  | listTakeServed (die : Nat)
  /-- R93: item `id` of the die's list has waited 2 µs. -/
  | affinityExpire (die id : Nat)
  /-- R97: the core's EMPTY slot ends. -/
  | reservedSlotEnd (core : Nat)
  /-- R114: the control core runs END. -/
  | endRoutine (core opIndex : Nat)
  | load (core : Nat)
  | store (core : Nat)
  | gatherRows (core : Nat)
  | scatterRows (core : Nat)
  -- The Matrix Engine
  | matmul (core : Nat)
  | matmulTopk (core : Nat)
  | matmulLse (core : Nat)
  | accPassEnd (core : Nat)
  | drainEnd (core : Nat)
  -- Vector engine
  | map (core : Nat)
  | reduce (core : Nat)
  | broadcast (core : Nat)
  | convert (core : Nat)
  | amax (core : Nat)
  /-- R108: Acwald firmware halts every other core of the job. -/
  | jobStop
  /-- R110: WAIT_WINDOW has passed on `core`. -/
  | waitCycle (core : Nat)
  -- Expert Routing and the Bazaar
  | gate (core : Nat)
  | tagReserveServed
  | roundOpenServed
  | dispatch (core : Nat)
  | combine (core : Nat)
  | header (via : Via) (m : BzMsg)
  | rows (via : Via) (m : BzMsg)
  | request (via : Via) (m : BzMsg)
  | grant (via : Via) (m : BzMsg)
  | dropList (via : Via) (m : BzMsg)
  | bazaarAbort (via : Via) (m : BzMsg)
  /-- R230: BZ_DEADLINE passes for the phase; `phase = 4` is the REQUEST wait. -/
  | phaseDeadline (layer microBatch phase : Nat)
  /-- R360: the copy into the replica in buffer slot `slot` completes. -/
  | replicaCopyDone (slot : Nat)
  | bzClearCounts
  | bzDisable
  -- The Backward Pass
  | stashAlloc (core : Nat)
  | versionTake (core : Nat)
  | versionDrop (core : Nat)
  | optUpdate (core : Nat)
  /-- R267: the held update of Well command `id` is evaluated again. -/
  | updateAdmit (id : Nat)
  | holdMaxExpire (id : Nat)
  -- Gradient Reduction
  | allReduce (core : Nat)
  | reduceScatter (core : Nat)
  | globalNorm (core : Nat)
  | permute (core : Nat)
  | collectiveStart (channel : Nat)
  /-- R281: an edge arrives; `residue` is what the residue check of its adds finds: nothing, a failure whose repeat passes, or
  one whose repeat fails (R286). -/
  | up (via : Via) (m : RedMsg) (residue : EccOutcome)
  | result (via : Via) (m : RedMsg)
  | refuse (via : Via) (m : RedMsg)
  | reductionAbort (via : Via) (m : RedMsg)
  | normUp (via : Via) (m : RedMsg)
  | normResult (via : Via) (m : RedMsg)
  /-- R288: an edge's deadline; `segment` equal to the member count names the norm tree's edge (R299). -/
  | edgeDeadline (channel segment level : Nat)
  | segmentDeadline (channel segment : Nat)
  | normDeadline (channel : Nat)
  | epochAheadTimeout (channel : Nat)
  | permuteTile (via : Via) (t : PermTile)
  | permuteDeadline (channel : Nat)
  | rdClearCounts
  | rdDisable
  -- The Wells
  | sumsq (core : Nat)
  | requant (core : Nat)
  | scatterAdd (core : Nat)
  | fold (core : Nat)
  | fill (core : Nat)
  | scrubRange (core : Nat)
  | wellCommandStart (id : Nat)
  /-- R308: part `part` of Well command `id` ends; `engineFault` is a WELL_ENGINE parity failure (R537); `ecc` is what a
  SCRUB_RANGE finds in lines that are not clean, by line number (R331). -/
  | wellPartEnd (id part : Nat) (engineFault : Bool) (ecc : List (Nat × EccOutcome))
  /-- R326: a Well has filled its stack; `tracked`: Acwald firmware starts the stack tracked instead (R327). -/
  | wellFillDone (start : StackStart)
  | backgroundFillLine (well line : Nat)
  | droneLine (well : Nat) (ecc : EccOutcome)
  | laneRepair (well channel : Nat)
  | retrainPreserve (well channel : Nat)
  | retrainReset (well channel : Nat)
  /-- R332: the row that holds `lines` (line numbers of the Well) is spared; those of `unreadable` could not be read while they were copied. -/
  | rowSpare (well channel : Nat) (lines : List SpareLine)
  | channelRepairEnd (well : Nat)
  | wlClearCounts
  -- Memory, Placement and the Depot
  | alloc (core : Nat)
  | allocGranted (pool : Nat)
  | allocTimeout (id : Nat)
  | retain (core : Nat)
  | release (core : Nat)
  | prefetchRead (die stream : Nat)
  | prefetchStreamFree (die stream : Nat)
  | dpClearCounts
  | plClearCounts
  -- Zelxa Fabric
  | read (port : Nat) (p : Packet)
  | write (port : Nat) (p : Packet)
  | atomic (port : Nat) (p : Packet)
  | signalPacket (port : Nat) (p : Packet)
  | completion (port : Nat) (p : Packet)
  | ack (port : Nat) (p : Packet)
  | coherentPacket (port : Nat) (p : Packet)
  | frameReplay (port : Nat)
  | requestTimeout (id : Nat)
  | tagQuarantineEnd (dest tag : Nat)
  | cohMemberLost (fabricId : Nat)
  | fxClearCounts
  | fxDisable
  | queueTile (via : Via) (m : QMsg)
  | queueCredit (via : Via) (m : QMsg)
  | queueCloseMsg (via : Via) (m : QMsg)
  | creditTimer (core queue : Nat)
  | creditResend (core queue : Nat)
  | remoteWaitExpire (core queue : Nat)
  | announce
  | assignId (fromSwitch : Bool) (src fabricId managerId : Nat)
  | group (fromSwitch : Bool) (src : Nat) (members : List Nat)
  | assignRank (fromSwitch : Bool) (src rank : Nat)
  | fmCommand (fromSwitch : Bool) (src : Nat) (payload : List Byte)
  -- Power, Time and Counters: discipline
  /-- R527: an IEEE 1588 message; `offsetNs` is the offset estimate it yields, if any, `sourceNs` the source's time. -/
  | ptpMessage (fromSwitch : Bool) (src port : Nat) (kind : PtpKind) (offsetNs : Option Int) (sourceNs : Nat)
  | ppsEdge (offsetNs : Int)
  | sourceLoss
  -- Host Interface
  | sqTail (ring value : Nat)
  | cqHead (ring value : Nat)
  | ringEnable (ring : Nat) (ctrl : Word32)
  | ringDisable (ring : Nat) (ctrl : Word32)
  | nop (ring : Nat)
  /-- R575: `image` is what the private form of the station program image reads as (R19). -/
  | jobLoad (ring : Nat) (image : ImageBody)
  | jobStart (ring : Nat)
  | jobHalt (ring : Nat)
  | jobUnload (ring : Nat)
  | copy (ring : Nat)
  | hostAlloc (ring : Nat)
  | hostRelease (ring : Nat)
  | wellCmd (ring : Nat)
  | intTimer (ring : Nat)
  | msixUnmask (vector : Nat)
  | flr
  | bar2Read (off len : Nat)
  | bar2Write (off : Nat) (data : List Byte)
  | pcieCompletion (tag : Nat) (st : PcieStatus) (data : List Byte)
  | hostReadTimeout (tag : Nat)
  /-- R15, R431: a write of `size` bytes at BAR0 offset `off`. -/
  | registerWrite (off size : Nat) (value : Word64)
  -- Start-up and Live Service
  | powerGood (straps : Straps)
  | powerGoodLoss
  | perstFall (straps : Straps)
  | perstRelease
  | staggerEnd
  | selftestDone (r : SelfTest)
  | linkTrained (port : Nat) (halfWidth : Nat) (halfRate : Bool)
  | fwLoad (run : FwRun)
  | fwUpdate (run : FwRun)
  | spareSwap (core : Nat)
  | autoSpareSwap (core : Nat)
  | portRetrain (port : Nat) (halfWidth : Bool) (trained : Bool)
  | laneFault (port lane : Nat)
  | fullRetrainTimer (port : Nat) (trained : Bool)
  | recal (sensor : Nat)
  | svnCommit
  | injectEnableWrite (value : Bool)
  -- SPDM responder
  | getVersion
  | getCapabilities
  | negotiateAlgorithms (baseAsym baseHash measHash measSpec : Nat)
  | getDigests
  | getCertificate (slot off len : Nat)
  | challenge (slot : Nat) (nonce : List Byte)
  | getMeasurements (index : Nat) (sign : Bool) (nonce : List Byte)
  -- The Tollhouse
  | tollhousePowerUp (unsealPinHigh : Bool)
  | workCountSend (die : Nat)
  | workCountFrame (frame : List Byte)
  | workStaleTimeout (die : Nat)
  /-- R504: a whole second of MONO; `energy` is what each channel integrated since the last commit, in µJ. -/
  | periodicReading (energy : List Nat)
  | timeCheck
  | senseFault (channel kind : Nat)
  | senseClear (channel : Nat)
  | getReading (slot : TollSlot) (req : List Byte)
  | getLog (slot : TollSlot) (req : List Byte)
  | getCert (slot : TollSlot) (req : List Byte)
  | getStatus (slot : TollSlot) (req : List Byte)
  | unseal
  | tollhouseFwImage (image : List Byte) (selfCheckOk pinHighBeforeSwitch : Bool)
  -- Power
  | droverSag (sensor : Nat)
  | droverRaise (sensor : Nat)
  /-- R521: the limiter lowers or raises its common f; `pacedUs` is the time it paced since its last step. -/
  | limiterAdjust (raise : Bool) (pacedUs : Nat)
  | powerStateEnter
  | wake (ev : WakeEvent)
  | hostLatencyTolWrite (value : Word32)
  | capture
  | pwClearCounts
  | forceWarm
  | stSnapshot
  | ctSnapshot (clear : Bool)
  | ctClear
  /-- R533: the running ratios of the bound counters are brought up to date. -/
  | boundUpdate (dense streaming exchange pass : Bool) (after : Nat)
  -- Errors and Injection
  | errorRecordDeliver
  | ceCoalesceEnd (detector : Nat) (injected : Bool)
  | erRingHeadWrite (value : Word32)
  | erRingEnable (value : Word32)
  | erInjArm (slot : Nat) (value : Word32)
  | supplyLow (sensor lowestMv : Nat)
  | thermalTrip (sensor celsius : Nat)
  -- SMBus and JTAG
  | smbIdent
  | smbState
  | smbTemp
  | smbPower
  | smbTod (pecOk : Bool) (data : List Byte)
  | smbTollReq (pecOk : Bool) (data : List Byte)
  | smbTollStatus
  | smbTollOffset (pecOk : Bool) (off : Nat)
  | smbTollRead (len : Nat)
  | smbAlertResponse
  | jtagInstruction (drivesBalls : Bool)
  | tollhouseSeal
  | tollhousePowerLoss
  | tollhouseResponseReady
  | spareSwapEnd (die : Nat) (copyOk : Bool)
  | fwUpdateEnd
  | mgmtCoreSelfCheckFail (core : Nat) (partnerTakes : Bool)
  deriving DecidableEq, Repr

end Sys2Proof
end

