-- ==== Sys2Proof/Decode.lean ====
section
/-! DEFINITION. Words of the opcode table. The table gives no row any bits: a command reaches this block as an event of its
bus, rings, links or pins, never as an encoded word. -/

namespace Sys2Proof

/-- The command that a word spells: none, since no row has bits. -/
def decodeTableWord (_nbits _w : Nat) : Option Instr := none

end Sys2Proof
end

