-- ==== Sys2Proof/Machine/Bits.lean ====
section
/-! DEFINITION. Bit fields, byte order (R13), the CRC-32C of R62 and SHA-256 (FIPS 180-4, which R469, R476 and R507
name). -/

namespace Sys2Proof.Machine

/-- Bits [hi:lo] of a number (R12). -/
def bits (v hi lo : Nat) : Nat := (v >>> lo) % 2 ^ (hi + 1 - lo)

/-- Bit n of a number. -/
def bit (v n : Nat) : Bool := v.testBit n

/-- A Bool as a bit. -/
def b2n (b : Bool) : Nat := if b then 1 else 0

/-- `n` bytes of `v`, least significant first (R13). -/
def leBytes : Nat → Nat → List Byte
  | 0, _ => []
  | n + 1, v => BitVec.ofNat 8 v :: leBytes n (v >>> 8)

/-- The number whose little-endian bytes are given (R13). -/
def leNat : List Byte → Nat
  | [] => 0
  | b :: bs => b.toNat + 256 * leNat bs

/-- `n` bytes of `v`, most significant first: the order of the standards that R13 excepts. -/
def beBytes (n v : Nat) : List Byte := (leBytes n v).reverse

/-- The number whose big-endian bytes are given. -/
def beNat (bs : List Byte) : Nat := leNat bs.reverse

/-- The `n` bytes from offset `o` of a byte list, padded with zeros past its end. -/
def slice (bs : List Byte) (o n : Nat) : List Byte :=
  let s := (bs.drop o).take n
  s ++ List.replicate (n - s.length) 0

/-- The little-endian field of `n` bytes at offset `o`. -/
def fieldAt (bs : List Byte) (o n : Nat) : Nat := leNat (slice bs o n)

/-- A byte list padded with zeros to a multiple of `m`. -/
def padTo (m : Nat) (bs : List Byte) : List Byte :=
  bs ++ List.replicate (roundUp bs.length m - bs.length) 0

/-- `n` zero bytes. -/
def zeros (n : Nat) : List Byte := List.replicate n 0

/-- Whether every byte is zero. -/
def allZero (bs : List Byte) : Bool := bs.all (· == 0)

/-- One bit step of the reflected CRC-32C (R62). -/
def crcBit (c : Nat) : Nat := if c % 2 = 1 then (c >>> 1) ^^^ 0x82F63B78 else c >>> 1

/-- One byte of the CRC-32C loop of R62. -/
def crcByte (c : Nat) (x : Byte) : Nat :=
  let c := c ^^^ x.toNat
  crcBit (crcBit (crcBit (crcBit (crcBit (crcBit (crcBit (crcBit c)))))))

/-- The CRC-32C of R62. -/
def crc32c (bs : List Byte) : Nat := (bs.foldl crcByte 0xFFFFFFFF) ^^^ 0xFFFFFFFF

/-- One bit of a root by trial: keeps the bit in `r` where the `n`-th power stays within `x`. -/
def rootBit (n x r i : Nat) : Nat := if (r + 2 ^ i) ^ n ≤ x then r + 2 ^ i else r

/-- The first 32 bits of the fraction of the `n`-th root of a number below 512. -/
def rootFraction (n p : Nat) : Nat :=
  (List.range 37).reverse.foldl (rootBit n (p * 2 ^ (32 * n))) 0 % 2 ^ 32

/-- The primes below `m`, rising. -/
def primesBelow (m : Nat) : List Nat :=
  (List.range m).filter fun p => 1 < p && (List.range 18).all fun q => q < 2 || q == p || p % q != 0

/-- A SHA-256 word turned right by each of three amounts, the exclusive or of the results; the third is a shift where `sh`. -/
def shaSigma (a b c : Nat) (sh : Bool) (x : Word32) : Word32 :=
  x.rotateRight a ^^^ x.rotateRight b ^^^ (if sh then x >>> c else x.rotateRight c)

/-- The message schedule behind the words so far, newest first, by `n` more words. -/
def shaExtend (n : Nat) (w : List Word32) : List Word32 :=
  n.repeat (fun w =>
    let back k := w.getD (k - 1) 0
    (shaSigma 17 19 10 true (back 2) + back 7 + shaSigma 7 18 3 true (back 15) + back 16) :: w) w

/-- One round on the eight working words, under the sum of a round constant and a schedule word. -/
def shaRound (s : List Word32) (kw : Word32) : List Word32 :=
  let at' i := s.getD i 0
  let t := at' 7 + shaSigma 6 11 25 false (at' 4) + (at' 6 ^^^ (at' 4 &&& (at' 5 ^^^ at' 6))) + kw
  let u := shaSigma 2 13 22 false (at' 0) + ((at' 0 &&& (at' 1 ||| at' 2)) ||| (at' 1 &&& at' 2))
  [t + u, at' 0, at' 1, at' 2, at' 3 + t, at' 4, at' 5, at' 6]

/-- The compression of one 64-byte block; the round constants come from the cube roots of the first 64 primes. -/
def shaBlock (h : List Word32) (block : List Byte) : List Word32 :=
  let first := (List.range 16).map fun i => BitVec.ofNat 32 (beNat (slice block (4 * i) 4))
  let ks := (primesBelow 312).map fun p => BitVec.ofNat 32 (rootFraction 3 p)
  List.zipWith (· + ·) h ((List.zipWith (· + ·) ks (shaExtend 48 first.reverse).reverse).foldl shaRound h)

/-- The blocks of a padded message. -/
def shaBlocks : Nat → List Word32 → List Byte → List Word32
  | 0, h, _ => h
  | n + 1, h, m => shaBlocks n (shaBlock h (m.take 64)) (m.drop 64)

/-- SHA-256: the 32-byte digest; the first words come from the square roots of the first eight primes. -/
def sha256 (m : List Byte) : List Byte :=
  let padded := m ++ [0x80#8] ++ zeros ((119 - m.length % 64) % 64) ++ beBytes 8 (8 * m.length)
  let start := (primesBelow 20).map fun p => BitVec.ofNat 32 (rootFraction 2 p)
  (shaBlocks (padded.length / 64) start padded).flatMap fun w => beBytes 4 w.toNat

/-- A digest as the number whose little-endian bytes it is, for the digest registers (R491, R512). -/
def digestNat (d : List Byte) : Nat := leNat d

end Sys2Proof.Machine
end

