-- ==== Sys2Proof/Config.lean ====
section
/-! DEFINITION. What an implementation fixes, and the free values: constants without a body, which nothing in
Lean can evaluate. Each is named in the assumption log. -/

namespace Sys2Proof.Config

/-- The vendor ID "assigned to Tosofy" (R424), which the manual does not give. FREE VALUE. -/
opaque vendorId : BitVec 16

/-- Tosofy's JEP106 code (R565), which the manual does not give. FREE VALUE. -/
opaque jep106 : BitVec 11

/-- The device serial in fuses (R473). FREE VALUE. -/
opaque serial : BitVec 64

/-- Silicon stepping, IDC_GRADE[15:8]: B0 is 0x10 (R570). -/
def stepping : Nat := 0x10

/-- The elementary functions of the engines (R146, R177). -/
inductive ElemFn where
  | exp | log | tanh | sigmoid | silu | recip | rsqrt
  deriving DecidableEq, Repr

/-- Which of the FP32 numbers within 2 units in the last place of the exact value an elementary function of a finite operand answers:
the manual bounds the error and promises the same bits for the same input (R146, R177). FREE VALUE, a function of the operand's bits,
taken modulo the count of such numbers. -/
opaque elemPick : ElemFn → Word32 → Nat

/-- What tanh, SiLU, reciprocal and reciprocal square root answer where no finite value lies to be approached: for infinite operands, at
zero, for a negative square. No rule states it. FREE VALUE, a function of the operand's bits. -/
opaque elemEdge : ElemFn → Word32 → Word32

/-- The FP32 values that MAP's compare writes for true and false; R114 names the operation without its result
values. FREE VALUES. -/
opaque compareTrue : Word32
opaque compareFalse : Word32

/-- Whether a mask element makes MAP's select take its second input (true) or its third; R114 states no rule.
FREE VALUE, a function of the mask element. -/
opaque selectTakes : Word32 → Bool

/-- minimum and maximum of two FP32 values of which one is NaN, or which compare equal and differ in code (the two zeros):
no rule states the result. FREE VALUES. -/
opaque minNan : Word32 → Word32 → Word32
opaque maxNan : Word32 → Word32 → Word32

/-- Which expert group holds the experts of a routed layer: the manual names the experts of a layer by GROUP in the group
table and by LAYER in the routing table and gives no rule that joins the two. FREE VALUE, a function of LAYER. -/
opaque layerGroup : Nat → Nat

/-- Where VX cuts a list of n values to add its two parts (REDUCE): R170 gives the rounding of each addition and no rule the
order. FREE VALUE, a function of n. -/
opaque reduceSplit : Nat → Nat

/-- The stream of a stochastic CONVERT without a scale-table entry: R172 names the entry index only. FREE VALUE. -/
opaque noEntryStream : Nat

/-- The scale byte of a block that GATHER_ROWS or SCATTER_ROWS builds in a scaled format from rows of blocks with
different scales: R114 gives no rule. FREE VALUE, a function of the source scales. -/
opaque gatherScale : List Nat → Nat

/-- The CAUSE in a Well record of a part that failed under a WELL_ENGINE parity error: no rule gives one. FREE VALUE. -/
opaque wellFaultCause : BitVec 8

/-- The byte offset in a station program image of a part whose field breaks its limits (R450, reason PROGRAM), from the part's
kind and number: the image's binary form is private (R19). FREE VALUE. -/
opaque imageOffset : Nat → Nat → Word32

/-- The keys that sign (R473, R504): the device identity key and the Tollhouse key. -/
inductive SignKey where
  | deviceIdentity | tollhouse
  deriving DecidableEq, Repr

/-- The ECDSA P-256 signature over a SHA-256 digest under a key that no register exposes (R473, R504). FREE
VALUE, a function of the key and the digest. -/
opaque ecdsaSign : SignKey → List Byte → List Byte

/-- ECDSA P-256 verification: public key, digest, signature. The standard fixes it; the model leaves it free. -/
opaque ecdsaVerify : List Byte → List Byte → List Byte → Bool

/-- Whether a DER certificate is issued by the Tosofy firmware root whose key digest is fused (R469), and the
public key that a certificate carries. FREE VALUES. -/
opaque certIssuedByRoot : List Byte → Bool
opaque certKey : List Byte → List Byte

/-- The metering firmware key digest fused in the Tollhouse (R515). FREE VALUE. -/
opaque meteringKeyDigest : List Byte

/-- The SHA-256 digest of the boot ROM code, measurement block 1 (R476). FREE VALUE. -/
opaque bootRomDigest : BitVec 256

/-- A random byte of a nonce that the SPDM responder sends, by the count of free values drawn (DMTF DSP0274). FREE VALUE. -/
opaque nonceByte : Nat → Nat → Byte

/-- DataTransferSize and MaxSPDMmsgSize of the SPDM responder: no rule gives them. FREE VALUES. -/
opaque spdmTransfer : Word32
opaque spdmMax : Word32

/-- The bytes of a request to the SPDM responder beyond what the command's row names, from its code and the count of requests
before it: they enter the signed transcript. FREE VALUE. -/
opaque spdmRequest : Nat → List Nat → List Byte

/-- The certificate chain of slot 0 on the SPI flash (R473). FREE VALUE. -/
opaque certChain : List Byte

/-- The Tollhouse certificate and the metering CA certificate (R504). FREE VALUES. -/
opaque tollCert : List Byte
opaque meteringCaCert : List Byte

/-- Energy in µJ that a channel has integrated since the last commit, when a reading is requested: by SEQ, MONO and channel. The
command carries no such measure. FREE VALUE. -/
opaque tollSince : Nat → Nat → Nat → Nat

/-- The fused minimum SVN of a new device (R470). FREE VALUE. -/
opaque fusedMinSvn : BitVec 16

/-- The nonvolatile state of the Tollhouse before its first power-up in the model (R512, column NV). FREE VALUES. -/
opaque tollFwVersion : Word32
opaque tollFwSvn : Word32
opaque tollFwDigest : BitVec 256

/-- The 32 bytes in front of a tile of a PERMUTE on the wire, from channel, COLL_ID, EPOCH, sender's position, KEY, index, TILES
and the mark of a failed tile: R292 gives no layout for it. FREE VALUE. -/
opaque permHead : List Nat → BitVec 256

/-- A byte that the adders send for a tile they could not read (R419). FREE VALUE, a function of its address. -/
opaque unreadByte : Nat → Byte

/-- What the device's sensors read at a time (R534, R564): power in W, lowest and mean VDD_CORE in mV, hottest junction in °C,
the slowest paced group's step rate, and the temperature of a Well in °C. FREE VALUES, functions of the time in ns. -/
opaque sensePower : Nat → Word32
opaque senseVdd : Nat → Word32
opaque senseTj : Nat → BitVec 8
opaque senseRate : Nat → Word32
opaque senseWell : Nat → Nat → BitVec 8

/-- The FP32 ratio that a bound counter shows for a workload whose bound is 0 so far (R30 states no ratio). FREE VALUE, a function of
the achieved measure. -/
opaque boundlessRatio : Nat → Word32

/-- The steps that a core takes in a time while its matrix engine waits for memory: the length of a step depends on the corner and on
the pacing (R7, R519), and the achieved measure of the dense FP8 row counts those steps (R30, R31). FREE VALUE, a function of the core,
the time in ns, and how long. -/
opaque stepsIn : Nat → Nat → Nat → Nat

/-- The frequency correction in ppb that the discipline applies after an offset estimate (R528 limits it to ±500 ppm; no rule
gives the loop). FREE VALUE, a function of the offset and the correction before. -/
opaque freqAdj : Int → Int → Int

/-- Whether the fuses leave the SPI flash chain and calibration valid at reset (R473). FREE VALUES. -/
opaque chainOk : Bool
opaque calOk : Bool

end Sys2Proof.Config
end

