-- ==== Sys2Proof/Machine/State.lean ====
section
/-! DEFINITION. The state of the ZX9480: every register block of BAR0, the cores with their queues, the stations'
tables, device memory, the rings, and the Tollhouse with its own state; the state after reset; faults and refusals.
Everything is plain data. Counts that the device keeps are numbers; registers that the host writes whole are words. -/

namespace Sys2Proof.Machine

open Sys2Proof

/-- Why a step stops the machine. No command of this model ends in a fault. -/
inductive Fault where
  /-- Raised by nobody: the block has no condition that stops it as a machine. Safe. -/
  | none
  deriving DecidableEq, Repr

/-- Why a step answers no state. -/
inductive Refusal where
  /-- Raised by the dispatch arm of a command without a meaning; no arm of this model does. Safe. -/
  | notModelled (mnemonic : String)
  deriving DecidableEq, Repr

/-- Memory by address: a list of (address, byte) pairs, addresses strictly rising, no byte zero. An unlisted address reads
as zero, since the power-on fill writes every line with zeros (R326). -/
abbrev Memory := List Host.Cell

/-- What the device sends out, newest first. -/
inductive Output where
  /-- A posted write to host memory (R425). -/
  | hostWrite (addr : Nat) (data : List Byte)
  /-- A posted write whose TLP is poisoned (R545). -/
  | poisonedWrite (addr len : Nat)
  /-- A read request of host memory with its tag (R426). -/
  | hostRead (tag addr len : Nat)
  /-- The MSI-X message of a vector (R455). -/
  | msix (vector : Nat)
  /-- A fabric packet (R381); `port = none` when no port is up. -/
  | packet (port : Option Nat) (p : Packet)
  /-- The answer to a BAR2 read: data, poisoned, or Completer Abort (R427, R430). -/
  | bar2 (st : PcieStatus) (data : List Byte)
  /-- An AER log entry (R427, R430). -/
  | aer (code : Nat)
  /-- An SPDM response (R474). -/
  | spdm (data : List Byte)
  /-- An SMBus answer; an empty list is a transfer not acknowledged (R564). -/
  | smbus (data : List Byte)
  /-- A response of the Tollhouse to Acwald firmware (R510). -/
  | mailbox (data : List Byte)
  /-- The result byte on the Tollhouse service port (R514). -/
  | service (b : Nat)
  /-- A work-count frame to the Tollhouse (R499). -/
  | workFrame (data : List Byte)
  /-- A JTAG instruction: whether it drove or sampled balls (R565). -/
  | jtag (scan : Bool)
  deriving DecidableEq, Repr

/-! ## Cores, queues, signals (Caravans, Stations and Queues) -/

/-- A unit that waits for operand bytes from another device or from host memory: the running command of an engine, or an
accepted station command. -/
inductive Reader where
  | eng (core : Nat) (unit : EngUnit)
  | acc (id : Nat)
  deriving DecidableEq, Repr

/-- An entry of a command queue (R73): its sequence number, whether it has started and whether its operation has run,
the tiles it still holds for a full queue (R79), and the first NaN tile it wrote under NAN_TRAP: address and queue (R107). -/
structure QCmd where
  seq : Nat
  cmd : Cmd
  started : Bool
  /-- READs for operands on other devices have been issued; what they brought, by place (R376, R389). -/
  asked : Bool
  inputs : List (Nat × List Byte)
  ran : Bool
  hold : List (Nat × List Byte)
  trap : Option (Nat × Nat)
  /-- The work item whose routine pushed it (R95). -/
  item : Option Nat := none
  /-- An operand or result lies in a line that is held for a repair or a microcode switch (R332, R484). -/
  memWait : Bool := false
  deriving DecidableEq, Repr

/-- A tile queue (R77 to R81, R409 to R413). Tiles are whole byte lists, oldest first. -/
structure QState where
  decl : QueueDecl
  /-- Tiles present in the ring at the consumer. -/
  ring : List (List Byte)
  /-- Tiles pushed and not yet written whole into the ring (R81). -/
  transit : List (List Byte)
  /-- Credits in transit back to the producer (R81). -/
  back : Nat
  /-- Credits the producer holds (R81). -/
  credits : Nat
  closed : Bool
  /-- Tiles pushed in total; for an inter-device queue the producer's count (R410). -/
  pushed : Nat
  /-- COUNT of the newest CREDIT received (R411). -/
  creditSeen : Nat
  /-- Tiles popped without KEEP (R410). -/
  popped : Nat
  /-- COUNT of the last CREDIT sent (R411). -/
  creditSent : Nat
  /-- TILE messages received whole (R412). -/
  received : Nat
  /-- Time of the first pop since the last CREDIT (R411). -/
  firstPop : Nat
  /-- The count of a CLOSE received (R412). -/
  closeAt : Option Nat
  /-- Time of the last TILE or CREDIT that crossed (R413). -/
  crossed : Nat
  /-- REMOTE_WAIT has passed since then (R413). -/
  quiet : Bool
  /-- Whether the declarations were compared at the first transfer (R409). -/
  compared : Bool
  /-- A CREDIT was refused and is to be sent again at this time (R411). -/
  resend : Option Nat
  deriving DecidableEq, Repr

/-- One cell of an accumulator bank: V, the special state (0 none, 1 NaN, 2 +Inf, 3 −Inf) and the residue sum ρ
(R128, R133, R134). -/
structure Cell where
  v : Int
  special : Nat
  rho : Nat
  deriving DecidableEq, Repr

/-- An accumulation (R119, R128): operand pairs as delivered in K order, window positions and retry counts of
the four blocks, and the cells after a final pass. -/
structure AccSt where
  pairs : List (List Byte × List Byte)
  lpos : List Int
  retry : List Nat
  /-- A first pass has placed the windows. -/
  placed : Bool
  /-- The cells, once the pass was final. -/
  cells : Option (List Cell)
  /-- The last command of the accumulation is in (no CHAIN). -/
  closedAcc : Bool
  /-- Which of the two banks of every cell it uses (R117, R119). -/
  bank : Nat
  /-- Format pair of the accumulation before this one (R127). -/
  lastPair : Option (Fmt × Fmt)
  deriving DecidableEq, Repr

/-- A MATMUL without CHAIN of which the operands are in the operand store (R117, R119): the command and its accumulation, which
multiplies, drains, and goes out to its queues. -/
structure MxJob where
  cmd : QCmd
  acc : AccSt
  deriving DecidableEq, Repr

/-- A ranked score: NaN is `none`; otherwise sign, magnitude and exponent, with infinities told by `inf` (R143). -/
structure Ranked where
  kind : Nat
  neg : Bool
  m : Nat
  e : Int
  pos : Nat
  deriving DecidableEq, Repr

/-- One row of a span (R143, R145): the k best, the log-sum-exp state m and s, and the marks of R146. -/
structure SpanRow where
  best : List Ranked
  m : Word32
  s : Word32
  nan : Bool
  posInf : Bool
  allNegInf : Bool
  deriving DecidableEq, Repr

/-- The span in progress (R142). -/
structure SpanSt where
  k : Nat
  span : Nat
  next : Nat
  withLse : Bool
  lseOnly : Bool
  rows : List SpanRow
  cols : Nat
  aRows : Nat
  epoch : Nat
  deriving DecidableEq, Repr

/-- One choice of a token as the gate unit forms it (R181 to R195): expert, raw weight, tag flags. -/
structure Choice where
  expert : Nat
  raw : Word32
  weight : Word32
  dropped : Bool
  renorm : Bool
  deriving DecidableEq, Repr

/-- A token's record of the choice array (R199). -/
structure TokenRec where
  choices : List Choice
  norm : Word32
  rsum : Word32
  nan : Bool
  deriving DecidableEq, Repr

/-- The GATE operation in progress on a core (R178 to R203). -/
structure GateSt where
  args : GateArgs
  /-- When it started (R230). -/
  since : Nat
  /-- Entries of the routing table: capacity in rows, OWNER, LOCAL (R185). -/
  route : List (Nat × Nat × Nat)
  /-- Tiles of X of the row tile in progress. -/
  x : List (List Byte)
  rowTile : Nat
  colTile : Nat
  /-- Rows of the row tile in progress with a NaN score (R200). -/
  nanRows : List Bool
  /-- 0 waiting for reservation, 1 running, 2 waiting for the owners' counts. -/
  phase : Nat
  /-- Admitted choices of this source by expert (R203). -/
  admitted : List Nat
  tokens : List TokenRec
  deriving DecidableEq, Repr

/-- A slot of a reservation for the round (R97): its item, or EMPTY; the id under which its item runs. -/
structure SlotMark where
  item : Option WorkItem
  slotSteps : Nat
  runs : Option Nat
  ended : Bool
  deriving DecidableEq, Repr

/-- A control routine's position: not started, running, ended. -/
inductive CcState where
  | standing | running | ended
  deriving DecidableEq, Repr

/-- A core (R73 to R113). -/
structure CoreSt where
  halted : Bool
  /-- Frozen by a spare-core swap (R485). -/
  frozen : Bool
  cc : CcState
  mx : List QCmd
  vx : List QCmd
  ls : List QCmd
  st : List QCmd
  /-- Next sequence numbers of MX, VX, LS, ST (R104). -/
  seqs : List Nat
  flags : BitVec 256
  counters : List Word32
  /-- The push at which the control core stalls (R74). -/
  pushStall : Option (EngUnit × Cmd)
  /-- The WAIT at which the control core stands: operation index, raw bytes, fields (R84). -/
  waiting : Option (Nat × Word64 × List WaitField)
  /-- The waiting LIST_TAKE (R93). -/
  taking : Bool
  /-- The work items in progress with their ids, innermost first: a routine may take another item (R93, R95). -/
  items : List (Nat × WorkItem)
  /-- END reached, by its operation index, waiting for pushed commands (R114). -/
  ending : Option Nat
  waitWindowUs : Nat
  slots : List SlotMark
  /-- The accumulation that the next command on MX joins; of a GATE, the one in progress. -/
  acc : AccSt
  /-- The accumulations that are closed and not yet pushed, oldest first: up to one that drains, one that multiplies, and one whose
  tiles wait in the operand store (R117, R119). -/
  pipe : List MxJob
  span : Option SpanSt
  gate : Option GateSt
  /-- Steps of RETRY and of RESERVED_EMPTY recorded (R97, R129, R162). -/
  retrySteps : Nat
  emptySteps : Nat
  deriving DecidableEq, Repr

/-- Where an update comes from (R89). -/
inductive SigSrc where
  /-- The owning core itself, by the unit that raised it, with that command's OP_INDEX and SEQ (R105). -/
  | own (unit : EngUnit) (opIndex seq : Nat)
  /-- Another core of the device, or a station on its behalf. -/
  | core (c : Nat)
  /-- Another device by rank. -/
  | rank (r : Nat)
  /-- A device without a rank, by fabric ID (R577). -/
  | unranked (fid : Nat)
  deriving DecidableEq, Repr

/-- A flag or counter update in transit to its owning core (R89). -/
structure InFlight where
  id : Nat
  core : Nat
  src : SigSrc
  obj : SigObj
  op : SigOp
  deriving DecidableEq, Repr

/-- A work item in a die's list (R91, R93). -/
structure WorkEntry where
  id : Nat
  item : WorkItem
  /-- When it entered the list (R93). -/
  since : Nat
  deriving DecidableEq, Repr

/-- The work list of a die: items oldest first, takes waiting in order, withdrawn items that find no room, which firmware puts back at
the head of their class when there is some (R91 to R95). -/
structure WorkList where
  items : List WorkEntry
  takes : List Nat
  back : List WorkEntry
  deriving DecidableEq, Repr

/-- A command accepted by a station and not completed (R73, R75). `begun` once its row has run. -/
structure Accepted where
  id : Nat
  core : Nat
  seq : Nat
  cmd : Cmd
  begun : Bool
  /-- Operand bytes from other devices or host memory: asked for, and what came by place. -/
  asked : Bool
  inputs : List (Nat × List Byte)
  /-- Buffer slots to which it holds a reference (R352). -/
  refs : List Nat
  /-- When it reached its station, as the model's time and as a time stamp (R230, R235, R273). -/
  since : Nat
  stamp : Nat
  deriving DecidableEq, Repr

/-! ## The loaded job -/

/-- The stash declaration of R247. -/
structure StashDecl where
  perMb : Nat
  inFlight : Nat
  spill : Bool
  ringBase : Nat
  ringSize : Nat
  deriving DecidableEq, Repr

/-- The loaded job (R444 to R446, R575). `start` is the outstanding JOB_START as ring and SQ slot. -/
structure Job where
  prog : Program
  stash : StashDecl
  mgi : Nat
  start : Option (Nat × Nat)
  started : Bool
  /-- The primary halt: logical core, or 0xFFFF for a DEVICE_FATAL stop (R105, R108). -/
  primary : Option Nat
  /-- DETAIL1 of the job stop, the SEQ of a fatal record (R105). -/
  fatalSeq : Nat
  /-- The job stop has run (R108). -/
  stopped : Bool
  /-- Stopped by JOB_HALT or JOB_UNLOAD (R445). -/
  hostHalt : Bool
  /-- Low 16 bits of the SEQ of the first record that the job's halt caused (R540). -/
  errSeq : Nat
  /-- Outstanding JOB_HALTs: ring, SQ slot, cores halted by each (R445). -/
  halters : List (Nat × Nat × Nat)
  deriving DecidableEq, Repr

/-! ## The Depot (Memory, Placement and the Depot) -/

/-- A pool record of R342 as loaded. -/
structure Pool where
  num : Nat
  kind : Nat
  spread : Nat
  pageLog2 : Nat
  mask : Nat
  tilesPerExtent : Nat
  capacity : Nat
  waitMax : Nat
  /-- Reserved pages per Well: (Well, first address, pages) (R343). -/
  regions : List (Nat × Nat × Nat)
  deriving DecidableEq, Repr

/-- A live buffer's record (R346, R347). -/
structure Buf where
  slot : Nat
  pool : Nat
  kind : Nat
  gen : Nat
  bytes : Nat
  fmt : Option Fmt
  k0 : Nat
  /-- Extent size in bytes (R344). -/
  eb : Nat
  /-- Address of each extent; for a spilled buffer the host address of its one extent. -/
  extents : List Nat
  refs : Nat
  torn : Bool
  tornTiles : Nat
  /-- Of a version buffer with a compute copy: the copy's first offset, and the size of an extent from there on (R312, R344). -/
  part2 : Option (Nat × Nat) := none
  deriving DecidableEq, Repr

/-- An ALLOC that waits for room (R350): the station command's id, or the ring and SQ slot of a host descriptor. -/
structure AllocWait where
  id : Nat
  args : AllocArgs
  /-- When it began to wait. -/
  since : Nat
  host : Option (Nat × Nat)
  deriving DecidableEq, Repr

/-- A spilled allocation in the ring, in ring order (R251). -/
structure SpillEntry where
  slot : Nat
  off : Nat
  bytes : Nat
  freed : Bool
  deriving DecidableEq, Repr

/-- A prefetch stream (R341): its core, buffer range, stride, next address, and last use. -/
structure PfStream where
  die : Nat
  core : Nat
  /-- The buffer: its slot and generation. -/
  slot : Nat
  gen : Nat
  stride : Int
  next : Nat
  last : Nat
  loads : Nat
  used : Nat
  deriving DecidableEq, Repr

/-- The Depot block (R346 to R351, R365). -/
structure Depot where
  ctrl : Word32
  poolBaseLo : Word32
  poolBaseHi : Word32
  err : Word32
  pfDepth : Word32
  queryLo : Word32
  queryHi : Word32
  bufPeak : Nat
  invalid : Nat
  stashPeak : Nat
  scParity : Nat
  pools : List Pool
  bufs : List Buf
  /-- Generation of each slot that was ever freed (R346). -/
  gens : List (Nat × Nat)
  waits : List AllocWait
  /-- Stash reservation lines per Well: (Well, first address, lines) (R248). -/
  stash : List (Nat × Nat × Nat)
  spill : List SpillEntry
  /-- Tail of the spill ring (R251). -/
  spillTail : Nat
  streams : List PfStream
  /-- Lines held in each die's stream cache (R339). -/
  cached : List (Nat × Nat)
  deriving DecidableEq, Repr

/-- A replica of an expert's version in pool 254 (R359, R360): its buffer slot, the slot of the version buffer, and the range
of that buffer which it copies. -/
structure Replica where
  slot : Nat
  vslot : Nat
  lo : Nat
  len : Nat
  group : Nat
  expert : Nat
  version : Nat
  well : Nat
  complete : Bool
  coldRounds : Nat
  deriving DecidableEq, Repr

/-- The placement block (R355 to R361, R366). -/
structure Placement where
  ctrl : Word32
  hotWindow : Word32
  hotRatio : Word32
  hotMax : Word32
  ovrLo : Word32
  ovrHi : Word32
  ovrCount : Word32
  denied : Nat
  replicaReads : Nat
  replicas : List Replica
  /-- Overrides in force: GROUP, EXPERT, WELL, CORE_GROUP, NO_HOT (R358). -/
  overrides : List (Nat × Nat × Nat × Nat × Bool)
  /-- The Well of each expert of each expert group (R355). -/
  expertWell : List (Nat × Nat × Nat)
  /-- Rows each local expert of a layer received, one list per round, newest first (R359). -/
  history : List (Nat × List Nat)
  /-- Visit counts of the iteration in progress: rows received, by layer and local expert (R197). -/
  visits : List (Nat × List Nat)
  deriving DecidableEq, Repr

/-! ## Weight versions, folds (The Backward Pass) -/

/-- A live weight version (R264). -/
structure Version where
  group : Nat
  num : Nat
  slot : Nat
  count : Nat
  deriving DecidableEq, Repr

/-- A hold (R265). -/
structure Hold where
  group : Nat
  hold : Nat
  num : Nat
  deriving DecidableEq, Repr

/-- The fold progress of one accumulator (R255 to R257, R260). -/
structure FoldSt where
  group : Nat
  expert : Option Nat
  iter : Nat
  /-- Keys folded, in order: MICRO_BATCH, USE, CHUNK, LAST. -/
  done : List (Nat × Nat × Nat × Bool)
  visit : Nat
  /-- Accumulator tiles of the expert that carry the torn mark for the rest of the iteration (R260). -/
  torn : List Nat
  deriving DecidableEq, Repr

/-! ## Wells -/

/-- A part of a Well command (R305). -/
structure WPart where
  idx : Nat
  well : Nat
  expert : Option Nat
  first : Nat
  count : Nat
  done : Bool
  failed : Bool
  cause : Nat
  deriving DecidableEq, Repr

/-- Who issued a Well command: a core by its accepted command, or a host descriptor (ring and slot). -/
inductive WellOrigin where
  | core (c : Nat) (acc : Nat)
  | host (ring slot : Nat)
  deriving DecidableEq, Repr

/-- A Well command in progress (R304 to R309). -/
structure WellCmd where
  id : Nat
  origin : WellOrigin
  well : Nat
  record : Word64
  op : WellOp
  nanTrap : Bool
  started : Bool
  parts : List WPart
  tStart : Nat
  /-- When it began to wait under R256 or R267. -/
  heldSince : Option Nat
  heldUs : Nat
  /-- Counts of the operation: meaning by operation (R320, R323, R325, R329, R331). -/
  counts : List Nat
  torn : Nat
  /-- Address of the first tile with NAN_PRESENT that it wrote (R107). -/
  nanAt : Option Nat
  /-- Whether each expert was visited (R316). -/
  visited : List Bool
  /-- Clip factor of an OPT_UPDATE (R314). -/
  clip : Word32
  /-- New version buffer of an OPT_UPDATE. -/
  newSlot : Option Nat
  /-- Buffer slots to which a host descriptor's command holds a reference (R352). -/
  refs : List Nat
  deriving DecidableEq, Repr

/-- The tracking of a stack (R327): the whole stack, channels, single lines; lines whose valid bit is 1. -/
structure Tracking where
  all : Bool
  chans : List Nat
  lines : List Nat
  valid : List Nat
  deriving DecidableEq, Repr

/-- A Well's registers and state (R326 to R335). -/
structure WellSt where
  filled : Bool
  /-- When the Drone's pass began (R330). -/
  passStart : Nat
  retraining : Bool
  sparing : Bool
  laneRepair : Bool
  /-- UCODE_UPDATE: the stall of step 3 of R481 runs (R484). -/
  ucode : Bool
  /-- The channel under repair. -/
  channel : Nat
  droneCtrl : Word32
  dronePeriod : Word32
  dronePos : Nat
  droneLag : Nat
  corrected : Nat
  uncorr : Nat
  retrains : Nat
  sparedRows : Nat
  laneRepairs : Nat
  err : Word32
  cmds : Nat
  partsFailed : Nat
  track : Tracking
  temp : Nat
  /-- Acwald firmware started the stack tracked instead of waiting for its fill (R326, R327). -/
  startedTracked : Bool := false
  deriving DecidableEq, Repr

/-- An access of the host, or a request of another device, to lines that are held for a repair or a microcode switch: it waits, and is
then served (R332, R484). -/
inductive HeldIo where
  | bar2Read (off len : Nat)
  | bar2Write (off : Nat) (data : List Byte)
  | request (port : Nat) (p : Packet)
  deriving DecidableEq, Repr

/-- The Wells block (R334). -/
structure Wells where
  baseLo : Word32
  baseHi : Word32
  count : Word32
  ctrl : Word32
  wells : List WellSt
  cmds : List WellCmd
  versions : List Version
  holds : List Hold
  folds : List FoldSt
  /-- Groups whose accumulator has been set to +0 since the job load (R257). -/
  zeroed : List Nat
  /-- Accesses from outside that wait for held lines, in order of arrival (R332, R484). -/
  heldIo : List HeldIo := []
  deriving DecidableEq, Repr

/-! ## The Bazaar -/

/-- A row that the owner holds in RECV, or the source in RET (R219, R224): local expert or 0, position, index j or RET
slot, tag, elements and scales as received, weight, and whether it came from a failed tile. -/
structure RowSt where
  key : Nat
  pos : Nat
  j : Nat
  tag : Word64
  expert : Nat
  weight : Nat
  codes : List Nat
  scales : List Nat
  /-- Valid columns of the row. -/
  cols : Nat
  /-- Column tiles of which the row's tile failed, with the CRC it came with; none where its read met an uncorrectable error (R67,
  R545). -/
  bad : List (Nat × Option Nat)
  deriving DecidableEq, Repr

/-- What a member has sent in a phase (R216, R230). -/
structure MemberSt where
  pos : Nat
  header : Bool
  rows : Nat
  groups : Nat
  drops : Nat
  /-- Rows received by local expert, in dispatch phases. -/
  byExpert : List Nat
  missing : Bool
  stale : Bool
  deriving DecidableEq, Repr

/-- A phase of a round on this device (R207, R230, R235). -/
structure PhaseSt where
  phase : Nat
  acc : Nat
  /-- RESERVATION of its DISPATCH (R208). -/
  reservation : Option Nat
  epoch : Nat
  fmt : Fmt
  hTiles : Nat
  members : List MemberSt
  rows : List RowSt
  sentHeaders : Bool
  arranged : Bool
  rowsSent : Nat
  overrun : Nat
  dup : Nat
  reexpr : Nat
  torn : Nat
  /-- Tags by position: in a dispatch phase overruns to return in DROP_LIST, in a return phase those that came in one
  (R220). -/
  dropTags : List (Nat × Word64)
  /-- In a return phase, for each token its choices: admitted or not, and WEIGHT (R224). -/
  choices : List (List (Bool × Nat))
  /-- Row tiles of OUT that are written (R225). -/
  outDone : List Nat
  /-- Tokens whose entries have retired (R227). -/
  retired : List Nat
  /-- Work items of the arrangement that are still to be pushed, with the die of their list (R92, R223). -/
  toPush : List (Nat × WorkItem)
  /-- Address of the first tile with NAN_PRESENT that it wrote (R107). -/
  nan : Option Nat
  /-- When the operation reached the Bazaar (R230), and the time stamp of it (R235). -/
  since : Nat
  tOpen : Nat
  deriving DecidableEq, Repr

/-- A round of a routed layer (R207, R227, R229). -/
structure Round where
  bwd : Bool
  layer : Nat
  mb : Nat
  core : Nat
  tokens : Nat
  k : Nat
  epoch : Nat
  members : List Nat
  pos : Nat
  negotiated : Bool
  /-- Entries of this device's routing table: capacity in rows, OWNER, LOCAL. -/
  route : List (Nat × Nat × Nat)
  gateDone : Bool
  /-- Format and width in tiles of the rows that its sources send (R210). -/
  fmt : Fmt
  hTiles : Nat
  /-- REQUESTs received: position and counts per local expert (R217). -/
  requests : List (Nat × List Nat)
  granted : Bool
  /-- Counts a_p this device granted: per position, per local expert. -/
  shares : List (Nat × List Nat)
  /-- GRANTs received: owner position and (a_p, BASE) per owner's local expert. -/
  grants : List (Nat × List (Nat × Nat))
  /-- Members missing from the REQUEST wait (R231). -/
  reqMissing : List Nat
  /-- Tag entries still held (R227). -/
  entries : Nat
  /-- When its GATE started (R230). -/
  gateStart : Nat
  /-- The DISPATCH that opened it, in the backward direction. -/
  opener : Option Nat
  /-- Messages of a phase that has not begun here. -/
  early : List (Nat × BzMsg)
  disp : Option PhaseSt
  comb : Option PhaseSt
  /-- Arrangement of the dispatch: (local expert, position, tag) in EXPERT_IN order (R221). -/
  arranged : List (Nat × Nat × Word64)
  deriving DecidableEq, Repr

/-- A waiting tag reservation or round opening (R227, R229). -/
structure BzWait where
  core : Nat
  bwd : Bool
  acc : Nat
  layer : Nat
  mb : Nat
  need : Nat
  deriving DecidableEq, Repr

/-- The Bazaar block (R237). -/
structure Bazaar where
  ctrl : Word32
  deadline : Word32
  err : Word32
  tagsPeak : Nat
  stale : Nat
  late : Nat
  dup : Nat
  overrun : Nat
  reexpr : Nat
  missing : Nat
  msgFail : Nat
  rounds : List Round
  waits : List BzWait
  deriving DecidableEq, Repr

/-! ## The reduction adders -/

/-- A value of a segment at this device (R276, R289): tiles, or absent; the positions it holds; NaN marks; counts. -/
structure SegSt where
  seg : Nat
  /-- The tiles of the value; empty with `has = false` when absent. -/
  has : Bool
  tiles : List (List Byte)
  present : List Nat
  nanMap : List Nat
  nanCount : Nat
  arisen : Nat
  /-- Summed COUNTS of the items that the segment touches (R283). -/
  counts : List Nat
  /-- Valid rows and columns of this device's own tiles, where they are good (R280). -/
  shape : List (Option (Nat × Nat))
  /-- Levels below this are resolved. -/
  level : Nat
  /-- Levels whose edge was closed (1) or failed its checks (2). -/
  failed : List (Nat × Nat)
  /-- The device has sent its value up, or has been told to stop (R277, R288). -/
  upSent : Bool
  /-- 0 open, 1 a result, 2 no result. -/
  outcome : Nat
  deriving DecidableEq, Repr

/-- A send range of a PERMUTE (R416). -/
structure SendRange where
  src : Word64
  first : Nat
  tiles : Nat
  dest : Nat
  key : Nat
  deriving DecidableEq, Repr

/-- A receive range of a PERMUTE (R416, R420). -/
structure RecvRange where
  dst : Word64
  first : Nat
  tiles : Nat
  srcPos : Nat
  key : Nat
  /-- Indices received, and whether the range is torn whole. -/
  got : List Nat
  bad : Bool
  deriving DecidableEq, Repr

/-- A collective on a channel (R272 to R275, R416). -/
structure CollSt where
  acc : Nat
  core : Nat
  /-- The operands of a tree collective, or of a PERMUTE. -/
  coll : Option CollArgs
  perm : Option PermuteArgs
  members : List Nat
  nanTrap : Bool
  started : Bool
  /-- Waiting under R296, since when. -/
  ahead : Option Nat
  /-- Time stamp and time of the start (R274). -/
  tStart : Nat
  t0 : Nat
  segs : List SegSt
  /-- The own contribution is skipped (R294); segments where it failed its checks (R280). -/
  skipped : Bool
  ownFailed : List Nat
  /-- Address of the first result tile with NAN_PRESENT (R294). -/
  nanAt : Option Nat
  /-- The norm tree (R298, R299): own q ready, sum so far, positions in it, next level, closed levels, sent, done, valid. -/
  normReady : Bool
  normHas : Bool
  normQ : Nat
  normPresent : List Nat
  normLevel : Nat
  normFailed : List Nat
  normSent : Bool
  normDone : Bool
  normValid : Bool
  sends : List SendRange
  recv : List RecvRange
  lateEdges : Nat
  staleMsgs : Nat
  retries : Nat
  tornTiles : Nat
  zeroDiv : Nat
  deriving DecidableEq, Repr

/-- A reduction message held unread for want of credit (R275, R281): the port it came by, and what the residue check of its
adds will find (R286). -/
structure HeldMsg where
  port : Nat
  msg : RedMsg
  residue : EccOutcome
  deriving DecidableEq, Repr

/-- An edge or result that was closed (R288): channel, COLL_ID, KIND, SEGMENT, LEVEL. -/
structure ClosedEdge where
  channel : Nat
  collId : Nat
  kind : Nat
  segment : Nat
  level : Nat
  deriving DecidableEq, Repr

/-- The reduction block (R302). -/
structure Reduction where
  ctrl : Word32
  epoch : Word32
  deadline : Word32
  err : Word32
  done : Nat
  partialCount : Nat
  late : Nat
  stale : Nat
  residueRetry : Nat
  residueFail : Nat
  nanSkipped : Nat
  /-- Collectives per channel, in order: the channel number and its queue. -/
  channels : List (Nat × List CollSt)
  held : List HeldMsg
  heldTiles : List PermTile
  closed : List ClosedEdge
  deriving DecidableEq, Repr

/-! ## The fabric -/

/-- Who issued a packet, by the requester codes of R539, with what completing it does. -/
inductive FxUse where
  /-- A read for a command; its place among the command's inputs. -/
  | load (r : Reader) (place : Nat)
  /-- A packet whose answer no longer matters: its job has been unloaded. -/
  | dead
  /-- A write for the running LS command of `core`. -/
  | store (core : Nat)
  /-- Ownership of a coherent line for a STORE of `core`, which then writes `data` at `off` of the line (R395). -/
  | own (core off : Nat) (data : List Byte)
  /-- A probe of a coherence group member (R468). -/
  | probe (fid : Nat)
  /-- A signal raised by a command of `core`: its unit, operation index and SEQ. -/
  | signal (core : Nat) (unit : EngUnit) (opIndex seq : Nat)
  /-- A message of a Bazaar half, with the key of its phase and the tile bytes that it carries (R29), or of the adders. -/
  | bazaar (die key tiles : Nat)
  | adder (port : Nat)
  /-- A TILE, CREDIT or CLOSE of the inter-device queue of `core`. -/
  | queue (core queue kind : Nat)
  deriving DecidableEq, Repr

/-- A tracked packet (R389 to R391): `space` is the receiver's or gateway's fabric ID. -/
structure OutReq where
  id : Nat
  space : Nat
  tag : Nat
  nonPosted : Bool
  gateway : Bool
  issued : Nat
  port : Option Nat
  addr : Nat
  addrValid : Bool
  want : Nat
  got : List (Nat × List Byte)
  bad : Nat
  quarantined : Bool
  use : FxUse
  deriving DecidableEq, Repr

/-- A packet that waits before it issues (R389, R391): its use, the packet without a tag, whether it is non-posted, and
whether its address goes into an error record. -/
structure FxWait where
  use : FxUse
  p : Packet
  nonPosted : Bool
  addrValid : Bool
  deriving DecidableEq, Repr

/-- A fabric port's registers (R405). -/
structure PortSt where
  up : Bool
  width : Nat
  halfRate : Bool
  training : Bool
  ctrl : Word32
  fecCorr : Nat
  fecUncorr : Nat
  replays : Nat
  /-- Replays in the 1 ms window that began at `winStart` (R368). -/
  winReplays : Nat
  winStart : Nat
  downEvents : Nat
  laneErr : Word32
  failedTest : Bool
  /-- MODEL's own: bytes of the packets that left by the port, which the choice of the next port balances (R215). -/
  sent : Nat
  deriving DecidableEq, Repr

/-- An export window in force (R379). -/
structure Window where
  remote : Nat
  size : Nat
  localBase : Nat
  perm : Nat
  deriving DecidableEq, Repr

/-- A stream of the ORDERED class (R384): receiver, what it is for, its number, its next SEQ. -/
structure StreamSt where
  dest : Nat
  key : List Nat
  num : Nat
  next : Nat
  deriving DecidableEq, Repr

/-- A coherent request that waits at its home until copies are recalled (R395): the port and packet, and the members whose
INV_DONE is awaited since a time. -/
structure Recall where
  port : Nat
  p : Packet
  holders : List Nat
  since : Nat
  deriving DecidableEq, Repr

/-- The fabric block (R405). -/
structure Fabric where
  ctrl : Word32
  cohFormed : Bool
  fid : Option Nat
  fmId : Option Nat
  jobId : Nat
  rankLo : Word32
  rankHi : Word32
  rankCount : Word32
  rankSelf : Nat
  expLo : Word32
  expHi : Word32
  expCount : Word32
  cplTimeout : Word32
  gwTimeout : Word32
  npPeak : Nat
  err : Word32
  ptpPort : Word32
  cohLo : Word32
  cohHi : Word32
  cohSize : Word32
  cohMembers : List Word32
  gateways : List Word32
  /-- REJ_JOB, REJ_ACCESS, REJ_RANGE, POISON_CPL, TIMEOUTS, LATE_CPL, CRC_DROP, REJ_MGMT. -/
  counts : List Nat
  ports : List PortSt
  /-- The rank table as loaded: entry by rank (R372). -/
  ranks : List (Option Nat)
  windows : List Window
  outs : List OutReq
  stalled : List FxWait
  streams : List StreamSt
  /-- Members that hold coherent lines of this home: fabric ID, line, for writing (R395). -/
  dir : List (Nat × Nat × Bool)
  recalls : List Recall
  /-- Lines (device address ÷ 128) of which a lost member held the only copy (R398). -/
  lostLines : List Nat
  /-- Coherent windows of the members that answered a probe: fabric ID, first device offset, size (R394, R468). -/
  cohPeers : List (Nat × Nat × Nat)
  /-- Members whose probe answer is awaited (R468). -/
  probes : List Nat
  /-- Members that left the group (R398). -/
  gone : List Nat
  deriving DecidableEq, Repr

/-! ## Host interface -/

/-- A descriptor whose read was asked for, or that has started (R438, R442): its SQ slot, its 64 bytes (none until they
arrive), its argument block once read. -/
structure Desc where
  slot : Nat
  bytes : List Byte
  args : Option (List Byte)
  argsAsked : Bool
  started : Bool
  /-- Progress of a COPY: next offset, failed line, bytes written without error. -/
  off : Nat
  failLine : Option Nat
  good : Nat
  /-- ERR_SEQ of the first record it caused. -/
  errSeq : Nat
  deriving DecidableEq, Repr

/-- A ring (R435 to R441, R457). -/
structure Ring where
  num : Nat
  sqLo : Word32
  sqHi : Word32
  cqLo : Word32
  cqHi : Word32
  size : Word32
  ctrl : Word32
  intMod : Word32
  enabled : Bool
  draining : Bool
  faultCode : Nat
  sqHead : Nat
  cqTail : Nat
  phase : Bool
  sqTail : Nat
  cqHead : Nat
  /-- Records that CQ_HEAD has not passed (R439, R453). -/
  cqUsed : Nat
  /-- Next slot whose read has been asked for. -/
  fetch : Nat
  descs : List Desc
  /-- Records without NO_IRQ since the vector fired, and the time of the first (R455). -/
  unsignalled : Nat
  firstAt : Nat
  deriving DecidableEq, Repr

/-- What a device read of host memory is for (R425). -/
inductive HostUse where
  | desc (ring slot : Nat)
  | args (ring slot : Nat)
  | copy (ring slot : Nat)
  | spill (r : Reader) (place : Nat)
  /-- Spilled bytes for a Well command or a collective, by its id (R253). -/
  | fetch (id : Nat)
  /-- A spilled tile, by its host address and length, that receives the torn mark (R64, R253). -/
  | tear (addr len : Nat)
  deriving DecidableEq, Repr

/-- An outstanding read of host memory (R424, R426). -/
structure HostRead where
  tag : Nat
  addr : Nat
  len : Nat
  issued : Nat
  use : HostUse
  deriving DecidableEq, Repr

/-- An MSI-X table entry (R432): address, data, mask. -/
structure Msix where
  vec : Nat
  lo : Word32
  hi : Word32
  data : Word32
  mask : Bool
  pend : Bool
  deriving DecidableEq, Repr

/-- The host interface (R424 to R457). -/
structure HostIf where
  rings : List Ring
  reads : List HostRead
  msix : List Msix
  /-- Reads that wait for a tag (R424): address, length, use. -/
  queued : List (Nat × Nat × HostUse)
  /-- Bytes of spilled allocations that Well commands and collectives have read, by host address, and ranges whose read failed (R253). -/
  fetched : List Host.Cell := []
  fetchBad : List (Nat × Nat) := []
  bar2Lo : Word32
  bar2Hi : Word32
  eventVector : Word32
  dbDrops : Nat
  deriving DecidableEq, Repr

/-! ## Scale tables, power, time, counters, errors, boot -/

/-- The scale-tables block (R169). The table itself lies in device memory. -/
structure ScaleRegs where
  baseLo : Word32
  baseHi : Word32
  count : Word32
  ctrl : Word32
  status : Word32
  iterFaults : Word32
  seedLo : Word32
  seedHi : Word32
  deriving DecidableEq, Repr

/-- The states of the time counter (R526). -/
inductive TmState where
  | free | acquiring | locked | holdover
  deriving DecidableEq, Repr

/-- The power and time block (R518 to R534). -/
structure Power where
  latencyTol : Word32
  ctrl : Word32
  limit : Word32
  tjLimit : Word32
  sagMv : Word32
  sagFrac : Word32
  state : Nat
  /-- When the power state was entered (R522). -/
  since : Nat
  power : Nat
  vddCore : Nat
  tj : Nat
  tjPeak : Nat
  stepRate : Nat
  sagEvents : Nat
  limitPaced : Nat
  wakes : Nat
  /-- ns spent in A0 to A4. -/
  res : List Nat
  /-- f of each paced group under the Drover (R520), groups 0 to 19. -/
  f : List Nat
  /-- The limiter's common f (R521). -/
  fLimit : Nat
  /-- VDD_CORE set point in mV (R563). -/
  setPoint : Nat
  deriving DecidableEq, Repr

/-- The time counter (R526 to R529). `ns` is its value; a slew that is still to be applied. -/
structure TimeCtr where
  ctrl : Word32
  st : TmState
  ns : Nat
  slew : Int
  capDone : Bool
  capture : Nat
  offset : Int
  freqAdj : Int
  todLo : Word32
  todHi : Word32
  steps : Nat
  ignored : Nat
  lockTime : Nat
  err : Word32
  /-- Consecutive good and bad offset estimates. -/
  good : Nat
  bad : Nat
  everLocked : Bool
  /-- Time from which TM_LOCK_TIME counts. -/
  since : Nat
  /-- Time of the last Sync or edge of the source (R529). -/
  lastSrc : Nat
  deriving DecidableEq, Repr

/-- A row of bound counters (R533): achieved, bound, last ratio, run ratio, peaks and counts. -/
structure BoundRow where
  achieved : Nat
  bound : Nat
  lastRatio : Word32
  runRatio : Word32
  peak : Word32
  peakUncov : Word32
  covered : Nat
  uncovered : Nat
  exceeded : Nat
  deriving DecidableEq, Repr

/-- What has moved over a stack's interfaces (R29, R32, R33). -/
structure StackUse where
  /-- Bytes read and written over the HBM4 interface in the interval that runs. -/
  rd : Nat
  wr : Nat
  /-- Whether an access of the interval was not of whole, aligned 2 KiB lines. -/
  odd : Bool
  /-- Bytes of compute-die traffic, and of Well engines, over the TSV path since the device reset. -/
  cd : Nat
  tsv : Nat
  deriving DecidableEq, Repr

/-- A tracked workload that has not retired (R29 to R32, R533): its row of the bounds table; the core, the phase or the Well command that it
is; the unit that does the work. -/
structure Track where
  row : Nat
  key : Nat
  unit : Nat
  /-- Time of its first admission. -/
  began : Nat
  /-- The achieved measure so far, without the intervals of R31: steps of the core in row 0, ns otherwise. -/
  achieved : Nat
  /-- Useful MACs (key 0), tile bytes by port and direction (2 × port, plus 1 inward), or TSV bytes by Well. -/
  moved : List (Nat × Nat)
  /-- Compute-die bytes over each stack's TSV path when it began (R33). -/
  base : List Nat
  /-- Accumulations retired, and the format pair of the last one (R127). -/
  parts : Nat
  pair : Option (Fmt × Fmt)
  /-- Whether every part so far meets the coverage conditions of R32. -/
  ok : Bool
  deriving DecidableEq, Repr

/-- The counter block (R530 to R535): live counters by register offset, and the snapshot that reads show. -/
structure Counters where
  live : List (Nat × Nat)
  snap : List (Nat × Nat)
  bounds : List BoundRow
  boundsSnap : List BoundRow
  snapDone : Bool
  snapTime : Nat
  /-- Traffic of each stack, and the first and last access of the HBM streaming interval that runs, in time-counter ns (R29, R533). -/
  perStack : List StackUse
  hbmFirst : Option Nat
  hbmLast : Nat
  /-- Tracked workloads in order of admission (R533). -/
  tracks : List Track
  deriving DecidableEq, Repr

/-- An error record before its SEQ and delivery (R539). -/
structure ErrRec where
  seq : Nat
  time : Nat
  det : Nat
  sev : Nat
  injected : Bool
  jobValid : Bool
  addrValid : Bool
  jobId : Nat
  addr : Nat
  count : Nat
  d0 : Nat
  d1 : Nat
  d2 : Nat
  /-- MODEL's own: the model's time at detection, from which the 1 ms of R541 runs. -/
  now : Nat
  deriving DecidableEq, Repr

/-- An injection slot (R549, R553). -/
structure InjSlot where
  ctrl : Word32
  count : Word32
  left : Nat
  fired : Nat
  deriving DecidableEq, Repr

/-- The errors block (R536 to R553). -/
structure Errors where
  ringLo : Word32
  ringHi : Word32
  ringCtrl : Word32
  head : Nat
  tail : Nat
  /-- Records written that ER_RING_HEAD has not passed (R542). -/
  used : Nat
  phase : Bool
  seq : Nat
  lost : Nat
  overflow : Bool
  ceInt : Word32
  ceCount : Nat
  swapCe : Word32
  fatal : Bool
  fatalSeq : Nat
  pending : List ErrRec
  log : List ErrRec
  /-- CORRECTED detections being coalesced (R541). -/
  coalesce : List ErrRec
  slots : List InjSlot
  refused : Nat
  deriving DecidableEq, Repr

/-- A spare-core swap in progress (R485): die, logical core, spare, from the mailbox, a job stop waits. -/
structure Swap where
  die : Nat
  core : Nat
  /-- `none` while an earlier swap of the die runs (R487). -/
  spare : Option Nat
  mailbox : Bool
  /-- The core had halted before the swap. -/
  wasHalted : Bool
  stopWaits : Bool
  deriving DecidableEq, Repr

/-- What a running live UPDATE will do at its end (R481). -/
structure UpdateSt where
  run : FwRun
  /-- JOB_LOADs and JOB_UNLOADs, by ring and SQ slot, that the UPDATE waits for (R483). -/
  waiting : List (Nat × Nat)
  /-- When its steps began. -/
  begun : Option Nat
  deriving DecidableEq, Repr

/-- The boot and trust mailbox and the device state (R459 to R491). -/
structure Boot where
  /-- IDC_STATE: 0 RESET to 6 FAULT. -/
  st : Nat
  fwVersion : Nat
  injectEnable : Bool
  latched : Bool
  latchDone : Bool
  /-- READY has been reached since the last device reset (R465). -/
  served : Bool
  busy : Bool
  lastCmd : Nat
  result : Nat
  imgLo : Word32
  imgHi : Word32
  imgLen : Word32
  selftest : Word32
  selftestPorts : Word32
  svn : Nat
  updates : Nat
  live : Word32
  sysRank : Option Nat
  tFill : Nat
  tSelftest : Nat
  tWaitFw : Nat
  tLoad : Nat
  chainOk : Bool
  calOk : Bool
  /-- HANDOVER of the running image (R481). -/
  handover : Nat
  deriving DecidableEq, Repr

/-- Measurements, resets and fuses (R460 to R478). -/
structure Trust where
  /-- Measurement blocks 2, 3, 5, 6 as bytes; block 4 as 16 bytes. -/
  m2 : List Byte
  m3 : List Byte
  m4 : List Byte
  m5 : List Byte
  m6 : List Byte
  /-- The fused minimum SVN; survives every reset. -/
  minSvn : Nat
  straps : Straps
  powerGood : Bool
  perstLow : Bool
  /-- PCIe link training has begun since PERST# (R461). -/
  linkUp : Bool
  staggerWait : Bool
  fillStart : Nat
  releaseTime : Nat
  update : Option UpdateSt
  swaps : List Swap
  /-- Physical cores fused out until the next device reset. -/
  out : List Nat
  /-- Physical core of each logical core (R434). -/
  lmap : List Nat
  spares : List Nat
  /-- Management cores that failed (R537). -/
  mgmtFailed : List Nat
  thermtrip : Bool
  smbAlert : Bool
  /-- SPDM: requests accepted so far, in order (R474). -/
  spdm : List Nat
  /-- TOLL_OFFSET (R564). -/
  tollOffset : Nat
  deriving DecidableEq, Repr

/-! ## The Tollhouse -/

/-- The nonvolatile store of the Tollhouse (R494, R512). -/
structure TollNv where
  bootCount : Nat
  fwVersion : Nat
  fwSvn : Nat
  fwDigest : List Byte
  fwUpdates : Nat
  unseals : Nat
  seq : Nat
  lastTt : Nat
  energy : List Nat
  logSeq : Nat
  logHash : List Byte
  /-- The newest audit entries with the hash after each, newest first, at most 65,536 (R507). -/
  log : List (List Byte × List Byte)
  deriving DecidableEq, Repr

/-- A mailbox slot (R510): 0 idle, 1 busy, 2 ready; the request; the response once the Tollhouse serves it. -/
structure TollBox where
  st : Nat
  req : List Byte
  resp : List Byte
  deriving DecidableEq, Repr

/-- The Tollhouse (R492 to R517). -/
structure Toll where
  running : Bool
  nv : TollNv
  /-- MODEL's own: the model's time at power-up, from which MONO counts. -/
  start : Nat
  /-- Periodic readings made since power-up. -/
  secs : Nat
  mono : Nat
  tt : Nat
  timeSet : Bool
  unsealed : Bool
  unsealMono : Nat
  timeDev : Bool
  stale : List Bool
  senseFault : List Bool
  devTime : Option Nat
  timeDevUs : Int
  workBad : Nat
  /-- Six work counts of each die from its latest valid frame. -/
  work : List (List Nat)
  /-- Readings by ring slot, newest first. -/
  readings : List (Nat × List Byte)
  first : Bool
  boxes : List TollBox
  deriving DecidableEq, Repr

/-! ## The device -/

/-- Work counts of the dies as they go into work-count frames (R499), and frame sequences. -/
structure WorkCounts where
  macFp4 : List Nat
  mac8 : List Nat
  mac16 : List Nat
  vecOps : List Nat
  hbm : List Nat
  fab : List Nat
  fseq : List Nat
  deriving DecidableEq, Repr

/-- Everything outside the Tollhouse. -/
structure Dev where
  grade : Grade
  /-- Nanoseconds since the model's start, the time base of every deadline. -/
  now : Nat
  mem : Memory
  /-- Poisoned lines, as device address ÷ 2,048, ascending (R330). -/
  poison : List Nat
  cores : List CoreSt
  queues : List QState
  inflight : List InFlight
  nextId : Nat
  lists : List WorkList
  accepted : List Accepted
  job : Option Job
  depot : Depot
  place : Placement
  wells : Wells
  bz : Bazaar
  rd : Reduction
  fx : Fabric
  host : HostIf
  scale : ScaleRegs
  pw : Power
  tm : TimeCtr
  ct : Counters
  er : Errors
  boot : Boot
  trust : Trust
  work : WorkCounts
  out : List Output
  /-- MODEL's own: counts free values drawn (see Config). -/
  draws : Nat
  deriving DecidableEq, Repr

/-- The block: waiting commands first in, first out; the Tollhouse; the rest. -/
structure State where
  pending : List Instr
  toll : Toll
  dev : Dev
  deriving DecidableEq, Repr

/-! ## The state after reset -/

/-- The accumulator before its first product. -/
def AccSt.empty : AccSt := ⟨[], [], [], false, none, false, 0, none⟩

/-- A core with nothing loaded (R83). -/
def CoreSt.reset : CoreSt :=
  { halted := false, frozen := false, cc := .standing, mx := [], vx := [], ls := [], st := [],
    seqs := [0, 0, 0, 0], flags := 0, counters := List.replicate 64 0, pushStall := none, waiting := none,
    taking := false, items := [], ending := none, waitWindowUs := 100, slots := [], acc := AccSt.empty, pipe := [],
    span := none, gate := none, retrySteps := 0, emptySteps := 0 }

/-- A Well after a device reset (R334). -/
def WellSt.reset : WellSt :=
  { filled := false, passStart := 0, retraining := false, sparing := false, laneRepair := false, ucode := false,
    channel := 0, droneCtrl := 1, dronePeriod := 0x15180, dronePos := 0, droneLag := 0, corrected := 0,
    uncorr := 0, retrains := 0, sparedRows := 0, laneRepairs := 0, err := 0, cmds := 0, partsFailed := 0,
    track := ⟨false, [], [], []⟩, temp := 0 }

/-- A port after a device reset (R405). -/
def PortSt.reset : PortSt :=
  { up := false, width := 0, halfRate := false, training := false, ctrl := 1, fecCorr := 0, fecUncorr := 0,
    replays := 0, winReplays := 0, winStart := 0, downEvents := 0, laneErr := 0, failedTest := false, sent := 0 }

def Depot.reset : Depot :=
  { ctrl := 0, poolBaseLo := 0, poolBaseHi := 0, err := 0, pfDepth := 0x40, queryLo := 0, queryHi := 0,
    bufPeak := 0, invalid := 0, stashPeak := 0, scParity := 0, pools := [], bufs := [], gens := [], waits := [],
    stash := [], spill := [], spillTail := 0, streams := [], cached := [] }

def Placement.reset : Placement :=
  { ctrl := 1, hotWindow := 8, hotRatio := 0x20, hotMax := 0x10, ovrLo := 0, ovrHi := 0, ovrCount := 0,
    denied := 0, replicaReads := 0, replicas := [], overrides := [], expertWell := [], history := [], visits := [] }

def Wells.reset : Wells :=
  { baseLo := 0, baseHi := 0, count := 0, ctrl := 0, wells := List.replicate 8 WellSt.reset, cmds := [],
    versions := [], holds := [], folds := [], zeroed := [] }

def Bazaar.reset : Bazaar :=
  { ctrl := 0, deadline := 0x4E20, err := 0, tagsPeak := 0, stale := 0, late := 0, dup := 0, overrun := 0,
    reexpr := 0, missing := 0, msgFail := 0, rounds := [], waits := [] }

def Reduction.reset : Reduction :=
  { ctrl := 0, epoch := 0, deadline := 0xC350, err := 0, done := 0, partialCount := 0, late := 0, stale := 0,
    residueRetry := 0, residueFail := 0, nanSkipped := 0, channels := [], held := [], heldTiles := [], closed := [] }

def Fabric.reset : Fabric :=
  { ctrl := 0, cohFormed := false, fid := none, fmId := none, jobId := 0, rankLo := 0,
    rankHi := 0, rankCount := 0, rankSelf := 0, expLo := 0, expHi := 0, expCount := 0, cplTimeout := 0x2710,
    gwTimeout := 0x30D40, npPeak := 0, err := 0, ptpPort := 0, cohLo := 0, cohHi := 0, cohSize := 0,
    cohMembers := List.replicate 8 0, gateways := List.replicate 8 0, counts := List.replicate 8 0,
    ports := List.replicate 18 PortSt.reset, ranks := [], windows := [], outs := [], stalled := [], streams := [], dir := [], recalls := [], lostLines := [], cohPeers := [], probes := [],
    gone := [] }

def HostIf.reset : HostIf :=
  { rings := [], reads := [], msix := [], queued := [], bar2Lo := 0, bar2Hi := 0, eventVector := 0, dbDrops := 0 }

def ScaleRegs.reset : ScaleRegs := ⟨0, 0, 0, 0, 0, 0, 0, 0⟩

def Power.reset : Power :=
  { latencyTol := 0, ctrl := 1, limit := 0x640, tjLimit := 0x69, sagMv := 0x28, sagFrac := 8, state := 0,
    since := 0, power := 0, vddCore := 0, tj := 0, tjPeak := 0, stepRate := 0, sagEvents := 0,
    limitPaced := 0, wakes := 0, res := [0, 0, 0, 0, 0], f := List.replicate 20 16, fLimit := 16,
    setPoint := 720 }

def TimeCtr.reset : TimeCtr :=
  { ctrl := 2, st := .free, ns := 0, slew := 0, capDone := false, capture := 0, offset := 0, freqAdj := 0,
    todLo := 0, todHi := 0, steps := 0, ignored := 0, lockTime := 0, err := 0, good := 0, bad := 0,
    everLocked := false, since := 0, lastSrc := 0 }

def BoundRow.zero : BoundRow := ⟨0, 0, 0, 0, 0, 0, 0, 0, 0⟩

def StackUse.zero : StackUse := ⟨0, 0, false, 0, 0⟩

def Counters.reset : Counters :=
  { live := [], snap := [], bounds := List.replicate 4 BoundRow.zero,
    boundsSnap := List.replicate 4 BoundRow.zero, snapDone := false, snapTime := 0,
    perStack := List.replicate 8 StackUse.zero, hbmFirst := none, hbmLast := 0, tracks := [] }

def Errors.reset : Errors :=
  { ringLo := 0, ringHi := 0, ringCtrl := 6, head := 0, tail := 0, used := 0, phase := false, seq := 0, lost := 0,
    overflow := false, ceInt := 0, ceCount := 0, swapCe := 0x40, fatal := false, fatalSeq := 0, pending := [],
    log := [], coalesce := [], slots := List.replicate 8 ⟨0, 1, 0, 0⟩, refused := 0 }

def Boot.reset : Boot :=
  { st := 0, fwVersion := 0, injectEnable := false, latched := false, latchDone := false, served := false, busy := false,
    lastCmd := 0, result := 0, imgLo := 0, imgHi := 0, imgLen := 0, selftest := 0, selftestPorts := 0, svn := 0,
    updates := 0, live := 0, sysRank := none, tFill := 0, tSelftest := 0, tWaitFw := 0, tLoad := 0,
    chainOk := false, calOk := false, handover := 0 }

/-- Enabled cores of a die (R2). -/
def coresPerDie : Grade → Nat
  | .zx9480 => 64 | .zx9460 => 56 | .zx9440 => 48

/-- Enabled cores N (R2). -/
def coreCount (g : Grade) : Nat := 2 * coresPerDie g

/-- The physical core that serves each logical core as fused (R434); the fuses are DESIGN CHOICE, log entry 4: the lowest of each die. -/
def fusedMap (g : Grade) : List Nat :=
  (List.range (coresPerDie g)) ++ (List.range (coresPerDie g)).map (· + 72)

/-- The spares as fused: the eight physical cores of each die after the enabled ones (R2; DESIGN CHOICE which, log entry 4). -/
def fusedSpares (g : Grade) : List Nat :=
  ((List.range 8).map (· + coresPerDie g)) ++ (List.range 8).map (· + (72 + coresPerDie g))

def Trust.reset (g : Grade) : Trust :=
  { m2 := List.replicate 32 0, m3 := List.replicate 32 0, m4 := List.replicate 16 0, m5 := List.replicate 32 0,
    m6 := List.replicate 32 0, minSvn := Config.fusedMinSvn.toNat, straps := ⟨false, 0, false, 0, false⟩,
    powerGood := false, perstLow := false, linkUp := false, staggerWait := false, fillStart := 0, releaseTime := 0,
    update := none, swaps := [], out := [], lmap := fusedMap g, spares := fusedSpares g, mgmtFailed := [],
    thermtrip := false, smbAlert := false, spdm := [], tollOffset := 0 }

/-- The Tollhouse store as manufactured; the firmware it holds is a free value (R512, NV). -/
def TollNv.made : TollNv :=
  { bootCount := 0, fwVersion := Config.tollFwVersion.toNat, fwSvn := Config.tollFwSvn.toNat,
    fwDigest := (List.range 32).map (fun i => (Config.tollFwDigest >>> (8 * i)).setWidth 8), fwUpdates := 0,
    unseals := 0, seq := 0, lastTt := 0, energy := List.replicate 8 0, logSeq := 0, logHash := List.replicate 32 0,
    log := [] }

/-- The Tollhouse before its rail is up. -/
def Toll.reset : Toll :=
  { running := false, nv := TollNv.made, start := 0, secs := 0, mono := 0, tt := 0, timeSet := false, unsealed := false, unsealMono := 0,
    timeDev := false, stale := [false, false], senseFault := List.replicate 8 false,
    devTime := none, timeDevUs := 0, workBad := 0, work := [List.replicate 6 0, List.replicate 6 0],
    readings := [], first := true, boxes := [⟨0, [], []⟩, ⟨0, [], []⟩] }

def WorkCounts.zero : WorkCounts := ⟨[0, 0], [0, 0], [0, 0], [0, 0], [0, 0], [0, 0], [0, 0]⟩

/-- The device after a device reset, for a grade: every register at its stated reset value. -/
def Dev.reset (g : Grade) : Dev :=
  { grade := g, now := 0, mem := [], poison := [], cores := List.replicate (coreCount g) CoreSt.reset, queues := [],
    inflight := [], nextId := 0, lists := [⟨[], [], []⟩, ⟨[], [], []⟩], accepted := [], job := none,
    depot := Depot.reset, place := Placement.reset, wells := Wells.reset, bz := Bazaar.reset,
    rd := Reduction.reset, fx := Fabric.reset, host := HostIf.reset, scale := ScaleRegs.reset, pw := Power.reset,
    tm := TimeCtr.reset, ct := Counters.reset, er := Errors.reset, boot := Boot.reset, trust := Trust.reset g,
    work := WorkCounts.zero, out := [], draws := 0 }

/-- The machine right after reset, in RESET with no power-good input yet, of grade ZX9480 (DESIGN CHOICE, log entry 3: the grade is a
fuse; every meaning reads the field, so each holds for all three). -/
def State.reset : State := { pending := [], toll := Toll.reset, dev := Dev.reset .zx9480 }

end Sys2Proof.Machine
end

