-- ==== Sys2Proof/Machine/Mem.lean ====
section
/-! DEFINITION. Memory in its canonical form, the device memory map (R336 to R338, R574), and reads and writes with
poison and tracking (R327, R330, R333). -/

namespace Sys2Proof.Machine

open Sys2Proof

/-- The byte at an address (R326: an unlisted address reads as zero). -/
def Memory.read : Memory → Nat → Byte
  | [], _ => 0
  | (k, v) :: m, a => if k = a then v else if a < k then 0 else Memory.read m a

/-- Memory with one byte written; writing zero removes the entry. -/
def Memory.write : Memory → Nat → Byte → Memory
  | [], a, b => if b = 0 then [] else [(a, b)]
  | (k, v) :: m, a, b =>
    if a < k then (if b = 0 then (k, v) :: m else (a, b) :: (k, v) :: m)
    else if a = k then (if b = 0 then m else (k, b) :: m)
    else (k, v) :: Memory.write m a b

/-- Memory with bytes written at consecutive addresses. -/
def Memory.writes : Memory → Nat → List Byte → Memory
  | m, _, [] => m
  | m, a, b :: bs => Memory.writes (m.write a b) (a + 1) bs

/-- `n` bytes from an address. -/
def Memory.reads (m : Memory) (a n : Nat) : List Byte := (List.range n).map fun i => m.read (a + i)

/-- Memory with every byte of an address range zero. -/
def Memory.erase (m : Memory) (lo n : Nat) : Memory := m.filter fun c => !(decide (lo ≤ c.1) && decide (c.1 < lo + n))

/-- The canonical form: addresses strictly rising, no byte zero. -/
def Memory.wf : Memory → Bool
  | [] => true
  | [(_, v)] => v != 0
  | (k, v) :: (k', v') :: m => v != 0 && decide (k < k') && Memory.wf ((k', v') :: m)

/-- Bytes of a memory line (R327, R337). -/
def lineBytes : Nat := 2048

/-- The size of a Well's range (R337). -/
def wellSize : Nat := 0xC00000000

/-- The present Wells in ascending order (R2). -/
def presentWells : Grade → List Nat
  | .zx9440 => [0, 1, 2, 4, 5, 6]
  | _ => [0, 1, 2, 3, 4, 5, 6, 7]

/-- The present fabric ports (R2). -/
def presentPorts : Grade → List Nat
  | .zx9440 => [0, 1, 2, 3, 4, 5, 9, 10, 11, 12, 13, 14]
  | _ => List.range 18

/-- The end of device memory (R336). -/
def memEnd (g : Grade) : Nat := (presentWells g).length * wellSize

/-- The firmware reserve at the top of each present Well (R338). -/
def reserveBytes : Nat := 0x10000000

/-- The present Well whose range holds an address, by its number (R337). -/
def wellOf (g : Grade) (a : Nat) : Nat := (presentWells g).getD (a / wellSize) 0

/-- The first address of a present Well's range (R337). -/
def wellBase (g : Grade) (w : Nat) : Nat := ((presentWells g).idxOf w) * wellSize

/-- The channel of an address: bits [15:11] of its offset in the Well (R337). -/
def channelOf (a : Nat) : Nat := bits (a % wellSize) 15 11

/-- Whether a range lies in job memory (R338): in one Well after another, never in a reserve. The range may cross
lines but a reserve lies between two Wells, so it must stay below the reserve of its Well. -/
def inJobMem (g : Grade) (a n : Nat) : Bool :=
  decide (a + n ≤ memEnd g) && decide (a % wellSize + n ≤ wellSize - reserveBytes)

/-- The die that attaches a Well (R21). -/
def dieOfWell (w : Nat) : Nat := if w < 4 then 0 else 1

/-- The die of a logical core (R3). -/
def dieOfCore (g : Grade) (c : Nat) : Nat := if c < coresPerDie g then 0 else 1

/-- The die of a physical core (R21). -/
def dieOfPhys (p : Nat) : Nat := if p < 72 then 0 else 1

/-- The die of a port (R21). -/
def dieOfPort (p : Nat) : Nat := if p < 9 then 0 else 1

/-- The halt area of a logical core (R574). -/
def haltArea (g : Grade) (c : Nat) : Nat := 0xBF0000000 - 1024 * (coreCount g - c)

/-- The first and last line of a range. -/
def linesOf (a n : Nat) : List Nat :=
  if n = 0 then [] else (List.range ((a + n - 1) / lineBytes - a / lineBytes + 1)).map (· + a / lineBytes)

/-- The lines that a range covers whole. -/
def wholeLines (a n : Nat) : List Nat :=
  (linesOf a n).filter fun l => decide (a ≤ l * lineBytes) && decide ((l + 1) * lineBytes ≤ a + n)

/-- Insertion into an ascending list without repeats. -/
def insertAsc (x : Nat) : List Nat → List Nat
  | [] => [x]
  | y :: ys => if x < y then x :: y :: ys else if x = y then y :: ys else y :: insertAsc x ys

/-- The state of the Well of a given number. -/
def Dev.well (d : Dev) (w : Nat) : WellSt := d.wells.wells.getD w WellSt.reset

/-- The device with one Well changed. -/
def Dev.setWell (d : Dev) (w : Nat) (f : WellSt → WellSt) : Dev :=
  { d with wells := { d.wells with wells := d.wells.wells.modify w f } }

/-- Whether a line of a stack is tracked (R327). `l` is the line's number within the stack. -/
def Tracking.has (t : Tracking) (l : Nat) : Bool := t.all || t.chans.contains (l % 32) || t.lines.contains l

/-- Whether a line is tracked with its valid bit 0. -/
def Tracking.invalid (t : Tracking) (l : Nat) : Bool := t.has l && !t.valid.contains l

/-- Lines of a stack. -/
def stackLines : Nat := 25165824

/-- Tracked lines with valid bit 0 (R334, WLn_TRACKED_LINES). -/
def Tracking.openLines (t : Tracking) : Nat :=
  let total := if t.all then stackLines
    else t.chans.length * (stackLines / 32) + (t.lines.filter fun l => !t.chans.contains (l % 32)).length
  total - (t.valid.filter t.has).length

/-- Tracking after every bit is 1 ends (R328). -/
def Tracking.settle (t : Tracking) : Tracking := if t.openLines = 0 then ⟨false, [], [], []⟩ else t

/-- The valid bits that a write sets: a full line always (R333); a partial one unless the line is poisoned. -/
def Dev.markWritten (d : Dev) (a n : Nat) : Dev :=
  (linesOf a n).foldl (fun d l =>
    let w := wellOf d.grade (l * lineBytes)
    let sl := l % (wellSize / lineBytes)
    let whole := (wholeLines a n).contains l
    if (d.well w).track.invalid sl && (whole || !d.poison.contains l) then
      d.setWell w fun ws => { ws with track := ({ ws.track with valid := insertAsc sl ws.track.valid }).settle }
    else d) d

/-- Bytes over the HBM4 interfaces of a die (R499). -/
def WorkCounts.addHbm (w : WorkCounts) (die n : Nat) : WorkCounts := { w with hbm := w.hbm.modify die (· + n) }

/-- Payload bytes over the fabric ports of a die (R499). -/
def WorkCounts.addFab (w : WorkCounts) (die n : Nat) : WorkCounts := { w with fab := w.fab.modify die (· + n) }

/-- Whether a range is whole, aligned 2 KiB lines (R32). -/
def wholeRange (a n : Nat) : Bool := a % lineBytes == 0 && n % lineBytes == 0

/-- The use of one stack changed. -/
def Counters.setStack (c : Counters) (w : Nat) (f : StackUse → StackUse) : Counters := { c with perStack := c.perStack.modify w f }

/-- An access falls into the HBM streaming interval that runs (R533). -/
def Counters.noteHbm (c : Counters) (ns : Nat) : Counters := { c with hbmFirst := some (c.hbmFirst.getD ns), hbmLast := ns }

/-- Bytes of compute-die traffic over a stack's HBM4 interface and TSV path (R29, R33, R499). -/
def Dev.moveHbm (d : Dev) (a n : Nat) (write : Bool) : Dev :=
  let w := wellOf d.grade a
  let use (s : StackUse) : StackUse :=
    { s with rd := if write then s.rd else s.rd + n, wr := if write then s.wr + n else s.wr, odd := s.odd || !wholeRange a n, cd := s.cd + n }
  { d with work := d.work.addHbm (dieOfWell w) n, ct := (d.ct.setStack w use).noteHbm d.tm.ns }

/-- Bytes that a Well's engines move over the TSV path (R29). -/
def Dev.moveTsv (d : Dev) (w n : Nat) : Dev := { d with ct := d.ct.setStack w fun s => { s with tsv := s.tsv + n } }

/-- Bytes land in device memory (R327, R330, R333, R340, R398): full lines lose their poison and lost coherent lines covered whole are
whole again, valid bits are set, and both stream caches drop the lines. -/
def Dev.land (d : Dev) (a : Nat) (bs : List Byte) : Dev :=
  let d := d.markWritten a bs.length
  let wl := wholeLines a bs.length
  let ls := linesOf a bs.length
  { d with mem := d.mem.writes a bs,
           poison := d.poison.filter fun l => !wl.contains l,
           fx := { d.fx with lostLines := d.fx.lostLines.filter fun l =>
             !(decide (a ≤ l * 128) && decide ((l + 1) * 128 ≤ a + bs.length)) },
           depot := { d.depot with cached := d.depot.cached.filter fun c => !ls.contains c.2 } }

/-- A write to device memory from a compute die. -/
def Dev.write (d : Dev) (a : Nat) (bs : List Byte) : Dev := (d.land a bs).moveHbm a bs.length true

/-- A write to device memory by the engines of its Well. -/
def Dev.writeTsv (d : Dev) (a : Nat) (bs : List Byte) : Dev := (d.land a bs).moveTsv (wellOf d.grade a) bs.length

/-- A line that becomes poisoned counts in its Well (R334). -/
def WellSt.countPoison (s : WellSt) : WellSt := { s with uncorr := min 0xFFFFFFFF (s.uncorr + 1), err := s.err ||| 2#32 }

/-- A line marked poisoned (R330, R334); both stream caches drop it (R340). -/
def Dev.poisonLine (d : Dev) (l : Nat) : Dev :=
  let d := if d.poison.contains l then d else d.setWell (wellOf d.grade (l * lineBytes)) WellSt.countPoison
  { d with poison := insertAsc l d.poison, depot := { d.depot with cached := d.depot.cached.filter fun c => c.2 != l } }

/-! ## Lines that are held (R310, R332, R484) -/

/-- Whether a Well holds a channel's lines: the channel is under repair, or the Well's microcode is being updated. -/
def WellSt.holds (s : WellSt) (ch : Nat) : Bool :=
  s.ucode || ((s.retraining || s.sparing || s.laneRepair) && s.channel == ch)

/-- Whether a range of device memory touches a line that is held. -/
def Dev.heldAt (d : Dev) (a n : Nat) : Bool :=
  (linesOf a n).any fun l => decide (l * lineBytes < memEnd d.grade) &&
    (d.well (wellOf d.grade (l * lineBytes))).holds (channelOf (l * lineBytes))

/-- Whether scattered pieces of device memory touch a line that is held. -/
def Dev.heldIn (d : Dev) (ps : List (Nat × Nat)) : Bool := ps.any fun p => d.heldAt p.1 p.2

/-- The lowest poisoned line of a range, or none. -/
def Dev.poisonedIn (d : Dev) (a n : Nat) : Option Nat := (linesOf a n).find? fun l => d.poison.contains l

/-- Bytes of device memory without any check. -/
def Dev.peek (d : Dev) (a n : Nat) : List Byte := d.mem.reads a n

end Sys2Proof.Machine
end

