-- ==== Sys2Proof/Machine/Err.lean ====
section
/-! DEFINITION. Time stamps (R526), MSI-X (R455), error records, their coalescing and delivery (R539 to R544), injection
slots (R549 to R552), and reads of device memory that meet uncorrectable lines (R330, R537, R545). -/

namespace Sys2Proof.Machine

open Sys2Proof

/-- The time counter in its format: seconds in [63:30], nanoseconds in [29:0] (R526). -/
def Dev.timeStamp (d : Dev) : Nat := ((d.tm.ns / 1000000000) <<< 30) + d.tm.ns % 1000000000

/-- A bit of a word. -/
def wbit (w : Word32) (i : Nat) : Bool := w.getLsbD i

/-- A word with bits set. -/
def wset (w : Word32) (m : Nat) : Word32 := w ||| BitVec.ofNat 32 m

/-- A word with bits cleared. -/
def wclr (w : Word32) (m : Nat) : Word32 := w &&& ~~~(BitVec.ofNat 32 m)

/-- An output added; a packet counts for its port's die (R499). -/
def Dev.emit (d : Dev) (o : Output) : Dev :=
  let work := match o with
    | .packet (some port) p => d.work.addFab (dieOfPort port) p.payload.length
    | _ => d.work
  { d with out := o :: d.out, work := work }

/-- A fresh identifier. -/
def Dev.fresh (d : Dev) : Nat × Dev := (d.nextId, { d with nextId := d.nextId + 1 })

/-- The MSI-X entry of a vector; its reset value is masked (R432, the PCIe layout). -/
def Dev.msixEntry (d : Dev) (v : Nat) : Msix :=
  (d.host.msix.find? fun e => e.vec == v).getD ⟨v, 0, 0, 0, true, false⟩

/-- The MSI-X table with one entry replaced. -/
def Dev.setMsix (d : Dev) (e : Msix) : Dev :=
  { d with host := { d.host with msix := e :: d.host.msix.filter fun x => x.vec != e.vec } }

/-- A vector fires: a message, or its pending bit when masked (R455). -/
def Dev.fire (d : Dev) (v : Nat) : Dev :=
  let e := d.msixEntry v
  if e.mask then d.setMsix { e with pend := true } else d.emit (.msix v)

/-- The next sequence number: values whose low 16 bits are zero are skipped (R540). -/
def nextSeq (n : Nat) : Nat := if (n + 1) % 65536 = 0 then n + 2 else n + 1

/-- A record as 64 bytes, with its FLAGS (R539). -/
def errBytes (r : ErrRec) (overflow phase : Bool) : List Byte :=
  leBytes 8 r.seq ++ leBytes 8 r.time ++ leBytes 2 r.det ++ leBytes 1 r.sev ++
    leBytes 1 (b2n r.injected + 2 * b2n overflow + 4 * b2n r.jobValid + 8 * b2n r.addrValid + 128 * b2n phase) ++
    leBytes 4 (if r.jobValid then r.jobId else 0) ++ leBytes 8 (if r.addrValid then r.addr else 0) ++
    leBytes 4 r.count ++ zeros 4 ++ leBytes 8 r.d0 ++ leBytes 8 r.d1 ++ leBytes 8 r.d2

/-- The dropping rule of the pending store (R542): the store after a record came in, and how many were dropped. -/
def pendPush (ps : List ErrRec) (r : ErrRec) : List ErrRec × Nat :=
  if ps.length < 256 then (ps ++ [r], 0)
  else match ps.find? fun x => x.sev == 0 with
    | some c => (ps.erase c ++ [r], 1)
    | none => (ps, 1)

/-- Whether the error ring is enabled. -/
def Errors.ringOn (e : Errors) : Bool := wbit e.ringCtrl 8

/-- Ring size in records. -/
def Errors.ringSize (e : Errors) : Nat := 2 ^ (e.ringCtrl.toNat % 32)

/-- A record enters the recorder: it takes the next SEQ, enters the log window, and the pending store while the ring is
enabled (R540, R542, R543). -/
def Dev.record (d : Dev) (r : ErrRec) : Dev :=
  let r := { r with seq := nextSeq d.er.seq }
  let p := if d.er.ringOn then pendPush d.er.pending r else (d.er.pending, 0)
  { d with er := { d.er with seq := r.seq, log := (r :: d.er.log).take 64, pending := p.1,
                             lost := sat32 (d.er.lost + p.2), overflow := d.er.overflow || decide (p.2 > 0) } }

/-- The error vector of EVENT_VECTOR (R457). -/
def Dev.errVector (d : Dev) : Nat := d.host.eventVector.toNat % 2048

/-- The mailbox vector of EVENT_VECTOR. -/
def Dev.mailVector (d : Dev) : Nat := (d.host.eventVector.toNat >>> 16) % 2048

/-- Delivery of the oldest pending record: written to the ring when the next slot has been passed by ER_RING_HEAD, then
the interrupt rule of R544. -/
def Dev.deliverOne (d : Dev) : Dev :=
  match d.er.pending with
  | [] => d
  | r :: rest =>
    let size := d.er.ringSize
    if d.er.ringOn && decide (d.er.used < size) then
      let base := d.er.ringLo.toNat + d.er.ringHi.toNat * 2 ^ 32
      let d1 := d.emit (.hostWrite (base + 64 * d.er.tail) (errBytes r d.er.overflow d.er.phase))
      let wrap := decide (d.er.tail + 1 = size)
      let ce := if r.sev = 0 then d.er.ceCount + 1 else d.er.ceCount
      let ceFire := decide (r.sev = 0) && decide (d.er.ceInt.toNat ≠ 0) && decide (ce ≥ d.er.ceInt.toNat)
      let d2 := { d1 with er := { d1.er with pending := rest, overflow := false,
                                             used := d.er.used + 1,
                                             tail := if wrap then 0 else d.er.tail + 1,
                                             phase := if wrap then !d.er.phase else d.er.phase,
                                             ceCount := if ceFire then 0 else ce } }
      if decide (r.sev ≥ 1) || ceFire then d2.fire d2.errVector else d2
    else d

/-- Delivery of as many pending records as the ring has room for. -/
def Dev.deliverAll (d : Dev) : Dev := (List.range d.er.pending.length).foldl (fun d _ => d.deliverOne) d

/-- A detection: CORRECTED ones are coalesced for 1 ms (R541), the others are recorded at once. -/
def Dev.detect (d : Dev) (det sev : Nat) (inj : Bool) (addr : Option Nat) (d0 d1 d2 : Nat) : Dev :=
  let r : ErrRec :=
    { seq := 0, time := d.timeStamp, det := det, sev := sev, injected := inj, jobValid := d.job.isSome,
      addrValid := addr.isSome, jobId := d.fx.jobId, addr := addr.getD 0, count := 1, d0 := d0, d1 := d1, d2 := d2, now := d.now }
  if sev = 0 then
    if d.er.coalesce.any fun x => x.det == det && x.injected == inj then
      { d with er := { d.er with coalesce := d.er.coalesce.map fun x =>
          if x.det == det && x.injected == inj then { x with count := x.count + 1 } else x } }
    else { d with er := { d.er with coalesce := d.er.coalesce ++ [r] } }
  else d.record r

/-- A detector ID (R536). -/
def detId (ty inst : Nat) : Nat := ty * 256 + inst

/-- The detector types that MIMIC is allowed for (R537). -/
def mimicTypes : List Nat :=
  [0x01, 0x02, 0x03, 0x04, 0x05, 0x06, 0x07, 0x0C, 0x10, 0x11, 0x12, 0x13, 0x14, 0x20, 0x21, 0x22, 0x23, 0x24, 0x25,
   0x28, 0x29, 0x2A, 0x2B, 0x2C, 0x2D, 0x30, 0x38, 0x40, 0x50, 0x51]

/-- Whether a slot is armed for a detector and an action. -/
def InjSlot.armedFor (s : InjSlot) (det action : Nat) : Bool :=
  wbit s.ctrl 31 && decide (s.ctrl.toNat % 65536 = det) && decide ((s.ctrl.toNat >>> 16) % 4 = action)

/-- One slot examined on an event: whether it fired, and the slot after (R549). -/
def InjSlot.examine (s : InjSlot) : Bool × InjSlot :=
  if s.left ≤ 1 then
    let fired := { s with fired := sat32 (s.fired + 1) }
    (true, if wbit s.ctrl 18 then { fired with left := s.count.toNat % 65536 }
           else { fired with left := 0, ctrl := wclr s.ctrl 0x80000000 })
  else (false, { s with left := s.left - 1 })

/-- The armed slots that match an event are examined in ascending order; the first that fires ends the examination
(R552). -/
def examineSlots (p : InjSlot → Bool) : List InjSlot → Option InjSlot × List InjSlot
  | [] => (none, [])
  | s :: ss =>
    if p s then
      let e := s.examine
      if e.1 then (some s, e.2 :: ss)
      else let r := examineSlots p ss; (r.1, e.2 :: r.2)
    else let r := examineSlots p ss; (r.1, s :: r.2)

/-- One check of a detector: whether a MIMIC slot fires on it (R550). -/
def Dev.mimic (d : Dev) (det : Nat) : Bool × Dev :=
  let r := examineSlots (fun s => s.armedFor det 0) d.er.slots
  (r.1.isSome, { d with er := { d.er with slots := r.2 } })

/-- A command start on a logical core: the detector of a HALT slot that fires (R549, R550). -/
def Dev.haltInject (d : Dev) (c : Nat) : Option Nat × Dev :=
  let phys := d.trust.lmap.getD c 0
  let isC (ty : Nat) : Bool := [0x10, 0x11, 0x12, 0x13, 0x14, 0x18].contains ty
  let p (s : InjSlot) : Bool :=
    wbit s.ctrl 31 && decide ((s.ctrl.toNat >>> 16) % 4 = 1) && isC (s.ctrl.toNat % 65536 / 256)
      && decide (s.ctrl.toNat % 256 = phys)
  let r := examineSlots p d.er.slots
  (r.1.map fun s => s.ctrl.toNat % 65536, { d with er := { d.er with slots := r.2 } })

/-- Requester codes (R539). -/
def reqCore (c : Nat) : Nat := 1 + c * 256
def reqWell (w : Nat) : Nat := 2 + w * 256
def reqBazaar (die : Nat) : Nat := 3 + die * 256
def reqAdder (p : Nat) : Nat := 4 + p * 256
def reqDepot : Nat := 5
def reqHost : Nat := 6
def reqFabric (fid : Nat) : Nat := 7 + fid * 256
def reqDrone (w : Nat) : Nat := 8 + w * 256
def reqCopy (ring : Nat) : Nat := 9 + ring * 256
def reqFirmware : Nat := 10

/-- A read of device memory for a requester. The Well's detectors check it: HBM_CE and HBM_IF under injection; HBM_UE
when a line is poisoned or under injection, with one record and no data (R330, R537, R545). -/
def Dev.readFor (d : Dev) (req a n : Nat) : Option (List Byte) × Dev :=
  let w := wellOf d.grade a
  let bad := d.poisonedIn a n
  match bad with
  | some l => (none, d.detect (detId 0x02 w) 1 false (some (l * lineBytes)) req (channelOf (l * lineBytes)) 0)
  | none =>
    let (ue, d) := d.mimic (detId 0x02 w)
    if ue then
      (none, d.detect (detId 0x02 w) 1 true (some (a / lineBytes * lineBytes)) req (channelOf a) 0)
    else
      let (ce, d) := d.mimic (detId 0x01 w)
      let d := if ce then d.detect (detId 0x01 w) 0 true (some (a / lineBytes * lineBytes)) (channelOf a) 0 0 else d
      let (hif, d) := d.mimic (detId 0x03 w)
      let d := if hif then d.detect (detId 0x03 w) 0 true none (channelOf a) 0 0 else d
      (some (d.peek a n), if req % 256 = 2 || req % 256 = 8 then d.moveTsv w n else d.moveHbm a n false)

/-! ## Pieces of a buffer

A piece of a spilled allocation lies in host memory, at `hostBase` and above. What a Well command or a collective needs of it is read
before the command starts (R253). -/

/-- The base of host addresses among the pieces of a buffer. -/
def hostBase : Nat := 2 ^ 64

/-- The bytes of a spilled piece as they were read, none where the read failed. -/
def HostIf.piece (h : HostIf) (a n : Nat) : Option (List Byte) :=
  if h.fetchBad.any fun b => decide (a < b.1 + b.2) && decide (b.1 < a + n) then none else some (Memory.reads h.fetched a n)

/-- A spilled piece written: a write to host memory. -/
def Dev.putHost (d : Dev) (a : Nat) (bs : List Byte) : Dev :=
  { d with host := { d.host with fetched := Memory.writes d.host.fetched a bs } }.emit (.hostWrite a bs)

/-- A read of one piece for a requester. -/
def Dev.readPiece1 (d : Dev) (req a n : Nat) : Option (List Byte) × Dev :=
  if hostBase ≤ a then (d.host.piece (a - hostBase) n, d) else d.readFor req a n

/-- A write of one piece. -/
def Dev.writePiece1 (d : Dev) (a : Nat) (bs : List Byte) : Dev := if hostBase ≤ a then d.putHost (a - hostBase) bs else d.write a bs

/-- The bytes of one piece as they stand. -/
def Dev.peekPiece (d : Dev) (a n : Nat) : List Byte := if hostBase ≤ a then Memory.reads d.host.fetched (a - hostBase) n else d.peek a n

/-- The bytes of scattered pieces as they stand. -/
def Dev.peekPieces (d : Dev) (ps : List (Nat × Nat)) : List Byte := ps.flatMap fun p => d.peekPiece p.1 p.2

/-- A read of scattered pieces for a requester: every piece, or none. -/
def Dev.readPieces (d : Dev) (req : Nat) : List (Nat × Nat) → Option (List Byte) × Dev
  | [] => (some [], d)
  | (a, n) :: ps =>
    match d.readPiece1 req a n with
    | (none, d) => (none, d)
    | (some bs, d) =>
      match d.readPieces req ps with
      | (none, d) => (none, d)
      | (some cs, d) => (some (bs ++ cs), d)

/-- A write of bytes to scattered pieces in order. -/
def Dev.writePieces (d : Dev) : List (Nat × Nat) → List Byte → Dev
  | [], _ => d
  | (a, n) :: ps, bs => Dev.writePieces (d.writePiece1 a (bs.take n)) ps (bs.drop n)

/-- A write of bytes to scattered pieces by the engines of a Well. -/
def Dev.writeTsvPieces (d : Dev) : List (Nat × Nat) → List Byte → Dev
  | [], _ => d
  | (a, n) :: ps, bs =>
    Dev.writeTsvPieces (if hostBase ≤ a then d.putHost (a - hostBase) (bs.take n) else d.writeTsv a (bs.take n)) ps (bs.drop n)

end Sys2Proof.Machine
end

