-- ==== Sys2Proof/Machine/Float.lean ====
section
/-! DEFINITION. Element values and rounding: the formats of R40 and R41, rounding to nearest even and the
deterministic stochastic rounding (R50, R170, R171), conversion (R51, R52, R571), and IEEE 754 binary32 and
binary64 arithmetic with one rounding per operation. -/

namespace Sys2Proof.Machine

/-- A value: NaN, an infinity, or (-1)^neg × m × 2^e exactly. -/
inductive Fl where
  | nan
  | inf (neg : Bool)
  | fin (neg : Bool) (m : Nat) (e : Int)
  deriving DecidableEq, Repr

/-- +0. -/
def Fl.zero : Fl := .fin false 0 0

/-- Number of bits of m. -/
def bitLen (m : Nat) : Nat := if m = 0 then 0 else Nat.log2 m + 1

/-- Whether the value is a zero. -/
def Fl.isZero : Fl → Bool
  | .fin _ 0 _ => true
  | _ => false

/-- Whether the value is NaN. -/
def Fl.isNan : Fl → Bool
  | .nan => true
  | _ => false

/-- Whether the value is finite. -/
def Fl.isFinite : Fl → Bool
  | .fin .. => true
  | _ => false

/-- The sign bit; false for NaN. -/
def Fl.sign : Fl → Bool
  | .nan => false
  | .inf s => s
  | .fin s _ _ => s

/-- The value with its sign turned. -/
def Fl.negate : Fl → Fl
  | .nan => .nan
  | .inf s => .inf (!s)
  | .fin s m e => .fin (!s) m e

/-- The absolute value. -/
def Fl.abs : Fl → Fl
  | .nan => .nan
  | .inf _ => .inf false
  | .fin _ m e => .fin false m e

/-- The value times 2^k, exactly. -/
def Fl.scale (k : Int) : Fl → Fl
  | .fin s m e => .fin s m (e + k)
  | x => x

/-- The signed integer n × 2^e as a value; zero is +0. -/
def Fl.ofInt (n : Int) (e : Int) : Fl := .fin (n < 0) n.natAbs e

/-- m × 2^(e − q) for q ≤ e. -/
def alignUp (m : Nat) (e q : Int) : Nat := m <<< (e - q).toNat

/-- The exact sum under IEEE 754: NaN absorbs, opposite infinities give NaN, an exact zero sum is +0 unless both are −0. -/
def Fl.add : Fl → Fl → Fl
  | .nan, _ => .nan
  | _, .nan => .nan
  | .inf a, .inf b => if a = b then .inf a else .nan
  | .inf a, _ => .inf a
  | _, .inf b => .inf b
  | .fin s m e, .fin t n f =>
    let q := min e f
    let x : Int := (if s then -1 else 1) * (alignUp m e q : Int)
    let y : Int := (if t then -1 else 1) * (alignUp n f q : Int)
    if x + y = 0 then .fin (s && t && m = 0 && n = 0) 0 0 else Fl.ofInt (x + y) q

/-- The exact product under IEEE 754. -/
def Fl.mul : Fl → Fl → Fl
  | .nan, _ => .nan
  | _, .nan => .nan
  | .inf a, .inf b => .inf (a != b)
  | .inf a, .fin t n _ => if n = 0 then .nan else .inf (a != t)
  | .fin s m _, .inf b => if m = 0 then .nan else .inf (s != b)
  | .fin s m e, .fin t n f => .fin (s != t) (m * n) (e + f)

/-- A quotient carried to more than 70 bits with a sticky bit, so that one later rounding is exact. -/
def Fl.div : Fl → Fl → Fl
  | .nan, _ => .nan
  | _, .nan => .nan
  | .inf _, .inf _ => .nan
  | .inf a, .fin t _ _ => .inf (a != t)
  | .fin s _ _, .inf b => .fin (s != b) 0 0
  | .fin s m e, .fin t n f =>
    if n = 0 then (if m = 0 then .nan else .inf (s != t))
    else
      let k := 72 + bitLen n
      let a := m <<< k
      let q := a / n
      .fin (s != t) (2 * q + (if a % n = 0 then 0 else 1)) (e - f - k - 1)

/-- One step of the bitwise integer square root. -/
def isqrtStep (n : Nat) (r : Nat) (i : Nat) : Nat :=
  let c := r + 2 ^ i
  if c * c ≤ n then c else r

/-- The integer square root, from the bit `bits` down. -/
def isqrt (n : Nat) : Nat := ((List.range (bitLen n / 2 + 1)).reverse).foldl (isqrtStep n) 0

/-- A square root carried to more than 70 bits with a sticky bit; a negative non-zero operand gives NaN. -/
def Fl.sqrt : Fl → Fl
  | .nan => .nan
  | .inf s => if s then .nan else .inf false
  | .fin s m e =>
    if m = 0 then .fin s 0 0
    else if s then .nan
    else
      let e' : Int := if e % 2 = 0 then e else e - 1
      let m' := if e % 2 = 0 then m else 2 * m
      let a := m' <<< 160
      let r := isqrt a
      .fin false (2 * r + (if r * r = a then 0 else 1)) (e' / 2 - 80 - 1)

/-- The order of two values that are not NaN, −0 and +0 equal (R42): the sign of a − b. -/
def Fl.cmp : Fl → Fl → Int
  | .inf a, .inf b => if a = b then 0 else if a then -1 else 1
  | .inf a, _ => if a then -1 else 1
  | _, .inf b => if b then 1 else -1
  | .fin s m e, .fin t n f =>
    let q := min e f
    let x : Int := (if s then -1 else 1) * (alignUp m e q : Int)
    let y : Int := (if t then -1 else 1) * (alignUp n f q : Int)
    if x < y then -1 else if x = y then 0 else 1
  | _, _ => 0

/-- a < b for values that are not NaN. -/
def Fl.lt (a b : Fl) : Bool := !a.isNan && !b.isNan && decide (Fl.cmp a b < 0)

/-- Numeric equality; false with a NaN. -/
def Fl.eqv (a b : Fl) : Bool := !a.isNan && !b.isNan && decide (Fl.cmp a b = 0)

/-- Rounding choice: nearest even, or stochastic with the 16-bit number r of R171. -/
inductive Rnd where
  | nearest
  | stoch (r : Nat)
  deriving DecidableEq, Repr

/-- m × 2^e rounded to a multiple of 2^q: the multiple's integer. Exact when q ≤ e (R50, R171). -/
def roundInt (rnd : Rnd) (m : Nat) (e q : Int) : Nat :=
  if q ≤ e then alignUp m e q
  else
    let s := (q - e).toNat
    let fl := m >>> s
    let rem := m % 2 ^ s
    match rnd with
    | .nearest =>
      if 2 * rem > 2 ^ s then fl + 1
      else if 2 * rem = 2 ^ s then fl + fl % 2
      else fl
    | .stoch r => if r < (rem <<< 16) >>> s then fl + 1 else fl

/-- A binary format: precision p, exponent of the smallest normal value, exponent field bias and width, largest
finite value as integer × 2^exponent. -/
structure FloatFmt where
  p : Nat
  emin : Int
  bias : Int
  ebits : Nat
  maxM : Nat
  maxE : Int
  deriving DecidableEq, Repr

/-- binary32. -/
def ff32 : FloatFmt := ⟨24, -126, 127, 8, 2 ^ 24 - 1, 104⟩
/-- binary64. -/
def ff64 : FloatFmt := ⟨53, -1022, 1023, 11, 2 ^ 53 - 1, 971⟩
/-- binary16. -/
def ff16 : FloatFmt := ⟨11, -14, 15, 5, 2 ^ 11 - 1, 5⟩
/-- bfloat16. -/
def ffB16 : FloatFmt := ⟨8, -126, 127, 8, 255, 120⟩
/-- E4M3 (R41): largest finite 448 = 7 × 2^6. -/
def ffE4M3 : FloatFmt := ⟨4, -6, 7, 4, 7, 6⟩
/-- E5M2 (R41): largest finite 57,344 = 7 × 2^13. -/
def ffE5M2 : FloatFmt := ⟨3, -14, 15, 5, 7, 13⟩
/-- E2M1 (R41): largest finite 6 = 3 × 2. -/
def ffE2M1 : FloatFmt := ⟨2, 0, 1, 2, 3, 1⟩

/-- The quantum's exponent at which a value of `bitLen m` bits is rounded. -/
def FloatFmt.quantum (f : FloatFmt) (m : Nat) (e : Int) : Int :=
  max (e + bitLen m - f.p) (f.emin - f.p + 1)

/-- Encoding of sign, m × 2^q with m already rounded and within range. -/
def FloatFmt.pack (f : FloatFmt) (neg : Bool) (m : Nat) (q : Int) : Nat :=
  let mb := f.p - 1
  let sgn := (b2n neg) <<< (mb + f.ebits)
  if m = 0 then sgn
  else
    let len := bitLen m
    let ex : Int := q + len - 1
    if ex < f.emin then sgn + (alignUp m q (f.emin - f.p + 1))
    else
      let frac := (if len ≤ f.p then m <<< (f.p - len) else m >>> (len - f.p)) % 2 ^ mb
      sgn + ((ex + f.bias).toNat <<< mb) + frac

/-- Whether the rounded magnitude m × 2^q exceeds the largest finite value (R51, R52). -/
def FloatFmt.exceeded (f : FloatFmt) (m : Nat) (q : Int) : Bool :=
  let r := min q f.maxE
  decide (alignUp m q r > alignUp f.maxM f.maxE r)

/-- What a conversion did to one element: its code and the flags of R51, R52 and R571. `bad` says that a block
scale becomes 0xFF. -/
structure Conv where
  code : Nat
  ovf : Bool
  unf : Bool
  nan : Bool
  bad : Bool
  deriving DecidableEq, Repr

/-- The canonical NaN codes of R43. -/
def canonNan : Fmt → Nat
  | .e4m3 => 0x7F
  | .e5m2 => 0x7E
  | .bf16 => 0x7FC0
  | .fp16 => 0x7E00
  | .fp32 => 0x7FC00000
  | _ => 0

/-- The binary format of an element format that has one. -/
def fmtFF : Fmt → FloatFmt
  | .fp4 => ffE2M1
  | .e4m3 => ffE4M3
  | .e5m2 => ffE5M2
  | .bf16 => ffB16
  | .fp16 => ff16
  | _ => ff32

/-- Sign bit position of a format's code. -/
def fmtSignBit (f : Fmt) : Nat := (fmtFF f).p - 1 + (fmtFF f).ebits

/-- Conversion into an integer range (INT8 under R51, INT32 under R571). -/
def convInt (rnd : Rnd) (lo hi : Int) (width : Nat) (neg : Bool) (m : Nat) (e : Int) : Conv :=
  let r := roundInt rnd m e 0
  let v : Int := if neg then -(r : Int) else r
  let w := if v > hi then hi else if v < lo then lo else v
  { code := (w % (2 ^ width : Int)).toNat, ovf := decide (v > hi) || decide (v < lo),
    unf := decide (m ≠ 0) && decide (r = 0), nan := false, bad := false }

/-- Conversion of a value into an element code under R50 to R52 and R571. -/
def encodeElem (f : Fmt) (rnd : Rnd) (x : Fl) : Conv :=
  match f with
  | .int8 =>
    match x with
    | .nan => ⟨0, false, false, true, true⟩
    | .inf _ => ⟨0, true, false, true, true⟩
    | .fin s m e => convInt rnd (-128) 127 8 s m e
  | .int32 =>
    match x with
    | .nan => ⟨0, true, false, false, false⟩
    | .inf s => ⟨if s then 0x80000000 else 0x7FFFFFFF, true, false, false, false⟩
    | .fin s m e => convInt rnd (-2147483648) 2147483647 32 s m e
  | _ =>
    let ff := fmtFF f
    match x with
    | .nan =>
      match f with
      | .fp4 => ⟨0, false, false, true, true⟩
      | _ => ⟨canonNan f, false, false, true, false⟩
    | .inf s =>
      match f with
      | .fp4 => ⟨0, true, false, true, true⟩
      | .e4m3 => ⟨canonNan .e4m3, true, false, true, false⟩
      | .e5m2 => ⟨((b2n s) <<< 7) + 0x7C, true, false, false, false⟩
      | _ => ⟨((b2n s) <<< fmtSignBit f) + ((2 ^ ff.ebits - 1) <<< (ff.p - 1)), false, false, false, false⟩
    | .fin s m e =>
      let q := ff.quantum m e
      let r := roundInt rnd m e q
      if ff.exceeded r q then
        match f with
        | .fp4 | .e4m3 | .e5m2 => ⟨ff.pack s ff.maxM ff.maxE, true, false, false, false⟩
        | _ => ⟨((b2n s) <<< fmtSignBit f) + ((2 ^ ff.ebits - 1) <<< (ff.p - 1)), true, false, false, false⟩
      else ⟨ff.pack s r q, false, decide (m ≠ 0) && decide (r = 0), false, false⟩

/-- Decoding of a binary format's fields; `top` says whether the all-ones exponent holds infinities and NaNs. -/
def FloatFmt.unpack (f : FloatFmt) (code : Nat) (top : Bool) : Fl :=
  let mb := f.p - 1
  let neg := code.testBit (mb + f.ebits)
  let ex := (code >>> mb) % 2 ^ f.ebits
  let fr := code % 2 ^ mb
  if top && ex = 2 ^ f.ebits - 1 then (if fr = 0 then .inf neg else .nan)
  else if ex = 0 then .fin neg fr (f.emin - f.p + 1)
  else .fin neg (2 ^ mb + fr) ((ex : Int) - f.bias - mb)

/-- The value of an element code before its block scale (R41). -/
def decodeElem (f : Fmt) (code : Nat) : Fl :=
  match f with
  | .int8 => Fl.ofInt (if code ≥ 128 then (code : Int) - 256 else code) 0
  | .int32 => Fl.ofInt (if code ≥ 2147483648 then (code : Int) - 4294967296 else code) 0
  | .fp4 => ffE2M1.unpack code false
  | .e4m3 => if code % 128 = 127 then .nan else ffE4M3.unpack code false
  | _ => (fmtFF f).unpack code true

/-- The value of an FP32 word. -/
def f32 (w : Word32) : Fl := ff32.unpack w.toNat true

/-- A value rounded to FP32, nearest even, canonical NaN. -/
def toF32 (x : Fl) : Word32 := BitVec.ofNat 32 (encodeElem .fp32 .nearest x).code

/-- A value rounded to binary64, as a value. -/
def round64 : Fl → Fl
  | .fin s m e =>
    let q := ff64.quantum m e
    let r := roundInt .nearest m e q
    if ff64.exceeded r q then .inf s else .fin s r q
  | x => x

/-- The 64-bit code of a value rounded to binary64; NaN is 0x7FF8_0000_0000_0000. -/
def code64 (x : Fl) : Nat :=
  match x with
  | .nan => 0x7FF8000000000000
  | .inf s => ((b2n s) <<< 63) + 0x7FF0000000000000
  | .fin s m e =>
    let q := ff64.quantum m e
    let r := roundInt .nearest m e q
    if ff64.exceeded r q then ((b2n s) <<< 63) + 0x7FF0000000000000 else ff64.pack s r q

/-- The value of a binary64 code. -/
def f64 (c : Nat) : Fl := ff64.unpack c true

/-- FP32 addition, subtraction, multiplication, fused multiply-add, division and square root: one rounding each. -/
def add32 (a b : Word32) : Word32 := toF32 (Fl.add (f32 a) (f32 b))
def sub32 (a b : Word32) : Word32 := toF32 (Fl.add (f32 a) (f32 b).negate)
def mul32 (a b : Word32) : Word32 := toF32 (Fl.mul (f32 a) (f32 b))
def fma32 (a b c : Word32) : Word32 := toF32 (Fl.add (Fl.mul (f32 a) (f32 b)) (f32 c))
def div32 (a b : Word32) : Word32 := toF32 (Fl.div (f32 a) (f32 b))
def sqrt32 (a : Word32) : Word32 := toF32 (Fl.sqrt (f32 a))

/-- binary64 addition of values. -/
def add64 (a b : Fl) : Fl := round64 (Fl.add a b)

/-! ### Elementary functions (R146, R177)

Each is formed in fixed point with 256 fraction bits, far beyond the 24 of FP32, and answers one of the FP32 numbers within 2 units in
the last place of the exact value. -/

/-- The fixed-point form of m × 2^e, no larger than 200: beyond it exp and what is formed from it have left the range of FP32. -/
def fixOf (m : Nat) (e : Int) : Nat := min (200 <<< 256) (if -256 ≤ e then m <<< (e + 256).toNat else m >>> (-256 - e).toNat)

/-- exp of a fixed-point number: the series at 1/256 of it, squared eight times. -/
def fixExp (x : Nat) : Nat :=
  let y := x >>> 8
  let term (s : Nat × Nat) (i : Nat) : Nat × Nat := let t := s.2 * y / ((i + 1) <<< 256); (s.1 + t, t)
  (List.range 8).foldl (fun e _ => (e * e) >>> 256) ((List.range 64).foldl term (1 <<< 256, 1 <<< 256)).1

/-- 2 × artanh(n/d) in fixed point, for n/d up to 1/3. -/
def fixArtanh2 (n d : Nat) : Nat :=
  let t := (n <<< 256) / d
  let t2 := (t * t) >>> 256
  let term (s : Nat × Nat) (i : Nat) : Nat × Nat := (s.1 + s.2 / (2 * i + 1), (s.2 * t2) >>> 256)
  2 * ((List.range 90).foldl term (0, t)).1

/-- log of a positive m × 2^e in fixed point. -/
def fixLog (m : Nat) (e : Int) : Int :=
  let top := 2 ^ (bitLen m - 1)
  fixArtanh2 (m - top) (m + top) + (e + bitLen m - 1) * fixArtanh2 1 3

/-- The FP32 number within 2 units in the last place of ±num/den that a pick chooses: two below and two above the value, and the value
itself where it is one. -/
def withinTwo (neg : Bool) (num den pick : Nat) : Word32 :=
  let at_ (s : Int) : Nat × Nat := if s < 0 then (num, den <<< (-s).toNat) else (num <<< s.toNat, den)
  let s0 : Int := if num = 0 then 149 else min 149 (24 - ((bitLen num : Int) - bitLen den))
  let s := if (at_ s0).1 / (at_ s0).2 ≥ 2 ^ 24 then s0 - 1 else s0
  let q := (at_ s).1 / (at_ s).2
  let steps : List Int := if (at_ s).1 % (at_ s).2 = 0 then [-2, -1, 0, 1, 2] else [-1, 0, 1, 2]
  let code : Int := (q : Int) + (149 - s) * 2 ^ 23 + steps.getD (pick % steps.length) 0
  BitVec.ofNat 32 ((b2n (neg != decide (code < 0))) <<< 31 + min code.natAbs 0x7F800000)

/-- The exact value of an elementary function at ±m × 2^e as sign, numerator and denominator; none where it has no finite value. -/
def elemExact (f : Config.ElemFn) (neg : Bool) (m : Nat) (e : Int) : Option (Bool × Nat × Nat) :=
  let one : Nat := 1 <<< 256
  let ex := fixExp (fixOf m e)
  match f with
  | .exp => some (false, if neg then (one, ex) else (ex, one))
  | .log =>
    if neg || m = 0 then none
    else let l := fixLog m e; some (decide (l < 0), l.natAbs, one)
  | .sigmoid => some (false, if neg then one else ex, one + ex)
  | .silu =>
    let s := if neg then one else ex
    some (neg, if 0 ≤ e then (s * m <<< e.toNat, one + ex) else (s * m, (one + ex) <<< (-e).toNat))
  | .tanh => let e2 := fixExp (fixOf m (e + 1)); some (neg, e2 - one, e2 + one)
  | .recip => if m = 0 then none else some (neg, if 0 ≤ e then (1, m <<< e.toNat) else (1 <<< (-e).toNat, m))
  | .rsqrt =>
    if neg || m = 0 then none
    else
      -- 1/√(m × 2^e) with m × 2^e = (√(n × 4^192) ÷ 2^192)² × 4^k
      let k := e / 2
      let r := isqrt ((if e % 2 = 0 then m else 2 * m) <<< 384)
      some (false, if 0 ≤ k then (1 <<< 192, r <<< k.toNat) else (1 <<< (192 + (-k).toNat), r))

/-- An elementary function of a finite operand (R177); a value that no rule states is free. -/
def elementary32 (f : Config.ElemFn) (a : Word32) : Word32 :=
  match f32 a with
  | .fin s m e => (elemExact f s m e).elim (Config.elemEdge f a) fun x => withinTwo x.1 x.2.1 x.2.2 (Config.elemPick f a)
  | _ => Config.elemEdge f a

/-- exp in FP32 (R146): exp(−Inf) is +0, NaN and +Inf follow IEEE 754. -/
def exp32 (a : Word32) : Word32 :=
  match f32 a with
  | .nan => 0x7FC00000#32
  | .inf s => if s then 0#32 else 0x7F800000#32
  | .fin .. => elementary32 .exp a

/-- log in FP32 (R146), special values under IEEE 754. -/
def log32 (a : Word32) : Word32 :=
  match f32 a with
  | .nan => 0x7FC00000#32
  | .inf s => if s then 0x7FC00000#32 else 0x7F800000#32
  | .fin s m _ => if m = 0 then 0xFF800000#32 else if s then 0x7FC00000#32 else elementary32 .log a

/-- sigmoid in FP32: NaN gives the canonical NaN, −Inf +0, +Inf 1.0. -/
def sigmoid32 (a : Word32) : Word32 :=
  match f32 a with
  | .nan => 0x7FC00000#32
  | .inf s => if s then 0#32 else 0x3F800000#32
  | .fin .. => elementary32 .sigmoid a

/-- The fmix of R171, modulo 2^64. -/
def fmix (x : Word64) : Word64 :=
  let x := (x ^^^ (x >>> 33)) * 0xFF51AFD7ED558CCD#64
  let x := (x ^^^ (x >>> 33)) * 0xC4CEB9FE1A85EC53#64
  x ^^^ (x >>> 33)

/-- rand16 of R171: seed, 24-bit stream, 40-bit ordinal, position. -/
def rand16 (seed : Word64) (stream ordinal position : Nat) : Nat :=
  let h := fmix (seed ^^^ (BitVec.ofNat 64 ((stream % 2 ^ 24) <<< 40)) ^^^ BitVec.ofNat 64 (ordinal % 2 ^ 40))
  let h := fmix (h ^^^ BitVec.ofNat 64 position)
  (h >>> 48).toNat

/-- ⌈log₂ x⌉ of a positive m × 2^e. -/
def ceilLog2 (m : Nat) (e : Int) : Int :=
  if 2 ^ Nat.log2 m = m then Nat.log2 m + e else Nat.log2 m + 1 + e

/-- The magnitude code of R159 of an absolute value; of a maximum that R163 rounded up to +Inf, the upper limit (log entry 97). -/
def magCode : Fl → Nat
  | .fin _ m e => if m = 0 then 0 else (min 0xFE (max 1 (127 + ceilLog2 m e))).toNat
  | .inf _ => 0xFE
  | .nan => 0

/-- A magnitude rounded toward +Infinity to FP32 (R163). -/
def roundUp32 : Fl → Word32
  | .fin _ m e =>
    let q := ff32.quantum m e
    let r := if q ≤ e then alignUp m e q
      else
        let s := (q - e).toNat
        (m >>> s) + (if m % 2 ^ s = 0 then 0 else 1)
    if ff32.exceeded r q then 0x7F800000#32 else BitVec.ofNat 32 (ff32.pack false r q)
  | _ => 0#32

end Sys2Proof.Machine
end

