-- ==== Sys2Proof/Machine/Bounds.lean ====
section
/-! DEFINITION. The physical bounds (R29 to R34, R533): what each row of the bounds table measures, the workloads that are tracked while
they run, and the bound registers. -/

namespace Sys2Proof.Machine

open Sys2Proof

/-- The value of an association list at a key; 0 when not listed. -/
def lookNat (k : Nat) (l : List (Nat × Nat)) : Nat := ((l.find? fun x => x.1 == k).map (·.2)).getD 0

/-- A count added at a key. -/
def addNat (k n : Nat) : List (Nat × Nat) → List (Nat × Nat)
  | [] => [(k, n)]
  | x :: xs => if x.1 = k then (k, x.2 + n) :: xs else x :: addNat k n xs

/-! ## Ratios -/

/-- The factor of a bound row in hundredths (R29). -/
def boundFactor : Nat → Nat
  | 0 => 112 | 1 => 110 | 2 => 115 | _ => 108

/-- A bound as a fraction: steps for row 0, ns of the time counter otherwise (R29, R30). -/
structure Bound where
  num : Nat
  den : Nat
  deriving DecidableEq, Repr

/-- The larger of two bounds. -/
def Bound.max (a b : Bound) : Bound := if a.num * b.den < b.num * a.den then b else a

/-- The largest of bounds. -/
def largestBound (bs : List Bound) : Bound := bs.foldl Bound.max ⟨0, 1⟩

/-- The ratio of R30 in FP32, rounded once. -/
def boundRatio (achieved : Nat) (b : Bound) : Word32 :=
  if b.num = 0 then Config.boundlessRatio achieved else toF32 (Fl.div (Fl.ofInt (achieved * b.den : Nat) 0) (Fl.ofInt b.num 0))

/-- The larger of two ratios; neither is negative, so their codes are in the order of their values. -/
def maxRatio (a b : Word32) : Word32 := if a.toNat < b.toNat then b else a

/-- A bound row after a workload has retired (R533). BD_LAST_BOUND holds the whole units of its bound (log entry 105). -/
def BoundRow.retire (r : BoundRow) (row achieved : Nat) (b : Bound) (covered : Bool) : BoundRow :=
  let q := boundRatio achieved b
  let r := { r with achieved := achieved, bound := b.num / b.den, lastRatio := q }
  if covered then
    { r with covered := r.covered + 1, peak := maxRatio r.peak q,
             exceeded := if achieved * b.den * 100 > b.num * boundFactor row then r.exceeded + 1 else r.exceeded }
  else { r with uncovered := r.uncovered + 1, peakUncov := maxRatio r.peakUncov q }

/-- A workload retires (R533); the first covered one of its row over the factor is recorded (R537). -/
def Dev.retireWork (d : Dev) (row achieved : Nat) (b : Bound) (covered : Bool) : Dev :=
  match d.ct.bounds[row]? with
  | none => d
  | some r =>
    let r' := r.retire row achieved b covered
    let d := { d with ct := { d.ct with bounds := d.ct.bounds.set row r' } }
    if r.exceeded = 0 && r'.exceeded > 0 then d.detect (detId 0x4A row) 0 false none r'.lastRatio.toNat 0 0 else d

/-! ## The units that do the work, and their idle causes -/

/-- Counter registers of the units (R531): MX of a logical core, a Well, a Bazaar half. -/
def mxUnit (c : Nat) : Nat := 0x380080 + 0x200 * c
def wellUnit (w : Nat) : Nat := 0x390000 + 0x80 * w
def bazaarUnit (h : Nat) : Nat := 0x391000 + 0x80 * h

/-- The idle causes whose intervals the achieved measure excludes (R31, with the codes of R530). -/
def excludedCauses : List Nat := [1, 2, 3, 4, 5, 7, 8, 9, 10, 11]

/-! ## HBM streaming -/

/-- The bound of the HBM streaming interval that runs: the largest over the stacks, at 2.048 TB/s (R29). -/
def Counters.streamBound (c : Counters) : Bound := largestBound (c.perStack.map fun s => ⟨s.rd + s.wr, 2048⟩)

/-- Whether a stack's traffic of an interval meets the conditions of R32. -/
def StackUse.streams (s : StackUse) : Bool :=
  (s.rd == 0 || s.wr == 0) && !s.odd && (s.rd + s.wr == 0 || decide (s.rd + s.wr ≥ 4194304))

/-- A stack at the beginning of an interval. -/
def StackUse.nextInterval (s : StackUse) : StackUse := { s with rd := 0, wr := 0, odd := false }

/-- The end of an HBM streaming interval (R533): from its first access to its last. An interval in which nothing moves is no workload. -/
def Dev.streamEnd (d : Dev) : Dev :=
  match d.ct.hbmFirst with
  | none => d
  | some t =>
    let c := d.ct
    let d := d.retireWork 1 (c.hbmLast - t) c.streamBound (c.perStack.all StackUse.streams)
    { d with ct := { d.ct with perStack := d.ct.perStack.map StackUse.nextInterval, hbmFirst := none } }

/-- Time has passed from an instant of the time counter: an interval of 100 µs ends at each multiple of 100 µs (R533). -/
def Dev.streamRoll (d : Dev) (before : Nat) : Dev := if before / 100000 = d.tm.ns / 100000 then d else d.streamEnd

/-! ## Tracked workloads -/

/-- What R33 leaves to a pass over a stack's TSV path, as the bound of `bytes`: 4.096 TB/s less the compute-die bytes of the interval,
these counted up to 2.048 TB/s. -/
def tsvBound (bytes len cd : Nat) : Bound :=
  if len = 0 then ⟨bytes, 4096⟩ else ⟨bytes * len, 4096 * len - min (2048 * len) cd⟩

/-- Compute-die bytes that a stack's TSV path has carried. -/
def Counters.cdBytes (c : Counters) (w : Nat) : Nat := (c.perStack[w]?).elim 0 (·.cd)

/-- Bytes of Well engines that a stack's TSV path has carried. -/
def Counters.tsvBytes (c : Counters) (w : Nat) : Nat := (c.perStack[w]?).elim 0 (·.tsv)

/-- The bound of a workload at an instant of the time counter (R29): MACs over 1,024 cells of 16, tile bytes of the most loaded port
and direction over 100 GB/s, TSV bytes of the slowest Well. -/
def Counters.boundOf (c : Counters) (ns : Nat) (t : Track) : Bound :=
  match t.row with
  | 0 => ⟨lookNat 0 t.moved, 16384⟩
  | 2 => largestBound (t.moved.map fun m => ⟨m.2, 100⟩)
  | _ => largestBound (t.moved.map fun m => tsvBound m.2 (ns - t.began) (c.cdBytes m.1 - t.base.getD m.1 0))

/-- Whether a workload is covered as it retires (R32): what its parts met, with at least 16 output tiles of 32 × 32 for a product of at
least 128 × 128, and 64 KiB on every port present in each direction for a round. -/
def Dev.covers (d : Dev) (t : Track) : Bool :=
  t.ok && match t.row with
    | 0 => decide (t.parts ≥ 16)
    | 2 => (presentPorts d.grade).all fun p => [0, 1].all fun s => decide (65536 ≤ lookNat (2 * p + s) t.moved)
    | _ => true

/-- Whether a track is the one of a row and key. -/
def Track.is (t : Track) (row key : Nat) : Bool := t.row == row && t.key == key

/-- A workload is admitted (R30). One of the same row and key that never retired is gone. -/
def Dev.track (d : Dev) (row key unit : Nat) (ok : Bool) : Dev :=
  let t : Track :=
    { row := row, key := key, unit := unit, began := d.tm.ns, achieved := 0, moved := [], base := d.ct.perStack.map (·.cd), parts := 0,
      pair := none, ok := ok }
  { d with ct := { d.ct with tracks := (d.ct.tracks.filter fun x => !x.is row key) ++ [t] } }

/-- The track of a workload. -/
def Dev.track? (d : Dev) (row key : Nat) : Option Track := d.ct.tracks.find? fun t => t.is row key

/-- The track of a workload changed. -/
def Dev.setTrack (d : Dev) (row key : Nat) (f : Track → Track) : Dev :=
  { d with ct := { d.ct with tracks := d.ct.tracks.map fun t => if t.is row key then f t else t } }

/-- A tracked workload retires. -/
def Dev.retireTrack (d : Dev) (row key : Nat) : Dev :=
  match d.track? row key with
  | none => d
  | some t =>
    let d := { d with ct := { d.ct with tracks := d.ct.tracks.filter fun x => !x.is row key } }
    d.retireWork row t.achieved (d.ct.boundOf d.tm.ns t) (d.covers t)

/-! ## Dense FP8 -/

/-- An accumulation of a run has ended (R126, R127): its MACs and its steps, with 16 fill steps at the first of a run and wherever the
format pair changes. -/
def Track.accumulate (t : Track) (macs steps : Nat) (pair : Fmt × Fmt) (ok : Bool) : Track :=
  { t with achieved := t.achieved + max 16 steps + (if t.pair = some pair then 0 else 16), moved := addNat 0 macs t.moved,
           parts := t.parts + 1, pair := some pair, ok := t.ok && ok }

/-- The run of a core's MX ends: the last drain adds 16 steps (R127). -/
def Dev.runEnd (d : Dev) (c : Nat) : Dev :=
  (d.setTrack 0 c fun t => { t with achieved := t.achieved + 16 }).retireTrack 0 c

/-! ## Token exchange -/

/-- The key of a phase of a round. -/
def bzKey (phase layer mb : Nat) : Nat := phase + 4 * mb + 1024 * layer

/-- Tile bytes of a phase cross a port, outward (0) or inward (1). -/
def Dev.noteTiles (d : Dev) (key port inward n : Nat) : Dev :=
  if n = 0 then d else d.setTrack 2 key fun t => { t with moved := addNat (2 * port + inward) n t.moved }

/-- What a packet of a message is for: of a Bazaar message whose last `tiles` bytes are tiles, with the tile bytes in packet `i`. -/
def FxUse.piece (u : FxUse) (total i : Nat) : FxUse :=
  match u with
  | .bazaar die key tiles => .bazaar die key (min total (4096 * (i + 1)) - max (4096 * i) (total - tiles))
  | u => u

/-! ## The Well optimizer pass -/

/-- A part of an update has run in a Well: the TSV bytes since `before` are the pass's (R29). -/
def Dev.notePass (d : Dev) (id w before : Nat) : Dev :=
  d.setTrack 3 id fun t => { t with moved := addNat w (d.ct.tsvBytes w - before) t.moved }

/-! ## The running ratios -/

/-- The running ratio of a row: of its newest workload in progress, what has retired of it against the bound of that part (R533). -/
def Dev.runningRatio (d : Dev) (row : Nat) : Option Word32 :=
  if row = 1 then d.ct.hbmFirst.map fun t => boundRatio (d.ct.hbmLast - t) d.ct.streamBound
  else ((d.ct.tracks.filter fun t => t.row == row).getLast?).map fun t => boundRatio t.achieved (d.ct.boundOf d.tm.ns t)

/-- R34, R533: the running ratios of the rows named are brought up to date, where they have a workload in progress. -/
def Dev.boundUpdate (d : Dev) (rows : List Bool) : Dev :=
  let up (row : Nat) (r : BoundRow) : BoundRow :=
    if rows.getD row false then (d.runningRatio row).elim r fun q => { r with runRatio := q } else r
  { d with ct := { d.ct with bounds := d.ct.bounds.mapIdx up } }

end Sys2Proof.Machine
end

