-- ==== Sys2Proof/Machine/Tiles.lean ====
section
/-! DEFINITION. Tiles: the header of R59, the checksum and torn mark (R62, R64, R65), the header checks (R61), element
access (R37, R38), transposed reads (R48), and building a tile (R45 to R47, R60, R63). Also the token tag (R187), the
handle (R346) and the side column (R189). -/

namespace Sys2Proof.Machine

open Sys2Proof

/-- Format code (R40). -/
def fmtCode : Fmt → Nat
  | .fp4 => 0x01 | .e4m3 => 0x02 | .e5m2 => 0x03 | .int8 => 0x04
  | .bf16 => 0x08 | .fp16 => 0x09 | .fp32 => 0x0C | .int32 => 0x0D

/-- The format of a code, if defined (R40). -/
def fmtOf : Nat → Option Fmt
  | 0x01 => some .fp4 | 0x02 => some .e4m3 | 0x03 => some .e5m2 | 0x04 => some .int8
  | 0x08 => some .bf16 | 0x09 => some .fp16 | 0x0C => some .fp32 | 0x0D => some .int32
  | _ => none

/-- Element bits (R40). -/
def fmtBits : Fmt → Nat
  | .fp4 => 4 | .e4m3 | .e5m2 | .int8 => 8 | .bf16 | .fp16 => 16 | .fp32 | .int32 => 32

/-- Payload bytes (R40). -/
def payloadBytes (f : Fmt) : Nat := 128 * fmtBits f

/-- Tile total (R40). -/
def tileTotal (f : Fmt) : Nat := 32 + payloadBytes f

/-- Whether block scales apply (R40). -/
def fmtScaled : Fmt → Bool
  | .fp4 | .e4m3 | .e5m2 | .int8 => true
  | _ => false

/-- The tile header (R59). -/
structure Hdr where
  format : BitVec 8
  rows : BitVec 8
  cols : BitVec 8
  tagValid : BitVec 1
  nan : BitVec 1
  ovf : BitVec 1
  unf : BitVec 1
  stoch : BitVec 1
  resv1 : BitVec 3
  s0 : BitVec 8
  s1 : BitVec 8
  s2 : BitVec 8
  s3 : BitVec 8
  tagEpoch : BitVec 64
  crc : BitVec 32
  resv2 : BitVec 96
  deriving DecidableEq, Repr

/-- The 256 bits of a header (R59). -/
def packHdr (h : Hdr) : BitVec 256 :=
  h.resv2 ++ h.crc ++ h.tagEpoch ++ h.s3 ++ h.s2 ++ h.s1 ++ h.s0 ++ h.resv1 ++ h.stoch ++ h.unf ++ h.ovf ++ h.nan
    ++ h.tagValid ++ h.cols ++ h.rows ++ h.format

/-- The fields of 256 header bits (R59). -/
def unpackHdr (b : BitVec 256) : Hdr :=
  { format := b.extractLsb' 0 8, rows := b.extractLsb' 8 8, cols := b.extractLsb' 16 8,
    tagValid := b.extractLsb' 24 1, nan := b.extractLsb' 25 1, ovf := b.extractLsb' 26 1, unf := b.extractLsb' 27 1,
    stoch := b.extractLsb' 28 1, resv1 := b.extractLsb' 29 3, s0 := b.extractLsb' 32 8, s1 := b.extractLsb' 40 8,
    s2 := b.extractLsb' 48 8, s3 := b.extractLsb' 56 8, tagEpoch := b.extractLsb' 64 64,
    crc := b.extractLsb' 128 32, resv2 := b.extractLsb' 160 96 }

/-- The token tag (R187). -/
structure Tag where
  source : BitVec 13
  microBatch : BitVec 8
  token : BitVec 20
  rank : BitVec 3
  epoch : BitVec 4
  dropped : BitVec 1
  renorm : BitVec 1
  empty : BitVec 1
  resv : BitVec 13
  deriving DecidableEq, Repr

/-- The 64 bits of a tag (R187). -/
def packTag (t : Tag) : Word64 :=
  t.resv ++ t.empty ++ t.renorm ++ t.dropped ++ t.epoch ++ t.rank ++ t.token ++ t.microBatch ++ t.source

/-- The fields of a tag (R187). -/
def unpackTag (w : Word64) : Tag :=
  { source := w.extractLsb' 0 13, microBatch := w.extractLsb' 13 8, token := w.extractLsb' 21 20,
    rank := w.extractLsb' 41 3, epoch := w.extractLsb' 44 4, dropped := w.extractLsb' 48 1,
    renorm := w.extractLsb' 49 1, empty := w.extractLsb' 50 1, resv := w.extractLsb' 51 13 }

/-- The buffer handle (R346). -/
structure Handle where
  slot : BitVec 20
  pool : BitVec 8
  kind : BitVec 2
  resv1 : BitVec 2
  gen : BitVec 16
  jobTag : BitVec 12
  resv2 : BitVec 3
  valid : BitVec 1
  deriving DecidableEq, Repr

/-- The 64 bits of a handle (R346). -/
def packHandle (h : Handle) : Word64 :=
  h.valid ++ h.resv2 ++ h.jobTag ++ h.gen ++ h.resv1 ++ h.kind ++ h.pool ++ h.slot

/-- The fields of a handle (R346). -/
def unpackHandle (w : Word64) : Handle :=
  { slot := w.extractLsb' 0 20, pool := w.extractLsb' 20 8, kind := w.extractLsb' 28 2, resv1 := w.extractLsb' 30 2,
    gen := w.extractLsb' 32 16, jobTag := w.extractLsb' 48 12, resv2 := w.extractLsb' 60 3,
    valid := w.extractLsb' 63 1 }

/-- The header of tile bytes. -/
def tileHdr (t : List Byte) : Hdr := unpackHdr (BitVec.ofNat 256 (leNat (t.take 32)))

/-- The checksum of a tile: header with bytes 16 to 19 zero, then the payload (R62). -/
def tileCrc (t : List Byte) : Nat := crc32c (t.take 16 ++ zeros 4 ++ t.drop 20)

/-- The stored CRC (R59). -/
def storedCrc (t : List Byte) : Nat := fieldAt t 16 4

/-- A tile with its CRC field replaced. -/
def setCrc (t : List Byte) (c : Nat) : List Byte := t.take 16 ++ leBytes 4 c ++ t.drop 20

/-- A tile with its CRC computed (R63). -/
def sealTile (t : List Byte) : List Byte := setCrc t (tileCrc t)

/-- A tile with the torn mark: the CRC field is the complement of the checksum of its content (R64). -/
def tearTile (t : List Byte) : List Byte := setCrc t (0xFFFFFFFF - tileCrc t)

/-- The outcome of the checksum check (R65). -/
inductive CrcKind where
  | ok | corrupt | torn
  deriving DecidableEq, Repr

/-- R65. -/
def crcKind (t : List Byte) : CrcKind :=
  let c := tileCrc t
  let s := storedCrc t
  if s = c then .ok else if s = 0xFFFFFFFF - c then .torn else .corrupt

/-- The header checks of R61 in order: 0 when all pass, otherwise the kind of R107. `accept` says which formats the
operation takes in the operand. -/
def hdrKind (accept : Fmt → Bool) (t : List Byte) : Nat :=
  let h := tileHdr t
  match fmtOf h.format.toNat with
  | none => 2
  | some f =>
    if h.rows.toNat < 1 || h.rows.toNat > 32 || h.cols.toNat < 1 || h.cols.toNat > 32 then 3
    else if h.resv1 != 0 || h.resv2 != 0 || (h.tagValid == 0 && h.tagEpoch.extractLsb' 32 32 != 0) then 4
    else if !fmtScaled f && !(h.s0 == 0x7F && h.s1 == 0x7F && h.s2 == 0x7F && h.s3 == 0x7F) then 5
    else if !accept f then 6
    else 0

/-- Whether a tile passes both checks for a format (R65, R61). -/
def tileGood (accept : Fmt → Bool) (t : List Byte) : Bool :=
  decide (crcKind t = .ok) && decide (hdrKind accept t = 0)

/-- The format of a tile; FP32 when the code is undefined (its checks refuse it first). -/
def tileFmt (t : List Byte) : Fmt := (fmtOf (tileHdr t).format.toNat).getD .fp32

/-- Valid rows and columns. -/
def tileRows (t : List Byte) : Nat := (tileHdr t).rows.toNat
def tileCols (t : List Byte) : Nat := (tileHdr t).cols.toNat

/-- NAN_PRESENT. -/
def tileNan (t : List Byte) : Bool := (tileHdr t).nan == 1

/-- Layout epoch of a tile with TAG_VALID = 0. -/
def tileEpoch (t : List Byte) : Nat := (tileHdr t).tagEpoch.toNat % 2 ^ 32

/-- The scale bytes of the blocks in order. -/
def tileScales (t : List Byte) : List Nat := [4, 5, 6, 7].map fun i => fieldAt t i 1

/-- The block of an element (R44). -/
def blockOf (r c : Nat) : Nat := 2 * (r / 16) + c / 16

/-- The code of element (r, c) of a payload in a format (R37). -/
def codeAt (f : Fmt) (t : List Byte) (r c : Nat) : Nat :=
  let i := 32 * r + c
  match f with
  | .fp4 => let b := fieldAt t (32 + i / 2) 1; if i % 2 = 0 then b % 16 else b / 16
  | _ => let w := fmtBits f / 8; fieldAt t (32 + w * i) w

/-- The payload of codes given by position, in row-major order (R37). -/
def payloadOf (f : Fmt) (code : Nat → Nat → Nat) : List Byte :=
  match f with
  | .fp4 => (List.range 512).map fun b =>
      let i := 2 * b
      BitVec.ofNat 8 (code (i / 32) (i % 32) + 16 * code ((i + 1) / 32) ((i + 1) % 32))
  | _ => (List.range 1024).flatMap fun i => leBytes (fmtBits f / 8) (code (i / 32) (i % 32))

/-- The value of element (r, c): element value times block scale; NaN in a block of scale 0xFF (R41, R45, R46). -/
def valueAt (f : Fmt) (t : List Byte) (r c : Nat) : Fl :=
  let x := decodeElem f (codeAt f t r c)
  if fmtScaled f then
    let s := (tileScales t).getD (blockOf r c) 0x7F
    if s = 0xFF then .nan else x.scale ((s : Int) - 127)
  else x

/-- A tile read transposed (R48): rows and columns, blocks 1 and 2 and elements exchanged. -/
def transposeTile (t : List Byte) : List Byte :=
  let h := tileHdr t
  let f := tileFmt t
  let h' : Hdr := { h with rows := h.cols, cols := h.rows, s1 := h.s2, s2 := h.s1 }
  sealTile (leBytes 32 (packHdr h').toNat ++ payloadOf f fun r c => codeAt f t c r)

/-- Flags of a new tile (R60). -/
structure TileFlags where
  nan : Bool
  ovf : Bool
  unf : Bool
  stoch : Bool
  deriving DecidableEq, Repr

/-- A new tile: format, valid counts, flags, scale bytes, layout epoch and codes; padding is zero (R38), the checksum is
computed (R63). -/
def mkTile (f : Fmt) (rows cols : Nat) (fl : TileFlags) (scales : List Nat) (epoch : Nat)
    (code : Nat → Nat → Nat) : List Byte :=
  let sc (i : Nat) : BitVec 8 := BitVec.ofNat 8 (if fmtScaled f then scales.getD i 0x7F else 0x7F)
  let h : Hdr :=
    { format := BitVec.ofNat 8 (fmtCode f), rows := BitVec.ofNat 8 rows, cols := BitVec.ofNat 8 cols, tagValid := 0,
      nan := BitVec.ofBool fl.nan, ovf := BitVec.ofBool fl.ovf, unf := BitVec.ofBool fl.unf,
      stoch := BitVec.ofBool fl.stoch, resv1 := 0, s0 := sc 0, s1 := sc 1, s2 := sc 2, s3 := sc 3,
      tagEpoch := BitVec.ofNat 64 (epoch % 2 ^ 32), crc := 0, resv2 := 0 }
  sealTile (leBytes 32 (packHdr h).toNat ++
    payloadOf f fun r c => if r < rows && c < cols then code r c else 0)

/-- The positions of the valid elements of a block in row-major order. -/
def blockCells (rows cols b : Nat) : List (Nat × Nat) :=
  (List.range 16).flatMap fun i => (List.range 16).filterMap fun j =>
    let r := 16 * (b / 2) + i
    let c := 16 * (b % 2) + j
    if r < rows && c < cols then some (r, c) else none

/-- The valid positions of a tile in row-major order. -/
def validCells (rows cols : Nat) : List (Nat × Nat) :=
  (List.range rows).flatMap fun r => (List.range cols).map fun c => (r, c)

/-- The target exponent T of a scaled format (R159). -/
def targetExp : Fmt → Int
  | .fp4 => 2 | .e4m3 => 8 | .e5m2 => 15 | _ => 6

/-- A code limited to the byte range of scales. -/
def limitScale (x : Int) : Nat := (min 0xFE (max 0 x)).toNat

/-- How a producer chooses block scales: one scale for all (R160), or each block's own (R161) with HEADROOM and a
lowest scale. -/
inductive ScaleRule where
  | fixed (s : Nat)
  | actual (headroom : Nat) (floor : Nat)
  deriving DecidableEq, Repr

/-- The largest finite absolute value of a list. -/
def maxAbs (xs : List Fl) : Fl :=
  xs.foldl (fun m x => if x.isFinite && Fl.lt m x.abs then x.abs else m) Fl.zero

/-- The scale of a block from its values (R160, R161); 0x7F for a block without a finite non-zero value under R161. -/
def blockScale (rule : ScaleRule) (f : Fmt) (vals : List Fl) : Nat :=
  match rule with
  | .fixed s => s
  | .actual hr lo =>
    let a := maxAbs vals
    if a.isZero then 0x7F else max lo (limitScale ((magCode a : Int) - targetExp f + hr))

/-- What a conversion of a tile gives: the tile, the count of saturated or infinite results, of values turned to zero, of
values changed, of NaN results, and the largest exact absolute value (R51, R52, R163, R323). -/
structure TileConv where
  tile : List Byte
  sat : Nat
  zeroed : Nat
  rounded : Nat
  nanOut : Nat
  /-- Elements whose value is not what it was (R222). -/
  moved : Nat
  amax : Fl
  deriving DecidableEq, Repr

/-- A new tile from what became of each valid element: `scales` are the block scales chosen, of which a block with a `bad` element
becomes 0xFF with zero codes (R45, R51); `val` gives the exact source values. An element of such a block keeps the flags of its own
row of R51 and counts as changed unless it was NaN before (R60, R323; log entry 98). -/
def tileOfConvs (f : Fmt) (rows cols epoch : Nat) (scales : List Nat) (stoch : Bool) (conv : Nat × Nat → Conv)
    (val : Nat → Nat → Fl) : TileConv :=
  let cells := validCells rows cols
  let res : List ((Nat × Nat) × Conv) := cells.map fun p => (p, conv p)
  let scaleAt (p : Nat × Nat) : Nat := scales.getD (blockOf p.1 p.2) 0x7F
  let isBad (b : Nat) : Bool := fmtScaled f && (res.any fun x => blockOf x.1.1 x.1.2 == b && (x.2.bad || scales.getD b 0x7F == 0xFF))
  let bads := (List.range 4).filter isBad
  let inBad (x : (Nat × Nat) × Conv) : Bool := bads.contains (blockOf x.1.1 x.1.2)
  let scales' := (List.range 4).map fun b => if bads.contains b then 0xFF else scales.getD b 0x7F
  let codes := res.map fun x => (32 * x.1.1 + x.1.2, if inBad x then 0 else x.2.code)
  let look (r c : Nat) : Nat := (codes.find? fun e => e.1 == 32 * r + c).elim 0 (·.2)
  let out (x : (Nat × Nat) × Conv) : Fl :=
    if inBad x then .nan else (decodeElem f x.2.code).scale (if fmtScaled f then (scaleAt x.1 : Int) - 127 else 0)
  let isNan (x : (Nat × Nat) × Conv) : Bool := x.2.nan || inBad x
  let changed (x : (Nat × Nat) × Conv) : Bool :=
    let v := val x.1.1 x.1.2
    !(v.isNan && (out x).isNan) && !Fl.eqv (out x) v
  let isSat (x : (Nat × Nat) × Conv) : Bool := x.2.ovf || (!(val x.1.1 x.1.2).isFinite && !(val x.1.1 x.1.2).isNan)
  { tile := mkTile f rows cols ⟨res.any isNan, res.any (·.2.ovf), res.any (·.2.unf), stoch⟩ scales' epoch look,
    sat := (res.filter isSat).length,
    zeroed := (res.filter (·.2.unf)).length,
    rounded := (res.filter fun x => !isSat x && !x.2.unf && changed x).length,
    nanOut := (res.filter isNan).length,
    moved := (res.filter changed).length,
    amax := maxAbs (cells.map fun p => val p.1 p.2) }

/-- Conversion of values into a tile under block scales (R50 to R52, R571): `rnd r c` is the rounding of element (r, c). A block
without a valid element takes 0x7F (R47). -/
def convUnder (f : Fmt) (rows cols epoch : Nat) (scale : Nat → Nat) (rnd : Nat → Nat → Rnd) (stoch : Bool)
    (val : Nat → Nat → Fl) : TileConv :=
  let scales := (List.range 4).map fun b => if fmtScaled f && !(blockCells rows cols b).isEmpty then scale b else 0x7F
  let conv (p : Nat × Nat) : Conv :=
    encodeElem f (rnd p.1 p.2)
      ((val p.1 p.2).scale (if fmtScaled f then 127 - (scales.getD (blockOf p.1 p.2) 0x7F : Int) else 0))
  tileOfConvs f rows cols epoch scales stoch conv val

/-- Conversion of values into a tile of a format under a scale rule (R160, R161). -/
def convTile (f : Fmt) (rows cols epoch : Nat) (rule : ScaleRule) (rnd : Nat → Nat → Rnd) (stoch : Bool)
    (val : Nat → Nat → Fl) : TileConv :=
  convUnder f rows cols epoch (fun b => blockScale rule f ((blockCells rows cols b).map fun p => val p.1 p.2)) rnd stoch val

/-- A code as it goes into a new tile: a NaN becomes the canonical one (R43). -/
def canonCode (f : Fmt) (x : Nat) : Nat := if (decodeElem f x).isNan then canonNan f else x

/-- An element moved into a new tile under another block scale (R222): with the same scale its code is kept and nothing is
converted; otherwise its value is encoded anew. `s` is the scale it had. -/
def reExpress (f : Fmt) (s s' x : Nat) : Conv :=
  if fmtScaled f && s == 0xFF then encodeElem f .nearest .nan
  else if !fmtScaled f || s == s' then ⟨canonCode f x, false, false, (decodeElem f x).isNan, false⟩
  else encodeElem f .nearest ((decodeElem f x).scale ((s : Int) - s'))

/-- An FP32 tile from its words. -/
def f32Tile (rows cols epoch : Nat) (ovf unf : Bool) (w : Nat → Nat → Word32) : List Byte :=
  mkTile .fp32 rows cols ⟨(validCells rows cols).any fun p => (f32 (w p.1 p.2)).isNan, ovf, unf, false⟩ [] epoch
    fun r c => (w r c).toNat

/-- The FP32 word of an element of an FP32 tile. -/
def word32At (t : List Byte) (r c : Nat) : Word32 := BitVec.ofNat 32 (codeAt .fp32 t r c)

/-- An entry of a side column (R189): tag, expert, weight. -/
def sideEntry (tag : Word64) (expert weight : Nat) : List Byte :=
  leBytes 8 tag.toNat ++ leBytes 2 (expert % 4096) ++ leBytes 2 weight ++ zeros 4

/-- A side column (R189) of at most 32 entries. -/
def sideColumn (layer epoch : Nat) (entries : List (List Byte)) : List Byte :=
  let body := entries.flatten ++ zeros (16 * (32 - entries.length))
  let head := leBytes 1 1 ++ leBytes 1 entries.length ++ leBytes 2 layer ++ leBytes 4 epoch ++ zeros 8
  let crc := crc32c (head ++ zeros 16 ++ body)
  head ++ leBytes 4 crc ++ zeros 12 ++ body

/-- Whether entry `i` of a side column keeps its reserved fields: those of R187 and R189, and all of it past VALID_ROWS. -/
def sideEntryOk (s : List Byte) (i : Nat) : Bool :=
  let e := slice s (32 + 16 * i) 16
  if i < fieldAt s 1 1 then decide (fieldAt e 6 2 / 8 = 0) && decide (fieldAt e 9 1 / 16 = 0) && allZero (e.drop 12) else allZero e

/-- A side column's check (R190): its checksum, VERSION, VALID_ROWS and every reserved field. -/
def sideGood (s : List Byte) : Bool :=
  decide (crc32c (s.take 16 ++ zeros 4 ++ s.drop 20) = fieldAt s 16 4) && decide (fieldAt s 0 1 = 1) &&
    decide (1 ≤ fieldAt s 1 1) && decide (fieldAt s 1 1 ≤ 32) && allZero (slice s 8 8) && allZero (slice s 20 12) &&
    (List.range 32).all (sideEntryOk s)

end Sys2Proof.Machine
end

