-- ==== Sys2Proof/Machine/Handles.lean ====
section
/-! DEFINITION. Buffer handles and the buffers they name (R344, R346 to R348), torn-buffer accounting (R364), pools'
free space, allocation and freeing (R343, R344, R350, R351), and fabric addresses (R374, R375). -/

namespace Sys2Proof.Machine

open Sys2Proof

/-- The handle of a live buffer (R346). -/
def Dev.handleOf (d : Dev) (b : Buf) : Word64 :=
  packHandle { slot := BitVec.ofNat 20 b.slot, pool := BitVec.ofNat 8 b.pool, kind := BitVec.ofNat 2 b.kind, resv1 := 0,
               gen := BitVec.ofNat 16 b.gen, jobTag := BitVec.ofNat 12 d.fx.jobId, resv2 := 0, valid := 1 }

/-- The live buffer of a slot. -/
def Depot.buf (dp : Depot) (slot : Nat) : Option Buf := dp.bufs.find? fun b => b.slot == slot

/-- What a use of a handle asks for: offset, length, the alignment the access needs (32 for a tile, 8 otherwise), and
whether a unit other than OPT_UPDATE writes. -/
structure Access where
  off : Nat
  len : Nat
  align : Nat
  write : Bool
  deriving DecidableEq, Repr

/-- The checks of R348 for a use of a handle, in order: the buffer, or the number of the first check that fails. -/
def Dev.checkHandle (d : Dev) (w : Word64) (u : Access) : Except Nat Buf :=
  let h := unpackHandle w
  if h.valid == 0 || h.resv1 != 0 || h.resv2 != 0 then .error 1
  else if h.jobTag.toNat ≠ d.fx.jobId % 4096 then .error 2
  else match d.depot.pools.find? fun p => p.num == h.pool.toNat with
    | none => .error 3
    | some _ =>
      match d.depot.buf h.slot.toNat with
      | none => .error 4
      | some b =>
        if b.gen ≠ h.gen.toNat || b.pool ≠ h.pool.toNat || b.kind ≠ h.kind.toNat then .error 5
        else if u.off + u.len > b.bytes then .error 6
        else if u.off % u.align ≠ 0 then .error 7
        else if u.write && b.kind ≥ 2 then .error 9
        else .ok b

/-- A failed check counted (R348, R365). -/
def Dev.countInvalid (d : Dev) : Dev :=
  { d with depot := { d.depot with invalid := sat32 (d.depot.invalid + 1), err := wset d.depot.err 1 } }

/-- The pieces of a buffer's bytes from an offset: (address, length) within extents (R344). -/
def piecesFrom (eb : Nat) (extents : List Nat) : Nat → Nat → Nat → List (Nat × Nat)
  | 0, _, _ => []
  | fuel + 1, off, len =>
    if len = 0 || eb = 0 then []
    else
      let n := min len (eb - off % eb)
      (extents.getD (off / eb) 0 + off % eb, n) :: piecesFrom eb extents fuel (off + n) (len - n)

/-- The pieces of a range of a buffer. -/
def Buf.pieces (b : Buf) (off len : Nat) : List (Nat × Nat) :=
  let part (eb : Nat) (es : List Nat) (off len : Nat) : List (Nat × Nat) :=
    piecesFrom eb es (if eb = 0 then 0 else len / eb + 2) off len
  if b.kind = 1 then (if len = 0 then [] else [(hostBase + b.extents.getD 0 0 + off, len)])
  else match b.part2 with
    | none => part b.eb b.extents off len
    | some (o, eb) =>
      let n := min len (o - off)
      part b.eb b.extents off n ++ part eb (b.extents.drop (ceilDiv o (max 1 b.eb))) (off + n - o) (len - n)

/-- The extents of a buffer with their sizes (R344). -/
def Buf.spans (b : Buf) : List (Nat × Nat) :=
  b.extents.zipIdx.map fun x => (x.1, match b.part2 with
    | some (o, eb) => if x.2 < ceilDiv o (max 1 b.eb) then b.eb else eb
    | none => b.eb)

/-- Whether an address range meets the buffer's memory. -/
def Buf.meets (b : Buf) (a n : Nat) : Bool :=
  (if b.kind = 1 then [(hostBase + b.extents.getD 0 0, b.bytes)] else b.spans).any fun e =>
    decide (a < e.1 + e.2) && decide (e.1 < a + n)

/-- A torn mark was written at an address: the buffer's TORN bit and count, and the Well's TORN error bit (R364, R334). -/
def Dev.noteTorn (d : Dev) (a n : Nat) : Dev :=
  { d with depot := { d.depot with
      bufs := d.depot.bufs.map fun b => if b.meets a n then { b with torn := true, tornTiles := b.tornTiles + 1 } else b,
      err := if d.depot.bufs.any (fun b => b.meets a n) then wset d.depot.err 2 else d.depot.err } }

/-- The buffer of a slot is marked torn (R364). -/
def Dev.noteTornSlot (d : Dev) (slot : Nat) : Dev :=
  { d with depot := { d.depot with
      bufs := d.depot.bufs.map fun b => if b.slot == slot then { b with torn := true, tornTiles := b.tornTiles + 1 } else b,
      err := wset d.depot.err 2 } }

/-- Bytes written at an offset of a buffer, in device memory or in the spill ring (R253, R344). -/
def Dev.storeBuf (d : Dev) (b : Buf) (off : Nat) (bs : List Byte) : Dev :=
  d.writePieces (b.pieces off bs.length) bs

/-- A tile with the torn mark written at an offset of a buffer (R64, R364). -/
def Dev.storeTorn (d : Dev) (b : Buf) (off : Nat) (t : List Byte) : Dev := (d.storeBuf b off (tearTile t)).noteTornSlot b.slot

/-- The torn mark written over a tile in memory (R64): the CRC field alone changes; when its content cannot be read the
line is poisoned instead (R363). -/
def Dev.tearAt (d : Dev) (pieces : List (Nat × Nat)) : Dev :=
  let a := (pieces.head?.map (·.1)).getD 0
  match pieces.find? fun p => (d.poisonedIn p.1 p.2).isSome with
  | some p => match d.poisonedIn p.1 p.2 with
    | some l => d.poisonLine l
    | none => d
  | none =>
    let t := d.peekPieces pieces
    (d.writePieces pieces (tearTile t)).noteTorn a 32

/-- Bytes allocated in a pool within a Well. -/
def Depot.usedIn (dp : Depot) (g : Grade) (pool w : Nat) : Nat :=
  ((dp.bufs.filter fun b => b.pool == pool && b.kind != 1).map fun b =>
    ((b.spans.filter fun e => wellOf g e.1 == w).map (·.2)).sum).sum

/-- The Wells of a pool in ascending order (R344). -/
def Pool.wells (p : Pool) (g : Grade) : List Nat := (presentWells g).filter fun w => p.mask.testBit w

/-- Extent size of a buffer in a pool (R344). -/
def Pool.extent (p : Pool) (fmt : Option Fmt) : Nat :=
  match fmt with
  | some f => if p.tilesPerExtent = 0 then 2 ^ p.pageLog2 else p.tilesPerExtent * tileTotal f
  | none => 2 ^ p.pageLog2

/-- The Well with the fewest bytes of the pool, the lowest on a tie (R344): its index in the pool's list. -/
def Depot.leastWell (dp : Depot) (g : Grade) (p : Pool) : Nat :=
  let ms := p.wells g
  (List.range ms.length).foldl (fun best i =>
    if dp.usedIn g p.num (ms.getD i 0) < dp.usedIn g p.num (ms.getD best 0) then i else best) 0

/-- The Well of extent i (R344). -/
def Pool.wellOfExtent (p : Pool) (g : Grade) (k0 pin i : Nat) : Nat :=
  let ms := p.wells g
  if p.spread = 0 then ms.getD k0 0
  else if p.spread = 1 then ms.getD ((k0 + i) % max 1 ms.length) 0
  else pin

/-- The first free page of a pool in a Well, given pages already taken (R350). -/
def Depot.freePage (dp : Depot) (p : Pool) (w : Nat) (taken : List Nat) : Option Nat :=
  match p.regions.find? fun r => r.1 == w with
  | none => none
  | some (_, base, pages) =>
    let page := 2 ^ p.pageLog2
    ((List.range pages).map fun i => base + i * page).find? fun a =>
      !taken.contains a && !dp.bufs.any fun b => b.kind != 1 && b.extents.contains a

/-- The extents of a new buffer, or none without room. -/
def Depot.placeExtents (dp : Depot) (g : Grade) (p : Pool) (k0 pin : Nat) : Nat → Nat → List Nat → Option (List Nat)
  | 0, _, acc => some acc.reverse
  | n + 1, i, acc =>
    match dp.freePage p (p.wellOfExtent g k0 pin i) acc with
    | none => none
    | some a => dp.placeExtents g p k0 pin n (i + 1) (a :: acc)

/-- The generation of a slot (R346). -/
def Depot.gen (dp : Depot) (slot : Nat) : Nat := ((dp.gens.find? fun x => x.1 == slot).map (·.2)).getD 0

/-- Slots of the buffer table (R346). -/
def slotCount : Nat := 1048576

/-- The lowest free slot (DESIGN CHOICE, log entry 67: the manual does not say which), if one is free. -/
def Depot.freeSlot (dp : Depot) : Option Nat :=
  ((List.range (dp.bufs.length + 1)).find? fun s => !dp.bufs.any fun b => b.slot == s).bind fun s =>
    if s < slotCount then some s else none

/-- A buffer entered into the table. -/
def Dev.addBuf (d : Dev) (b : Buf) : Dev :=
  let n := d.depot.bufs.length + 1
  { d with depot := { d.depot with bufs := d.depot.bufs ++ [b], bufPeak := max d.depot.bufPeak n } }

/-- A buffer is freed: its slot's GEN advances (R346, R351). -/
def Dev.freeSlotNow (d : Dev) (slot : Nat) : Dev :=
  let g := (d.depot.gen slot + 1) % 65536
  { d with depot := { d.depot with
      bufs := d.depot.bufs.filter fun b => b.slot != slot,
      gens := (slot, g) :: d.depot.gens.filter fun x => x.1 != slot,
      spill := (d.depot.spill.map fun e => if e.slot == slot then { e with freed := true } else e).dropWhile (·.freed) } }

/-- A change of a buffer's count by one; at zero it is freed (R351). -/
def Dev.release (d : Dev) (slot : Nat) : Dev :=
  match d.depot.buf slot with
  | none => d
  | some b =>
    if b.refs ≤ 1 then d.freeSlotNow slot
    else { d with depot := { d.depot with bufs := d.depot.bufs.map fun x =>
             if x.slot == slot then { x with refs := x.refs - 1 } else x } }

/-- A reference added. -/
def Dev.retain (d : Dev) (slot : Nat) : Dev :=
  { d with depot := { d.depot with bufs := d.depot.bufs.map fun x =>
      if x.slot == slot then { x with refs := x.refs + 1 } else x } }

/-- An allocation in a pool: the buffer entered with one reference, or none without room or slot (R344, R350). -/
def Dev.allocIn (d : Dev) (p : Pool) (bytes kind : Nat) (fmt : Option Fmt) (k0 : Option Nat) (pin : Nat) :
    Option (Buf × Dev) :=
  let eb := p.extent fmt
  match d.depot.freeSlot with
  | none => none
  | some slot =>
    let k := k0.getD (d.depot.leastWell d.grade p)
    match d.depot.placeExtents d.grade p k pin (ceilDiv bytes (max 1 eb)) 0 [] with
    | none => none
    | some es =>
      let b : Buf := { slot := slot, pool := p.num, kind := kind, gen := d.depot.gen slot, bytes := bytes, fmt := fmt,
                       k0 := k, eb := eb, extents := es, refs := 1, torn := false, tornTiles := 0 }
      some (b, d.addBuf b)

/-- A pool by number. -/
def Dev.pool (d : Dev) (n : Nat) : Option Pool := d.depot.pools.find? fun p => p.num == n

/-- The forms of a 64-bit address (R336, R374). -/
inductive AddrForm where
  /-- Job memory of this device. -/
  | localMem
  /-- A fabric address: rack domain (none for the own one), slot, device offset. -/
  | fabric (domain : Option Nat) (slot off : Nat)
  /-- No address a core may name. -/
  | bad
  deriving DecidableEq, Repr

/-- The form of an address range (R336, R338, R374, R375). -/
def Dev.addrForm (d : Dev) (a n : Nat) : AddrForm :=
  let hi := a >>> 48
  let o := a % 2 ^ 48
  if hi = 0 then (if inJobMem d.grade a n then .localMem else .bad)
  else if o + n > 0x240000000000 then .bad
  else if hi = 1 then .fabric none (o / 0x6000000000) (o % 0x6000000000)
  else if 0x4000 ≤ hi && hi ≤ 0x403F then .fabric (some (hi - 0x4000)) (o / 0x6000000000) (o % 0x6000000000)
  else .bad

/-- Own rack domain and slot (R371). -/
def Dev.ownDomain (d : Dev) : Nat := (d.fx.fid.getD 0) / 128
def Dev.ownSlot (d : Dev) : Nat := (d.fx.fid.getD 0) % 128

/-- The coherent window of this device: base and length (R394); none when not formed or of size 0. -/
def Dev.cohWindow (d : Dev) : Nat × Nat :=
  (d.fx.cohLo.toNat + d.fx.cohHi.toNat * 2 ^ 32, d.fx.cohSize.toNat * 2 ^ 30)

/-- Whether a local range touches the coherent window (R396). -/
def Dev.inCoh (d : Dev) (a n : Nat) : Bool :=
  let w := d.cohWindow
  wbit d.fx.ctrl 2 && decide (a < w.1 + w.2) && decide (w.1 < a + n)

end Sys2Proof.Machine
end

