-- ==== Sys2Proof/Machine/Halt.lean ====
section
/-! DEFINITION. Cores and tile queues of the device, and halts: the halt record and snapshot (R102 to R107), the HALT error
record (R106) and the primary halt (R108). -/

namespace Sys2Proof.Machine

open Sys2Proof

/-- A core by logical number. -/
def Dev.core (d : Dev) (c : Nat) : CoreSt := d.cores.getD c CoreSt.reset

/-- The device with one core changed. -/
def Dev.setCore (d : Dev) (c : Nat) (f : CoreSt → CoreSt) : Dev := { d with cores := d.cores.modify c f }

/-- The enabled cores N. -/
def Dev.n (d : Dev) : Nat := coreCount d.grade

/-- The command queue of a unit. -/
def CoreSt.queue (s : CoreSt) : EngUnit → List QCmd
  | .mx => s.mx | .vx => s.vx | .ls => s.ls | .st => s.st | .cc => []

/-- A core with one command queue replaced. -/
def CoreSt.setQueue (s : CoreSt) (u : EngUnit) (q : List QCmd) : CoreSt :=
  match u with
  | .mx => { s with mx := q } | .vx => { s with vx := q } | .ls => { s with ls := q } | .st => { s with st := q }
  | .cc => s

/-- The commands that a unit's queue holds: one of MX keeps its entry until it has completed (R73). -/
def CoreSt.depth (s : CoreSt) (u : EngUnit) : Nat := (s.queue u).length + if u = .mx then s.pipe.length else 0

/-- An accumulator bank with nothing in it. -/
def AccSt.fresh (a : AccSt) : AccSt := { AccSt.empty with bank := a.bank }

/-- The MATMUL at a place of the pipe and those after it are no longer started: they head the MX queue again (R102, R140; DESIGN
CHOICE for those after it, log entry 13). -/
def CoreSt.unpipe (s : CoreSt) (k : Nat) : CoreSt :=
  let stop (q : QCmd) : QCmd := { q with started := false }
  { s with mx := (s.pipe.drop k).map (fun j => stop j.cmd) ++ s.mx.map stop, pipe := s.pipe.take k }

/-- The sequence index of a unit in `seqs`. -/
def unitIdx : EngUnit → Nat
  | .mx => 0 | .vx => 1 | .ls => 2 | .st => 3 | .cc => 4

/-- Whether a queue end lies on this device. -/
def Dev.isHere (d : Dev) (e : QEndpoint) : Bool := e.rank.isNone || e.rank == some d.fx.rankSelf

/-- The index of the tile queue of a number on a core, at whichever end lies there (R77). -/
def Dev.queueIdx (d : Dev) (c q : Nat) : Option Nat :=
  d.queues.findIdx? fun s => s.decl.num == q &&
    ((d.isHere s.decl.prod && s.decl.prod.core == c) || (d.isHere s.decl.cons && s.decl.cons.core == c))

/-- The device with one tile queue changed. -/
def Dev.setQ (d : Dev) (i : Nat) (f : QState → QState) : Dev := { d with queues := d.queues.modify i f }

/-- A tile queue's free slots as its producer sees them (R79, R81, R411). -/
def Dev.freeSlots (d : Dev) (s : QState) : Nat :=
  if d.isHere s.decl.prod && d.isHere s.decl.cons then
    (if s.decl.prod.core = s.decl.cons.core then s.decl.cap - s.ring.length else s.credits)
  else s.decl.cap - (s.pushed - s.creditSeen)

/-- The logical core at the other end of a queue, or 0xFFFF (R103). -/
def Dev.peerOf (d : Dev) (c : Nat) (s : QState) : Nat :=
  let other := if d.isHere s.decl.prod && s.decl.prod.core == c then s.decl.cons else s.decl.prod
  if d.isHere other && other.core != c then other.core else 0xFFFF

/-- What a halt reports (R104, R107). `first` is the SEQ of the record of the detector that saw the fault, if any. -/
structure HaltInfo where
  reason : Nat
  source : Nat := 0
  unit : Nat
  kind : Nat := 0
  opIndex : Nat := 0
  seq : Nat := 0
  address : Nat := 0
  d0 : Nat := 0
  d1 : Nat := 0
  d2 : Nat := 0
  blocked : List Byte := []
  injected : Bool := false
  first : Option Nat := none
  deriving DecidableEq, Repr

/-- Halt codes (R107). -/
def rIllegal : Nat := 0x01
def rBadOperand : Nat := 0x02
def rQueueClosed : Nat := 0x03
def rFlagRange : Nat := 0x04
def rEngineAbsent : Nat := 0x05
def rWaitCycle : Nat := 0x06
def rChecksum : Nat := 0x07
def rBusError : Nat := 0x08
def rAccRange : Nat := 0x09
def rStashFull : Nat := 0x0A
def rEpochStale : Nat := 0x0B
def rHandle : Nat := 0x0C
def rResidue : Nat := 0x0D
def rNanAbort : Nat := 0x0E
def rHostHalt : Nat := 0x0F
def rVersion : Nat := 0x10
def rInjected : Nat := 0x11

/-- The halt record (R104). -/
def Dev.haltRecord (d : Dev) (c : Nat) (h : HaltInfo) : List Byte :=
  leBytes 1 h.reason ++ leBytes 1 h.source ++ leBytes 2 c ++ leBytes 2 (d.trust.lmap.getD c 0) ++ leBytes 1 h.unit ++
    leBytes 1 h.kind ++ leBytes 4 d.fx.jobId ++ leBytes 4 h.opIndex ++ leBytes 8 d.timeStamp ++ leBytes 8 h.seq ++
    leBytes 8 h.address ++ leBytes 8 h.d0 ++ leBytes 8 h.d1 ++ leBytes 8 h.d2 ++ slice h.blocked 0 64

/-- A queue's eight bytes of the snapshot (R103). An undeclared queue has PEER 0xFFFF, and OCCUPANCY counts the tiles in the ring
at both ends (DESIGN CHOICE, log entry 99). -/
def Dev.snapQueue (d : Dev) (c q : Nat) : List Byte :=
  match (d.queueIdx c q).bind fun i => d.queues[i]? with
  | none => zeros 6 ++ leBytes 2 0xFFFF
  | some s => leBytes 2 s.ring.length ++ leBytes 2 s.decl.cap ++ leBytes 1 (if s.closed then 2 else 1) ++
      leBytes 1 (fmtCode s.decl.fmt) ++ leBytes 2 (d.peerOf c s)

/-- The halt snapshot (R103): 1,024 bytes. -/
def Dev.snapshot (d : Dev) (c : Nat) (h : HaltInfo) : List Byte :=
  let s := d.core c
  d.haltRecord c h ++ leBytes 32 s.flags.toNat ++ (s.counters.flatMap fun w => leBytes 4 w.toNat) ++
    ((List.range 64).flatMap fun q => d.snapQueue c q) ++
    leBytes 2 (s.depth .mx) ++ leBytes 2 s.vx.length ++ leBytes 2 s.ls.length ++ leBytes 2 s.st.length ++ zeros 88

/-- The unit of a UNIT code. -/
def unitOfCode : Nat → EngUnit
  | 1 => .mx | 2 => .vx | 3 => .ls | 4 => .st | _ => .cc

/-- The command that caused a halt stops: it stays in its queue as not started, and an accumulation or GATE that it ran is over (R102,
R140, R206). A span in which an earlier command still drains goes on (R149). -/
def CoreSt.stopFailing (s : CoreSt) (u : EngUnit) (seq : Nat) : CoreSt :=
  match s.queue u with
  | [] => s
  | q :: qs =>
    if q.seq ≠ seq then s
    else
    let s := s.setQueue u ({ q with started := false } :: qs)
    if u = .mx then { s with acc := s.acc.fresh, span := if s.pipe.isEmpty then none else s.span, gate := none } else s

/-- The partial sums of a CHAIN whose next command has not started are discarded (R149). -/
def CoreSt.dropPartials (s : CoreSt) : CoreSt :=
  if s.mx.head?.elim true (fun q => !q.started) then { s with acc := s.acc.fresh } else s

/-- The halt of a core (R102 to R106): it stops admitting commands, its snapshot is written into its halt area, and a
halt with SOURCE 0 writes one HALT record and becomes the primary halt when it is the first. A core that has halted
keeps its record. -/
def Dev.haltBase (d : Dev) (c : Nat) (h : HaltInfo) : Dev :=
  if (d.core c).halted then d
  else
    let d1 := d.setCore c fun s => { (s.stopFailing (unitOfCode h.unit) h.seq).dropPartials with
      halted := true, pushStall := none, waiting := none, taking := false }
    let d2 := d1.write (haltArea d1.grade c) (d.snapshot c h)
    let d2 := { d2 with lists := d2.lists.map fun l => { l with takes := l.takes.filter fun x => x != c } }
    if h.source = 0 then
      let d3 := d2.detect (detId 0x18 (d2.trust.lmap.getD c 0)) 2 h.injected none (haltArea d2.grade c)
        (h.reason + c * 256) 0
      { d3 with job := d3.job.map fun j =>
          if j.primary.isNone then
            { j with primary := some c, errSeq := (h.first.getD d3.er.seq) % 65536 }
          else j }
    else d2

end Sys2Proof.Machine
end

