-- ==== Sys2Proof/Machine/Signals.lean ====
section
/-! DEFINITION. Issuing fabric packets (R381, R384, R389, R391, R401, R406), raising signals (R86, R87), and accepted
station commands with the references they hold (R73, R352). -/

namespace Sys2Proof.Machine

open Sys2Proof

/-- The 32 header bytes of a packet with a given CRC field (R381). -/
def packetHead (p : Packet) (crc : Nat) : List Byte :=
  leBytes 1 p.version ++ leBytes 1 p.cls ++ leBytes 1 p.op ++ leBytes 1 p.flags ++ leBytes 2 p.destId ++
    leBytes 2 p.srcId ++ leBytes 4 p.jobId ++ leBytes 2 p.reqTag ++ leBytes 2 p.stream ++ leBytes 4 crc ++
    leBytes 4 p.len ++ leBytes 8 p.addr

/-- The CRC of a packet (R381). -/
def packetCrc (p : Packet) : Nat := crc32c (packetHead p 0 ++ p.payload)

/-- A packet with its CRC filled in. -/
def sealPacket (p : Packet) : Packet := { p with crc := packetCrc p }

/-- Ports that are up. -/
def Fabric.upPorts (f : Fabric) : List Nat := (List.range 18).filter fun i => (f.ports.getD i PortSt.reset).up

/-- The port that carries the next packet: of the ports that are up the one by which the fewest bytes have left, so that the bytes
per port balance (R215, R369). -/
def Dev.pickPort (d : Dev) : Option Nat :=
  let sent (p : Nat) : Nat := (d.fx.ports.getD p PortSt.reset).sent
  d.fx.upPorts.foldl (fun best p => match best with | none => some p | some q => if sent p < sent q then some p else some q) none

/-- A packet's bytes count for the port by which it leaves. -/
def Fabric.count (f : Fabric) (port : Option Nat) (bytes : Nat) : Fabric :=
  match port with
  | none => f
  | some p => { f with ports := f.ports.modify p fun s => { s with sent := s.sent + bytes } }

/-- The fabric ID of a rank, none when the rank is outside the job (R372, R373). -/
def Dev.rankFid (d : Dev) (r : Nat) : Option Nat := (d.fx.ranks.getD r none)

/-- Whether a rank is in the job (R372). -/
def Dev.rankValid (d : Dev) (r : Nat) : Bool := r == d.fx.rankSelf || (d.rankFid r).isSome

/-- The ranked device of a fabric ID. -/
def Dev.fidRank (d : Dev) (fid : Nat) : Option Nat := d.fx.ranks.findIdx? fun e => e == some fid

/-- The gateway window that names a rack domain (R401). -/
def Dev.gatewayOf (d : Dev) (domain : Nat) : Option Nat :=
  (d.fx.gateways.find? fun w => wbit w 31 && decide ((w.toNat >>> 16) % 64 = domain)).map fun w => w.toNat % 8192

/-- The lowest tag of a space that is neither in use nor in quarantine (R390, R391). -/
def Fabric.freeTag (f : Fabric) (space : Nat) : Option Nat :=
  let used := (f.outs.filter fun o => o.space == space).map (·.tag)
  ((List.range (used.length + 1)).find? fun t => !used.contains t).bind fun t => if t < 32768 then some t else none

/-- Whether a packet of a space may issue under the limits of R389, R391 and R402. -/
def Fabric.roomFor (f : Fabric) (space : Nat) (nonPosted gateway : Bool) : Bool :=
  let live := f.outs.filter fun o => !o.quarantined
  let np := live.filter (·.nonPosted)
  let ps := live.filter fun o => !o.nonPosted
  if nonPosted then
    decide (np.length < 32768) &&
      decide ((np.filter fun o => o.space == space).length < if gateway then 8192 else 4096)
  else decide (ps.length < 65536) && decide ((ps.filter fun o => o.space == space).length < 16384)

/-- Non-posted requests outstanding (R405). -/
def Fabric.npOut (f : Fabric) : Nat := (f.outs.filter fun o => o.nonPosted && !o.quarantined).length

/-- A packet issues: it takes a tag of its space and leaves on a port; without room it waits (R389, R391). -/
def Dev.issue (d : Dev) (use : FxUse) (p : Packet) (nonPosted addrValid : Bool) : Dev :=
  let gw := p.flags.testBit 1
  if d.fx.roomFor p.destId nonPosted gw then
    match d.fx.freeTag p.destId with
    | none => { d with fx := { d.fx with stalled := d.fx.stalled ++ [⟨use, p, nonPosted, addrValid⟩] } }
    | some tag =>
      let p := sealPacket { p with reqTag := tag }
      let port := d.pickPort
      let (id, d) := d.fresh
      let o : OutReq :=
        { id := id, space := p.destId, tag := tag, nonPosted := nonPosted, gateway := gw, issued := d.now, port := port,
          addr := p.addr, addrValid := addrValid, want := p.len, got := [], bad := 0, quarantined := false, use := use }
      let fx := { d.fx.count port (32 + p.payload.length) with outs := d.fx.outs ++ [o] }
      let d := match use, port with
        | .bazaar _ key n, some i => d.noteTiles key i 0 n
        | _, _ => d
      ({ d with fx := { fx with npPeak := max fx.npPeak fx.npOut } }).emit (.packet port p)
  else { d with fx := { d.fx with stalled := d.fx.stalled ++ [⟨use, p, nonPosted, addrValid⟩] } }

/-- Packets that waited issue when room is there again, in order. -/
def Dev.issueStalled (d : Dev) : Dev :=
  let ws := d.fx.stalled
  ws.foldl (fun d w => d.issue w.use w.p w.nonPosted w.addrValid) { d with fx := { d.fx with stalled := [] } }

/-- The route to a rack domain and slot's fabric ID: the DEST_ID, and whether through a gateway; or the status with which
the request completes at once at the requester (R401, R406, R392). -/
def Dev.route (d : Dev) (fid : Nat) (gatewayOk : Bool) : Except Nat (Nat × Bool) :=
  if !wbit d.fx.ctrl 0 then .error 1
  else if d.fx.upPorts.isEmpty then .error 7
  else if fid / 128 = d.ownDomain then .ok (fid, false)
  else match d.gatewayOf (fid / 128) with
    | none => .error 7
    | some g => if gatewayOk then .ok (g, true) else .error 5

/-- The header fields common to what this device sends in a job. -/
def Dev.jobPacket (d : Dev) (cls op flags dest stream len addr : Nat) (payload : List Byte) : Packet :=
  { version := 1, cls := cls, op := op, flags := flags, destId := dest, srcId := d.fx.fid.getD 0, jobId := d.fx.jobId,
    reqTag := 0, stream := stream, crc := 0, len := len, addr := addr, payload := payload }

/-- FAB_CPL_ERR (R537): a status other than OK met this device's request. -/
def Dev.cplErr (d : Dev) (port : Option Nat) (addr : Option Nat) (status req : Nat) (inj : Bool) : Dev :=
  let d := { d with fx := { d.fx with err := wset d.fx.err (if status = 7 then 0x20 else if status = 8 then 0x40 else 0) } }
  d.detect (detId 0x2C (port.getD 0xFF)) 1 inj addr status req 0

/-- The stream of a key toward a receiver: its number and SEQ, and the device after taking it (R384). A new stream takes
the next number below 0xC000, which inter-device queues use (R410). -/
def Dev.takeStream (d : Dev) (dest : Nat) (key : List Nat) : Nat × Nat × Dev :=
  match d.fx.streams.find? fun x => x.dest == dest && x.key == key with
  | some x =>
    let up (y : StreamSt) : StreamSt := if y.dest == dest && y.key == key then { y with next := y.next + 1 } else y
    (x.num, x.next, { d with fx := { d.fx with streams := d.fx.streams.map up } })
  | none =>
    let num := match key with
      | [2, consumer, q] => 0xC000 + 64 * consumer + q
      | _ => (d.fx.streams.filter fun x => x.dest == dest && x.num < 0xC000).length % 0xC000
    (num, 0, { d with fx := { d.fx with streams := d.fx.streams ++ [⟨dest, key, num, 1⟩] } })

/-- A byte list cut into pieces of at most `n` bytes; the empty list is one empty piece. -/
def cut (n : Nat) (bs : List Byte) : List (List Byte) :=
  (List.range (max 1 (ceilDiv bs.length n))).map fun i => (bs.drop (i * n)).take n

/-- A message in the ORDERED class to a rank, in packets of at most 4,096 bytes; of several the last carries LAST (R381, R410). A
failure at the requester is recorded and the message counts as not delivered (R384, R393). -/
def Dev.sendMessage (d : Dev) (use : FxUse) (req rank : Nat) (key : List Nat) (payload : List Byte) : Dev :=
  match d.rankFid rank with
  | none => d.cplErr none none 7 req false
  | some fid =>
    match d.route fid true with
    | .error s => d.cplErr none none s req false
    | .ok (dest, gw) =>
      let ps := cut 4096 payload
      (List.range ps.length).foldl (fun d i =>
        let (num, seq, d) := d.takeStream fid key
        let fl := (if gw then 2 else 0) + if ps.length > 1 && i + 1 = ps.length then 4 else 0
        let b := ps.getD i []
        d.issue (use.piece payload.length i) (d.jobPacket 1 5 fl dest num b.length seq b) false false) d

/-- Who a SigSrc is, for the order of R89. -/
def sigRank : SigSrc → Nat × Nat
  | .own .mx _ _ => (0, 0)
  | .own .vx _ _ => (0, 1)
  | .own .ls _ _ => (0, 2)
  | .own .st _ _ => (0, 3)
  | .own .cc _ _ => (0, 4)
  | .core c => (1, c)
  | .rank r => (2, r)
  | .unranked f => (3, f)

/-- An update sets out toward a core of this device (R89). -/
def Dev.sendLocal (d : Dev) (src : SigSrc) (core : Nat) (obj : SigObj) (op : SigOp) : Dev :=
  let (id, d) := d.fresh
  { d with inflight := d.inflight ++ [{ id := id, core := core, src := src, obj := obj, op := op }] }

/-- The ADDRESS field of a SIGNAL packet (R382). -/
def signalWord (core : Nat) (obj : SigObj) (op : SigOp) : Nat :=
  let act := match op with | .set => 1 | .clear => 2 | .add _ => 3
  let idx := match obj with | .flag i => i | .counter i => i
  let v := match op with | .add v => v | _ => 0
  core % 65536 + act * 2 ^ 16 + (idx % 256) * 2 ^ 24 + v * 2 ^ 32

/-- One signal field raised by a command of a core, or by a station for it (R86, R87, R399, R401). `req` is the requester
code of R539. A failure halts the core whose engine or control core raised it; for a station, R393 names no effect. -/
def Dev.raiseOne (d : Dev) (core : Nat) (u : EngUnit) (opIndex seq req : Nat) (s : SigField) : Dev :=
  let remote := match s.rank with
    | none => false
    | some r => r != d.fx.rankSelf
  if !remote then
    let target := s.core.getD core
    let src := if u ≠ .st && target = core then SigSrc.own u opIndex seq else SigSrc.core core
    d.sendLocal src target s.obj s.op
  else
    let fail (st : Nat) (d : Dev) : Dev :=
      let d := d.cplErr none none st req false
      if u = .st then d
      else d.haltBase core { reason := rBusError, unit := u.code, opIndex := opIndex, seq := seq,
                             d0 := detId 0x2C 0xFF, first := some d.er.seq }
    match d.rankFid (s.rank.getD 0) with
    | none => fail 7 d
    | some fid =>
      let isAdd := match s.op with | .add _ => true | _ => false
      match d.route fid (!isAdd) with
      | .error st => fail st d
      | .ok (dest, gw) =>
        let fl := (if isAdd && !gw then 1 else 0) + if gw then 2 else 0
        d.issue (.signal core u opIndex seq) (d.jobPacket 0 4 fl dest 1 0 (signalWord (s.core.getD 0) s.obj s.op) []) false false

/-- The signals of a command that has completed (R87). -/
def Dev.raiseSignals (d : Dev) (core : Nat) (u : EngUnit) (opIndex seq req : Nat) (ss : List SigField) : Dev :=
  ss.foldl (fun d s => d.raiseOne core u opIndex seq req s) d

/-- The started command at the head of a unit's queue. -/
def Dev.running (d : Dev) (c : Nat) (u : EngUnit) : Option QCmd :=
  match (d.core c).queue u with
  | q :: _ => if q.started then some q else none
  | [] => none

/-- An accepted station command by id. -/
def Dev.acc (d : Dev) (id : Nat) : Option Accepted := d.accepted.find? fun a => a.id == id

/-- The references of a command are given up (R352). -/
def Dev.dropRefs (d : Dev) (slots : List Nat) : Dev := slots.foldl (fun d s => d.release s) d

/-- A station command leaves its station. -/
def Dev.dropAcc (d : Dev) (id : Nat) : Dev :=
  match d.acc id with
  | none => d
  | some a => ({ d with accepted := d.accepted.filter fun x => x.id != id }).dropRefs a.refs

/-- BAD_OPERAND, kind 7 (R107). -/
def badShape (pos : Nat) : HaltInfo := { reason := rBadOperand, unit := 0, kind := 7, d0 := pos }

/-- HANDLE_INVALID (R107, R348). -/
def badHandle (h : Word64) (check : Nat) : HaltInfo := { reason := rHandle, unit := 0, d0 := h.toNat, d1 := check }

/-- The oldest accepted command of a core that has not begun and satisfies a test. -/
def Dev.oldest (d : Dev) (c : Nat) (p : Op → Bool) : Option Accepted :=
  d.accepted.find? fun a => a.core == c && !a.begun && p a.cmd.op

/-- An accepted command has begun, and holds references to the buffers of its handles (R352). -/
def Dev.beginAcc (d : Dev) (id : Nat) (slots : List Nat) : Dev :=
  let d := slots.foldl (fun d s => d.retain s) d
  { d with accepted := d.accepted.map fun a => if a.id == id then { a with begun := true, refs := slots } else a }

end Sys2Proof.Machine
end

