-- ==== Sys2Proof/Machine/Rings.lean ====
section
/-! DEFINITION. Rings: descriptor reads and starts (R437 to R443), completion records and their interrupts (R448 to R455),
reads of host memory (R424 to R426), and the completion of JOB_START and JOB_HALT (R444, R445). -/

namespace Sys2Proof.Machine

open Sys2Proof

/-- A ring at its reset values (R457). -/
def Ring.reset (n : Nat) : Ring :=
  { num := n, sqLo := 0, sqHi := 0, cqLo := 0, cqHi := 0, size := 0x606, ctrl := 0, intMod := 0, enabled := false,
    draining := false, faultCode := 0, sqHead := 0, cqTail := 0, phase := false, sqTail := 0, cqHead := 0, cqUsed := 0,
    fetch := 0, descs := [], unsignalled := 0, firstAt := 0 }

/-- A ring by number. -/
def Dev.ring (d : Dev) (n : Nat) : Ring := (d.host.rings.find? fun r => r.num == n).getD (Ring.reset n)

/-- The device with one ring replaced. -/
def Dev.setRing (d : Dev) (r : Ring) : Dev :=
  let rs := d.host.rings
  { d with host := { d.host with rings :=
      if (rs.any fun x => x.num == r.num) then rs.map (fun x => if x.num == r.num then r else x) else rs ++ [r] } }

/-- SQ and CQ sizes (R435). -/
def Ring.sqLog (r : Ring) : Nat := r.size.toNat % 32
def Ring.cqLog (r : Ring) : Nat := (r.size.toNat >>> 8) % 32
def Ring.sqSize (r : Ring) : Nat := 2 ^ r.sqLog
def Ring.cqSize (r : Ring) : Nat := 2 ^ r.cqLog
def Ring.sqBase (r : Ring) : Nat := r.sqLo.toNat + r.sqHi.toNat * 2 ^ 32
def Ring.cqBase (r : Ring) : Nat := r.cqLo.toNat + r.cqHi.toNat * 2 ^ 32

/-- The MSI-X vector that a ring names (R457). -/
def Ring.vector (r : Ring) : Nat := (r.ctrl.toNat >>> 16) % 2048

/-- Descriptors that have started. -/
def Ring.startedCount (r : Ring) : Nat := (r.descs.filter (·.started)).length

/-- Fields of a descriptor (R442). -/
def Desc.opcode (x : Desc) : Nat := fieldAt x.bytes 0 1
def Desc.flags (x : Desc) : Nat := fieldAt x.bytes 1 1
def Desc.argLen (x : Desc) : Nat := fieldAt x.bytes 2 2
def Desc.cookie (x : Desc) : Nat := fieldAt x.bytes 8 8
def Desc.argAddr (x : Desc) : Nat := fieldAt x.bytes 16 8

/-- Completion status codes (R449). -/
def stOk : Nat := 0
def stPartial : Nat := 1
def stFailed : Nat := 2
def stRejected : Nat := 3
def stAborted : Nat := 4

/-- A completion record as 32 bytes (R448). -/
def recordBytes (status reason slot ring cookie result detail errSeq : Nat) (phase : Bool) : List Byte :=
  leBytes 1 status ++ leBytes 1 reason ++ leBytes 2 slot ++ leBytes 2 ring ++ zeros 2 ++ leBytes 8 cookie ++
    leBytes 8 result ++ leBytes 4 detail ++ leBytes 2 errSeq ++ zeros 1 ++ leBytes 1 (b2n phase)

/-- The vector of a ring fires: the records of every ring that names it start to count anew (R455). -/
def Dev.fireRing (d : Dev) (v : Nat) : Dev :=
  let rs := d.host.rings.map fun r => if r.vector == v then { r with unsignalled := 0 } else r
  { d with host := { d.host with rings := rs } }.fire v

/-- One record without NO_IRQ counts toward its vector (R455). -/
def Dev.countIrq (d : Dev) (n : Nat) : Dev :=
  let r := d.ring n
  if !wbit r.ctrl 1 then d
  else
    let d := d.setRing { r with unsignalled := r.unsignalled + 1,
                                firstAt := if r.unsignalled = 0 then d.now else r.firstAt }
    let total := ((d.host.rings.filter fun x => x.vector == r.vector).map (·.unsignalled)).sum
    if total ≥ r.intMod.toNat % 65536 then d.fireRing r.vector else d

/-- A ring whose last started descriptor has written its record ends draining (R441). -/
def Ring.settleDrain (r : Ring) : Ring :=
  if r.draining && r.startedCount = 0 then
    { r with enabled := false, draining := false, sqHead := 0, cqTail := 0, phase := false, sqTail := 0, cqHead := 0,
             cqUsed := 0, fetch := 0, descs := [] }
  else r

/-- The completion record of a started descriptor: pending error records go first (R540), then the record (R451), then its
interrupt (R455). -/
def Dev.putRecord (d : Dev) (n slot status reason result detail errSeq : Nat) : Dev :=
  match (d.ring n).descs.find? fun x => x.started && x.slot == slot with
  | none => d
  | some x =>
    let d := d.deliverAll
    let r := d.ring n
    let d := d.emit (.hostWrite (r.cqBase + 32 * r.cqTail)
      (recordBytes status reason slot n x.cookie result detail (if errSeq = 0 then x.errSeq else errSeq) r.phase))
    let wrap := decide (r.cqTail + 1 = r.cqSize)
    let r := { r with descs := r.descs.erase x, cqUsed := r.cqUsed + 1,
                      cqTail := if wrap then 0 else r.cqTail + 1, phase := if wrap then !r.phase else r.phase }
    let d := d.setRing r
    let d := if x.flags.testBit 1 then d else d.countIrq n
    d.setRing (d.ring n).settleDrain

/-- A read of host memory with the lowest free tag, of 1,024 (R424). -/
def Dev.askHost (d : Dev) (addr len : Nat) (use : HostUse) : Option Dev :=
  let used := d.host.reads.map (·.tag)
  match (List.range (min 1024 (used.length + 1))).find? fun t => !used.contains t with
  | none => none
  | some t =>
    let h : HostRead := { tag := t, addr := addr, len := len, issued := d.now, use := use }
    some ({ d with host := { d.host with reads := d.host.reads ++ [h] } }.emit (.hostRead t addr len))

/-- Whether the device runs descriptors (R459). -/
def Dev.inService (d : Dev) : Bool := d.boot.st == 4 || d.boot.st == 5

/-- A started descriptor by opcode: the oldest one of a ring whose argument block is in. -/
def Dev.startedDesc (d : Dev) (n opcode : Nat) : Option Desc :=
  (d.ring n).descs.find? fun x => x.started && x.opcode == opcode && (x.argLen == 0 || x.args.isSome)

/-- A descriptor of a ring changed. -/
def Dev.setDesc (d : Dev) (n slot : Nat) (f : Desc → Desc) : Dev :=
  let r := d.ring n
  d.setRing { r with descs := r.descs.map fun x => if x.slot == slot then f x else x }

/-- Used bytes of INLINE by opcode, as offsets from the descriptor's start (R444). -/
def inlineUsed : Nat → List (Nat × Nat)
  | 5 => [(24, 49)] | 6 => [(24, 27), (32, 48)] | 7 => [(24, 64)] | _ => []

/-- The byte offset of the first field of a descriptor that breaks R442 or its opcode's limits, if any (R450). -/
def descBad (x : Desc) : Option Nat :=
  let inl := (List.range 40).find? fun i =>
    fieldAt x.bytes (24 + i) 1 != 0 && !(inlineUsed x.opcode).any fun u => decide (u.1 ≤ 24 + i) && decide (24 + i < u.2)
  if x.flags / 8 ≠ 0 then some 1
  else if x.argLen % 32 ≠ 0 || x.argLen > 4096 || (x.opcode = 1 && x.argLen < 64) || (x.opcode = 8 && x.argLen < 32) then
    some 2
  else if fieldAt x.bytes 4 4 ≠ 0 then some 4
  else if x.argLen ≠ 0 && x.argAddr % 32 ≠ 0 then some 16
  else inl.map (· + 24)

/-- The argument block of a started descriptor is read, once (R443). -/
def Dev.askArgs (d : Dev) (n : Nat) (x : Desc) : Dev :=
  if x.argLen = 0 || x.argsAsked then d
  else if x.flags.testBit 2 then
    if !inJobMem d.grade x.argAddr x.argLen then d.putRecord n x.slot stRejected 0x02 0 16 0
    else match d.readFor reqFirmware x.argAddr x.argLen with
      | (none, d) => d.putRecord n x.slot stRejected 0x10 0 0 (d.er.seq % 65536)
      | (some bs, d) => d.setDesc n x.slot fun y => { y with args := some bs, argsAsked := true }
  else match d.askHost x.argAddr x.argLen (.args n x.slot) with
    | none => d
    | some d => d.setDesc n x.slot fun y => { y with argsAsked := true }

/-- The next descriptor of a ring starts, if it may (R438 to R440). -/
def Dev.startDesc (d : Dev) (n : Nat) : Dev :=
  let r := d.ring n
  match r.descs.find? fun x => !x.started with
  | none => d
  | some x =>
    if r.enabled && !r.draining && r.faultCode = 0 && d.inService && !x.bytes.isEmpty &&
        decide (r.cqUsed + r.startedCount < r.cqSize) && !(x.flags.testBit 0 && r.startedCount > 0) then
      let d := d.setDesc n x.slot fun y => { y with started := true }
      if x.opcode > 8 then d.putRecord n x.slot stRejected 0x01 0 x.opcode 0
      else if x.opcode = 1 && d.job.isSome then d.putRecord n x.slot stRejected 0x04 0 0 0
      else match descBad x with
        | some off => d.putRecord n x.slot stRejected 0x02 0 off 0
        | none => d.askArgs n x
    else d

/-- The next submitted descriptor is read, at most 32 ahead of the oldest that has not started (R438). -/
def Dev.fetchDesc (d : Dev) (n : Nat) : Dev :=
  let r := d.ring n
  let waiting := (r.descs.filter fun x => !x.started).length
  if r.enabled && !r.draining && r.faultCode = 0 && r.fetch ≠ r.sqTail && waiting ≤ 32 then
    match d.askHost (r.sqBase + 64 * r.fetch) 64 (.desc n r.fetch) with
    | none => d
    | some d =>
      let x : Desc := { slot := r.fetch, bytes := [], args := none, argsAsked := false, started := false, off := 0,
                        failLine := none, good := 0, errSeq := 0 }
      d.setRing { r with fetch := (r.fetch + 1) % r.sqSize, descs := r.descs ++ [x] }
  else d

/-- SQ_HEAD names the oldest slot whose read is still out, else the next one to read (R437, R457). -/
def Ring.settleHead (r : Ring) : Ring :=
  { r with sqHead := ((r.descs.find? fun x => x.bytes.isEmpty).map (·.slot)).getD r.fetch }

/-- A ring moves on: argument reads that found no tag, starts, then reads. -/
def Dev.advanceRing (d : Dev) (n : Nat) : Dev :=
  let d := (d.ring n).descs.foldl (fun d x => if x.started then d.askArgs n x else d) d
  let k := (d.ring n).descs.length
  let d := (List.range k).foldl (fun d _ => d.startDesc n) d
  let d := (List.range 33).foldl (fun d _ => d.fetchDesc n) d
  d.setRing (d.ring n).settleHead

/-- Every ring moves on. -/
def Dev.pumpRings (d : Dev) : Dev := d.host.rings.foldl (fun d r => d.advanceRing r.num) d

/-- A descriptor completes: its record, then what it held up. -/
def Dev.finishDesc (d : Dev) (n slot status reason result detail errSeq : Nat) : Dev :=
  (d.putRecord n slot status reason result detail errSeq).pumpRings

/-- Whether every core of the device has halted. -/
def Dev.allHalted (d : Dev) : Bool := d.cores.all (·.halted)

/-- Whether every control routine of the job has ended (R444). -/
def Dev.allEnded (d : Dev) (j : Job) : Bool :=
  j.prog.cores.all fun p => let s := d.core p.core; s.cc == .ended && !s.halted

/-- The first half of a finishing JOB_START: the descriptor's record with its status (R444, R445, R106). -/
def Dev.endStart (d : Dev) (j : Job) (status reason detail errSeq : Nat) : Dev :=
  match j.start with
  | none => d
  | some (n, slot) =>
    let d := { d with job := some { j with start := none } }
    d.finishDesc n slot status reason d.timeStamp detail errSeq

/-- JOB_HALT descriptors that wait complete once every core has halted (R445). -/
def Dev.endHalts (d : Dev) : Dev :=
  match d.job with
  | none => d
  | some j =>
    if d.allHalted then
      j.halters.foldl (fun d x => d.finishDesc x.1 x.2.1 stOk 0 0 x.2.2 0) { d with job := some { j with halters := [] } }
    else d

/-- What follows at once when a control routine ends or a core halts under a job stop: JOB_START completes OK, FAILED or
ABORTED, and JOB_HALTs complete (R444, R445). -/
def Dev.jobCheck (d : Dev) : Dev :=
  match d.job with
  | none => d
  | some j =>
    if !j.started then d
    else if j.hostHalt then (if d.allHalted then (d.endStart j stAborted 0 0xFFFFFFFF 0).endHalts else d)
    else if j.stopped then
      (if d.allHalted then
        (if j.fatalSeq ≠ 0 then d.endStart j stFailed 0x21 0xFFFFFFFF (j.fatalSeq % 65536)
         else d.endStart j stFailed 0x20 (j.primary.getD 0xFFFFFFFF) j.errSeq).endHalts
       else d)
    else if j.primary.isNone && d.allEnded j then d.endStart j stOk 0 0xFFFFFFFF 0
    else d

end Sys2Proof.Machine
end

