-- ==== Sys2Proof/Machine/Ending.lean ====
section
/-! DEFINITION. How station commands, routines, rounds and cores end: END (R114), completion of a station command (R87),
Bazaar messages and the round record (R211, R235), the end of a round under R233, halts with what they end (R88, R102), device-fatal
detections (R548) with the table and bridge checks that can raise them (R537), and accesses that cross the bridge (R22, R23). -/

namespace Sys2Proof.Machine

open Sys2Proof

/-- Whether every command that a core pushed has completed (R114). -/
def Dev.coreQuiet (d : Dev) (c : Nat) : Bool :=
  let s := d.core c
  s.mx.isEmpty && s.pipe.isEmpty && s.vx.isEmpty && s.ls.isEmpty && s.st.isEmpty && !d.accepted.any fun a => a.core == c

/-- A slot that has neither begun nor ended. -/
def SlotMark.open (m : SlotMark) : Bool := !m.ended && m.runs.isNone

/-- The next slot of a core's round changed (R97). -/
def nextSlot (f : SlotMark → SlotMark) : List SlotMark → List SlotMark
  | [] => []
  | m :: ms => if m.open then f m :: ms else m :: nextSlot f ms

/-- The slot whose item ran under an id is ended (R97). -/
def endRun (id : Nat) (ms : List SlotMark) : List SlotMark :=
  ms.map fun m => if m.runs == some id then { m with ended := true, runs := none } else m

/-- Slots with the round's last one ended are gone: the core may take from the list again (R97). -/
def settleSlots (ms : List SlotMark) : List SlotMark := if ms.all (·.ended) then [] else ms

/-- A routine that stands at END ends once every pushed command has completed (R114). A work item's DONE is raised then
(R91); the end of the last control routine completes JOB_START (R444). -/
def Dev.finishEnd (d : Dev) (c : Nat) : Dev :=
  let s := d.core c
  match s.ending with
  | none => d
  | some opIndex =>
    if s.halted || s.frozen || !d.coreQuiet c then d
    else match s.items with
      | (id, it) :: rest =>
        let d := d.setCore c fun s => { s with items := rest, ending := none, slots := settleSlots (endRun id s.slots) }
        match it.done with
        | none => d
        | some f => d.raiseOne c .cc opIndex 0 (reqCore c)
            { obj := .counter f.counter, op := .add f.value, core := some f.core, rank := none }
      | [] => (d.setCore c fun s => { s with cc := .ended, ending := none }).jobCheck

/-- The requester code of the station that runs an operation (R539). -/
def Dev.stationReq (d : Dev) (c : Nat) : Op → Nat
  | .dispatch _ | .combine _ => reqBazaar (dieOfCore d.grade c)
  | .collective a => reqAdder a.leadPort
  | .permute a => reqAdder a.leadPort
  | .well w _ _ => reqWell w
  | .alloc _ | .retain _ | .release _ | .stashAlloc .. | .versionTake .. | .versionDrop .. => reqDepot
  | _ => reqCore c

/-- A station command completes, OK, PARTIAL or FAILED, and raises its signals (R87). -/
def Dev.completeAcc (d : Dev) (id : Nat) : Dev :=
  match d.acc id with
  | none => d
  | some a =>
    ((d.dropAcc id).raiseSignals a.core .st a.cmd.opIndex a.seq (d.stationReq a.core a.cmd.op) a.cmd.signals).finishEnd
      a.core

/-- The handle's bytes written from an offset, when the handle still names a live buffer with room. -/
def Dev.writeHandle (d : Dev) (h : Word64) (off : Nat) (bs : List Byte) : Dev :=
  match d.checkHandle h ⟨off, bs.length, 1, true⟩ with
  | .error _ => d
  | .ok b => d.storeBuf b off bs

/-! ## The Bazaar's messages and record -/

/-- Message kinds (R211). -/
def bzHeader : Nat := 1
def bzRows : Nat := 2
def bzRequest : Nat := 3
def bzGrant : Nat := 4
def bzDropList : Nat := 5
def bzAbort : Nat := 6

/-- The 32 bytes of a message head with a given CRC (R211). -/
def bzHead (m : BzMsg) (crc : Nat) : List Byte :=
  leBytes 1 m.version ++ leBytes 1 m.kind ++ leBytes 1 m.phase ++ leBytes 1 m.format ++ leBytes 2 m.layer ++
    leBytes 1 m.microBatch ++ leBytes 1 m.resv ++ leBytes 2 m.src ++ leBytes 2 m.dst ++ leBytes 4 m.epoch ++
    leBytes 4 crc ++ leBytes 4 m.body.length ++ leBytes 2 m.hTiles ++ leBytes 6 m.resvHi

/-- The CRC of a message (R211). -/
def bzCrc (m : BzMsg) : Nat := crc32c (bzHead m 0 ++ m.body)

/-- The phase code of a direction's dispatch or return (R207). -/
def phaseCode (bwd ret : Bool) : Nat := 2 * b2n bwd + b2n ret

/-- A message of a round goes to another member, in the stream of its round and phase (R215, R384). -/
def Dev.sendBz (d : Dev) (core kind phase fmt layer mb dst epoch hTiles : Nat) (body : List Byte) : Dev :=
  let m : BzMsg := { version := 1, kind := kind, phase := phase, format := fmt, layer := layer, microBatch := mb, resv := 0,
                     src := d.fx.rankSelf, dst := dst, epoch := epoch, crc := 0, hTiles := hTiles, resvHi := 0,
                     body := padTo 32 body }
  let die := dieOfCore d.grade core
  let tiles := if kind = bzRows then (fmtOf fmt).elim 0 fun f => hTiles * tileTotal f else 0
  d.sendMessage (.bazaar die (bzKey phase layer mb) tiles) (reqBazaar die) dst [0, phase, layer, mb] (bzHead m (bzCrc m) ++ m.body)

/-- The round record (R235). -/
def Dev.roundRecord (d : Dev) (r : Round) (p : PhaseSt) (status : Nat) : List Byte :=
  let miss := p.members.filter (·.missing)
  let map := miss.foldl (fun (m : Nat) x => m ||| 2 ^ x.pos) 0
  leBytes 1 1 ++ leBytes 1 p.phase ++ leBytes 1 status ++ zeros 1 ++ leBytes 2 r.layer ++ leBytes 1 r.mb ++ zeros 1 ++
    leBytes 4 p.rowsSent ++ leBytes 4 p.rows.length ++ leBytes 4 p.overrun ++ leBytes 4 p.dup ++ leBytes 4 p.reexpr ++
    leBytes 4 p.torn ++ leBytes 2 miss.length ++
    leBytes 2 ((miss.foldl (fun (a : Option Nat) x => some (min x.pos (a.getD x.pos))) none).elim 0xFFFF
      fun q => r.members.getD q 0xFFFF) ++
    leBytes 2 (miss.filter (·.stale)).length ++ zeros 2 ++ leBytes 8 p.tOpen ++ leBytes 8 d.timeStamp ++ zeros 8 ++
    padTo 32 (leBytes (ceilDiv r.members.length 8) map)

/-- The RECORD operand of a DISPATCH or COMBINE. -/
def opRecord : Op → Word64
  | .dispatch a => a.r.record
  | .combine a => a.r.record
  | _ => 0

/-- A DISPATCH or COMBINE completes: its record is written, then its signals are raised (R225, R231, R235). -/
def Dev.closePhase (d : Dev) (r : Round) (p : PhaseSt) (status : Nat) : Dev :=
  match d.acc p.acc with
  | none => d
  | some a => (d.writeHandle (opRecord a.cmd.op) 0 (d.roundRecord r p status)).completeAcc p.acc

/-- Tag entries that the open rounds hold (R227). -/
def Bazaar.tagsInUse (b : Bazaar) : Nat := (b.rounds.map (·.entries)).sum

/-! ## Rounds -/

/-- The open round of a direction, layer and micro-batch. -/
def Dev.round? (d : Dev) (bwd : Bool) (layer mb : Nat) : Option Round :=
  d.bz.rounds.find? fun r => r.bwd == bwd && r.layer == layer && r.mb == mb

/-- The device with one round changed. -/
def Dev.setRound (d : Dev) (bwd : Bool) (layer mb : Nat) (f : Round → Round) : Dev :=
  { d with bz := { d.bz with rounds := d.bz.rounds.map fun r =>
      if r.bwd == bwd && r.layer == layer && r.mb == mb then f r else r } }

/-- The phase of a round on this device: its dispatch or its return. -/
def Round.phase? (r : Round) (ret : Bool) : Option PhaseSt := if ret then r.comb else r.disp

/-- A round with a phase changed. -/
def Round.mapPhase (r : Round) (ret : Bool) (f : PhaseSt → PhaseSt) : Round :=
  if ret then { r with comb := r.comb.map f } else { r with disp := r.disp.map f }

/-- The device with a phase changed. -/
def Dev.mapPhase (d : Dev) (r : Round) (ret : Bool) (f : PhaseSt → PhaseSt) : Dev :=
  d.setRound r.bwd r.layer r.mb fun x => x.mapPhase ret f

/-- A phase at its beginning, of `s` members and a device with `experts` local experts. -/
def PhaseSt.opening (phase : Nat) (a : Accepted) (epoch : Nat) (f : Fmt) (hTiles s experts : Nat) (res : Option Nat)
    (choices : List (List (Bool × Nat))) : PhaseSt :=
  let member (p : Nat) : MemberSt :=
    { pos := p, header := false, rows := 0, groups := 0, drops := 0, byExpert := List.replicate experts 0, missing := false,
      stale := false }
  { phase := phase, acc := a.id, reservation := res, epoch := epoch, fmt := f, hTiles := hTiles, members := (List.range s).map member,
    rows := [], sentHeaders := false, arranged := false, rowsSent := 0, overrun := 0, dup := 0, reexpr := 0, torn := 0, dropTags := [],
    choices := choices, outDone := [], retired := [], toPush := [], nan := none, since := a.since, tOpen := a.stamp }

/-- The round that a backward DISPATCH of a core opens (R229). -/
def bwdRound (core id entries : Nat) (x : DispatchArgs) : Round :=
  { bwd := true, layer := x.r.layer, mb := x.r.microBatch, core := core, tokens := x.r.tokens, k := x.r.k, epoch := x.r.epoch,
    members := [], pos := x.r.pos, negotiated := x.negotiated, route := [], gateDone := true, fmt := x.rowsFmt,
    hTiles := ceilDiv x.r.hidden 32, requests := [], granted := false, shares := [], grants := [], reqMissing := [],
    entries := entries, gateStart := 0, opener := some id, early := [], disp := none, comb := none, arranged := [] }

/-- Whether an accepted command is the DISPATCH or COMBINE of a round on this device: the one whose phase runs, or one that waits for
its phase to begin (R208). -/
def Round.owns (r : Round) (a : Accepted) : Bool :=
  match a.cmd.op with
  | .dispatch x => x.r.bwd == r.bwd && x.r.layer == r.layer && x.r.microBatch == r.mb &&
      r.disp.elim (!r.bwd || r.opener == some a.id) fun p => p.acc == a.id
  | .combine x => x.r.bwd == r.bwd && x.r.layer == r.layer && x.r.microBatch == r.mb && r.comb.elim true fun p => p.acc == a.id
  | _ => false

/-- A command of a round that has ended completes FAILED (R233), with the record of its phase, or of one that never began. -/
def Dev.failOp (d : Dev) (r : Round) (a : Accepted) : Dev :=
  let ret := match a.cmd.op with | .combine _ => true | _ => false
  let none_ := PhaseSt.opening (phaseCode r.bwd ret) a r.epoch r.fmt r.hTiles 0 0 none []
  d.closePhase r (((r.phase? ret).filter fun p => p.acc == a.id).getD none_) 2

/-- The end of a round under R233: ABORTs for the phases whose HEADER has not gone out, its operations FAILED, its entries
retired, the round closed. An ABORT of a phase that has not begun carries the format and width of the round's rows (log entry 99). -/
def Dev.endRound (d : Dev) (r : Round) : Dev :=
  let others := r.members.filter fun m => m != d.fx.rankSelf
  let abort (d : Dev) (ret : Bool) : Dev :=
    let fmt := (r.phase? ret).elim r.fmt (·.fmt)
    let ht := (r.phase? ret).elim r.hTiles (·.hTiles)
    if (r.phase? ret).elim false (·.sentHeaders) then d
    else others.foldl (fun d m =>
      d.sendBz r.core bzAbort (phaseCode r.bwd ret) (fmtCode fmt) r.layer r.mb m r.epoch ht (zeros 32)) d
  let d := abort (abort d false) true
  let phases := [false, true].map fun ret => bzKey (phaseCode r.bwd ret) r.layer r.mb
  let d := { d with
    bz := { d.bz with rounds := d.bz.rounds.filter fun x => !(x.bwd == r.bwd && x.layer == r.layer && x.mb == r.mb) },
    ct := { d.ct with tracks := d.ct.tracks.filter fun t => !(t.row == 2 && phases.contains t.key) } }
  (d.accepted.filter r.owns).foldl (fun d a => d.failOp r a) d

/-- Whether a core runs a GATE, DISPATCH or COMBINE of a round. -/
def Dev.roundOf (d : Dev) (c : Nat) (r : Round) : Bool :=
  (r.core == c && !r.bwd && !r.gateDone) || d.accepted.any fun a => a.core == c && r.owns a

/-- The rounds that a core's halt ends (R233), with the openings it waits for: a backward DISPATCH among them completes FAILED. -/
def Dev.endRoundsOf (d : Dev) (c : Nat) : Dev :=
  let d := (d.bz.rounds.filter fun r => d.roundOf c r).foldl (fun d r => d.endRound r) d
  let gone := d.bz.waits.filter fun w => w.core == c
  gone.foldl (fun d w => match d.acc w.acc with
    | some a => match a.cmd.op with
      | .dispatch x => if w.bwd then d.failOp (bwdRound c a.id w.need x) a else d
      | _ => d
    | none => d) { d with bz := { d.bz with waits := d.bz.waits.filter fun w => w.core != c } }

/-! ## Halts -/

/-- A core halts, with the end of the rounds that its failing command belongs to and of those it runs (R102, R233), and what its halt
completes. -/
def Dev.haltWith (d : Dev) (c : Nat) (h : HaltInfo) (rs : List Round) : Dev :=
  let finish (d : Dev) : Dev := rs.foldl (fun d r => d.endRound r) d
  if (d.core c).halted then finish d else ((finish (d.haltBase c h)).endRoundsOf c).jobCheck

/-- A core halts. -/
def Dev.haltCore (d : Dev) (c : Nat) (h : HaltInfo) : Dev := d.haltWith c h []

/-- What a halt ends (R233) when a signal that could not leave has halted a core that ran before. -/
def Dev.afterHalt (d : Dev) (c : Nat) (before : Bool) : Dev :=
  if (d.core c).halted && !before then (d.endRoundsOf c).jobCheck else d

/-- The command at the head of a unit's queue halts its core (R102, R104). -/
def Dev.haltCmd (d : Dev) (c : Nat) (u : EngUnit) (h : HaltInfo) : Dev :=
  match (d.core c).queue u with
  | [] => d.haltCore c { h with unit := u.code }
  | q :: _ => d.haltCore c { h with unit := u.code, opIndex := q.cmd.opIndex, seq := q.seq }

/-- A station command halts its issuing core and is over (R88, R107); a DISPATCH or COMBINE ends its round (R233). -/
def Dev.haltAcc (d : Dev) (id : Nat) (h : HaltInfo) : Dev :=
  match d.acc id with
  | none => d
  | some a => (d.dropAcc id).haltWith a.core { h with unit := 4, opIndex := a.cmd.opIndex, seq := a.seq } (d.bz.rounds.filter fun r => r.owns a)

/-- The status of a DISPATCH, COMBINE or GATE from its members and those missing: OK, PARTIAL, or FAILED when every other member is
missing (R231). -/
def lossStatus (members missing : Nat) : Nat := if missing = 0 then 0 else if missing + 1 ≥ members then 2 else 1

/-- The error record that names a round with missing members (R231). -/
def Dev.lossRecord (d : Dev) (core layer mb phase status : Nat) : Dev :=
  if status = 0 then d
  else d.detect (detId 0x26 (dieOfCore d.grade core)) 1 false none (phase + status * 256) (layer + mb * 2 ^ 16) 0

/-- A DISPATCH or COMBINE whose phase has ended and that has nothing left to write or push completes: error record, round record and
signals, or NAN_ABORT (R107, R223, R225, R231, R235). -/
def Dev.closeOp (d : Dev) (r : Round) (p : PhaseSt) : Dev :=
  let status := lossStatus p.members.length (p.members.filter (·.missing)).length
  let d := (d.lossRecord r.core r.layer r.mb p.phase status).retireTrack 2 (bzKey p.phase r.layer r.mb)
  match d.acc p.acc with
  | none => d
  | some a =>
    match a.cmd.nanTrap, p.nan with
    | true, some addr =>
      (d.writeHandle (opRecord a.cmd.op) 0 (d.roundRecord r p status)).haltAcc p.acc
        { reason := rNanAbort, unit := 4, address := addr, d0 := 0xFF }
    | _, _ => d.closePhase r p status

/-- A station command that completed REJECTED halts its core with BAD_OPERAND, kind 10 (R88). -/
def Dev.rejectAcc (d : Dev) (id addr cause : Nat) : Dev :=
  d.haltAcc id { reason := rBadOperand, unit := 4, kind := 10, address := addr, d0 := cause }

/-- A MATMUL in the pipe halts its core (R102, R104). -/
def Dev.haltJob (d : Dev) (c k : Nat) (h : HaltInfo) : Dev := (d.setCore c fun s => s.unpipe k).haltCmd c .mx h

/-- MX of a core idles once its queue, its pipe and its operand store are empty: the run of accumulations ends (R127, R533). -/
def Dev.mxIdle (d : Dev) (c : Nat) (before : CoreSt) : Dev :=
  let s := d.core c
  if s.mx.isEmpty && s.pipe.isEmpty && s.acc.pairs.isEmpty && !(before.mx.isEmpty && before.pipe.isEmpty) then d.runEnd c else d

/-- A command completes: its entry frees and its signals are raised (R73, R87). -/
def Dev.leave (d : Dev) (c : Nat) (u : EngUnit) (q : QCmd) (free : CoreSt → CoreSt) : Dev :=
  ((((d.setCore c free).mxIdle c (d.core c)).raiseSignals c u q.cmd.opIndex q.seq (reqCore c) q.cmd.signals).afterHalt c
    (d.core c).halted).finishEnd c

/-- The running command of a unit completes (R87); under NAN_TRAP with a NaN tile written, the core halts instead (R107). -/
def Dev.complete (d : Dev) (c : Nat) (u : EngUnit) : Dev :=
  match (d.core c).queue u with
  | [] => d
  | q :: qs =>
    match q.trap with
    | some (a, qn) => d.haltCmd c u { reason := rNanAbort, unit := u.code, address := a, d0 := qn }
    | none => d.leave c u q fun s => s.setQueue u qs

/-- The oldest MATMUL of the pipe completes, and its bank is free (R119, R139, R150). -/
def Dev.completeJob (d : Dev) (c : Nat) : Dev :=
  match (d.core c).pipe with
  | [] => d
  | j :: js =>
    match j.cmd.trap with
    | some (a, qn) => d.haltJob c 0 { reason := rNanAbort, unit := 1, address := a, d0 := qn }
    | none => d.leave c .mx j.cmd fun s => { s with pipe := js }

/-- Every core that has not halted halts, but for frozen ones under a job stop (R108, R445, R487): the halt each takes. -/
def Dev.haltAll (d : Dev) (h : HaltInfo) : Dev :=
  (List.range d.n).foldl (fun d c => if (d.core c).frozen then d else (d.haltBase c h).endRoundsOf c) d

/-- A halt that waits for the end of every swap under way (R108, R487). -/
def Dev.stopSwaps (d : Dev) : Dev :=
  let mark (x : Swap) : Swap := { x with stopWaits := true }
  { d with trust := { d.trust with swaps := d.trust.swaps.map mark } }

/-- Cores that have not halted. -/
def Dev.liveCores (d : Dev) : Nat := (d.cores.filter fun s => !s.halted).length

/-! ## DEVICE_FATAL (R548) -/

/-- Every started descriptor completes FAILED with reason BUS_ERROR (R548). -/
def Dev.failDescs (d : Dev) (errSeq : Nat) : Dev :=
  d.host.rings.foldl (fun d r =>
    (r.descs.filter (·.started)).foldl (fun d x =>
      let p : Nat × Nat := if x.opcode = 2 then (d.timeStamp, 0xFFFFFFFF)
        else if x.opcode = 5 then (x.good, x.failLine.getD 0xFFFFFFFF) else (0, 0)
      d.putRecord r.num x.slot stFailed 0x21 p.1 p.2 errSeq) d) d

/-- A DEVICE_FATAL detection (R548, R564): the record, SMB_ALERT_N, every core halted with SOURCE 1, every started descriptor FAILED, FAULT. -/
def Dev.deviceFatal (d : Dev) (det : Nat) (inj : Bool) (d0 : Nat) : Dev :=
  let d := d.detect det 3 inj none d0 0 0
  let seq := d.er.seq
  let d := { d with er := { d.er with fatal := true, fatalSeq := seq }, trust := { d.trust with smbAlert := true } }
  if d.boot.st ≤ 3 then { d with boot := { d.boot with st := 6 } }
  else
    let d := (d.haltAll { reason := rHostHalt, source := 1, unit := 5, d0 := 0xFFFF, d1 := seq }).stopSwaps
    let d := { d with job := d.job.map fun (j : Job) =>
      ({ j with stopped := true, fatalSeq := seq, start := Option.none, halters := [] } : Job) }
    let d := d.failDescs (seq % 65536)
    { d with boot := { d.boot with st := 6 } }

/-- The parity of a die's tables (DIE_TABLE_CE, DIE_TABLE_UE under injection): `table` is 1 work list, 2 Depot, 3 Bazaar, 4
placement (R537, R576). False says that the device is in FAULT now. -/
def Dev.tableCheck (d : Dev) (die table : Nat) : Bool × Dev :=
  let (ue, d) := d.mimic (detId 0x24 die)
  if ue then (false, d.deviceFatal (detId 0x24 die) true table)
  else
    let (ce, d) := d.mimic (detId 0x23 die)
    (true, if ce then d.detect (detId 0x23 die) 0 true none 0 0 0 else d)

/-- A transfer over the die-to-die bridge (BRIDGE_RETRY, BRIDGE_FAIL under injection). -/
def Dev.bridgeCheck (d : Dev) (die : Nat) : Bool × Dev :=
  let (bad, d) := d.mimic (detId 0x22 die)
  if bad then (false, d.deviceFatal (detId 0x22 die) true 0)
  else
    let (ce, d) := d.mimic (detId 0x21 die)
    (true, if ce then d.detect (detId 0x21 die) 0 true none 0 0 0 else d)

/-! ## The die-to-die bridge (R22, R23) -/

/-- Traffic between units on two dies: one on the other die crosses the bridge (R23). False says that the device is in FAULT now. -/
def Dev.cross (d : Dev) (here there : Nat) : Bool × Dev := if here = there then (true, d) else d.bridgeCheck here

/-- Traffic between a unit on a die and the Wells of scattered pieces of device memory. -/
def Dev.crossTo (d : Dev) (die : Nat) (ps : List (Nat × Nat)) : Bool × Dev :=
  let dies := (ps.filter fun p => decide (p.1 < hostBase)).map fun p => dieOfWell (wellOf d.grade p.1)
  d.cross die ((dies.find? fun x => x != die).getD die)

/-- Traffic between a unit on a die and the port that carries its next packet. -/
def Dev.crossPort (d : Dev) (die : Nat) : Bool × Dev := d.cross die (d.pickPort.elim die dieOfPort)

/-- A read of device memory by a unit on a die. -/
def Dev.readAcross (d : Dev) (die req a n : Nat) : Option (List Byte) × Dev :=
  match d.crossTo die [(a, n)] with
  | (false, d) => (none, d)
  | (true, d) => d.readFor req a n

/-- A read of scattered pieces by a unit on a die. -/
def Dev.piecesAcross (d : Dev) (die req : Nat) (ps : List (Nat × Nat)) : Option (List Byte) × Dev :=
  match d.crossTo die ps with
  | (false, d) => (none, d)
  | (true, d) => d.readPieces req ps

/-- A write to device memory by a unit on a die. -/
def Dev.writeAcross (d : Dev) (die a : Nat) (bs : List Byte) : Dev :=
  match d.crossTo die [(a, bs.length)] with
  | (false, d) => d
  | (true, d) => d.write a bs

end Sys2Proof.Machine
end

