-- ==== Sys2Proof/Machine/FabricRx.lean ====
section
/-! DEFINITION. The receiving checks of the fabric (R378, R379, R396, R577), with what they count and record (R393, R405),
and reads and writes of this device's memory for a fabric requester. Requests to the own slot take the same path (R376). -/

namespace Sys2Proof.Machine

open Sys2Proof

/-- A count register of the fabric block and its FX_ERR bit (R405). Counts in the order REJ_JOB, REJ_ACCESS, REJ_RANGE,
POISON_CPL, TIMEOUTS, LATE_CPL, CRC_DROP, REJ_MGMT. -/
def Dev.fxCount (d : Dev) (i errBit : Nat) : Dev :=
  { d with fx := { d.fx with counts := d.fx.counts.modify i fun n => sat32 (n + 1), err := wset d.fx.err errBit } }

/-- The device offset of a fabric address (R375). -/
def devOffset (a : Nat) : Nat := (a % 2 ^ 48) % 0x6000000000

/-- The window that holds a range wholly and permits an operation (R378, R379): PERM bit 0 READ, 1 WRITE, 2 ATOMIC. -/
def Dev.window (d : Dev) (off len perm : Nat) : Option Window :=
  d.fx.windows.find? fun w =>
    decide (w.remote ≤ off) && decide (off + len ≤ w.remote + w.size) && w.perm.testBit perm

/-- Checks 1 to 4 of R378 for an address-bearing request: the device address, or the status. `coherent` says that the
request is in the COHERENT class. -/
def Dev.rxAddr (d : Dev) (job addr len perm : Nat) (coherent : Bool) : Except Nat Nat :=
  if job ≠ d.fx.jobId || d.fx.jobId = 0 || !wbit d.fx.ctrl 0 then .error 1
  else match d.window (devOffset addr) len perm with
    | none => .error 2
    | some w =>
      let a := w.localBase + (devOffset addr - w.remote)
      if !inJobMem d.grade a len then .error 3
      else if coherent && !d.inCoh a len then .error 5
      else if perm = 1 && !coherent && d.inCoh a len then .error 5
      else .ok a

/-- A refusal counted and recorded (R378, R393, FAB_REJECT of R537). -/
def Dev.rxRefuse (d : Dev) (port src job st : Nat) (inj : Bool) : Dev :=
  let d := if st = 1 then d.fxCount 0 1 else if st = 2 then d.fxCount 1 2 else if st = 3 then d.fxCount 2 4 else d
  if st = 1 || st = 2 || st = 3 then d.detect (detId 0x2A port) 1 inj none st src job else d

/-- The checks of R378 with their counts, and the injection point FAB_REJECT, which reports ACCESS (R576). -/
def Dev.rxCheck (d : Dev) (port src job addr len perm : Nat) (coherent : Bool) : Except Nat Nat × Dev :=
  match d.rxAddr job addr len perm coherent with
  | .error st => (.error st, d.rxRefuse port src job st false)
  | .ok a =>
    let (m, d) := d.mimic (detId 0x2A port)
    if m then (.error 2, d.rxRefuse port src job 2 true) else (.ok a, d)

/-- A POISON answer counted (R393). -/
def Dev.poisonAnswer (d : Dev) : Dev := d.fxCount 3 8

/-- Whether a range touches a line whose only copy was lost with a member (R398). -/
def Dev.lostIn (d : Dev) (a n : Nat) : Bool :=
  d.fx.lostLines.any fun l => decide (a < (l + 1) * 128) && decide (l * 128 < a + n)

/-- The die on which a fabric request meets device memory: its port's; that of the Well for one to the own slot (R376). -/
def Dev.portDie (d : Dev) (port a : Nat) : Nat := if port < 18 then dieOfPort port else dieOfWell (wellOf d.grade a)

/-- A read for a fabric requester: check 5 of R378. A line already poisoned answers POISON with FAB_POISON; a fresh ECC
failure is recorded by HBM_UE alone (R393). -/
def Dev.rxData (d : Dev) (port src a n : Nat) : Except Nat (List Byte) × Dev :=
  if d.lostIn a n then (.error 8, d)
  else match d.poisonedIn a n with
    | some l => (.error 4, (d.detect (detId 0x2B port) 1 false (some (l * lineBytes)) 0 src 0).poisonAnswer)
    | none =>
      let (m, d) := d.mimic (detId 0x2B port)
      if m then (.error 4, (d.detect (detId 0x2B port) 1 true (some a) 0 src 0).poisonAnswer)
      else match d.readAcross (d.portDie port a) (reqFabric src) a n with
        | (none, d) => (.error 4, d.poisonAnswer)
        | (some bs, d) => (.ok bs, d)

/-- A READ served: the data, or the status (R378). -/
def Dev.rxRead (d : Dev) (port src job addr len : Nat) (coherent : Bool) : Except Nat (List Byte) × Dev :=
  match d.rxCheck port src job addr len 0 coherent with
  | (.error st, d) => (.error st, d)
  | (.ok a, d) => d.rxData port src a len

/-- A WRITE served: its status (R378, R385). -/
def Dev.rxWrite (d : Dev) (port src job addr : Nat) (data : List Byte) (coherent : Bool) : Nat × Dev :=
  match d.rxCheck port src job addr data.length 1 coherent with
  | (.error st, d) => (st, d)
  | (.ok a, d) => (0, d.writeAcross (d.portDie port a) a data)

end Sys2Proof.Machine
end

