-- ==== Sys2Proof/Machine/Replicas.lean ====
section
/-! DEFINITION. Reads that a replica may serve (R360, R361): the redirect, the fall back to the primary, and dropping a replica. -/

namespace Sys2Proof.Machine

open Sys2Proof

/-- A replica is dropped: its buffer is free again (R361). -/
def Dev.dropReplica (d : Dev) (slot : Nat) : Dev :=
  if d.place.replicas.any fun r => r.slot == slot then
    { d with place := { d.place with replicas := d.place.replicas.filter fun r => r.slot != slot } }.freeSlotNow slot
  else d

/-- The offset of an address within a buffer, if one of its extents holds it (R344). -/
def Buf.offsetOf (b : Buf) (a : Nat) : Option Nat :=
  if b.kind = 1 then none
  else b.spans.zipIdx.findSome? fun x =>
    if x.1.1 ≤ a && a < x.1.1 + x.1.2 then some (((b.spans.take x.2).map (·.2)).sum + (a - x.1.1)) else none

/-- The complete replica on a die that holds a range of a version buffer, and the addresses of the range in it (R360). -/
def Dev.replicaFor (d : Dev) (die a n : Nat) : Option (Replica × List (Nat × Nat)) :=
  d.place.replicas.findSome? fun r =>
    if !r.complete || dieOfWell r.well ≠ die then none
    else match d.depot.buf r.vslot, d.depot.buf r.slot with
      | some v, some b =>
        match v.offsetOf a with
        | some o => if r.lo ≤ o && o + n ≤ r.lo + r.len then some (r, b.pieces (o - r.lo) n) else none
        | none => none
      | _, _ => none

/-- Lines of a stream cache of 160 MiB (R339). -/
def cacheLines : Nat := 81920

/-- Lines read for a die enter its stream cache, most recent first (R339; log entry 69). -/
def Dev.cacheFill (d : Dev) (die : Nat) (ls : List Nat) : Dev :=
  let others := d.depot.cached.filter fun x => !(x.1 == die && ls.contains x.2)
  let mine := (ls.map fun l => (die, l)) ++ others.filter fun x => x.1 == die
  { d with depot := { d.depot with cached := mine.take cacheLines ++ others.filter fun x => x.1 != die } }

/-- A read of device memory through a die's stream cache (R339, R340). Lines that are all held there are not read again, unless a
parity error of one (SCACHE_PARITY, under injection) drops them: it is counted and they are read from memory. Coherent lines never
enter (R395). -/
def Dev.readStream (d : Dev) (die req a n : Nat) : Option (List Byte) × Dev :=
  let ls := linesOf a n
  let held := ls.filter fun l => d.depot.cached.contains (die, l)
  let fill (d : Dev) : Option (List Byte) × Dev :=
    match d.readFor req a n with
    | (none, d) => (none, d)
    | (some bs, d) => (some bs, d.cacheFill die ls)
  if d.inCoh a n then d.readFor req a n
  else if held.isEmpty then fill d
  else match d.mimic (detId 0x20 die) with
    | (true, d) =>
      let d := d.detect (detId 0x20 die) 0 true none 0 0 0
      fill { d with depot := { d.depot with scParity := sat32 (d.depot.scParity + 1),
                                            cached := d.depot.cached.filter fun x => !(x.1 == die && held.contains x.2) } }
    | (false, d) => if held.length = ls.length then (some (d.peek a n), d.cacheFill die ls) else fill d

/-- A read for a unit of a die: through its stream cache where the unit uses it (R339). -/
def Dev.readCached (d : Dev) (cached : Bool) (die req a n : Nat) : Option (List Byte) × Dev :=
  if cached then d.readStream die req a n else d.readFor req a n

/-- One piece read for a unit on a die: from a replica on that die when there is one, and again from the primary when the
replica fails (R360, R361). -/
def Dev.readPiece (d : Dev) (cached : Bool) (die req a n : Nat) : Option (List Byte) × Dev :=
  match d.replicaFor die a n with
  | none => d.readCached cached die req a n
  | some (r, ps) =>
    let p0 := (ps.head?.map (·.1)).getD 0
    let bad := ps.findSome? fun p => d.poisonedIn p.1 p.2
    let (m, d) := d.mimic (detId 0x0C (wellOf d.grade p0))
    if m || bad.isSome then
      let l := bad.getD (p0 / lineBytes)
      let d := d.detect (detId 0x0C (wellOf d.grade p0)) 0 (bad.isNone && m) (some (l * lineBytes)) 0 0 0
      (d.dropReplica r.slot).readCached cached die req a n
    else
      let lines := (ps.map fun p => (linesOf p.1 p.2).length).sum
      (some (ps.flatMap fun p => d.peek p.1 p.2),
       { d with place := { d.place with replicaReads := sat32 (d.place.replicaReads + lines) } })

/-- Every piece, or none. -/
def Dev.readVia (d : Dev) (cached : Bool) (die req : Nat) : List (Nat × Nat) → Option (List Byte) × Dev
  | [] => (some [], d)
  | (a, n) :: ps =>
    match d.readPiece cached die req a n with
    | (none, d) => (none, d)
    | (some bs, d) =>
      match d.readVia cached die req ps with
      | (none, d) => (none, d)
      | (some cs, d) => (some (bs ++ cs), d)

end Sys2Proof.Machine
end

