-- ==== Sys2Proof/Machine/Operands.lean ====
section
/-! DEFINITION. Where operand bytes lie (R253, R336, R344, R374) and how a unit reads and writes them: device memory,
another device's memory by fabric packets (R376, R381, R395), and host memory of a spilled allocation (R253). Tile operands
with their checks (R36, R61, R65 to R67, R348, R572). -/

namespace Sys2Proof.Machine

open Sys2Proof

/-- Where a range of bytes lies. -/
inductive Span where
  | mem (pieces : List (Nat × Nat))
  | fabric (addr len : Nat)
  | host (addr len : Nat)
  deriving DecidableEq, Repr

/-- The span of a range of a buffer (R253, R344). -/
def Buf.span (b : Buf) (off len : Nat) : Span :=
  if b.kind = 1 then .host (b.extents.getD 0 0 + off) len else .mem (b.pieces off len)

/-- The first address of a span, for a halt record. -/
def Span.addr : Span → Nat
  | .mem ps => (ps.head?.map (·.1)).getD 0
  | .fabric a _ => a
  | .host a _ => a

/-- The length of a span. -/
def Span.len : Span → Nat
  | .mem ps => (ps.map (·.2)).sum
  | .fabric _ n => n
  | .host _ n => n

/-- The fabric ID that a fabric address names (R371, R375, R376). -/
def Dev.fidOf (d : Dev) (a : Nat) : Nat :=
  let hi := a >>> 48
  (if hi = 1 then d.ownDomain else hi - 0x4000) * 128 + (a % 2 ^ 48) / 0x6000000000

/-- Whether a fabric address names this device. -/
def Dev.isOwn (d : Dev) (a : Nat) : Bool := d.fx.fid.isSome && d.fidOf a == d.fx.fid.getD 0

/-- Whether a range on another device lies in the coherent window of a member of the formed group (R394, R468). -/
def Dev.peerCoh (d : Dev) (a n : Nat) : Bool :=
  wbit d.fx.ctrl 2 && d.fx.cohFormed &&
    d.fx.cohPeers.any fun p => p.1 == d.fidOf a && decide (p.2.1 ≤ devOffset a) &&
      decide (devOffset a + n ≤ p.2.1 + p.2.2)

/-- Whether a span touches a coherent window, here or on another member (R395, R396). -/
def Dev.spanCoh (d : Dev) : Span → Bool
  | .mem ps => ps.any fun p => d.inCoh p.1 p.2
  | .fabric a n => d.peerCoh a n || (d.isOwn a && d.inCoh (devOffset a) n)
  | .host .. => false

/-- Whether the bytes of a span come from outside the device. -/
def Dev.spanRemote (d : Dev) : Span → Bool
  | .mem _ => false
  | .fabric a _ => !d.isOwn a
  | .host .. => true

/-! ## Bytes that a command waits for -/

/-- The place of byte `off` of input `key`. -/
def inPlace (key off : Nat) : Nat := key * 2 ^ 40 + off

/-- The inputs that a reader holds. -/
def Dev.inputs (d : Dev) : Reader → List (Nat × List Byte)
  | .eng c u => (d.running c u).elim [] (·.inputs)
  | .acc id => (d.acc id).elim [] (·.inputs)

/-- Whether a reader has asked for its inputs. -/
def Dev.asked (d : Dev) : Reader → Bool
  | .eng c u => (d.running c u).elim false (·.asked)
  | .acc id => (d.acc id).elim false (·.asked)

/-- The head of a unit's queue changed. -/
def Dev.setHead (d : Dev) (c : Nat) (u : EngUnit) (f : QCmd → QCmd) : Dev :=
  d.setCore c fun s => s.setQueue u (match s.queue u with | [] => [] | q :: qs => f q :: qs)

/-- An accepted command changed. -/
def Dev.setAcc (d : Dev) (id : Nat) (f : Accepted → Accepted) : Dev :=
  { d with accepted := d.accepted.map fun a => if a.id == id then f a else a }

/-- A reader's mark that it has asked. -/
def Dev.markAsked (d : Dev) : Reader → Dev
  | .eng c u => d.setHead c u fun q => { q with asked := true }
  | .acc id => d.setAcc id fun a => { a with asked := true }

/-- Bytes arrive at a place of a reader's inputs. -/
def Dev.giveInput (d : Dev) (r : Reader) (place : Nat) (bs : List Byte) : Dev :=
  match r with
  | .eng c u => d.setHead c u fun q => { q with inputs := (place, bs) :: q.inputs }
  | .acc id => d.setAcc id fun a => { a with inputs := (place, bs) :: a.inputs }

/-- A place among a reader's inputs whose bytes came back with an error: zeros, and a mark. -/
def Dev.failInput (d : Dev) (r : Reader) (place len : Nat) : Dev :=
  (d.giveInput r place (zeros len)).giveInput r (2 ^ 120 + place) []

/-- Whether some bytes of an input came back with an error (R545). -/
def Dev.inputFailed (d : Dev) (r : Reader) (key : Nat) : Bool :=
  (d.inputs r).any fun x => decide (2 ^ 120 ≤ x.1) && (x.1 - 2 ^ 120) / 2 ^ 40 == key

/-- A host read, or its place in the line for a tag. -/
def Dev.askOrQueue (d : Dev) (addr len : Nat) (use : HostUse) : Dev :=
  match d.askHost addr len use with
  | some d => d
  | none => { d with host := { d.host with queued := d.host.queued ++ [(addr, len, use)] } }

/-- Whether a span touches a line of this device that is held for a repair or a microcode switch (R332, R484). -/
def Dev.spanHeld (d : Dev) (s : Span) : Bool :=
  match s with
  | .mem ps => d.heldIn ps
  | .fabric a n => d.isOwn a && match d.rxAddr d.fx.jobId a n 0 (d.spanCoh s) with
    | .ok b => d.heldAt b n
    | .error _ => false
  | .host .. => false

/-- The running command of an engine waits for held lines (R332). -/
def Dev.waitMem (d : Dev) (c : Nat) (u : EngUnit) : Dev := d.setHead c u fun q => { q with memWait := true }

/-! ## Spilled operands of Well commands and collectives (R253) -/

/-- The spilled pieces of an operand are read for a Well command or a collective, before it starts (R253). -/
def Dev.fetchPieces (d : Dev) (id : Nat) (ps : List (Nat × Nat)) : Dev :=
  (ps.filter fun p => decide (hostBase ≤ p.1)).foldl (fun d p =>
    (List.range (ceilDiv p.2 4096)).foldl (fun d i =>
      d.askOrQueue (p.1 - hostBase + 4096 * i) (min 4096 (p.2 - 4096 * i)) (.fetch id)) d) d

/-- Whether spilled bytes for a Well command or a collective are still to come. -/
def Dev.fetching (d : Dev) (id : Nat) : Bool :=
  (d.host.reads.any fun r => r.use == .fetch id) || d.host.queued.any fun q => q.2.2 == .fetch id

/-- What is left of a range without another. -/
def cutRange (b : Nat × Nat) (a n : Nat) : List (Nat × Nat) :=
  [(b.1, min b.2 (a - b.1)), (max b.1 (a + n), b.1 + b.2 - max b.1 (a + n))].filter fun x => decide (0 < x.2)

/-- Bytes of a spilled allocation have arrived. -/
def HostIf.arrive (h : HostIf) (a : Nat) (bs : List Byte) : HostIf :=
  { h with fetched := Memory.writes h.fetched a bs, fetchBad := h.fetchBad.flatMap fun b => cutRange b a bs.length }

/-- Bytes of a spilled allocation could not be read. -/
def HostIf.miss (h : HostIf) (a n : Nat) : HostIf := { h with fetchBad := (a, n) :: h.fetchBad }

/-- The torn mark over a spilled tile whose content has been read (R64): the CRC field is written, once all of the content is there. -/
def Dev.tearSpilled (d : Dev) (a n : Nat) : Dev :=
  if (d.host.reads.any fun r => r.use == .tear a n) || d.host.queued.any fun q => q.2.2 == .tear a n then d
  else match d.host.piece a n with
    | none => d
    | some t => d.putHost (a + 16) (slice (tearTile t) 16 4)

/-- The torn mark over a tile in device memory, or in the spill ring, of which the content is read first (R64, R253). -/
def Dev.tearPieces (d : Dev) (ps : List (Nat × Nat)) : Dev :=
  match ps.find? fun p => decide (hostBase ≤ p.1) with
  | none => d.tearAt ps
  | some p =>
    let a := p.1 - hostBase
    ((List.range (ceilDiv p.2 4096)).foldl (fun d i =>
      d.askOrQueue (a + 4096 * i) (min 4096 (p.2 - 4096 * i)) (.tear a p.2)) d).noteTorn p.1 32

/-- The torn mark over the tile of `len` bytes at an offset of a buffer (R64). -/
def Dev.tearBuf (d : Dev) (b : Buf) (off len : Nat) : Dev := d.tearPieces (b.pieces off len)

/-- The requester code of a reader (R539). -/
def Dev.readerReq (d : Dev) : Reader → Nat
  | .eng c _ => reqCore c
  | .acc id => (d.acc id).elim 0 fun a => d.stationReq a.core a.cmd.op

/-- Whether a reader goes through its die's stream cache: the engines of a core, its gate station and the Bazaar half do (R339). -/
def Dev.readerCached (d : Dev) : Reader → Bool
  | .eng .. => true
  | .acc id => (d.acc id).elim false fun a => match a.cmd.op with | .dispatch _ | .combine _ => true | _ => false

/-- The die of a reader. -/
def Dev.readerDie (d : Dev) : Reader → Nat
  | .eng c _ => dieOfCore d.grade c
  | .acc id => (d.acc id).elim 0 fun a => dieOfCore d.grade a.core

/-- The die of the unit that issues a packet. -/
def Dev.useDie (d : Dev) : FxUse → Nat
  | .load r _ => d.readerDie r
  | .store c | .own c .. | .signal c .. | .queue c .. => dieOfCore d.grade c
  | .bazaar die .. => die
  | .adder p => dieOfPort p
  | .dead | .probe _ => 0

/-- A request packet toward a fabric address: the packet is issued, or the local status comes back (R401, R406). -/
def Dev.request (d : Dev) (use : FxUse) (cls op addr len : Nat) (payload : List Byte) (nonPosted : Bool) :
    Except Nat Dev :=
  match d.route (d.fidOf addr) (cls != 2) with
  | .error st => .error st
  | .ok (dest, gw) =>
    match d.crossPort (d.useDie use) with
    | (false, d) => .ok d
    | (true, d) => .ok (d.issue use (d.jobPacket cls op (if gw then 2 else 0) dest 0 len addr payload) nonPosted true)

/-- The READs for one input from outside: up to 4,096 bytes each (R382), 128-byte lines for coherent data (R395), device
reads of host memory for a spilled allocation (R253). A local status ends the asking. -/
def Dev.askSpan (d : Dev) (r : Reader) (key : Nat) (s : Span) : Except Nat Dev :=
  match s with
  | .mem _ => .ok d
  | .host a n => .ok ((List.range (ceilDiv n 4096)).foldl (fun d i =>
      d.askOrQueue (a + 4096 * i) (min 4096 (n - 4096 * i)) (.spill r (inPlace key (4096 * i)))) d)
  | .fabric a n =>
    if d.isOwn a then .ok d
    else if d.peerCoh a n then
      let a0 := a / 128 * 128
      (List.range (ceilDiv (a + n - a0) 128)).foldl (fun (e : Except Nat Dev) i => e.bind fun d =>
        d.request (.load r (inPlace key (128 * i))) 2 8 (a0 + 128 * i) 128 [] true) (.ok d)
    else (List.range (ceilDiv n 4096)).foldl (fun (e : Except Nat Dev) i => e.bind fun d =>
        d.request (.load r (inPlace key (4096 * i))) 0 1 (a + 4096 * i) (min 4096 (n - 4096 * i)) [] true) (.ok d)

/-- Insertion of an input by place. -/
def insertPlace (x : Nat × List Byte) : List (Nat × List Byte) → List (Nat × List Byte)
  | [] => [x]
  | y :: ys => if x.1 ≤ y.1 then x :: y :: ys else y :: insertPlace x ys

/-- The bytes of an input once every one of them has arrived. -/
def Dev.inputBytes (d : Dev) (r : Reader) (key : Nat) (s : Span) : Option (List Byte) :=
  let mine := ((d.inputs r).filter fun x => x.1 / 2 ^ 40 == key).foldr insertPlace []
  let bs := mine.flatMap (·.2)
  match s with
  | .fabric a n =>
    let lead := if d.peerCoh a n then a % 128 else 0
    if bs.length ≥ lead + n then some (slice bs lead n) else none
  | _ => if bs.length ≥ s.len then some (bs.take s.len) else none

/-- A read of device memory for a reader, over the bridge where it must be (R23) and through its die's stream cache (R339). -/
def Dev.readUnit (d : Dev) (r : Reader) (a n : Nat) : Option (List Byte) × Dev :=
  let die := d.readerDie r
  match d.crossTo die [(a, n)] with
  | (false, d) => (none, d)
  | (true, d) => d.readCached (d.readerCached r) die (d.readerReq r) a n

/-- Reads of a span when its bytes can be had now. The error is the address for the halt record; the newest error record
names the detector. -/
def Dev.readSpan (d : Dev) (r : Reader) (key : Nat) (s : Span) : Except Nat (List Byte) × Dev :=
  let req := d.readerReq r
  match s with
  | .mem ps =>
    match d.crossTo (d.readerDie r) ps with
    | (false, d) => (.error s.addr, d)
    | (true, d) =>
      match d.readVia (d.readerCached r) (d.readerDie r) req ps with
      | (some bs, d) => (.ok bs, d)
      | (none, d) => (.error (max s.addr ((d.er.log.head?.map (·.addr)).getD 0)), d)
  | .fabric a n =>
    if d.isOwn a then
      match d.rxRead 0xFF (d.fx.fid.getD 0) d.fx.jobId a n (d.spanCoh s) with
      | (.ok bs, d) => (.ok bs, d)
      | (.error st, d) => (.error a, d.cplErr none (some a) st req false)
    else (.ok ((d.inputBytes r key s).getD []), d)
  | .host .. => (.ok ((d.inputBytes r key s).getD []), d)

/-- Whether every input from outside has arrived. -/
def Dev.inputsIn (d : Dev) (r : Reader) (ss : List (Nat × Span)) : Bool :=
  ss.all fun x => !d.spanRemote x.2 || (d.inputBytes r x.1 x.2).isSome

/-- Whether the asking of a list of spans is due. -/
def Dev.mustAsk (d : Dev) (r : Reader) (ss : List (Nat × Span)) : Bool :=
  !d.asked r && ss.any fun x => d.spanRemote x.2

/-- The asking for every span of a list that lies outside; a local status comes back with its address. -/
def Dev.askAll (d : Dev) (r : Reader) (ss : List (Nat × Span)) : Except (Nat × Nat) Dev :=
  ss.foldl (fun (e : Except (Nat × Nat) Dev) x => e.bind fun d =>
    match d.askSpan r x.1 x.2 with
    | .error st => .error (x.2.addr, st)
    | .ok d => .ok d) (.ok (d.markAsked r))

/-- The halt that a bus error gives (R107): the newest record names the detector. -/
def Dev.busHalt (d : Dev) (u : EngUnit) (addr : Nat) : HaltInfo :=
  match d.er.log with
  | [] => { reason := rBusError, unit := u.code, address := addr }
  | x :: _ => { reason := rBusError, unit := u.code, address := addr, d0 := x.det, injected := x.injected,
                first := some x.seq }

/-! ## Writes -/

/-- The packets of one write toward another device: 4,096 bytes each, or ownership of each coherent line with the bytes
to write there (R382, R395). -/
def Dev.sendWrites (d : Dev) (c a : Nat) (bs : List Byte) : Except Nat Dev :=
  if d.peerCoh a bs.length then
    let a0 := a / 128 * 128
    (List.range (ceilDiv (a + bs.length - a0) 128)).foldl (fun (e : Except Nat Dev) i => e.bind fun d =>
      let lo := max a (a0 + 128 * i)
      let hi := min (a + bs.length) (a0 + 128 * (i + 1))
      d.request (.own c (lo - (a0 + 128 * i)) (slice bs (lo - a) (hi - lo))) 2 9 (a0 + 128 * i) 128 [] true) (.ok d)
  else (List.range (ceilDiv bs.length 4096)).foldl (fun (e : Except Nat Dev) i => e.bind fun d =>
      let b := (bs.drop (4096 * i)).take 4096
      d.request (.store c) 0 2 (a + 4096 * i) b.length b false) (.ok d)

/-- Whether a write toward another device for a core is still out or waits to issue. -/
def Dev.writesOut (d : Dev) (c : Nat) : Bool :=
  let mine : FxUse → Bool := fun u => match u with
    | .store x => x == c
    | .own x .. => x == c
    | _ => false
  d.fx.outs.any (fun o => !o.quarantined && mine o.use) || d.fx.stalled.any fun w => mine w.use

/-- Where a write to a span goes, once it may be made: a span of the own slot is checked and translated as its receiver does it (R376,
R378), one on another device needs a route (R401, R406). The error is the address of a write refused here. -/
def Dev.aimWrite (d : Dev) (c : Nat) (s : Span) : Except Nat Span × Dev :=
  match s with
  | .fabric a n =>
    if d.isOwn a then
      match d.rxCheck 0xFF (d.fx.fid.getD 0) d.fx.jobId a n 1 (d.spanCoh s) with
      | (.ok x, d) => (.ok (.mem [(x, n)]), d)
      | (.error st, d) => (.error a, d.cplErr none (some a) st (reqCore c) false)
    else match d.route (d.fidOf a) (!d.peerCoh a n) with
      | .ok _ => (.ok s, d)
      | .error st => (.error a, d.cplErr none (some a) st (reqCore c) false)
  | s => (.ok s, d)

/-- Every write of a command aimed before the first is made, so that a command that halts writes nothing (R102). -/
def Dev.aimWrites (d : Dev) (c : Nat) : List Span → Except Nat (List Span) × Dev
  | [] => (.ok [], d)
  | s :: ss =>
    match d.aimWrite c s with
    | (.error a, d) => (.error a, d)
    | (.ok s, d) =>
      match d.aimWrites c ss with
      | (.error a, d) => (.error a, d)
      | (.ok ss, d) => (.ok (s :: ss), d)

/-- A tile written to a span that was aimed, payload first and header last (R63). -/
def Dev.writeTile (d : Dev) (c : Nat) (s : Span) (t : List Byte) : Dev :=
  match s with
  | .mem ps =>
    match d.crossTo (dieOfCore d.grade c) ps with
    | (false, d) => d
    | (true, d) => d.writePieces ps t
  | .host a _ => (d.emit (.hostWrite (a + 32) (t.drop 32))).emit (.hostWrite a (t.take 32))
  | .fabric a _ => (((d.sendWrites c (a + 32) (t.drop 32)).bind fun d => d.sendWrites c a (t.take 32)).toOption).getD d

/-! ## Tile operands -/

/-- The span of `len` bytes of a memory operand at an offset from its start, under the checks of R36, R336, R338, R348:
BAD_OPERAND kinds 9 and 1, HANDLE_INVALID. `pos` is the operand's position, `align` the alignment. -/
def Dev.memSpan (d : Dev) (pos : Nat) (ref : MemRef) (off len align : Nat) (write : Bool) : Except HaltInfo Span :=
  match ref with
  | .addr a0 =>
    let a := (a0 + off) % 2 ^ 64
    match d.addrForm a len with
    | .bad => .error { reason := rBadOperand, unit := 0, kind := 9, address := a, d0 := pos }
    | f =>
      if a % align ≠ 0 then .error { reason := rBadOperand, unit := 0, kind := 1, address := a, d0 := pos }
      else match f with
        | .localMem => .ok (.mem [(a, len)])
        | _ => .ok (.fabric a len)
  | .handle h o =>
    match d.checkHandle h ⟨o + off, len, align, write⟩ with
    | .error k => .error (badHandle h k)
    | .ok b => .ok (b.span (o + off) len)

/-- The span of tile `j` of an operand with its expected format and stride (R572). -/
def Dev.tileSpan (d : Dev) (pos : Nat) (ref : MemRef) (stride : Option Nat) (f : Fmt) (j : Nat) (write : Bool) :
    Except HaltInfo Span :=
  d.memSpan pos ref (j * stride.getD (tileTotal f)) (tileTotal f) 32 write

/-- The spans of `n` consecutive tiles, or the first failing check. -/
def Dev.tileSpans (d : Dev) (pos : Nat) (ref : MemRef) (stride : Option Nat) (f : Fmt) (n : Nat) (write : Bool) :
    Except HaltInfo (List Span) :=
  (List.range n).foldl (fun (e : Except HaltInfo (List Span)) j => e.bind fun ss =>
    (d.tileSpan pos ref stride f j write).bind fun s => .ok (ss ++ [s])) (.ok [])

/-- The checks of a core engine on a tile (R65 to R67, R61), with the injection point TILE_CHECK (R576): none when it
passes. A checksum failure is recorded by TILE_CHECK. -/
def Dev.checkTile (d : Dev) (c pos addr : Nat) (accept : Fmt → Bool) (t : List Byte) : Option HaltInfo × Dev :=
  let det := detId 0x14 (d.trust.lmap.getD c 0)
  let sc := storedCrc t + tileCrc t * 2 ^ 32
  match crcKind t with
  | .ok =>
    let (m, d) := d.mimic det
    if m then
      let d := d.detect det 2 true none 1 0 0
      (some { reason := rChecksum, unit := 0, kind := 1, address := addr, d0 := sc, injected := true,
              first := some d.er.seq }, d)
    else match hdrKind accept t with
      | 0 => (none, d)
      | k => (some { reason := rBadOperand, unit := 0, kind := k, address := addr, d0 := pos }, d)
  | .corrupt =>
    let d := d.detect det 2 false none 1 0 0
    (some { reason := rChecksum, unit := 0, kind := 1, address := addr, d0 := sc, first := some d.er.seq }, d)
  | .torn =>
    let d := d.detect det 2 false none 2 0 0
    (some { reason := rChecksum, unit := 0, kind := 2, address := addr, d0 := sc, first := some d.er.seq }, d)

/-- Local SRAM of a core is read: the injection points SRAM_UE, which halts, and SRAM_CE (R537). -/
def Dev.sramRead (d : Dev) (c : Nat) : Option HaltInfo × Dev :=
  let phys := d.trust.lmap.getD c 0
  let (ue, d) := d.mimic (detId 0x11 phys)
  if ue then
    let d := d.detect (detId 0x11 phys) 2 true none 0 0 0
    (some { reason := rBusError, unit := 0, d0 := detId 0x11 phys, injected := true, first := some d.er.seq }, d)
  else
    let (ce, d) := d.mimic (detId 0x10 phys)
    (none, if ce then d.detect (detId 0x10 phys) 0 true none 0 0 0 else d)

/-- A halt of the command at the head of a unit's queue; a handle that failed is counted in DP_INVALID (R348). -/
def Dev.haltEng (d : Dev) (c : Nat) (u : EngUnit) (h : HaltInfo) : Dev :=
  (if h.reason = rHandle then d.countInvalid else d).haltCmd c u h

/-- The tiles of a list of spans read and checked by a core engine (R66, R67). -/
def Dev.readTiles (d : Dev) (c : Nat) (u : EngUnit) (pos : Nat) (accept : Fmt → Bool) :
    List (Nat × Span) → Except HaltInfo (List (List Byte)) × Dev
  | [] => (.ok [], d)
  | (key, s) :: ss =>
    match d.readSpan (.eng c u) key s with
    | (.error a, d) => (.error (d.busHalt u a), d)
    | (.ok t, d) =>
      match d.checkTile c pos s.addr accept t with
      | (some h, d) => (.error h, d)
      | (none, d) =>
        match d.readTiles c u pos accept ss with
        | (.error h, d) => (.error h, d)
        | (.ok ts, d) => (.ok (t :: ts), d)

end Sys2Proof.Machine
end

