-- ==== Sys2Proof/Machine/WellTiles.lean ====
section
/-! DEFINITION. What Well commands work on: parameter groups (R311, R312), tile operands in the buffers that handles name (R344, R348),
the layouts of REQUANT (R53, R54, R322), the rows of SCATTER_ADD (R324), and the memory that a part touches (R310). -/

namespace Sys2Proof.Machine

open Sys2Proof

/-! ## Groups -/

/-- Address of the record of a group (R311). -/
def Dev.groupAddr (d : Dev) (g : Nat) : Nat := d.wells.baseLo.toNat + d.wells.baseHi.toNat * 2 ^ 32 + 256 * g

/-- A field of a group record: `n` bytes at offset `o`. -/
def Dev.gField (d : Dev) (g o n : Nat) : Nat := leNat (d.peek (d.groupAddr g + o) n)

/-- Parameter groups of the table. -/
def Dev.groupCount (d : Dev) : Nat := d.wells.count.toNat

/-- TRAIN_MODE of a group: 0 TRAINED, 1 FROZEN, 2 MASKED. -/
def Dev.trainMode (d : Dev) (g : Nat) : Nat := bits (d.gField g 2 1) 5 4

/-- MASTER_FORMAT and COMPUTE_FORMAT. -/
def Dev.masterFmt (d : Dev) (g : Nat) : Fmt := (fmtOf (d.gField g 3 1)).getD .fp32
def Dev.computeFmt (d : Dev) (g : Nat) : Fmt := (fmtOf (d.gField g 4 1)).getD .bf16

/-- Whether the group keeps a compute copy (R312). -/
def Dev.hasCopy (d : Dev) (g : Nat) : Bool := d.gField g 3 1 != d.gField g 4 1

/-- EXPERTS, 0 for a dense group, and EXPERT_TILES. -/
def Dev.gExperts (d : Dev) (g : Nat) : Nat := d.gField g 40 4
def Dev.gTiles (d : Dev) (g : Nat) : Nat := d.gField g 44 4

/-- Units of a group that have tiles of their own: its experts, or the one dense tensor. -/
def Dev.gUnits (d : Dev) (g : Nat) : Nat := max 1 (d.gExperts g)

/-- Bytes of the master tiles, of the compute copy, and of a version buffer (R312). -/
def Dev.masterBytes (d : Dev) (g : Nat) : Nat := d.gUnits g * d.gTiles g * tileTotal (d.masterFmt g)
def Dev.copyBytes (d : Dev) (g : Nat) : Nat := if d.hasCopy g then d.gUnits g * d.gTiles g * tileTotal (d.computeFmt g) else 0
def Dev.versionBytes (d : Dev) (g : Nat) : Nat := d.masterBytes g + d.copyBytes g

/-- A handle field of a group record. -/
def Dev.gHandle (d : Dev) (g o : Nat) : Word64 := BitVec.ofNat 64 (d.gField g o 8)

/-- Tiles of the group's tensor, over its experts. -/
def Dev.gAll (d : Dev) (g : Nat) : Nat := d.gUnits g * d.gTiles g

/-- OPT = ADAMW (R311). -/
def Dev.adamw (d : Dev) (g : Nat) : Bool := d.gField g 1 1 == 2

/-- The experts of a group, none for a dense one. -/
def Dev.gExpertList (d : Dev) (g : Nat) : Option (List Nat) :=
  if d.gExperts g = 0 then none else some (List.range (d.gExperts g))

/-! ## Why a Well command is rejected -/

/-- CAUSE codes of R309. -/
def wcChecksum : Nat := 1
def wcBus : Nat := 2
def wcNorm : Nat := 3
def wcVersion : Nat := 4
def wcRef : Nat := 5
def wcIndex : Nat := 6
def wcAcc : Nat := 7
def wcGroup : Nat := 8

/-- Why a Well command is rejected (R306): its CAUSE, and whether a handle failed its checks (R348). -/
structure WReject where
  cause : Nat
  handle : Bool
  deriving DecidableEq, Repr

/-- A handle, a reference, or an operand outside its limits. -/
def rejHandle : WReject := ⟨wcRef, true⟩
def rejRef : WReject := ⟨wcRef, false⟩
def rejLimit : WReject := ⟨0, false⟩

/-! ## Tile operands -/

/-- A tile operand: its buffer, format, the offset of tile 0, and the number of tiles. -/
structure WTiles where
  buf : Buf
  fmt : Fmt
  off : Nat
  n : Nat
  deriving DecidableEq, Repr

/-- Address of tile i (R344). -/
def WTiles.addr (t : WTiles) (i : Nat) : Nat := ((t.buf.pieces (t.off + i * tileTotal t.fmt) 32).head?.map (·.1)).getD 0

/-- The bytes of tile i. -/
def WTiles.tile (t : WTiles) (i : Nat) : List (Nat × Nat) := t.buf.pieces (t.off + i * tileTotal t.fmt) (tileTotal t.fmt)

/-- Whether tile i lies in one extent (R345). -/
def WTiles.whole (t : WTiles) (i : Nat) : Bool := (t.tile i).length == 1

/-- Whether an operand lies in the spill ring. -/
def WTiles.spilled (t : WTiles) : Bool := t.buf.kind == 1

/-- The Well of tile i. -/
def WTiles.wellAt (t : WTiles) (g : Grade) (i : Nat) : Nat := wellOf g (t.addr i)

/-- A range of a buffer that a Well command names (R348, R396). -/
def Dev.wRange (d : Dev) (h : Word64) (off len align : Nat) (write : Bool) : Except WReject Buf :=
  match d.checkHandle h ⟨off, len, align, write⟩ with
  | .error _ => .error rejHandle
  | .ok b => if (b.pieces off len).any fun p => d.inCoh p.1 p.2 then .error rejRef else .ok b

/-- A tile operand named by a handle, with its checks. -/
def Dev.wTiles (d : Dev) (h : Word64) (f : Fmt) (off n : Nat) (write : Bool) : Except WReject WTiles :=
  (d.wRange h off (n * tileTotal f) 32 write).map fun b => { buf := b, fmt := f, off := off, n := n }

/-- The master tiles of a version buffer. -/
def Dev.masterOf (d : Dev) (g : Nat) (b : Buf) : WTiles := { buf := b, fmt := d.masterFmt g, off := 0, n := d.gAll g }

/-- The compute copy of a version buffer (R312). -/
def Dev.copyOf (d : Dev) (g : Nat) (b : Buf) : WTiles :=
  { buf := b, fmt := d.computeFmt g, off := d.masterBytes g, n := d.gAll g }

/-- An entry of EXPERT_STATE, or the group's own counter: STEP, B1T, B2T (R311). -/
def Dev.optState (d : Dev) (g : Nat) (e : Option Nat) : Nat × Word32 × Word32 :=
  let w (x : Nat) : Word32 := BitVec.ofNat 32 x
  match e with
  | none => (d.gField g 52 4, w (d.gField g 56 4), w (d.gField g 60 4))
  | some e =>
    match d.checkHandle (d.gHandle g 104) ⟨16 * e, 16, 8, false⟩ with
    | .error _ => (0, 0, 0)
    | .ok b =>
      let bs := d.peekPieces (b.pieces (16 * e) 16)
      (fieldAt bs 0 4, w (fieldAt bs 4 4), w (fieldAt bs 8 4))

/-- The slot of a handle. -/
def slotOf (h : Word64) : Nat := (unpackHandle h).slot.toNat

/-! ## Layouts of REQUANT -/

/-- Bits of an MX element, and the tile format of the same elements (R54). -/
def mxBits : MxFmt → Nat
  | .mxfp4 => 4 | _ => 8
def mxElem : MxFmt → Fmt
  | .mxfp8e4m3 => .e4m3 | .mxfp8e5m2 => .e5m2 | .mxfp4 => .fp4 | _ => .int8

/-- Rows and columns of a layout that names them. -/
def layoutShape : TensorLayout → Option (Nat × Nat)
  | .tiled .. => none
  | .raw _ r c _ => some (r, c)
  | .mx _ _ r c _ _ => some (r, c)

/-- Tiles of a REQUANT (R53): those of its shape, or the number named for tiles. -/
def requantTiles (src dst : TensorLayout) (tiles : Nat) : Nat :=
  match (layoutShape src).or (layoutShape dst) with
  | some (r, c) => ceilDiv r 32 * ceilDiv c 32
  | none => tiles

/-- The format of the tiles that a layout names. -/
def layoutFmt : TensorLayout → Fmt
  | .tiled _ f => f
  | .raw _ _ _ f => f
  | .mx _ _ _ _ f _ => mxElem f

/-- The place of an element's MX block among the scales (R54). -/
def mxBlock (axisCol : Bool) (cols r c : Nat) : Nat := if axisCol then r / 32 * cols + c else r * (cols / 32) + c / 32

/-- The tile that an element of a REQUANT becomes part of: rows, columns, and element (r, c) of the tensor from tile `i`. -/
def tileShape (rows cols i : Nat) : Nat × Nat × Nat × Nat :=
  let h := ceilDiv cols 32
  let r0 := i / max 1 h * 32
  let c0 := i % max 1 h * 32
  (min 32 (rows - r0), min 32 (cols - c0), r0, c0)

/-- The pieces of a raw or MX source that tile `i` comes from: rows of the raw array, or of the elements and the scales. -/
def Dev.sourcePieces (d : Dev) (src : TensorLayout) (i : Nat) : List (Nat × Nat) :=
  let rows_ (h : Word64) (off len : Nat) : List (Nat × Nat) :=
    match d.wRange h off len 1 false with
    | .error _ => []
    | .ok b => b.pieces off len
  match src with
  | .tiled .. => []
  | .raw h rows cols f =>
    let s := tileShape rows cols i
    let n := fmtBits f / 8
    (List.range s.1).flatMap fun r => rows_ h (((s.2.2.1 + r) * cols + s.2.2.2) * n) (s.2.1 * n)
  | .mx hE hS rows cols f ax =>
    let s := tileShape rows cols i
    let lo (r : Nat) : Nat := ((s.2.2.1 + r) * cols + s.2.2.2) * mxBits f / 8
    let hi (r : Nat) : Nat := ceilDiv (((s.2.2.1 + r) * cols + s.2.2.2 + s.2.1) * mxBits f) 8
    (List.range s.1).flatMap (fun r => rows_ hE (lo r) (hi r - lo r)) ++
      (validCells s.1 s.2.1).flatMap fun p => rows_ hS (mxBlock ax cols (s.2.2.1 + p.1) (s.2.2.2 + p.2)) 1

/-! ## Rows of SCATTER_ADD -/

/-- Tiles of an INDEX operand: those that its buffer holds. -/
def Dev.indexTiles (d : Dev) (h : Word64) : Nat :=
  match d.checkHandle h ⟨0, 0, 1, false⟩ with
  | .error _ => 0
  | .ok b => b.bytes / tileTotal .int32

/-- The row indices of an INDEX operand (R324): the valid elements of its tiles in order. -/
def Dev.scatterIndex (d : Dev) (t : WTiles) : List Int :=
  (List.range t.n).flatMap fun i =>
    let bs := d.peekPieces (t.tile i)
    (validCells (tileRows bs) (tileCols bs)).map fun p => (BitVec.ofNat 32 (codeAt .int32 bs p.1 p.2)).toInt

/-- The destination tiles that the rows of a part name (R324): for source tile `i`, its rows with their indices. -/
def scatterRowsOf (idx : List Int) (srcRows hTiles dstRows i : Nat) : List (Nat × Nat) :=
  let rt := i / max 1 hTiles
  (List.range (min 32 (srcRows - 32 * rt))).filterMap fun r =>
    match idx[32 * rt + r]? with
    | some x => if 0 ≤ x && x < dstRows then some (r, x.toNat) else none
    | none => none

/-- The source rows of a part (R324). -/
def partRows (srcRows hTiles : Nat) (p : WPart) : Nat × Nat :=
  let h := max 1 hTiles
  (32 * (p.first / h), min srcRows (32 * ((p.first + p.count - 1) / h + 1)))

/-- The INDEX tiles that hold the indices of a part's rows (R308, R324). -/
def Dev.indexCover (d : Dev) (t : WTiles) (rows : Nat × Nat) : List Nat :=
  let size (i : Nat) : Nat :=
    let bs := d.peekPieces (t.tile i)
    (validCells (tileRows bs) (tileCols bs)).length
  let sizes := (List.range t.n).map size
  (List.range t.n).filter fun i =>
    decide ((sizes.take i).sum < rows.2) && decide (rows.1 < (sizes.take (i + 1)).sum)

/-- The destination tiles of a part. -/
def scatterDst (idx : List Int) (srcRows hTiles dstRows : Nat) (p : WPart) : List Nat :=
  ((List.range p.count).flatMap fun j =>
    let i := p.first + j
    (scatterRowsOf idx srcRows hTiles dstRows i).map fun x => x.2 / 32 * hTiles + i % max 1 hTiles).eraseDups

/-! ## The memory of a part -/

/-- The pieces of memory that a part of a Well command reads or writes (R310). -/
def Dev.partPieces (d : Dev) (k : WellCmd) (p : WPart) : List (Nat × Nat) :=
  let tilesIn (t : WTiles) : List (Nat × Nat) := (List.range p.count).flatMap fun i => t.tile (p.first + i)
  let tiles (e : Except WReject WTiles) : List (Nat × Nat) := e.toOption.elim [] tilesIn
  let range (h : Word64) (off n : Nat) : List (Nat × Nat) := ((d.wRange h off n 1 false).toOption).elim [] fun b => b.pieces off n
  let mask (g : Nat) : List (Nat × Nat) := if d.trainMode g = 2 then range (d.gHandle g 112) 0 (ceilDiv (d.gAll g) 8) else []
  match k.op with
  | .optUpdate g _ grad _ _ =>
    let n := d.gAll g
    let version (b : Buf) : List (Nat × Nat) := tilesIn (d.masterOf g b) ++ if d.hasCopy g then tilesIn (d.copyOf g b) else []
    tiles (d.wTiles grad .fp32 0 n false) ++ tiles (d.wTiles (d.gHandle g 80) .fp32 0 n true) ++
      (if d.adamw g then tiles (d.wTiles (d.gHandle g 88) .fp32 0 n true) else []) ++
      (((d.wRange (d.gHandle g 72) 0 (d.versionBytes g) 32 false).toOption).elim [] version) ++
      ((k.newSlot.bind d.depot.buf).elim [] version) ++ (p.expert.elim [] fun e => range (d.gHandle g 104) (16 * e) 16) ++ mask g
  | .sumsq bs _ =>
    let b := bs.getD (p.expert.getD 0) (0, .fp32, 0)
    tiles (d.wTiles b.1 b.2.1 0 b.2.2 false)
  | .requant src dst f _ _ _ n _ =>
    let side (l : TensorLayout) (g : Fmt) : List (Nat × Nat) := match l with
      | .tiled h _ => tiles (d.wTiles h g 0 (requantTiles src dst n) false)
      | _ => (List.range p.count).flatMap fun i => d.sourcePieces l (p.first + i)
    side src (layoutFmt src) ++ side dst f
  | .scatterRows src index dst srcRows dstRows hTiles =>
    let it := d.wTiles index .int32 0 (d.indexTiles index) false
    let toDst (t : WTiles) : List (Nat × Nat) :=
      (it.toOption.elim [] fun i => scatterDst (d.scatterIndex i) srcRows hTiles dstRows p).flatMap t.tile
    tiles (d.wTiles src .fp32 0 (ceilDiv srcRows 32 * hTiles) false) ++
      (it.toOption.elim [] fun i => (d.indexCover i (partRows srcRows hTiles p)).flatMap i.tile) ++
      ((d.wTiles dst .fp32 0 (ceilDiv dstRows 32 * hTiles) true).toOption.elim [] toDst)
  | .fold f =>
    let n := d.gTiles f.group
    tiles (d.wTiles (f.part.getD 0) .fp32 0 n false) ++
      tiles (d.wTiles (d.gHandle f.group 96) .fp32 (f.expert.getD 0 * n * tileTotal .fp32) n true) ++ mask f.group
  | .fill h off bytes pat =>
    match pat with
    | .tiles f .. => tiles (d.wTiles h f off (p.first + p.count) true)
    | _ => range h (off + 2048 * p.first) (min (2048 * p.count) (bytes - 2048 * p.first))
  | .scrub base _ => [(base + 2048 * p.first, 2048 * p.count)]

/-- Whether a part waits for a repair or a microcode switch (R310). -/
def Dev.partHeld (d : Dev) (k : WellCmd) (p : WPart) : Bool :=
  !p.done && ((d.well p.well).ucode || d.heldIn (d.partPieces k p))

end Sys2Proof.Machine
end

