-- ==== Sys2Proof/Machine/Queues.lean ====
section
/-! DEFINITION. Starting a command (R75, R79, R82, R84, R85, R90), tile queues: pops, pushes, credits and the close (R77 to R82,
R409 to R412). -/

namespace Sys2Proof.Machine

open Sys2Proof

/-! ## Wait and signal fields -/

/-- The form of a wait field (R90): the halt it gives, if any. -/
def waitFault (raw : Word64) (w : WaitField) : Option HaltInfo :=
  match w.obj with
  | .flag i =>
    if i > 255 then some { reason := rFlagRange, unit := 0, kind := 1, d0 := i }
    else if w.value > 1 then some { reason := rIllegal, unit := 0, d0 := raw.toNat }
    else none
  | .counter i =>
    if i > 63 then some { reason := rFlagRange, unit := 0, kind := 2, d0 := i }
    else if w.value = 0 || w.value ≥ 2 ^ 32 then some { reason := rFlagRange, unit := 0, kind := 5, d0 := w.value }
    else none

/-- Whether a signal's operation fits its object (R86, R90). -/
def sigForm (s : SigField) : Bool :=
  match s.obj, s.op with
  | .flag _, .set => true
  | .flag _, .clear => true
  | .counter _, .add _ => true
  | _, _ => false

/-- The form of a signal field (R90): the halt it gives, if any. For another device only the rank is checked; the rest is the
receiver's to check (R378). -/
def Dev.sigFault (d : Dev) (raw : Word64) (s : SigField) : Option HaltInfo :=
  let far : Bool := match s.rank with
    | some r => r != d.fx.rankSelf
    | none => false
  let idx : Option HaltInfo := match s.obj with
    | .flag i => if i > 255 then some { reason := rFlagRange, unit := 0, kind := 1, d0 := i } else none
    | .counter i => if i > 63 then some { reason := rFlagRange, unit := 0, kind := 2, d0 := i } else none
  let form : Option HaltInfo := if sigForm s then none else some { reason := rIllegal, unit := 0, d0 := raw.toNat }
  let place : Option HaltInfo :=
    match s.rank with
    | some r =>
      if !d.rankValid r then some { reason := rFlagRange, unit := 0, kind := 3, d0 := r }
      else if r = d.fx.rankSelf && s.core.getD 0 ≥ d.n then
        some { reason := rFlagRange, unit := 0, kind := 3, d0 := s.core.getD 0 }
      else none
    | none => match s.core with
      | some c => if c ≥ d.n then some { reason := rFlagRange, unit := 0, kind := 3, d0 := c } else none
      | none => none
  let value : Option HaltInfo := match s.op with
    | .add v => if v = 0 || v > 65535 then some { reason := rFlagRange, unit := 0, kind := 5, d0 := v } else none
    | _ => none
  if far then place else ((idx.or form).or place).or value

/-- The checks of R90 on the fields of a command. -/
def Dev.fieldFault (d : Dev) (raw : Word64) (ws : List WaitField) (ss : List SigField) : Option HaltInfo :=
  if ws.length > 2 || ss.length > 2 then some { reason := rIllegal, unit := 0, d0 := raw.toNat }
  else (ws.findSome? (waitFault raw)).or (ss.findSome? (d.sigFault raw))

/-- Whether a wait field holds (R84). -/
def CoreSt.holds (s : CoreSt) (w : WaitField) : Bool :=
  match w.obj with
  | .flag i => s.flags.getLsbD i == (w.value == 1)
  | .counter i => decide ((s.counters.getD i 0).toNat ≥ w.value)

/-- The effect of a satisfied wait (R84). -/
def CoreSt.consume (s : CoreSt) (w : WaitField) : CoreSt :=
  if !w.consume then s
  else match w.obj with
    | .flag i => { s with flags := s.flags ^^^ BitVec.ofNat 256 (2 ^ i) }
    | .counter i => { s with counters := s.counters.modify i fun x => x - BitVec.ofNat 32 w.value }

/-- Whether all waits of a command hold together (R85). Two consuming waits on one counter must both be met by it; two on one flag
are both judged by its value before, and it is inverted twice (DESIGN CHOICE, log entry 11). -/
def CoreSt.holdsAll (s : CoreSt) : List WaitField → Bool
  | [] => true
  | w :: ws =>
    s.holds w &&
      (match w.obj with
       | .flag _ => s.holdsAll ws
       | .counter _ => (s.consume w).holdsAll ws)

/-- All consuming waits take effect (R85). -/
def CoreSt.consumeAll (s : CoreSt) (ws : List WaitField) : CoreSt := ws.foldl CoreSt.consume s

/-! ## Queue ends -/

/-- The units that run an operation (R114). -/
def opUnits : Op → List EngUnit
  | .load .. | .store .. | .gatherRows .. | .scatterRows .. => [.ls]
  | .matmul _ | .gate _ => [.mx]
  | .map .. | .reduce .. | .broadcast .. | .convert .. | .amax .. => [.vx]
  | .close _ => [.mx, .vx, .ls]
  | _ => [.st]

/-- The pop that a tile source needs, at an operand position. -/
def srcPop (n pos : Nat) : TileSrc → List (Nat × Nat × Bool × Nat)
  | .queue q keep _ => [(q, n, keep, pos)]
  | .mem .. => []

/-- The pops of an operation: queue, tiles, KEEP, operand position. GATE pops its tiles as it goes and needs none at its
start. -/
def opPops : Op → List (Nat × Nat × Bool × Nat)
  | .store q keep _ _ _ n => [(q, n, keep, 0)]
  | .gatherRows _ _ _ _ index _ => srcPop 1 1 index
  | .scatterRows q keep _ index _ _ n h => (q, n * h, keep, 0) :: srcPop 1 1 index
  | .matmul m => srcPop m.kt 0 m.a ++ srcPop m.kt 1 m.b
  | .map _ ins _ _ n => (List.range ins.length).flatMap fun i => srcPop n i (ins.getD i (.queue 64 false false))
  | .reduce _ _ src _ => srcPop 1 0 src
  | .broadcast _ tile vec _ _ => srcPop 1 0 tile ++ srcPop 1 1 vec
  | .convert src .. => srcPop 1 0 src
  | .amax src _ => srcPop 1 0 src
  | _ => []

/-- The queues whose head an operation names, with its position (R82). -/
def opHeads : Op → List (Nat × Nat)
  | .gate g => (srcPop 1 0 g.x ++ srcPop 1 1 g.wg).map fun p => (p.1, p.2.2.2)
  | op => (opPops op).map fun p => (p.1, p.2.2.2)

/-- The queues that an operation pushes to, with its position. -/
def opTails : Op → List (Nat × Nat)
  | .load _ _ _ _ q => [(q, 3)]
  | .gatherRows _ _ _ _ _ q => [(q, 2)]
  | .matmul m =>
    if m.chain then []
    else (m.out.map fun q => (q, 2)).toList ++
      (match m.kind with
       | .plain => []
       | .topk _ _ _ lse qv qp ql => [(qv, 6), (qp, 7)] ++ if lse then [(ql, 8)] else []
       | .lse _ _ ql => [(ql, 6)])
  | .map _ ins out _ _ => [(out, ins.length)]
  | .reduce _ _ _ out => [(out, 2)]
  | .broadcast _ _ _ out _ => [(out, 3)]
  | .convert _ out .. => [(out, 4)]
  | _ => []

/-- The index of a queue whose consumer a unit of this device is (R82). -/
def Dev.headIdx (d : Dev) (c : Nat) (u : EngUnit) (q : Nat) : Option Nat :=
  d.queues.findIdx? fun s => s.decl.num == q && d.isHere s.decl.cons && s.decl.cons.core == c && s.decl.cons.unit == u

/-- The index of a queue whose producer a unit of this device is (R82). -/
def Dev.tailIdx (d : Dev) (c : Nat) (u : EngUnit) (q : Nat) : Option Nat :=
  d.queues.findIdx? fun s => s.decl.num == q && d.isHere s.decl.prod && s.decl.prod.core == c && s.decl.prod.unit == u

/-- A queue by index. -/
def Dev.q? (d : Dev) (i : Nat) : Option QState := d.queues[i]?

/-- BAD_OPERAND, kind 8, for an operand position. -/
def foreignEnd (u : EngUnit) (pos : Nat) : HaltInfo := { reason := rBadOperand, unit := u.code, kind := 8, d0 := pos }

/-- QUEUE_CLOSED with its DETAIL0 (R107). -/
def closedHalt (u : EngUnit) (q tail need have_ : Nat) : HaltInfo :=
  { reason := rQueueClosed, unit := u.code,
    d0 := q % 256 + tail * 256 + (need % 65536) * 2 ^ 16 + (have_ % 65536) * 2 ^ 32 }

/-- The queue-end checks of an operation (R82): undeclared or foreign ends. -/
def Dev.endFault (d : Dev) (c : Nat) (u : EngUnit) (op : Op) : Option HaltInfo :=
  let heads := (opHeads op).findSome? fun x =>
    if (d.headIdx c u x.1).isNone then some (foreignEnd u x.2) else none
  let tails := (opTails op).findSome? fun x =>
    if (d.tailIdx c u x.1).isNone then some (foreignEnd u x.2) else none
  let own := match op with
    | .close q => if (d.tailIdx c u q).isNone then some (foreignEnd u 0) else none
    | _ => none
  (heads.or tails).or own

/-- The push of a command's outputs meets a closed queue (R80): the halt, with the tiles that were to be pushed there. -/
def Dev.closedPush (d : Dev) (c : Nat) (u : EngUnit) (outs : List (Nat × List Byte)) : Option HaltInfo :=
  outs.findSome? fun x =>
    match (d.tailIdx c u x.1).bind d.q? with
    | some s => if s.closed then some (closedHalt u x.1 1 (outs.countP fun y => y.1 == x.1) s.ring.length) else none
    | none => none

/-- The pops of a command that lack tiles (R79): for each whether a closed queue makes it impossible (R80), the queue, and the tiles
needed and present. `used` holds what earlier operands of the command take. Of two operands that pop one queue the later one counts
its own need and what the earlier one leaves (DESIGN CHOICE, log entry 99). -/
def Dev.shortPops (d : Dev) (c : Nat) (u : EngUnit) (used : List (Nat × Nat)) :
    List (Nat × Nat × Bool × Nat) → List (Bool × Nat × Nat × Nat)
  | [] => []
  | (q, n, keep, _) :: ps =>
    let before := ((used.filter fun x => x.1 == q).map (·.2)).sum
    let rest := d.shortPops c u (if keep then used else (q, n) :: used) ps
    match (d.headIdx c u q).bind d.q? with
    | none => (false, q, n, 0) :: rest
    | some s =>
      if before + n ≤ s.ring.length then rest
      else (s.closed && decide (s.ring.length + s.transit.length < before + n), q, n, s.ring.length - before) :: rest

/-- Whether the pops of a command can be made now (R79): `none` when they can; otherwise the pop that a closed queue makes
impossible (R80), or the first that lacks tiles. -/
def Dev.popShort (d : Dev) (c : Nat) (u : EngUnit) (ps : List (Nat × Nat × Bool × Nat)) : Option (Bool × Nat × Nat × Nat) :=
  let short := d.shortPops c u [] ps
  (short.find? (·.1)).or short.head?

/-! ## Messages of inter-device queues (R410) -/

/-- The head of a queue message (R410). -/
def queueHead (kind q consumer producer count : Nat) : List Byte :=
  leBytes 1 1 ++ leBytes 1 kind ++ leBytes 1 q ++ zeros 1 ++ leBytes 2 consumer ++ leBytes 2 producer ++
    leBytes 4 count ++ zeros 20

/-- Why a message cannot leave for a rank: the status with which it ends at the requester (R392, R401, R406). -/
def Dev.noRoute (d : Dev) (rank : Nat) : Option Nat :=
  match d.rankFid rank with
  | none => some 7
  | some fid => match d.route fid true with
    | .error st => some st
    | .ok _ => none

/-- The command of a unit that pushes tiles: of MX the oldest MATMUL of the pipe, once it has drained. -/
def CoreSt.pusher (s : CoreSt) (u : EngUnit) : Option QCmd :=
  match u, s.pipe with
  | .mx, j :: _ => if j.cmd.ran then some j.cmd else none
  | _, _ => match s.queue u with
    | q :: _ => if q.started && q.ran then some q else none
    | [] => none

/-- A push halts its core. -/
def Dev.haltPush (d : Dev) (c : Nat) (u : EngUnit) (h : HaltInfo) : Dev :=
  if u = .mx && !(d.core c).pipe.isEmpty then d.haltJob c 0 h else d.haltCmd c u h

/-- A message of a queue goes to the device at its other end (R410). `kind` is 1 TILE, 2 CREDIT, 3 CLOSE. A TILE or CLOSE that
cannot leave halts the producer's core (R393, R412). -/
def Dev.sendQueue (d : Dev) (s : QState) (kind count : Nat) (tile : List Byte) : Dev :=
  let mine := if kind = 2 then s.decl.cons.core else s.decl.prod.core
  let rank := if kind = 2 then s.decl.prod.rank else s.decl.cons.rank
  let bad := (d.noRoute (rank.getD 0)).isSome
  let d := (d.crossPort (dieOfCore d.grade mine)).2
  let d := d.sendMessage (.queue mine s.decl.num kind) (reqCore mine) (rank.getD 0) [2, s.decl.cons.core, s.decl.num]
    (queueHead kind s.decl.num s.decl.cons.core s.decl.prod.core (count % 2 ^ 32) ++ tile)
  if bad && kind ≠ 2 then d.haltPush mine s.decl.prod.unit (d.busHalt s.decl.prod.unit 0) else d

/-- A CREDIT with the count as it stands (R411); one that cannot leave goes out again after 100 µs. -/
def Dev.sendCredit (d : Dev) (i : Nat) : Dev :=
  match d.q? i with
  | none => d
  | some s =>
    let again := (d.noRoute (s.decl.prod.rank.getD 0)).map fun _ => d.now + 100000
    (d.sendQueue s 2 s.popped []).setQ i fun s =>
      { s with creditSent := s.popped, resend := again, crossed := d.now, quiet := false }

/-- Whether the producer of a queue lies on another device. -/
def Dev.farProd (d : Dev) (s : QState) : Bool := !d.isHere s.decl.prod

/-- Whether the consumer of a queue lies on another device. -/
def Dev.farCons (d : Dev) (s : QState) : Bool := !d.isHere s.decl.cons

/-! ## Pops and pushes -/

/-- The oldest `n` tiles leave a queue (R78): the slots are free again; credits go back (R81, R411). -/
def Dev.popTiles (d : Dev) (i n : Nat) : Dev :=
  match d.q? i with
  | none => d
  | some s =>
    let n := min n s.ring.length
    let d1 := d.setQ i fun s => { s with ring := s.ring.drop n }
    if d.farProd s then
      let first := if s.popped = s.creditSent then d.now else s.firstPop
      let d2 := d1.setQ i fun s => { s with popped := s.popped + n, firstPop := first }
      if s.popped + n - s.creditSent ≥ 16 then d2.sendCredit i else d2
    else if s.decl.prod.core ≠ s.decl.cons.core then d1.setQ i fun s => { s with back := s.back + n }
    else d1

/-- The pops of a command that has what it needs. -/
def Dev.popAll (d : Dev) (c : Nat) (u : EngUnit) (ps : List (Nat × Nat × Bool × Nat)) : Dev :=
  ps.foldl (fun d p => if p.2.2.1 then d else
    match d.headIdx c u p.1 with
    | none => d
    | some i => d.popTiles i p.2.1) d

/-- One tile is pushed to a queue with room (R79, R81, R410). -/
def Dev.pushTile (d : Dev) (i : Nat) (t : List Byte) : Dev :=
  match d.q? i with
  | none => d
  | some s =>
    if d.farCons s then
      (d.sendQueue s 1 s.pushed t).setQ i fun s => { s with pushed := s.pushed + 1, crossed := d.now, quiet := false }
    else if s.decl.prod.core = s.decl.cons.core then
      d.setQ i fun s => { s with ring := s.ring ++ [t], pushed := s.pushed + 1 }
    else d.setQ i fun s => { s with transit := s.transit ++ [t], credits := s.credits - 1, pushed := s.pushed + 1 }

/-- The held tiles of a command go out as far as there is room, in order (R79): those that stay, and the device. A push that halts
its core stops them. -/
def Dev.pushHeld (d : Dev) (c : Nat) (u : EngUnit) : List (Nat × List Byte) → List (Nat × List Byte) × Dev
  | [] => ([], d)
  | (n, t) :: rest =>
    match (d.tailIdx c u n).bind fun i => (d.q? i).map fun s => (i, s) with
    | none => ((n, t) :: rest, d)
    | some (i, s) =>
      if d.freeSlots s > 0 && ((d.core c).pusher u).isSome then (d.pushTile i t).pushHeld c u rest else ((n, t) :: rest, d)

/-- Whether a TILE of a queue is still without its ACK (R87, R412). -/
def Dev.tilesOut (d : Dev) (c q : Nat) : Bool :=
  let mine : FxUse → Bool := fun u => match u with
    | .queue x y k => x == c && y == q && k == 1
    | _ => false
  d.fx.outs.any (fun o => !o.quarantined && mine o.use) || d.fx.stalled.any fun w => mine w.use

/-- Whether every tile that a unit pushed is visible at its consumer (R87). -/
def Dev.landed (d : Dev) (c : Nat) (u : EngUnit) : Bool :=
  d.queues.all fun s =>
    !(d.isHere s.decl.prod && s.decl.prod.core == c && s.decl.prod.unit == u) ||
      (s.transit.isEmpty && !d.tilesOut c s.decl.num)

/-- A command that has run goes on: held tiles are pushed, and it completes once everything it wrote is visible (R79, R87). -/
def Dev.settleCmd (d : Dev) (c : Nat) (u : EngUnit) : Dev :=
  match d.running c u with
  | none => d
  | some q =>
    if !q.ran then d
    else
      let r := d.pushHeld c u q.hold
      let d := r.2.setHead c u fun q => { q with hold := r.1 }
      if (d.running c u).isSome && r.1.isEmpty && d.landed c u && !(u = .ls && d.writesOut c) then d.complete c u else d

/-- The command of the oldest MATMUL of the pipe changed. -/
def CoreSt.setJob (s : CoreSt) (f : QCmd → QCmd) : CoreSt :=
  { s with pipe := match s.pipe with | [] => [] | j :: js => { j with cmd := f j.cmd } :: js }

/-- The oldest MATMUL of the pipe, once drained, goes on in the same way (R139, R150). -/
def Dev.settleJob (d : Dev) (c : Nat) : Dev :=
  match (d.core c).pusher .mx, (d.core c).pipe with
  | some q, _ :: _ =>
    let r := d.pushHeld c .mx q.hold
    let d := r.2.setCore c fun s => s.setJob fun q => { q with hold := r.1 }
    if ((d.core c).pusher .mx).isSome && r.1.isEmpty && d.landed c .mx then d.completeJob c else d
  | _, _ => d

/-- The three engines of a core go on. -/
def Dev.settleCore (d : Dev) (c : Nat) : Dev := (((d.settleJob c).settleCmd c .mx).settleCmd c .vx).settleCmd c .ls

/-- The first tile with NAN_PRESENT among outputs, as NAN_ABORT names it: address, or queue (R107). -/
def nanTrapOf (outs : List (Nat × List Byte)) : Option (Nat × Nat) :=
  (outs.find? fun o => tileNan o.2).map fun o => (0, o.1)

/-- A command has run: its pops are made, its tiles wait for room or go out (R78, R79), and a NaN tile under NAN_TRAP is noted
(R107). A tile for a closed queue halts the core instead (R80). -/
def Dev.commit (d : Dev) (c : Nat) (u : EngUnit) (pops : List (Nat × Nat × Bool × Nat)) (outs : List (Nat × List Byte)) : Dev :=
  match d.closedPush c u outs with
  | some h => d.haltCmd c u h
  | none =>
    let d := d.popAll c u pops
    let d := d.setHead c u fun q =>
      { q with ran := true, hold := outs, trap := if q.cmd.nanTrap then q.trap.or (nanTrapOf outs) else none }
    d.settleCore c

/-- A drained MATMUL has run: its tiles wait for room or go out (R139), as `Dev.commit` has it for the other commands. -/
def Dev.commitJob (d : Dev) (c : Nat) (outs : List (Nat × List Byte)) : Dev :=
  match d.closedPush c .mx outs with
  | some h => d.haltJob c 0 h
  | none =>
    (d.setCore c fun s => s.setJob fun q =>
      { q with ran := true, hold := outs, trap := if q.cmd.nanTrap then nanTrapOf outs else none }).settleCore c

/-! ## The order of MX -/

/-- Rows and columns of an accumulation's output (R124). -/
def accShape (pairs : List (List Byte × List Byte)) : Nat × Nat :=
  match pairs with
  | [] => (0, 0)
  | p :: _ => (tileRows p.1, tileCols p.2)

/-- Whether a command of this kind ends its span (R142). -/
def spanEnds : DrainKind → Bool
  | .plain => true
  | .topk _ n pos .. => decide (pos + 1 = n)
  | .lse n pos _ => decide (pos + 1 = n)

/-- A row of a span with nothing seen: −Infinity, no sum. -/
def SpanRow.empty : SpanRow := ⟨[], 0xFF800000#32, 0, false, false, true⟩

/-- The span after one more command of a kind with an output of a shape (R142). -/
def spanMove (s : Option SpanSt) (kind : DrainKind) (rows cols : Nat) : Option SpanSt :=
  let start (k span : Nat) (lse only : Bool) : SpanSt :=
    s.getD { k := k, span := span, next := 0, withLse := lse, lseOnly := only, rows := List.replicate rows SpanRow.empty,
             cols := 0, aRows := rows, epoch := 0 }
  let move (sp : SpanSt) : SpanSt := { sp with next := sp.next + 1, cols := sp.cols + cols }
  match kind with
  | .plain => s
  | .topk k span _ lse .. => some (move (start k span lse false))
  | .lse span .. => some (move (start 0 span true true))

/-- The span that the next command on MX meets: what has drained, and what the commands in the pipe add. -/
def CoreSt.spanAhead (s : CoreSt) : Option SpanSt :=
  s.pipe.foldl (fun sp j =>
    match j.cmd.cmd.op with
    | .matmul m => if spanEnds m.kind then none else spanMove sp m.kind (accShape j.acc.pairs).1 (accShape j.acc.pairs).2
    | _ => sp) s.span

/-! ## Starting -/

/-- What an open accumulation or span asks of the next command on MX (R125, R141, R142): BAD_OPERAND, kind 7, otherwise. The same
for a MATMUL_TOPK or MATMUL_LSE with CHAIN, and at position 2 for a MATMUL without CHAIN and without an output queue (DESIGN CHOICE, log entry 99). -/
def CoreSt.mxOrder (s : CoreSt) (op : Op) : Option HaltInfo :=
  let bad : HaltInfo := { reason := rBadOperand, unit := 1, kind := 7 }
  match op with
  | .matmul m =>
    if m.kt = 0 || m.kt > 256 then some bad
    else match m.chain, m.kind, s.spanAhead with
      | true, .plain, _ => none
      | true, _, _ => some bad
      | false, .plain, none => if m.out.isNone then some { bad with d0 := 2 } else none
      | false, .plain, some _ => some bad
      | false, .topk k span pos .., none =>
        if 1 ≤ k && k ≤ 8 && 1 ≤ span && span ≤ 128 && pos = 0 then none else some bad
      | false, .topk k span pos lse .., some sp =>
        if !sp.lseOnly && k = sp.k && span = sp.span && pos = sp.next && lse = sp.withLse then none else some bad
      | false, .lse span pos _, none => if 1 ≤ span && span ≤ 128 && pos = 0 then none else some bad
      | false, .lse span pos _, some sp => if sp.lseOnly && span = sp.span && pos = sp.next then none else some bad
  | _ => if !s.acc.pairs.isEmpty || s.spanAhead.isSome then some bad else none

/-- The faults that keep a command from starting (R90, R107, R82, R80). -/
def Dev.startFault (d : Dev) (c : Nat) (u : EngUnit) (cmd : Cmd) : Option HaltInfo :=
  ((d.fieldFault cmd.raw cmd.waits cmd.signals).or
    (if (opUnits cmd.op).contains u then none
     else some { reason := rIllegal, unit := u.code, d0 := cmd.raw.toNat })).or
    (if u = .st then none else (d.endFault c u cmd.op).or (if u = .mx then (d.core c).mxOrder cmd.op else none))

/-- The head of the ST path reaches its station (R73, R75). A LIST_PUSH stays until the list has room for it (R92). -/
def Dev.deliver (d : Dev) (c : Nat) (q : QCmd) : Dev :=
  match q.cmd.op with
  | .listPush .. => d.setHead c .st fun q => { q with started := true }
  | _ =>
    let (id, d) := d.fresh
    let d := d.setCore c fun s => { s with st := s.st.drop 1 }
    { d with accepted := d.accepted ++
      [{ id := id, core := c, seq := q.seq, cmd := q.cmd, begun := false, asked := false, inputs := [], refs := [], since := d.now,
         stamp := d.timeStamp }] }

/-- The channel of a collective. -/
def opChannel : Op → Option Nat
  | .collective a => some a.channel
  | .permute a => some a.channel
  | _ => none

/-- Whether a channel queues 64 collectives that have not started, so that a further one stalls the ST path (R273). -/
def Dev.channelFull (d : Dev) (op : Op) : Bool :=
  match opChannel op with
  | none => false
  | some ch =>
    let queued := ((d.rd.channels.filter fun x => x.1 == ch).map fun x => (x.2.filter fun k => !k.started).length).sum
    let coming := (d.accepted.filter fun a => !a.begun && opChannel a.cmd.op == some ch).length
    decide (queued + coming ≥ 64)

/-- A MATMUL of MX starts: the run that it joins or begins is tracked (R30, R533). Its operands lie in local SRAM when they come from
queues (R32). -/
def Dev.admitRun (d : Dev) (c : Nat) (op : Op) : Dev :=
  match op with
  | .matmul m =>
    let near (s : TileSrc) : Bool := match s with
      | .queue .. => true
      | .mem .. => false
    let d := if (d.track? 0 c).isNone then d.track 0 c (mxUnit c) true else d
    d.setTrack 0 c fun t => { t with ok := t.ok && near m.a && near m.b }
  | _ => d

/-- Whether the head of MX waits for the MATMULs before it: all but another MATMUL come after their pushes (R73, R119). -/
def CoreSt.behindPipe (s : CoreSt) (u : EngUnit) (op : Op) : Bool :=
  u = .mx && !s.pipe.isEmpty && (match op with | .matmul _ => false | _ => true)

/-- The command at the head of a queue starts if it may (R85): its waits hold together and its pops can be made. The start
is an event for the HALT action and a check for CORE_PARITY (R537, R549). -/
def Dev.tryStart (d : Dev) (c : Nat) (u : EngUnit) : Dev :=
  let s := d.core c
  match s.queue u with
  | [] => d
  | q :: _ =>
    if s.halted || s.frozen || q.started then d
    else match d.startFault c u q.cmd with
      | some h => d.haltCmd c u h
      | none =>
        if !s.holdsAll q.cmd.waits || d.channelFull q.cmd.op || s.behindPipe u q.cmd.op then d
        else match d.popShort c u (if u = .st then [] else opPops q.cmd.op) with
          | some (true, n, need, have_) => d.haltCmd c u (closedHalt u n 0 need have_)
          | some (false, _) => d
          | none =>
            let (inj, d) := d.haltInject c
            match inj with
            | some det => d.haltCmd c u { reason := rInjected, unit := u.code, d0 := det, injected := true }
            | none =>
              let det := detId 0x13 (d.trust.lmap.getD c 0)
              let (par, d) := d.mimic det
              if par then
                let d := d.detect det 2 true none 0 0 0
                d.haltCmd c u { reason := rBusError, unit := u.code, d0 := det, injected := true, first := some d.er.seq }
              else
                let d := d.setCore c fun s => s.consumeAll q.cmd.waits
                if u = .st then d.deliver c q
                else (d.setHead c u fun q => { q with started := true }).admitRun c q.cmd.op

/-- The control core's WAIT is evaluated (R84, R85). -/
def Dev.tryWait (d : Dev) (c : Nat) : Dev :=
  let s := d.core c
  match s.waiting with
  | none => d
  | some (_, _, ws) =>
    if s.halted || s.frozen || !s.holdsAll ws then d
    else d.setCore c fun s => { (s.consumeAll ws) with waiting := none }

/-- Every waiting command of a core is evaluated again, in the order of R89. -/
def Dev.reevaluate (d : Dev) (c : Nat) : Dev :=
  ((((d.tryStart c .mx).tryStart c .vx).tryStart c .ls).tryStart c .st).tryWait c

/-! ## Operands of an engine -/

/-- The key of a tile among a command's inputs. -/
def tileKey (pos j : Nat) : Nat := pos * 65536 + j

/-- An operand of an engine: source, tiles, position, the formats it takes. -/
structure Operand where
  src : TileSrc
  n : Nat
  pos : Nat
  accept : Fmt → Bool

/-- The spans of an operand's tiles in memory, with their keys. MX and VX name no coherent address (R396). -/
def Dev.operandSpans (d : Dev) (u : EngUnit) (o : Operand) : Except HaltInfo (List (Nat × Span)) :=
  match o.src with
  | .queue .. => .ok []
  | .mem ref stride f _ =>
    match d.tileSpans o.pos ref stride f o.n false with
    | .error h => .error h
    | .ok ss =>
      match ss.find? fun s => u ≠ .ls && d.spanCoh s with
      | some s => .error { reason := rBadOperand, unit := u.code, kind := 9, address := s.addr, d0 := o.pos }
      | none => .ok ((List.range ss.length).map fun j => (tileKey o.pos j, ss.getD j (.mem [])))

/-- The tiles at the head of a queue, past those that earlier operands of the command pop, checked as they are popped (R67)
against the queue's declared format (R572): every tile of a ring has the extent of that format. -/
def Dev.queueTiles (d : Dev) (c : Nat) (u : EngUnit) (o : Operand) (q skip : Nat) :
    Except HaltInfo (List (List Byte)) × Dev :=
  match (d.headIdx c u q).bind d.q? with
  | none => (.error (foreignEnd u o.pos), d)
  | some s =>
    match d.sramRead c with
    | (some h, d) => (.error h, d)
    | (none, d) =>
      ((s.ring.drop skip).take o.n).foldl (fun (e : Except HaltInfo (List (List Byte)) × Dev) t =>
        match e with
        | (.error h, d) => (.error h, d)
        | (.ok ts, d) =>
          match d.checkTile c o.pos 0 (fun g => g == s.decl.fmt && o.accept g) t with
          | (some h, d) => (.error h, d)
          | (none, d) => (.ok (ts ++ [t]), d)) (.ok [], d)

/-- The tiles of an operand, checked, and turned where the operand is read transposed (R48). -/
def Dev.operandTiles (d : Dev) (c : Nat) (u : EngUnit) (o : Operand) (spans : List (Nat × Span)) (skip : Nat) :
    Except HaltInfo (List (List Byte)) × Dev :=
  match o.src with
  | .queue q _ tr =>
    match d.queueTiles c u o q skip with
    | (.error h, d) => (.error h, d)
    | (.ok ts, d) => (.ok (if tr then ts.map transposeTile else ts), d)
  | .mem _ _ f tr =>
    match d.readTiles c u o.pos (fun g => g == f && o.accept g) spans with
    | (.error h, d) => (.error h, d)
    | (.ok ts, d) => (.ok (if tr then ts.map transposeTile else ts), d)

/-- The spans of all memory operands, or the first failing check. -/
def Dev.allSpans (d : Dev) (u : EngUnit) : List Operand → Except HaltInfo (List (List (Nat × Span)))
  | [] => .ok []
  | o :: os => (d.operandSpans u o).bind fun ss => (d.allSpans u os).bind fun r => .ok (ss :: r)

/-- Reading the operands one after another; `used` counts what earlier operands pop from each queue. -/
def Dev.readOperands (d : Dev) (c : Nat) (u : EngUnit) (used : List (Nat × Nat)) :
    List (Operand × List (Nat × Span)) → Except HaltInfo (List (List (List Byte))) × Dev
  | [] => (.ok [], d)
  | (o, ss) :: rest =>
    let skip := match o.src with
      | .queue q _ _ => ((used.filter fun x => x.1 == q).map (·.2)).sum
      | _ => 0
    let used := match o.src with
      | .queue q false _ => (q, o.n) :: used
      | _ => used
    match d.operandTiles c u o ss skip with
    | (.error h, d) => (.error h, d)
    | (.ok ts, d) =>
      match d.readOperands c u used rest with
      | (.error h, d) => (.error h, d)
      | (.ok r, d) => (.ok (ts :: r), d)

/-- What reading a command's operands gives: the tiles of each; or the device after a halt or while bytes are awaited from
outside. -/
inductive Gathered where
  | wait (d : Dev)
  | tiles (ts : List (List (List Byte))) (d : Dev)

/-- The operands of the running command of an engine: memory operands outside the device are asked for first (R376, R389);
then, once no line of them is held (R332), every tile is read and checked. A failed check halts the core (R67, R107). -/
def Dev.gather (d : Dev) (c : Nat) (u : EngUnit) (os : List Operand) (extra : List (Nat × Span)) : Gathered :=
  match d.allSpans u os with
  | .error h => .wait (d.haltEng c u h)
  | .ok sss =>
    let flat := sss.flatten ++ extra
    if d.mustAsk (.eng c u) flat then
      match d.askAll (.eng c u) flat with
      | .ok d => .wait d
      | .error (a, st) =>
        let d := d.cplErr none (some a) st (reqCore c) false
        .wait (d.haltCmd c u (d.busHalt u a))
    else if !d.inputsIn (.eng c u) flat then .wait d
    else if flat.any fun x => d.spanHeld x.2 then .wait (d.waitMem c u)
    else match d.readOperands c u [] (os.zip sss) with
      | (.error h, d) => .wait (d.haltEng c u h)
      | (.ok ts, d) => .tiles ts d

end Sys2Proof.Machine
end

