-- ==== Sys2Proof/Machine/Clock.lean ====
section
/-! DEFINITION. The passing of time: the time counter and its slew (R526, R528), the time in power states (R525), and the idle
counters of every unit (R113, R525, R530, R531). -/

namespace Sys2Proof.Machine

open Sys2Proof

/-- Room of a work list (R91). -/
def listRoom : Nat := 16384

/-- Whether a signal field that an operation of core `issuer` carries reaches a core of this device: it names no rank or the own one. -/
def Dev.aims (d : Dev) (issuer c : Nat) (s : SigField) : Bool :=
  (s.rank.isNone || s.rank == some d.fx.rankSelf) && s.core.getD issuer == c

/-- Whether a signal list names an object of a core. -/
def Dev.namesObj (d : Dev) (sigs : List SigField) (issuer c : Nat) (o : SigObj) : Bool :=
  sigs.any fun s => d.aims issuer c s && decide (s.obj = o)

/-- Whether a unit has packets out, or waits to send them, whose answers it needs: operand reads and writes toward other devices. -/
def Dev.unitOut (d : Dev) (c : Nat) (u : EngUnit) : Bool :=
  let mine : FxUse → Bool := fun x => match x with
    | .load r _ => r == .eng c u
    | _ => false
  d.fx.outs.any (fun o => !o.quarantined && mine o.use) || (d.fx.stalled.any fun w => mine w.use) || (u == .ls && d.writesOut c)

/-- Whether bytes that a reader asked for are still to come (R376, R389, R424). -/
def Dev.awaiting (d : Dev) (r : Reader) : Bool :=
  let host : HostUse → Bool := fun x => match x with
    | .spill q _ => q == r
    | _ => false
  let fab : FxUse → Bool := fun x => match x with
    | .load q _ => q == r
    | _ => false
  d.fx.outs.any (fun o => !o.quarantined && fab o.use) || (d.fx.stalled.any fun w => fab w.use) ||
    (d.host.reads.any fun x => host x.use) || d.host.queued.any fun x => host x.2.2

/-- The station commands of every core: accepted ones, and those still on the ST path (R73), with their cores. -/
def Dev.stationCmds (d : Dev) : List (Nat × Cmd) :=
  (d.accepted.map fun a => (a.core, a.cmd)) ++
    (List.range d.n).flatMap fun c => (d.core c).st.map fun q => (c, q.cmd)

/-- The commands that a unit executes (R102). -/
def Dev.executing (d : Dev) (c : Nat) (u : EngUnit) : List QCmd :=
  (if u = .mx then (d.core c).pipe.map (·.cmd) else []) ++ (d.running c u).toList

/-- The cause of one wait field that does not hold (R113, R274): a collective gives WAIT_REDUCTION; a Bazaar operation, a command of
this device that has fabric packets out, or a signal of another device that has reached this one WAIT_PEER; anything else WAIT_FLAG. Of
a signal that another device has not yet delivered nothing here knows (R110). -/
def Dev.fieldCause (d : Dev) (c : Nat) (w : WaitField) : Nat :=
  let by_ (p : Op → Bool) : Bool := d.stationCmds.any fun x => p x.2.op && d.namesObj x.2.signals x.1 c w.obj
  let fabric : Bool := (List.range d.n).any fun o => [EngUnit.mx, .vx, .ls].any fun u =>
    (d.executing o u).any fun q => d.namesObj q.cmd.signals o c w.obj && d.unitOut o u
  if by_ fun op => match op with | .collective _ | .permute _ => true | _ => false then 7
  else if (by_ fun op => match op with | .dispatch _ | .combine _ => true | _ => false) || fabric then 8
  else if d.inflight.any fun f => f.core == c && decide (f.obj = w.obj) &&
      (match f.src with | .rank _ | .unranked _ => true | _ => false) then 8
  else 9

/-- The cause of waits that do not hold together: of several fields the first row of R113 that applies to one. -/
def Dev.waitCause (d : Dev) (c : Nat) (ws : List WaitField) : Nat :=
  (ws.filter fun w => !(d.core c).holds w).foldl (fun m w => min m (d.fieldCause c w)) 9

/-- The effective admission fraction of a paced group (R519, R521): the lower of the Drover's and the limiter's. -/
def Power.fOf (p : Power) (g : Nat) : Nat := min (p.f.getD g 16) p.fLimit

/-- The first accumulation of the pipe that is not through its passes, if no earlier one holds its bank: the one that the array
multiplies (R119). -/
def passingJob : List MxJob → List Nat → Option AccSt
  | [], _ => none
  | j :: js, held =>
    if j.acc.cells.isSome then passingJob js (j.acc.bank :: held)
    else if held.contains j.acc.bank then none else some j.acc

/-- The accumulation that the array multiplies: of the pipe, or of a GATE. -/
def CoreSt.passing (s : CoreSt) : Option AccSt :=
  (passingJob s.pipe []).or (if s.pipe.isEmpty && s.acc.closedAcc && s.acc.cells.isNone then some s.acc else none)

/-- Whether the pairs of a command may enter the operand store now (R117, R119): its accumulation is the one in progress, on a bank
whose drain has ended; or it is the next one, whole in at most 8 pairs (DESIGN CHOICE that only whole commands without CHAIN enter
ahead, log entry 13). -/
def CoreSt.mayTake (s : CoreSt) (m : MatmulArgs) : Bool :=
  let ahead := !m.chain && decide (m.kt ≤ 8)
  match s.pipe.filter fun j => j.acc.cells.isNone with
  | [] => !(s.pipe.any fun j => j.acc.bank == s.acc.bank) || ahead
  | [_] => (passingJob s.pipe []).isSome && ahead
  | _ => false

/-- Whether MX stands in a later pass of an accumulation, whose steps are RETRY (R129, R151). -/
def CoreSt.retrying (s : CoreSt) : Bool := s.passing.elim false fun a => a.retry.any (0 < ·)

/-- Whether a GATE of a core waits for tags or for a free round (R202, R227, R229), or a DISPATCH of it. -/
def Dev.bazaarHolds (d : Dev) (c : Nat) (bwd : Bool) : Bool := d.bz.waits.any fun w => w.core == c && w.bwd == bwd

/-- Whether some Well holds lines (R332, R484). -/
def Dev.someHeld (d : Dev) : Bool := d.wells.wells.any fun w => (List.range 32).any w.holds

/-- The cause of the command at the head of an engine's queue (R113). -/
def Dev.headCause (d : Dev) (c : Nat) (u : EngUnit) (q : QCmd) : Nat :=
  let s := d.core c
  if q.started then
    (if !q.ran then
      (if d.awaiting (.eng c u) || (q.memWait && d.someHeld) then 6
       else if u = .mx && s.gate.isSome && d.bazaarHolds c false then 4
       else 0)
     else if !q.hold.isEmpty then 4
     else if u = .ls && (d.fx.stalled.any fun w => match w.use with | .store x | .own x .. => x == c | _ => false) then 6
     else 0)
  else if (d.popShort c u (opPops q.cmd.op)).isSome then 5
  else if !s.holdsAll q.cmd.waits then d.waitCause c q.cmd.waits
  else if d.pw.fOf (d.trust.lmap.getD c 0 / 8) < 16 then 2
  else 0

/-- The idle cause that an engine of a core records (R113, R530). MX records RETRY in later passes (R151), works while the array
multiplies, and records DOWNSTREAM_FULL while its drain stalls and nothing multiplies (R139). -/
def Dev.engineCause (d : Dev) (c : Nat) (u : EngUnit) : Nat :=
  let s := d.core c
  if s.halted then 1
  else if s.frozen then 2
  else if u = .mx && s.retrying then 3
  else if u = .mx && s.passing.isSome then 0
  else match (if u = .mx then s.pipe else []), s.queue u with
    | j :: _, _ => if j.cmd.ran && !j.cmd.hold.isEmpty then 4 else 0
    | [], [] => if (s.slots.find? SlotMark.open).elim false (fun m => m.item.isNone && (s.slots.all fun x => x.runs.isNone)) then 11 else 12
    | [], q :: _ => d.headCause c u q

/-- Whether a LIST_PUSH of a core stands at a full work list (R92). -/
def Dev.listFull (d : Dev) (c : Nat) : Bool :=
  match d.running c .st with
  | none => false
  | some q => match q.cmd.op with
    | .listPush die _ => decide (((d.lists.getD (die.getD (dieOfCore d.grade c)) ⟨[], [], []⟩).items.length) ≥ listRoom)
    | _ => false

/-- The idle cause of a control core (R113). A LIST_PUSH that stands at a full list stalls its source (R92). -/
def Dev.controlCause (d : Dev) (c : Nat) : Nat :=
  let s := d.core c
  if s.halted then 1
  else if s.frozen then 2
  else if s.cc ≠ .running && s.items.isEmpty then 12
  else if s.pushStall.isSome || d.listFull c || d.bazaarHolds c true then 4
  else if s.taking then 12
  else match s.waiting with
    | some (_, _, ws) => d.waitCause c ws
    | none => 0

/-- The idle cause of a Well (R530). A part works, or it waits for held lines (R310) or for spilled operands (R253): MEMORY_STALL; an
update that waits under R267 gives its lead Well VERSION_HELD. -/
def Dev.wellCause (d : Dev) (w : Nat) : Nat :=
  let parts := d.wells.cmds.flatMap fun k => (k.parts.filter fun p => p.well == w && !p.done).map fun p => (k, p)
  let isUpdate (k : WellCmd) : Bool := match k.op with | .optUpdate .. => true | _ => false
  if parts.any fun x => x.1.started && !d.partHeld x.1 x.2 then 0
  else if parts.any fun x => x.1.heldSince.isNone && (d.partHeld x.1 x.2 || d.fetching x.1.id) then 6
  else if d.wells.cmds.any fun k => k.well == w && k.heldSince.isSome && isUpdate k then 10
  else 12

/-- Whether a use is a message of a Bazaar half. -/
def FxUse.ofHalf (u : FxUse) (h : Nat) : Bool := match u with
  | .bazaar die .. => die == h
  | _ => false

/-- The idle cause of a Bazaar half (R227, R229, R230, R530). It works while messages of it are on their way; it waits for a peer while
others are to come, or while a receiver withholds credit (R32). -/
def Dev.bazaarCause (d : Dev) (h : Nat) : Nat :=
  let pushing (r : Round) : Bool := r.disp.elim false fun p => !p.toPush.isEmpty
  if d.fx.outs.any fun o => !o.quarantined && o.use.ofHalf h then 0
  else if (d.bz.waits.any fun w => dieOfCore d.grade w.core == h) ||
      d.bz.rounds.any fun r => dieOfCore d.grade r.core == h && pushing r then 4
  else if d.bz.rounds.any fun r => dieOfCore d.grade r.core == h then 8
  else 12

/-- The idle cause of a port's adders (R274, R281, R296, R530). -/
def Dev.adderCause (d : Dev) (p : Nat) : Nat :=
  let lead (x : CollSt) : Bool :=
    (x.coll.elim false fun a => a.leadPort == p) || (x.perm.elim false fun a => a.leadPort == p)
  if d.rd.channels.any fun ch => ch.2.any lead then 7 else 12

/-- The counter registers of R531 with the cause that each unit records now. -/
def Dev.causes (d : Dev) : List (Nat × Nat) :=
  let idle := d.job.isNone
  let pick (x : Nat) : Nat := if idle then 12 else x
  ((List.range d.n).flatMap fun c =>
    [(0x380000 + 0x200 * c, pick (d.controlCause c)), (mxUnit c, pick (d.engineCause c .mx)),
     (0x380100 + 0x200 * c, pick (d.engineCause c .vx)), (0x380180 + 0x200 * c, pick (d.engineCause c .ls))]) ++
    ((presentWells d.grade).map fun w => (wellUnit w, pick (d.wellCause w))) ++
    ([0, 1].map fun h => (bazaarUnit h, pick (d.bazaarCause h))) ++
    ((presentPorts d.grade).map fun p => (0x392000 + 0x80 * p, pick (d.adderCause p)))

/-- The idle counters after a time in one state (R531). -/
def Dev.idleAfter (d : Dev) (dt : Nat) : List (Nat × Nat) :=
  d.causes.foldl (fun l x => addNat (x.1 + 8 * x.2) dt l) d.ct.live

/-- Whether a tracked workload is still in progress: its core runs, its phase or its command is there (R533). -/
def Dev.inProgress (d : Dev) (t : Track) : Bool :=
  let phase (r : Round) (p : PhaseSt) : Bool := bzKey p.phase r.layer r.mb == t.key
  match t.row with
  | 0 => !(d.core t.key).halted
  | 2 => d.bz.rounds.any fun r => r.disp.elim false (phase r) || r.comb.elim false (phase r)
  | _ => d.wells.cmds.any fun k => k.id == t.key

/-- A tracked workload after a time in one state (R30, R31). In row 0 the steps of accumulations are counted as they end; what is
added here are the steps that pass in a MEMORY_STALL, which R31 does not exclude. -/
def Dev.trackAfter (d : Dev) (causes : List (Nat × Nat)) (dt ns : Nat) (t : Track) : Track :=
  let cause := lookNat t.unit causes
  if t.row = 0 then (if cause = 6 then { t with achieved := t.achieved + Config.stepsIn t.key d.now dt } else t)
  else if excludedCauses.contains cause then
    { t with ok := t.ok && !(t.row == 2 && d.fx.stalled.any fun w => w.use.ofHalf ((t.unit - bazaarUnit 0) / 0x80)) }
  else { t with achieved := t.achieved + ns }

/-- The tracked workloads after a time; those that ended without retiring are gone. -/
def Dev.tracksAfter (d : Dev) (dt ns : Nat) : List Track :=
  let cs := d.causes
  (d.ct.tracks.filter d.inProgress).map (d.trackAfter cs dt ns)

/-- The part of a slew that a time interval allows: 500 ppm (R528). -/
def slewPart (slew : Int) (t0 t1 : Nat) : Int :=
  let m : Int := (t1 / 2000 : Nat) - (t0 / 2000 : Nat)
  max (-m) (min m slew)

/-- The time counter after a time (R526, R528). It counts only while the device has power and is enabled to slew. -/
def TimeCtr.after (t : TimeCtr) (now dt : Nat) : TimeCtr :=
  let part := slewPart t.slew now (now + dt)
  { t with ns := ((t.ns : Int) + dt + part).toNat, slew := t.slew - part }

/-- The sensor registers as they read at a time (R534). -/
def Power.sense (p : Power) (t : Nat) : Power :=
  { p with power := (Config.sensePower t).toNat, vddCore := (Config.senseVdd t).toNat, tj := (Config.senseTj t).toNat,
           tjPeak := max p.tjPeak (Config.senseTj t).toNat, stepRate := (Config.senseRate t).toNat }

/-- The microcode stalls of the running UPDATE at a time, by Well (R481, R484); the end of one is the model's time. -/
def Dev.stallsAt (d : Dev) (t : Nat) : List (Nat × Nat) :=
  match d.trust.update.bind fun u => u.begun.map fun b => (b, u.run.stalls) with
  | none => []
  | some (b, ss) => (ss.filter fun s => decide (b + 1000 * s.2.1 ≤ t) && decide (t < b + 1000 * s.2.2)).map fun s => (s.1, b + 1000 * s.2.2)

/-- UCODE_UPDATE of every Well now (R484): a switch waits for a repair in progress on its Well. -/
def Dev.noteStalls (d : Dev) : Dev :=
  let ss := (d.stallsAt d.now).map (·.1)
  let mark (w : Nat) (x : WellSt) : WellSt := { x with ucode := ss.contains w && !(x.retraining || x.sparing || x.laneRepair) }
  { d with wells := { d.wells with wells := d.wells.wells.mapIdx mark } }

/-- The counter block after a time: idle counters and tracked workloads, which stand still outside A0 (R525, R531). -/
def Dev.countersAfter (d : Dev) (dt : Nat) : Counters :=
  if d.pw.state = 0 then
    { d.ct with live := d.idleAfter dt, tracks := d.tracksAfter dt ((d.tm.after d.now dt).ns - d.tm.ns) }
  else d.ct

/-- Time passes (R525, R526, R531, R533). -/
def Dev.advance (d : Dev) (dt : Nat) : Dev :=
  if dt = 0 then d
  else Dev.streamRoll (Dev.noteStalls
    { d with
      now := d.now + dt, tm := d.tm.after d.now dt,
      pw := { d.pw.sense (d.now + dt) with res := d.pw.res.modify d.pw.state fun t => t + dt },
      wells := { d.wells with wells := d.wells.wells.mapIdx fun w x => { x with temp := (Config.senseWell w (d.now + dt)).toNat } },
      ct := d.countersAfter dt }) d.tm.ns

/-- Time passes until an instant, if it is not past. -/
def Dev.advanceTo (d : Dev) (t : Nat) : Dev := d.advance (t - d.now)

/-- A retrain of a port waits for the end of a microcode stall on its die (R488). -/
def Dev.awaitStall (d : Dev) (die : Nat) : Dev :=
  d.advanceTo (((d.stallsAt d.now).filter fun s => dieOfWell s.1 == die).foldl (fun t s => max t s.2) d.now)

/-- What the block does with no command waiting: a nanosecond passes. -/
def Dev.idle (d : Dev) : Dev := d.advance 1

end Sys2Proof.Machine
end

