-- ==== Sys2Proof/Machine/Ops.lean ====
section
/-! DEFINITION. The shape that every meaning has: a command changes the device, or the Tollhouse, and the block goes on. -/

namespace Sys2Proof.Machine

open Sys2Proof

/-- A command that changes the device only. -/
def State.onDev (s : State) (f : Dev → Dev) : Host.Outcome State Fault Refusal := .next { s with dev := f s.dev }

/-- Whether a logical core runs its control routine or a work item's routine and stands nowhere (R71, R74, R84). -/
def Dev.ccRuns (d : Dev) (c : Nat) : Bool :=
  let s := d.core c
  decide (c < d.n) && d.job.isSome && !s.halted && !s.frozen && s.cc == .running && s.pushStall.isNone && s.waiting.isNone &&
    !s.taking && s.ending.isNone

/-- The time of the present A3 or A4 is not counted in any Drone's pass (R522, R525). -/
def Dev.dronePause (d : Dev) : Dev :=
  let dt := if d.pw.state ≥ 3 then d.now - d.pw.since else 0
  let shift (w : WellSt) : WellSt := { w with passStart := w.passStart + dt }
  { d with wells := { d.wells with wells := d.wells.wells.map shift } }

/-- The device wakes to A0 (R524). -/
def Dev.awake (d : Dev) : Dev :=
  if d.pw.state = 0 then d
  else { d.dronePause with pw := { d.pw with state := 0, since := d.now, wakes := sat32 (d.pw.wakes + 1) } }

/-- A write to a BAR0 block other than the boot and trust mailbox: ignored until READY has been reached (R465); it wakes the device and
is then served (R524). -/
def State.onBar (s : State) (f : Dev → Dev) : Host.Outcome State Fault Refusal :=
  s.onDev fun d => if d.boot.served then f d.awake else d

/-- A command that the host sends through BAR2, configuration space, the boot and trust mailbox or the DOE mailbox: it wakes the
device and is then served (R524). -/
def State.onHost (s : State) (f : Dev → Dev) : Host.Outcome State Fault Refusal := s.onDev fun d => f d.awake

/-- IDC_GRADE (R434). -/
def gradeWord (g : Grade) : Nat :=
  (match g with | .zx9480 => 0x80 | .zx9460 => 0x60 | .zx9440 => 0x40) + Config.stepping * 256

/-- A bit mask of numbers. -/
def maskOf (xs : List Nat) : Nat := xs.foldl (fun m x => m ||| 2 ^ x) 0

/-- A control-core operation halts its core: UNIT 0 and SEQ 0 (R105). -/
def Dev.haltCc (d : Dev) (c opIndex : Nat) (h : HaltInfo) : Dev := d.haltCore c { h with unit := 0, opIndex := opIndex, seq := 0 }

end Sys2Proof.Machine
end

