-- ==== Sys2Proof/Machine/Program.lean ====
section
/-! DEFINITION. The meanings of the program-model commands: pushes and starts, signals, tile transfers between cores, CLOSE, WAIT,
SIGNAL, work lists, reservations, END and the wait-cycle detector (R73 to R114). -/

namespace Sys2Proof.Machine

open Sys2Proof

/-! ## Pushing commands -/

/-- The ENGINE_ABSENT halt of a push to a station that the grade lacks (R76), if any. -/
def Dev.absentStation (d : Dev) (op : Op) : Option HaltInfo :=
  let port (p : Nat) : Option HaltInfo :=
    if (presentPorts d.grade).contains p then none else some { reason := rEngineAbsent, unit := 0, kind := 2, d0 := p }
  match op with
  | .well w _ _ =>
    if (presentWells d.grade).contains w then none else some { reason := rEngineAbsent, unit := 0, kind := 1, d0 := w }
  | .collective a => port a.leadPort
  | .permute a => port a.leadPort
  | _ => none

/-- A command enters its queue with the next sequence number (R73, R104). -/
def Dev.enqueue (d : Dev) (c : Nat) (u : EngUnit) (cmd : Cmd) : Dev :=
  d.setCore c fun s =>
    let q : QCmd := { seq := s.seqs.getD (unitIdx u) 0, cmd := cmd, started := false, asked := false, inputs := [],
                      ran := false, hold := [], trap := none, item := s.items.head?.map (·.1) }
    { (s.setQueue u (s.queue u ++ [q])) with seqs := s.seqs.modify (unitIdx u) (· + 1) }

/-- Depth of a command queue (R73). -/
def depthOf : EngUnit → Nat
  | .st => 32 | .cc => 0 | _ => 64

/-- COMMAND_PUSH (R73, R74, R76). A control-core instruction without a defined meaning, or whose computation has no defined result,
comes as one for the unit CC: ILLEGAL_OP with its bytes (R107; log entry 99). -/
def Dev.commandPush (d : Dev) (c : Nat) (u : EngUnit) (cmd : Cmd) : Dev :=
  if !d.ccRuns c then d
  else if u = .cc then d.haltCc c cmd.opIndex { reason := rIllegal, unit := 0, d0 := cmd.raw.toNat }
  else match (if u = .st then d.absentStation cmd.op else none) with
    | some h => d.haltCc c cmd.opIndex h
    | none =>
      if (d.core c).depth u < depthOf u then d.enqueue c u cmd
      else d.setCore c fun s => { s with pushStall := some (u, cmd) }

/-- R73: COMMAND_PUSH. -/
def execCommandPush (core : Nat) (unit : EngUnit) (cmd : Cmd) (s : State) : Host.Outcome State Fault Refusal :=
  s.onDev fun d => d.commandPush core unit cmd

/-- The stalled push goes on once an entry is free (R74). -/
def Dev.commandQueueRoom (d : Dev) (c : Nat) : Dev :=
  let s := d.core c
  match s.pushStall with
  | none => d
  | some (u, cmd) =>
    if s.halted || s.frozen || s.depth u ≥ depthOf u then d
    else (d.setCore c fun s => { s with pushStall := none }).enqueue c u cmd

/-- R74: COMMAND_QUEUE_ROOM. -/
def execCommandQueueRoom (core : Nat) (s : State) : Host.Outcome State Fault Refusal :=
  s.onDev fun d => d.commandQueueRoom core

/-- R85: COMMAND_START. -/
def execCommandStart (core : Nat) (unit : EngUnit) (s : State) : Host.Outcome State Fault Refusal :=
  s.onDev fun d => d.tryStart core unit

/-! ## Signals -/

/-- Whether one source comes before another in the order of R89. -/
def sigBefore (a b : InFlight) : Bool :=
  let x := sigRank a.src
  let y := sigRank b.src
  decide (x.1 < y.1) || (x.1 == y.1 && decide (x.2 ≤ y.2))

/-- Insertion of an update into the order of R89, after the equal ones that came before it. -/
def insertSig (f : InFlight) : List InFlight → List InFlight
  | [] => [f]
  | g :: gs => if sigBefore g f then g :: insertSig f gs else f :: g :: gs

/-- Updates in the order of R89. -/
def sortSigs (fs : List InFlight) : List InFlight := fs.foldl (fun l f => insertSig f l) []

/-- One update takes effect at its owning core (R86, R89, R90). A counter overflow halts the owner; R105 names its UNIT. -/
def Dev.applyUpdate (d : Dev) (f : InFlight) : Dev :=
  let s := d.core f.core
  if s.halted then d
  else match f.obj, f.op with
    | .flag i, .set => d.setCore f.core fun s => { s with flags := s.flags ||| BitVec.ofNat 256 (2 ^ i) }
    | .flag i, .clear => d.setCore f.core fun s => { s with flags := s.flags &&& ~~~(BitVec.ofNat 256 (2 ^ i)) }
    | .counter i, .add v =>
      let old := (s.counters.getD i 0).toNat
      if old + v > 0xFFFFFFFF then
        let h : HaltInfo := { reason := rFlagRange, unit := 5, kind := 4, d0 := i, d1 := old + v * 2 ^ 32 }
        match f.src with
        | .own u op seq => d.haltCore f.core { h with unit := u.code, opIndex := op, seq := seq }
        | _ => d.haltCore f.core h
      else d.setCore f.core fun s => { s with counters := s.counters.modify i fun _ => BitVec.ofNat 32 (old + v) }
    | _, _ => d

/-- Updates reach a core in one step: each takes effect in the order of R89, and after each every waiting command of the core
is evaluated again. A frozen core's are held (R485). -/
def Dev.signalArrival (d : Dev) (c : Nat) (ids : List Nat) : Dev :=
  let mine (f : InFlight) : Bool := f.core == c && ids.contains f.id && !(d.core c).frozen
  let fs := sortSigs (d.inflight.filter mine)
  let d := { d with inflight := d.inflight.filter fun f => !mine f }
  fs.foldl (fun d f => (d.applyUpdate f).reevaluate c) d

/-- R89: SIGNAL_ARRIVAL. -/
def execSignalArrival (core : Nat) (ids : List Nat) (s : State) : Host.Outcome State Fault Refusal :=
  s.onDev fun d => d.signalArrival core ids

/-! ## Tiles and credits between cores of the device -/

/-- The queue of a consumer core that joins it to another core of this device. -/
def Dev.crossIdx (d : Dev) (c q : Nat) : Option Nat :=
  d.queues.findIdx? fun s => s.decl.num == q && d.isHere s.decl.cons && d.isHere s.decl.prod && s.decl.cons.core == c &&
    s.decl.prod.core != c

/-- The oldest tile in transit is written whole into the ring and is present; what waits for it is evaluated (R81, R79). A ring
of a halted core stays as it is (R102). -/
def Dev.tileArrival (d : Dev) (c q : Nat) : Dev :=
  match (d.crossIdx c q).bind fun i => (d.q? i).map fun s => (i, s) with
  | none => d
  | some (i, s) =>
    match s.transit with
    | [] => d
    | t :: rest =>
      if (d.core c).halted || (d.core c).frozen then d
      else
        let p := s.decl.prod.core
        let (ok, d) := if dieOfCore d.grade p = dieOfCore d.grade c then (true, d) else d.bridgeCheck (dieOfCore d.grade p)
        if !ok then d
        else
          let d := d.setQ i fun s => { s with transit := rest, ring := s.ring ++ [t] }
          (d.reevaluate c).settleCore p

/-- R81: TILE_ARRIVAL. -/
def execTileArrival (core queue : Nat) (s : State) : Host.Outcome State Fault Refusal :=
  s.onDev fun d => d.tileArrival core queue

/-- One credit reaches the producer, whose stalled push may go on (R79, R81, R139). -/
def Dev.creditReturn (d : Dev) (c q : Nat) : Dev :=
  match (d.crossIdx c q).bind fun i => (d.q? i).map fun s => (i, s) with
  | none => d
  | some (i, s) =>
    if s.back = 0 || (d.core s.decl.prod.core).frozen then d
    else (d.setQ i fun s => { s with back := s.back - 1, credits := s.credits + 1 }).settleCore s.decl.prod.core

/-- R81: CREDIT_RETURN. -/
def execCreditReturn (core queue : Nat) (s : State) : Host.Outcome State Fault Refusal :=
  s.onDev fun d => d.creditReturn core queue

/-- The CLOSE at the head of an engine's queue runs (R80): the queue is closed, or a CLOSE message follows the last tile to the
consumer's device (R412); a pop that can no longer be met halts its core. A CLOSE of a closed queue closes it again (DESIGN CHOICE,
log entry 99). -/
def Dev.closeQueue (d : Dev) (c : Nat) (u : EngUnit) : Dev :=
  match d.running c u with
  | none => d
  | some q =>
    if q.ran then d
    else match q.cmd.op with
      | .close n =>
        match (d.tailIdx c u n).bind fun i => (d.q? i).map fun s => (i, s) with
        | none => d
        | some (i, s) =>
          let far := d.farCons s
          let e := if far then d.sendQueue s 3 s.pushed [] else d
          if (e.core c).halted && !(d.core c).halted then e
          else
            let d := (e.setQ i fun s => { s with closed := true }).commit c u [] []
            if far then d else d.reevaluate s.decl.cons.core
      | _ => d

/-- R80: CLOSE. -/
def execClose (core : Nat) (unit : EngUnit) (s : State) : Host.Outcome State Fault Refusal :=
  s.onDev fun d => d.closeQueue core unit

/-! ## WAIT and SIGNAL -/

/-- The control core runs WAIT (R84, R90). -/
def Dev.waitOp (d : Dev) (c opIndex : Nat) (raw : Word64) (ws : List WaitField) : Dev :=
  if !d.ccRuns c then d
  else match d.fieldFault raw ws [] with
    | some h => d.haltCc c opIndex h
    | none => (d.setCore c fun s => { s with waiting := some (opIndex, raw, ws) }).tryWait c

/-- R84: WAIT. -/
def execWait (core opIndex : Nat) (raw : Word64) (waits : List WaitField) (s : State) : Host.Outcome State Fault Refusal :=
  s.onDev fun d => d.waitOp core opIndex raw waits

/-- The control core runs SIGNAL (R86, R87, R90). -/
def Dev.signalOp (d : Dev) (c opIndex : Nat) (raw : Word64) (ss : List SigField) : Dev :=
  if !d.ccRuns c then d
  else match d.fieldFault raw [] ss with
    | some h => d.haltCc c opIndex h
    | none => (d.raiseSignals c .cc opIndex 0 (reqCore c) ss).afterHalt c (d.core c).halted

/-- R86: SIGNAL. -/
def execSignal (core opIndex : Nat) (raw : Word64) (sigs : List SigField) (s : State) : Host.Outcome State Fault Refusal :=
  s.onDev fun d => d.signalOp core opIndex raw sigs

/-! ## Work lists -/

/-- Core groups of the device (R356). -/
def Dev.coreGroups (d : Dev) : Nat := d.n / 8

/-- Whether a DONE field keeps the limits of R91. -/
def Dev.doneOk (d : Dev) (f : DoneField) : Bool :=
  decide (f.core < d.n) && decide (f.counter ≤ 63) && decide (1 ≤ f.value) && decide (f.value ≤ 65535)

/-- Whether a routine is declared (R92), under an index of R91. -/
def Dev.hasRoutine (d : Dev) (r : Nat) : Bool :=
  decide (r ≤ 4095) && d.job.elim false fun j => j.prog.routines.any fun x => x.index == r

/-- The first field of an item that breaks the limits of R91 and R92, by its place in the order of R91. -/
def Dev.itemFault (d : Dev) (it : WorkItem) : Option Nat :=
  if !d.hasRoutine it.routine then some 0
  else if it.cls > 3 then some 1
  else if !it.expert.all (fun e => decide (e ≤ 4095)) then some 2
  else if it.rows > 32 then some 3
  else if !it.affinity.all (fun g => decide (g < d.coreGroups)) then some 4
  else if !it.done.all d.doneOk then some 5
  else none

/-- The work list of a die. -/
def Dev.list (d : Dev) (die : Nat) : WorkList := d.lists.getD die ⟨[], [], []⟩

/-- The device with one work list changed. -/
def Dev.setList (d : Dev) (die : Nat) (f : WorkList → WorkList) : Dev := { d with lists := d.lists.modify die f }

/-- An item enters a list with room. -/
def Dev.addItem (d : Dev) (die : Nat) (it : WorkItem) : Dev :=
  let (id, d) := d.fresh
  d.setList die fun l => { l with items := l.items ++ [⟨id, it, d.now⟩] }

/-- A withdrawn item goes back to the head of its class (R95); in a full list it waits with firmware for room. -/
def WorkList.putBack (l : WorkList) (e : WorkEntry) : WorkList :=
  if l.items.length < listRoom then { l with items := e :: l.items } else { l with back := l.back ++ [e] }

/-- A withdrawn item that found no room goes back once there is some (R95). -/
def Dev.drainBack (d : Dev) (die : Nat) : Dev :=
  match (d.list die).back with
  | [] => d
  | e :: rest => d.setList die fun l => ({ l with back := rest }).putBack e

/-- The Bazaar pushes the items of an arrangement, in order, as far as their lists have room (R92, R223): what is left to push. -/
def Dev.feedItems (d : Dev) : List (Nat × WorkItem) → List (Nat × WorkItem) × Dev
  | [] => ([], d)
  | (die, it) :: rest =>
    if (d.list die).items.length < listRoom then (d.addItem die it).feedItems rest else ((die, it) :: rest, d)

/-- The arrangement of a round goes on pushing its items; once none is left, its DISPATCH completes (R223). -/
def Dev.feedRound (d : Dev) (r : Round) : Dev :=
  match r.disp with
  | none => d
  | some p =>
    if p.toPush.isEmpty then d
    else match d.feedItems p.toPush with
      | (rest, d) =>
        let d := d.mapPhase r false fun p => { p with toPush := rest }
        if rest.isEmpty then d.closeOp r { p with toPush := [] } else d

/-- The arrangements that wait for room in a work list, oldest round first (R92, R223). -/
def Dev.feedRounds (d : Dev) : Dev :=
  d.bz.rounds.foldl (fun d r => ((d.round? r.bwd r.layer r.mb).map d.feedRound).getD d) d

/-- The operand position of the die of a LIST_PUSH, after the fields of R91. -/
def listDiePos : Nat := 12

/-- The LIST_PUSH at the head of the ST path runs (R92). The fields of the item are its operands 0 to 11, the die is operand 12; a die
above 1 is outside the limits too (DESIGN CHOICE, log entry 99). -/
def Dev.listPush (d : Dev) (c : Nat) : Dev :=
  match d.running c .st with
  | none => d
  | some q =>
    match q.cmd.op with
    | .listPush die it =>
      let die := die.getD (dieOfCore d.grade c)
      match (d.itemFault it).or (if die > 1 then some listDiePos else none) with
      | some p => d.haltCmd c .st (badShape p)
      | none =>
        match d.tableCheck die 1 with
        | (false, d) => d
        | (true, d) => if (d.list die).items.length < listRoom then (d.addItem die it).complete c .st else d
    | _ => d

/-- R92: LIST_PUSH. -/
def execListPush (core : Nat) (s : State) : Host.Outcome State Fault Refusal := s.onDev fun d => d.listPush core

/-- The class of the item that a take by a core of a group gets, oldest first within it (R93): an item whose AFFINITY includes
the core, of the highest class; if there is none, any item of the highest class. -/
def pickItem (items : List WorkEntry) (group : Nat) : Option WorkEntry :=
  let suits (e : WorkEntry) : Bool := e.item.affinity.all (· == group)
  let best (es : List WorkEntry) : Option WorkEntry :=
    [0, 1, 2, 3].findSome? fun k => es.find? fun e => e.item.cls == k
  (best (items.filter suits)).or (best items)

/-- A core takes an item from its die's list (R93). -/
def Dev.giveItem (d : Dev) (die c : Nat) : Dev :=
  match pickItem (d.list die).items (c / 8) with
  | none => d
  | some e =>
    let d := d.setList die fun l => { l with items := l.items.filter fun x => x.id != e.id }
    ((d.setCore c fun s => { s with taking := false, items := (e.id, e.item) :: s.items }).drainBack die).feedRounds

/-- Whether a core has slots in a reservation whose round has begun here and is not marked yet (R97). -/
def Dev.slotsDue (d : Dev) (c : Nat) : Bool :=
  let due (i : Option Nat) : Bool :=
    (i.bind fun i => (d.job.map (·.prog.reservations)).bind fun l => l[i]?).elim false fun (v : Reservation) => v.slots.any fun x => x.core == c
  d.bz.rounds.any (fun r => r.disp.elim false fun p => !p.arranged && due p.reservation) ||
    d.accepted.any fun a => !a.begun && match a.cmd.op with | .dispatch x => due x.reservation | _ => false

/-- Whether a core that takes from the common list can be served: it is not frozen (R485) and no slots are due to it (R97). -/
def Dev.servable (d : Dev) (c : Nat) : Bool := !(d.core c).frozen && !d.slotsDue c

/-- A core that takes: its next slot while a reservation's round lasts (R97), else the next item of its die's list, or it waits
there (R93). -/
def Dev.takeNow (d : Dev) (c : Nat) : Dev :=
  match (d.core c).slots.find? SlotMark.open with
  | some m =>
    match m.item with
    | some it =>
      let (id, d) := d.fresh
      let begin (m : SlotMark) : SlotMark := { m with runs := some id }
      d.setCore c fun s => { s with taking := false, items := (id, it) :: s.items, slots := nextSlot begin s.slots }
    | none => d.setCore c fun s => { s with taking := true }
  | none =>
    if !(d.core c).slots.isEmpty then d.setCore c fun s => { s with taking := true }
    else
    let die := dieOfCore d.grade c
    match d.tableCheck die 1 with
    | (false, d) => d
    | (true, d) =>
      if (d.list die).takes.all (fun x => !d.servable x) && !(d.list die).items.isEmpty && d.servable c then d.giveItem die c
      else (d.setCore c fun s => { s with taking := true }).setList die fun l => { l with takes := l.takes ++ [c] }

/-- R93: LIST_TAKE. In a routine that itself runs from an item, the item taken runs within it. -/
def execListTake (core _opIndex : Nat) (s : State) : Host.Outcome State Fault Refusal :=
  s.onDev fun d => if d.ccRuns core then d.takeNow core else d

/-- The oldest waiting take of a list is served (R93). -/
def Dev.listServe (d : Dev) (die : Nat) : Dev :=
  match (d.list die).takes.find? d.servable with
  | none => d
  | some c =>
    if (d.list die).items.isEmpty then d
    else (d.setList die fun l => { l with takes := l.takes.filter fun x => x != c }).giveItem die c

/-- R93: LIST_TAKE_SERVED. -/
def execListTakeServed (die : Nat) (s : State) : Host.Outcome State Fault Refusal := s.onDev fun d => d.listServe die

/-- R93: AFFINITY_EXPIRE: 2 µs after it entered the list an item loses its AFFINITY. -/
def execAffinityExpire (die id : Nat) (s : State) : Host.Outcome State Fault Refusal :=
  s.onDev fun d =>
    match (d.list die).items.find? fun e => e.id == id with
    | none => d
    | some e =>
      let clear (x : WorkEntry) : WorkEntry := if x.id == id then { x with item := { x.item with affinity := none } } else x
      (d.advanceTo (e.since + 2000)).setList die fun l => { l with items := l.items.map clear }

/-- An EMPTY slot ends (R97): RESERVED_EMPTY for SLOT_STEPS steps; a core that takes goes on to its next slot, or to the list.
-/
def Dev.slotEnd (d : Dev) (c : Nat) : Dev :=
  match (d.core c).slots.find? SlotMark.open with
  | none => d
  | some m =>
    if m.item.isSome || (d.core c).halted || (d.core c).frozen then d
    else
      let fin (m : SlotMark) : SlotMark := { m with ended := true }
      let d := d.setCore c fun s =>
        { s with slots := settleSlots (nextSlot fin s.slots), emptySteps := s.emptySteps + m.slotSteps }
      if (d.core c).taking then d.takeNow c else d

/-- R97: RESERVED_SLOT_END. -/
def execReservedSlotEnd (core : Nat) (s : State) : Host.Outcome State Fault Refusal := s.onDev fun d => d.slotEnd core

/-- R114: END: the routine ends once every pushed command has completed. -/
def execEndRoutine (core opIndex : Nat) (s : State) : Host.Outcome State Fault Refusal :=
  s.onDev fun d =>
    if d.ccRuns core then (d.setCore core fun s => { s with ending := some opIndex }).finishEnd core else d

/-! ## The wait-cycle detector -/

/-- What blocks a unit (R110, R111): STATE, OBJECT, PEER, SEQ, AWAITED, CURRENT. -/
structure Block where
  state : Nat
  obj : Nat := 0
  peer : Nat := 0xFFFF
  seq : Nat := 0
  awaited : Nat := 0
  current : Nat := 0
  deriving DecidableEq, Repr

/-- The entry of a unit in BLOCKED (R111). -/
def Block.bytes (b : Block) (unit : Nat) : List Byte :=
  leBytes 1 unit ++ leBytes 1 b.state ++ leBytes 2 b.obj ++ leBytes 2 b.peer ++ leBytes 2 (b.seq % 65536) ++
    leBytes 4 b.awaited ++ leBytes 4 b.current

/-- The first wait field that does not hold, as an entry. -/
def CoreSt.blockWait (s : CoreSt) (seq : Nat) (ws : List WaitField) : Option Block :=
  (ws.find? fun w => !s.holds w).map fun w =>
    match w.obj with
    | .flag i => { state := 1, obj := i, seq := seq, awaited := w.value, current := b2n (s.flags.getLsbD i) }
    | .counter i => { state := 2, obj := i, seq := seq, awaited := w.value, current := (s.counters.getD i 0).toNat }

/-- The logical core at a queue's other end, or 0xFFFF on another device (R111). -/
def Dev.otherEnd (d : Dev) (e : QEndpoint) : Nat := if d.isHere e then e.core else 0xFFFF

/-- What blocks the control core, if it is blocked (R110). -/
def Dev.blockCc (d : Dev) (c : Nat) : Option Block :=
  let s := d.core c
  match s.waiting, s.pushStall with
  | some (_, _, ws), _ => s.blockWait 0 ws
  | none, some (u, _) =>
    if s.depth u ≥ depthOf u then some { state := 5, obj := u.code, awaited := 1 } else none
  | none, none => none

/-- A command that stalls on a push, as an entry (R111): none while there is room. -/
def Dev.blockPush (d : Dev) (c : Nat) (u : EngUnit) (q : QCmd) : Option Block :=
  match q.hold with
  | [] => none
  | (n, _) :: _ =>
    match (d.tailIdx c u n).bind d.q? with
    | none => none
    | some x =>
      if d.freeSlots x > 0 then none
      else some { state := 4, obj := n, peer := d.otherEnd x.decl.cons, seq := q.seq,
                  awaited := (q.hold.filter fun h => h.1 == n).length, current := d.freeSlots x }

/-- The head of an engine's queue, blocked (R110). An empty queue counts as blocked. A command that lacks both a wait and tiles is
entered with its wait (DESIGN CHOICE, log entry 99). -/
def Dev.blockHead (d : Dev) (c : Nat) (u : EngUnit) : Option Block :=
  let s := d.core c
  match s.queue u with
  | [] => some { state := 0 }
  | q :: _ =>
    if q.started then d.blockPush c u q
    else match s.blockWait q.seq q.cmd.waits with
      | some b => some b
      | none =>
        match d.popShort c u (opPops q.cmd.op) with
        | some (_, n, need, have_) =>
          some { state := 3, obj := n, seq := q.seq, awaited := need, current := have_,
                 peer := ((d.headIdx c u n).bind d.q?).elim 0xFFFF fun x => d.otherEnd x.decl.prod }
        | none => none

/-- Whether the head of MX can go no further while the MATMULs of the pipe stand: blocked itself, behind them, or without a place in
the operand store (R117, R119). -/
def Dev.mxHeadHeld (d : Dev) (c : Nat) : Bool :=
  let s := d.core c
  match s.mx with
  | [] => true
  | q :: _ => s.behindPipe .mx q.cmd.op || (d.blockHead c .mx).isSome ||
      (q.started && match q.cmd.op with | .matmul m => !s.mayTake m | _ => false)

/-- What blocks an engine, if it is blocked (R110). MX is blocked behind a drain that stalls on a full queue once nothing multiplies
and nothing more can enter its store: the entry is the stalled command's. -/
def Dev.blockEng (d : Dev) (c : Nat) (u : EngUnit) : Option Block :=
  match (if u = .mx then (d.core c).pipe else []) with
  | [] => d.blockHead c u
  | j :: _ => if (d.core c).passing.isNone && d.mxHeadHeld c then d.blockPush c .mx j.cmd else none

/-- Whether something is pending toward a core (R110, R413). -/
def Dev.pendingToward (d : Dev) (c : Nat) : Bool :=
  let names (a : Nat) (ss : List SigField) : Bool := ss.any (d.aims a c)
  let engine (o : Nat) (u : EngUnit) : Bool := (d.executing o u).any fun q => names o q.cmd.signals
  let far (u : EngUnit) (b : Block) : Bool :=
    if b.state = 3 then ((d.headIdx c u b.obj).bind d.q?).elim false fun x => d.farProd x && !x.quiet
    else if b.state = 4 then ((d.tailIdx c u b.obj).bind d.q?).elim false fun x => d.farCons x && !x.quiet
    else false
  (d.inflight.any fun f => f.core == c) ||
    (d.queues.any fun x => d.isHere x.decl.cons && x.decl.cons.core == c && !x.transit.isEmpty) ||
    (d.queues.any fun x => d.isHere x.decl.prod && x.decl.prod.core == c && decide (x.back > 0)) ||
    (d.accepted.any fun a => a.core == c || names a.core a.cmd.signals) || !(d.core c).st.isEmpty ||
    ((List.range d.n).any fun o => o != c && (engine o .mx || engine o .vx || engine o .ls)) ||
    (d.core c).taking ||
    ([EngUnit.mx, .vx, .ls].any fun u => (d.blockEng c u).elim false (far u))

/-- The wait-cycle detector fires when its conditions have held for WAIT_WINDOW (R110, R111). -/
def Dev.waitCycle (d : Dev) (c : Nat) : Dev :=
  let s := d.core c
  match d.job with
  | none => d
  | some j =>
    if s.halted || s.frozen || (j.primary.isSome && !j.stopped) || decide (c ≥ d.n) then d
    else match d.blockCc c, d.blockEng c .mx, d.blockEng c .vx, d.blockEng c .ls with
      | some b0, some b1, some b2, some b3 =>
        if [b0, b1, b2, b3].all (fun b => b.state == 0) || d.pendingToward c then d
        else
          let d := d.advance (1000 * s.waitWindowUs)
          d.haltCore c { reason := rWaitCycle, unit := 5, d0 := 1000 * s.waitWindowUs,
                         blocked := b0.bytes 0 ++ b1.bytes 1 ++ b2.bytes 2 ++ b3.bytes 3 }
      | _, _, _, _ => d

/-- R110: WAIT_CYCLE. -/
def execWaitCycle (core : Nat) (s : State) : Host.Outcome State Fault Refusal := s.onDev fun d => d.waitCycle core

end Sys2Proof.Machine
end

