-- ==== Sys2Proof/Machine/Fabric.lean ====
section
/-! DEFINITION. The meanings of the fabric commands: requests served (R378 to R387, R400), answers and timeouts (R386 to R393), the
coherence protocol of the home (R394 to R398), port events (R368), and the management class (R404, R467, R468). -/

namespace Sys2Proof.Machine

open Sys2Proof

/-! ## Receiving -/

/-- A port's registers. -/
def Dev.port (d : Dev) (p : Nat) : PortSt := d.fx.ports.getD p PortSt.reset

/-- The device with one port changed. -/
def Dev.setPort (d : Dev) (p : Nat) (f : PortSt → PortSt) : Dev := { d with fx := { d.fx with ports := d.fx.ports.modify p f } }

/-- The symbol errors of a lane (R405, FX_Pn_LANE_ERR). -/
def laneErrs (w : Word32) (lane : Nat) : Nat := (w.toNat >>> (8 * lane)) % 256

/-- WIDTH on the lane pair without the fault (R369, R405): 1 for lanes 0 and 1, 2 for lanes 2 and 3. -/
def goodPair (w : Word32) : Nat :=
  if max (laneErrs w 0) (laneErrs w 1) ≤ max (laneErrs w 2) (laneErrs w 3) then 1 else 2

/-- A port is taken down (R368, R488): counted, recorded; its traffic moves to the others, and it trains at HALF_WIDTH. -/
def Dev.portDown (d : Dev) (p : Nat) (inj : Bool) : Dev :=
  let d := d.setPort p fun s =>
    { s with up := false, training := true, width := goodPair s.laneErr, downEvents := sat32 (s.downEvents + 1) }
  let d := { d with fx := { d.fx with err := wset d.fx.err 0x100 } }
  d.detect (detId 0x29 p) 0 inj none (d.port p).laneErr.toNat 0 0

/-- R368: a frame is sent again; more than 1,000 replays within 1 ms take the port down. Each is a check of PORT_DOWN. -/
def Dev.frameReplay (d : Dev) (p : Nat) (inj : Bool) : Dev :=
  if !(d.port p).up then d
  else
    let fresh := decide (d.now ≥ (d.port p).winStart + 1000000)
    let d := d.setPort p fun s =>
      { s with fecUncorr := sat32 (s.fecUncorr + 1), replays := sat32 (s.replays + 1),
               winReplays := if fresh then 1 else s.winReplays + 1, winStart := if fresh then d.now else s.winStart }
    let d := d.detect (detId 0x28 p) 0 inj none 0 0 0
    if (d.port p).winReplays > 1000 then d.portDown p false
    else
      let (m, d) := d.mimic (detId 0x29 p)
      if m then d.portDown p true else d

/-- A packet's frame, which may be replayed under injection (R368, R550), its CRC and destination (R381); a packet that fails is discarded and counted. -/
def Dev.arrives (d : Dev) (port : Nat) (p : Packet) : Bool × Dev :=
  let d := d.awake
  let d := { d with work := d.work.addFab (dieOfPort port) p.payload.length }
  let (m, d) := d.mimic (detId 0x28 port)
  let d := if m then d.frameReplay port true else d
  if p.crc = packetCrc p && p.version = 1 && (p.destId = d.fx.fid.getD 0) && d.fx.fid.isSome then (true, d)
  else (false, d.fxCount 6 0x80)

/-- An answer to a request: COMPLETION (6) or ACK (7) with its status (R385, R386, R392). -/
def Dev.answer (d : Dev) (p : Packet) (op status : Nat) (data : List Byte) : Dev :=
  let fl := if status = 4 then 8 else 0
  let a : Packet :=
    { version := 1, cls := p.cls, op := op, flags := fl, destId := p.srcId, srcId := d.fx.fid.getD 0, jobId := d.fx.jobId,
      reqTag := p.reqTag, stream := 0, crc := 0, len := data.length, addr := status, payload := data }
  d.emit (.packet d.pickPort (sealPacket a))

/-- Whether a request names lines that are held for a repair or a microcode switch (R332, R484). -/
def Dev.requestHeld (d : Dev) (p : Packet) (len perm : Nat) (coherent : Bool) : Bool :=
  match d.rxAddr p.jobId p.addr len perm coherent with
  | .ok a => d.heldAt a len
  | .error _ => false

/-- A request waits for held lines, behind those that came before it. -/
def Dev.holdRequest (d : Dev) (port : Nat) (p : Packet) : Dev :=
  { d with wells := { d.wells with heldIo := d.wells.heldIo ++ [.request port p] } }

/-- A READ that has arrived is served (R378, R382), or waits for held lines (R332, R484). -/
def Dev.doRead (d : Dev) (port : Nat) (p : Packet) : Dev :=
  if d.requestHeld p p.len 0 false then d.holdRequest port p
  else match d.rxCheck port p.srcId p.jobId p.addr p.len 0 false with
    | (.error st, d) => d.answer p 6 st []
    | (.ok a, d) =>
      if p.cls ≠ 0 || p.op ≠ 1 || p.len < 32 || p.len > 4096 || p.len % 32 ≠ 0 then d.answer p 6 5 []
      else match d.rxData port p.srcId a p.len with
        | (.error st, d) => d.answer p 6 st []
        | (.ok bs, d) => d.answer p 6 0 bs

/-- R378, R382: READ. -/
def Dev.serveRead (d : Dev) (port : Nat) (p : Packet) : Dev :=
  match d.arrives port p with
  | (false, d) => d
  | (true, d) => d.doRead port p

/-- R378: READ. -/
def execRead (port : Nat) (p : Packet) (s : State) : Host.Outcome State Fault Refusal := s.onDev fun d => d.serveRead port p

/-- A WRITE that has arrived is served (R385, R387), or waits for held lines (R332, R484). -/
def Dev.doWrite (d : Dev) (port : Nat) (p : Packet) : Dev :=
  if d.requestHeld p p.payload.length 1 false then d.holdRequest port p
  else match d.rxCheck port p.srcId p.jobId p.addr p.payload.length 1 false with
    | (.error st, d) => d.answer p 7 st []
    | (.ok a, d) =>
      if p.cls ≠ 0 || p.op ≠ 2 || p.len ≠ p.payload.length || p.len < 32 || p.len > 4096 || p.len % 32 ≠ 0 then
        d.answer p 7 5 []
      else (d.writeAcross (d.portDie port a) a p.payload).answer p 7 0 []

/-- R385, R387: WRITE. -/
def Dev.serveWrite (d : Dev) (port : Nat) (p : Packet) : Dev :=
  match d.arrives port p with
  | (false, d) => d
  | (true, d) => d.doWrite port p

/-- R385: WRITE. -/
def execWrite (port : Nat) (p : Packet) (s : State) : Host.Outcome State Fault Refusal := s.onDev fun d => d.serveWrite port p

/-- The new value of an atomic's location, if its KIND is defined (R382). -/
def atomicNew (kind old operand compare : Nat) : Option Nat :=
  match kind with
  | 1 | 4 => some ((old + operand) % 2 ^ 64)
  | 2 => some operand
  | 3 => some (if old = compare then operand else old)
  | _ => none

/-- An atomic at a checked address (R382, R399): the old value goes back, but for ADD_U64_NORETURN. -/
def Dev.doAtomic (d : Dev) (port a : Nat) (p : Packet) : Dev :=
  if a % 8 ≠ 0 || p.payload.length ≠ 32 then d.answer p 6 5 []
  else
    let kind := fieldAt p.payload 0 1
    match d.rxData port p.srcId a 8 with
    | (.error st, d) => d.answer p 6 st []
    | (.ok bs, d) =>
      match atomicNew kind (leNat bs) (fieldAt p.payload 8 8) (fieldAt p.payload 16 8) with
      | none => d.answer p 6 5 []
      | some v => (d.writeAcross (d.portDie port a) a (leBytes 8 v)).answer p 6 0 (if kind = 4 then [] else bs)

/-- An ATOMIC of the LOAD_STORE class that has arrived is served (R382), or waits for held lines (R332, R484). -/
def Dev.loadStoreAtomic (d : Dev) (port : Nat) (p : Packet) : Dev :=
  if d.requestHeld p 8 2 false then d.holdRequest port p
  else match d.rxCheck port p.srcId p.jobId p.addr 8 2 false with
    | (.error st, d) => d.answer p 6 st []
    | (.ok a, d) => if p.cls ≠ 0 || p.op ≠ 3 || d.inCoh a 8 then d.answer p 6 5 [] else d.doAtomic port a p

/-- R382: ATOMIC in the LOAD_STORE class. One in the COHERENT class arrives as COHERENT_PACKET. -/
def Dev.serveAtomic (d : Dev) (port : Nat) (p : Packet) : Dev :=
  match d.arrives port p with
  | (false, d) => d
  | (true, d) => d.loadStoreAtomic port p

/-- R382: ATOMIC. -/
def execAtomic (port : Nat) (p : Packet) (s : State) : Host.Outcome State Fault Refusal := s.onDev fun d => d.serveAtomic port p

/-- A SIGNAL's update at its core, with the checks of R90 (R378): a failure halts the core; it is applied as one update of its
sender (R89, R400, R577). -/
def Dev.applySignal (d : Dev) (src core act idx v count : Nat) : Dev :=
  let from_ : SigSrc := match d.fidRank src with | some r => .rank r | none => .unranked src
  let upd (obj : SigObj) (op : SigOp) : Dev :=
    (d.applyUpdate { id := 0, core := core, src := from_, obj := obj, op := op }).reevaluate core
  let halt (h : HaltInfo) : Dev := d.haltCore core { h with unit := 5 }
  match act with
  | 1 => upd (.flag idx) .set
  | 2 => upd (.flag idx) .clear
  | 3 =>
    if idx > 63 then halt { reason := rFlagRange, unit := 5, kind := 2, d0 := idx }
    else if v = 0 || v > 65535 * count then halt { reason := rFlagRange, unit := 5, kind := 5, d0 := v }
    else upd (.counter idx) (.add v)
  | _ => halt { reason := rIllegal, unit := 5, d0 := core + act * 2 ^ 16 + idx * 2 ^ 24 + v * 2 ^ 32 }

/-- R378, R382, R400: SIGNAL. -/
def Dev.serveSignal (d : Dev) (port : Nat) (p : Packet) : Dev :=
  match d.arrives port p with
  | (false, d) => d
  | (true, d) =>
    if p.stream = 0 then d.fxCount 6 0x80
    else if p.jobId ≠ d.fx.jobId || d.fx.jobId = 0 || !wbit d.fx.ctrl 0 then
      (d.rxRefuse port p.srcId p.jobId 1 false).answer p 7 1 []
    else
      let core := bits p.addr 15 0
      if core ≥ d.n then (d.rxRefuse port p.srcId p.jobId 3 false).answer p 7 3 []
      else
        let (m, d) := d.mimic (detId 0x2A port)
        if m then (d.rxRefuse port p.srcId p.jobId 2 true).answer p 7 2 []
        else (d.applySignal p.srcId core (bits p.addr 23 16) (bits p.addr 31 24) (bits p.addr 63 32) p.stream).answer p 7 0 []

/-- R378: SIGNAL_PACKET. -/
def execSignalPacket (port : Nat) (p : Packet) (s : State) : Host.Outcome State Fault Refusal :=
  s.onDev fun d => d.serveSignal port p

/-! ## The coherence group -/

/-- The members of the GROUP list other than this device (R394). -/
def Fabric.peers (f : Fabric) : List Nat :=
  (f.cohMembers.filterMap fun w => if wbit w 31 then some (w.toNat % 8192) else none).filter fun x => f.fid != some x

/-- The first device offset of this device's coherent window, by the export windows (R379, R394). -/
def Dev.cohOffset (d : Dev) : Nat :=
  let b := d.cohWindow.1
  match d.fx.windows.find? fun w => decide (w.localBase ≤ b) && decide (b < w.localBase + w.size) with
  | some w => w.remote + (b - w.localBase)
  | none => b

/-- The window of this device as a probe carries it (DESIGN CHOICE, log entry 28: the probe's form is private). -/
def Dev.probeBytes (d : Dev) : List Byte :=
  leBytes 8 d.cohOffset ++ leBytes 8 (if wbit d.fx.ctrl 2 then d.cohWindow.2 else 0)

/-- What a probe or its answer says of a member's window. -/
def Dev.learnPeer (d : Dev) (fid : Nat) (bs : List Byte) : Dev :=
  { d with fx := { d.fx with cohPeers :=
      (fid, fieldAt bs 0 8, fieldAt bs 8 8) :: d.fx.cohPeers.filter fun x => x.1 != fid } }

/-- A probe of every member goes out in the COHERENT class (R468). -/
def Dev.sendProbes (d : Dev) : Dev :=
  let ps := d.fx.peers
  let d := { d with fx := { d.fx with probes := ps, cohFormed := ps.isEmpty && d.fx.cohMembers.any fun w => wbit w 31 } }
  ps.foldl (fun d f => d.issue (.probe f) { (d.jobPacket 2 8 0 f 0 16 0 d.probeBytes) with jobId := 0 } true false) d

/-- The holders of a line whose copies stand in the way of a request of `who` (R395). -/
def Fabric.holders (f : Fabric) (line who : Nat) (forWrite : Bool) : List Nat :=
  (f.dir.filter fun e => e.2.1 == line && e.1 != who && (forWrite || e.2.2)).map (·.1)

/-- The fabric address of an own line. -/
def Dev.lineAddr (d : Dev) (line : Nat) : Nat :=
  let a := line * 128
  let off := match d.fx.windows.find? fun w => decide (w.localBase ≤ a) && decide (a < w.localBase + w.size) with
    | some w => w.remote + (a - w.localBase)
    | none => a
  2 ^ 48 + d.ownSlot * 0x6000000000 + off

/-- An INVALIDATE to the holders of a line (R395). -/
def Dev.sendInvalidate (d : Dev) (line : Nat) (holders : List Nat) : Dev :=
  holders.foldl (fun d f =>
    d.emit (.packet d.pickPort (sealPacket (d.jobPacket 2 11 0 f 0 0 (d.lineAddr line) [])))) d

/-- A member's copy of a line is entered in the directory. -/
def Fabric.hold (f : Fabric) (fid line : Nat) (w : Bool) : Fabric :=
  { f with dir := (fid, line, w) :: f.dir.filter fun e => !(e.1 == fid && e.2.1 == line) }

/-- A member's copy of a line is gone from the directory. -/
def Fabric.unhold (f : Fabric) (fid line : Nat) : Fabric :=
  { f with dir := f.dir.filter fun e => !(e.1 == fid && e.2.1 == line) }

/-- A coherent request at its home (R395): other copies that stand in its way are recalled first; then READ_SHARED and READ_OWN
give the line and enter the copy, an ATOMIC is performed, a WRITEBACK lands. -/
def Dev.serveCoh (d : Dev) (port : Nat) (p : Packet) (again : Bool) : Dev :=
  let perm := if p.op = 8 then 0 else if p.op = 3 then 2 else 1
  let len := if p.op = 3 then 8 else 128
  let op := if p.op = 10 then 7 else 6
  let chk := if again then (d.rxAddr p.jobId p.addr len perm true, d) else d.rxCheck port p.srcId p.jobId p.addr len perm true
  match chk with
  | (.error st, d) => d.answer p op st []
  | (.ok a, d) =>
    let line := a / 128
    if p.op ≠ 3 && a % 128 ≠ 0 then d.answer p op 5 []
    else if p.op = 10 then
      if p.payload.length ≠ 128 then d.answer p op 5 []
      else
        let d := d.writeAcross (d.portDie port a) a p.payload
        { d with fx := d.fx.unhold p.srcId line }.answer p op 0 []
    else
      let hs := d.fx.holders line p.srcId (p.op ≠ 8)
      let hs := if p.op = 3 then (d.fx.dir.filter fun e => e.2.1 == line).map (·.1) else hs
      if d.lostIn a len then d.answer p op 8 []
      else if !hs.isEmpty then
        let d := if again then d else d.sendInvalidate line hs
        { d with fx := { d.fx with recalls := d.fx.recalls ++ [⟨port, p, hs, d.now⟩] } }
      else if p.op = 3 then d.doAtomic port a p
      else match d.rxData port p.srcId a 128 with
        | (.error st, d) => d.answer p op st []
        | (.ok bs, d) => { d with fx := d.fx.hold p.srcId line (p.op = 9) }.answer p op 0 bs

/-- Requests whose recalls are all answered are served (R395). -/
def Dev.serveRecalls (d : Dev) : Dev :=
  let ready := d.fx.recalls.filter fun r => r.holders.isEmpty
  ready.foldl (fun d r => d.serveCoh r.port r.p true)
    { d with fx := { d.fx with recalls := d.fx.recalls.filter fun r => !r.holders.isEmpty } }

/-- A member's copy of a line is no longer awaited by any request. -/
def Dev.recallDone (d : Dev) (fid line : Nat) : Dev :=
  let lineOf (p : Packet) : Nat := match d.rxAddr p.jobId p.addr 8 0 false with | .ok a => a / 128 | .error _ => 0
  let step (r : Recall) : Recall :=
    if lineOf r.p = line then { r with holders := r.holders.filter fun h => h != fid } else r
  { d with fx := { d.fx with recalls := d.fx.recalls.map step } }.serveRecalls

/-- A member that stopped answering (R398): lines it held for reading leave the directory; lines it held for writing are poisoned
and lost; requests that waited for it go on, those on a lost line with COH_LOST. -/
def Dev.memberLost (d : Dev) (fid : Nat) (inj : Bool) : Dev :=
  if !d.fx.peers.contains fid then d
  else
    let since := ((d.fx.recalls.filter fun r => r.holders.contains fid).map (·.since)).foldl min d.now
    let d := if inj then d else d.advanceTo (since + 1000 * d.fx.cplTimeout.toNat)
    let own := (d.fx.dir.filter fun e => e.1 == fid && e.2.2).map fun e => e.2.1
    let d := own.foldl (fun d l => d.poisonLine (l * 128 / lineBytes)) d
    let d := { d with fx := { d.fx with
      dir := d.fx.dir.filter fun e => e.1 != fid, lostLines := d.fx.lostLines ++ own,
      gone := if d.fx.gone.contains fid then d.fx.gone else d.fx.gone ++ [fid], err := wset d.fx.err 0x40,
      recalls := d.fx.recalls.map fun (r : Recall) => ({ r with holders := r.holders.filter fun h => h != fid } : Recall) } }
    (d.detect (detId 0x2D 0) 1 inj none fid 0 0).serveRecalls

/-- A request of the COHERENT class is served at its home (R395), or waits for held lines (R332, R484). -/
def Dev.doCoherent (d : Dev) (port : Nat) (p : Packet) : Dev :=
  if d.requestHeld p (if p.op = 3 then 8 else 128) (if p.op = 8 then 0 else if p.op = 3 then 2 else 1) true then d.holdRequest port p
  else d.serveCoh port p false

/-- A request that waited for held lines is served, or waits on (R332, R484). -/
def Dev.serveRequest (d : Dev) (port : Nat) (p : Packet) : Dev :=
  if p.cls = 2 then d.doCoherent port p
  else match p.op with
    | 1 => d.doRead port p
    | 2 => d.doWrite port p
    | _ => d.loadStoreAtomic port p

/-- R395: COHERENT_PACKET. A READ_SHARED of LENGTH 16 with JOB_ID 0 is a probe (R468). -/
def Dev.serveCoherent (d : Dev) (port : Nat) (p : Packet) : Dev :=
  match d.arrives port p with
  | (false, d) => d
  | (true, d) =>
    match p.op with
    | 8 =>
      if p.jobId = 0 && p.len = 16 then (d.learnPeer p.srcId p.payload).answer p 6 0 d.probeBytes
      else d.doCoherent port p
    | 3 | 9 | 10 => d.doCoherent port p
    | 11 =>
      let a : Packet := d.jobPacket 2 12 0 p.srcId 0 0 p.addr []
      d.emit (.packet d.pickPort (sealPacket a))
    | 12 =>
      match d.rxAddr p.jobId p.addr 128 0 true with
      | .error _ => d
      | .ok a =>
        let d := if p.payload.length = 128 then d.writeAcross (d.portDie port a) a p.payload else d
        let (m, d) := d.mimic (detId 0x2D 0)
        if m then d.memberLost p.srcId true
        else { d with fx := d.fx.unhold p.srcId (a / 128) }.recallDone p.srcId (a / 128)
    | _ => d.answer p 6 5 []

/-- R395: COHERENT_PACKET. -/
def execCoherentPacket (port : Nat) (p : Packet) (s : State) : Host.Outcome State Fault Refusal :=
  s.onDev fun d => d.serveCoherent port p

/-- R398: COH_MEMBER_LOST. -/
def execCohMemberLost (fabricId : Nat) (s : State) : Host.Outcome State Fault Refusal := s.onDev fun d => d.memberLost fabricId false

/-! ## Answers -/

/-- The effect of a request that ended with a status other than OK on the unit that issued it (R393, R411, R412). -/
def Dev.useFailed (d : Dev) (use : FxUse) (addr want : Nat) : Dev :=
  let bus (u : EngUnit) : HaltInfo := d.busHalt u addr
  match use with
  | .dead => d
  | .probe _ => d
  | .load (.eng c u) _ => d.haltCmd c u (bus u)
  | .load (.acc id) place => d.failInput (.acc id) place want
  | .store c => d.haltCmd c .ls (bus .ls)
  | .own c _ _ => d.haltCmd c .ls (bus .ls)
  | .signal c u op seq =>
    if u = .st then d else d.haltCore c { (bus u) with unit := u.code, opIndex := op, seq := seq, address := 0 }
  | .bazaar .. => d
  | .adder _ => d
  | .queue c q k =>
    if k = 2 then
      match d.queues.findIdx? fun s => s.decl.num == q && d.isHere s.decl.cons && s.decl.cons.core == c && d.farProd s with
      | some i => d.setQ i fun s => { s with resend := some (d.now + 100000) }
      | none => d
    else match d.queues.find? fun s => s.decl.num == q && d.isHere s.decl.prod && s.decl.prod.core == c && d.farCons s with
      | some s => d.haltPush c s.decl.prod.unit { (bus s.decl.prod.unit) with address := 0 }
      | none => d

/-- The effect of a request that ended OK (R87, R376, R395, R468). -/
def Dev.useDone (d : Dev) (o : OutReq) (data : List Byte) : Dev :=
  match o.use with
  | .load r place => d.giveInput r place data
  | .store c => d.settleCore c
  | .own c off new =>
    let line := slice data 0 off ++ new ++ slice data (off + new.length) (128 - (off + new.length))
    match d.request (.store c) 2 10 o.addr 128 line false with
    | .ok d => d
    | .error st =>
      let d := d.cplErr none (some o.addr) st (reqCore c) false
      d.haltCmd c .ls (d.busHalt .ls o.addr)
  | .queue c _ _ => d.settleCore c
  | .probe f =>
    let d := d.learnPeer f data
    let ps := d.fx.probes.filter fun x => x != f
    { d with fx := { d.fx with probes := ps, cohFormed := d.fx.cohFormed || ps.isEmpty } }
  | _ => d

/-- The requester code of what a packet was for (R539). -/
def Dev.useReq (d : Dev) : FxUse → Nat
  | .load r _ => d.readerReq r
  | .store c => reqCore c
  | .own c _ _ => reqCore c
  | .signal c u _ _ => if u = .st then reqDepot else reqCore c
  | .bazaar die .. => reqBazaar die
  | .adder p => reqAdder p
  | .queue c _ _ => reqCore c
  | _ => reqFirmware

/-- A tracked request leaves the table. -/
def Dev.dropOut (d : Dev) (id : Nat) : Dev := { d with fx := { d.fx with outs := d.fx.outs.filter fun o => o.id != id } }

/-- A tracked request ends with a status (R386, R390, R393): its tag is free again, packets that waited issue, its requester goes
on. -/
def Dev.endOut (d : Dev) (o : OutReq) (status : Nat) (data : List Byte) (inj : Bool) : Dev :=
  let d := (d.dropOut o.id).issueStalled
  if status = 0 then d.useDone o data
  else
    let d := if o.use = .dead then d
      else d.cplErr o.port (if o.addrValid then some o.addr else none) status (d.useReq o.use) inj
    d.useFailed o.use o.addr o.want

/-- The live request of a tag space and tag (R391). -/
def Fabric.outOf (f : Fabric) (space tag : Nat) (nonPosted : Bool) : Option OutReq :=
  f.outs.find? fun o => o.space == space && o.tag == tag && o.nonPosted == nonPosted && !o.quarantined

/-- R386, R390, R391: COMPLETION. Parts come in order; a status other than OK ends the request. -/
def Dev.takeCompletion (d : Dev) (port : Nat) (p : Packet) : Dev :=
  match d.arrives port p with
  | (false, d) => d
  | (true, d) =>
    match d.fx.outOf p.srcId p.reqTag true with
    | none => d.fxCount 5 0
    | some o =>
      let st := p.addr % 256
      let (m, d) := if st = 0 then d.mimic (detId 0x2C (o.port.getD 0xFF)) else (false, d)
      if m then d.endOut o 6 [] true
      else if st ≠ 0 then d.endOut o st [] false
      else
        let data := (o.got.map (·.2)).flatten ++ p.payload
        if data.length ≥ o.want || p.flags.testBit 2 then d.endOut o 0 data false
        else
          let step (x : OutReq) : OutReq :=
            if x.id == o.id then { x with got := o.got ++ [((o.got.map (·.2.length)).sum, p.payload)] } else x
          { d with fx := { d.fx with outs := d.fx.outs.map step } }

/-- R386: COMPLETION. -/
def execCompletion (port : Nat) (p : Packet) (s : State) : Host.Outcome State Fault Refusal :=
  s.onDev fun d => if port < 18 then d.takeCompletion port p else d

/-- R385, R390, R391: ACK. -/
def Dev.takeAck (d : Dev) (port : Nat) (p : Packet) : Dev :=
  match d.arrives port p with
  | (false, d) => d
  | (true, d) =>
    match d.fx.outOf p.srcId p.reqTag false with
    | none => d.fxCount 5 0
    | some o =>
      let st := p.addr % 256
      let (m, d) := if st = 0 then d.mimic (detId 0x2C (o.port.getD 0xFF)) else (false, d)
      d.endOut o (if m then 6 else st) [] m

/-- R385: ACK. -/
def execAck (port : Nat) (p : Packet) (s : State) : Host.Outcome State Fault Refusal :=
  s.onDev fun d => if port < 18 then d.takeAck port p else d

/-- R389, R390: a request times out: it ends with TIMEOUT, and its tag stays in quarantine. -/
def Dev.timeoutReq (d : Dev) (id : Nat) : Dev :=
  match d.fx.outs.find? fun o => o.id == id && !o.quarantined with
  | none => d
  | some o =>
    let limit := if o.gateway then d.fx.gwTimeout.toNat else d.fx.cplTimeout.toNat
    let d := d.advanceTo (o.issued + 1000 * limit)
    let mark (x : OutReq) : OutReq := if x.id == id then { x with quarantined := true, issued := d.now } else x
    let d := { d with fx := { d.fx with outs := d.fx.outs.map mark } }
    let d := d.fxCount 4 0x10
    let d := if o.use = .dead then d
      else d.cplErr o.port (if o.addrValid then some o.addr else none) 6 (d.useReq o.use) false
    (d.useFailed o.use o.addr o.want).issueStalled

/-- R389: REQUEST_TIMEOUT. -/
def execRequestTimeout (id : Nat) (s : State) : Host.Outcome State Fault Refusal := s.onDev fun d => d.timeoutReq id

/-- R390: TAG_QUARANTINE_END: after a further FX_CPL_TIMEOUT the tag may be used again. -/
def Dev.tagFree (d : Dev) (dest tag : Nat) : Dev :=
  match d.fx.outs.find? fun o => o.space == dest && o.tag == tag && o.quarantined with
  | none => d
  | some o => ((d.advanceTo (o.issued + 1000 * d.fx.cplTimeout.toNat)).dropOut o.id).issueStalled

/-- R390: TAG_QUARANTINE_END. -/
def execTagQuarantineEnd (dest tag : Nat) (s : State) : Host.Outcome State Fault Refusal := s.onDev fun d => d.tagFree dest tag

/-! ## Registers -/

/-- R368: FRAME_REPLAY. -/
def execFrameReplay (port : Nat) (s : State) : Host.Outcome State Fault Refusal := s.onDev fun d => d.frameReplay port false

/-- Every count register of the fabric block returns to zero (R405). -/
def Fabric.clearCounts (f : Fabric) : Fabric :=
  { f with counts := List.replicate 8 0, npPeak := f.npOut,
           ports := f.ports.map fun s => { s with fecCorr := 0, fecUncorr := 0, replays := 0, downEvents := 0 } }

/-- R405: FX_CLEAR_COUNTS. -/
def execFxClearCounts (s : State) : Host.Outcome State Fault Refusal := s.onBar fun d => { d with fx := d.fx.clearCounts }

/-- R405, R406: FX_DISABLE: ENABLE is clear; requests issued later complete JOB at the requester. -/
def execFxDisable (s : State) : Host.Outcome State Fault Refusal :=
  s.onBar fun d => { d with fx := { d.fx with ctrl := wclr d.fx.ctrl 1 } }

/-! ## The management class -/

/-- An MGMT packet to a fabric ID, padded to a multiple of 32 bytes (R404, R467). -/
def Dev.sendMgmt (d : Dev) (port : Option Nat) (dest : Nat) (body : List Byte) : Dev :=
  let b := padTo 32 body
  d.emit (.packet port (sealPacket { (d.jobPacket 3 16 0 dest 0 b.length 0 b) with jobId := 0 }))

/-- R467: ANNOUNCE on every port that is up, until ASSIGN_ID. -/
def Dev.announce (d : Dev) : Dev :=
  if d.fx.fid.isSome then d
  else d.fx.upPorts.foldl (fun d p =>
    d.sendMgmt (some p) 0 (leBytes 2 1 ++ leBytes 2 1 ++ leBytes 8 Config.serial.toNat ++ leBytes 4 (gradeWord d.grade) ++
      leBytes 4 (maskOf (presentPorts d.grade)) ++ leBytes 4 (maskOf d.fx.upPorts))) d

/-- R467: ANNOUNCE. -/
def execAnnounce (s : State) : Host.Outcome State Fault Refusal := s.onDev fun d => d.announce

/-- Whether an MGMT packet is accepted (R404): from a switch port, or from the fabric manager. -/
def Dev.mgmtFrom (d : Dev) (fromSwitch : Bool) (src : Nat) : Bool := fromSwitch || d.fx.fmId == some src

/-- An MGMT packet discarded and counted (R404). -/
def Dev.rejMgmt (d : Dev) : Dev := d.fxCount 7 0x200

/-- The ACK of an enumeration packet (R467). -/
def Dev.ackMgmt (d : Dev) (subtype : Nat) : Dev :=
  d.sendMgmt d.pickPort (d.fx.fmId.getD 0) (leBytes 2 1 ++ leBytes 2 5 ++ leBytes 2 subtype)

/-- Whether the boot ROM's agent or Acwald firmware handles MGMT packets: not in RESET, FILL, SELFTEST or FAULT. -/
def Dev.agentRuns (d : Dev) : Bool := 3 ≤ d.boot.st && d.boot.st ≤ 5

/-- R371, R467: ASSIGN_ID. -/
def Dev.assignId (d : Dev) (fromSwitch : Bool) (src fabricId managerId : Nat) : Dev :=
  if !d.agentRuns then d
  else
    let d := d.awake
    if !d.mgmtFrom fromSwitch src then d.rejMgmt
    else if fabricId ≥ 8192 || fabricId % 128 ≥ 96 then d.rejMgmt
    else if d.boot.st = 5 && d.fx.fid.isSome && d.fx.fid ≠ some fabricId then d.rejMgmt
    else
      let d := { d with fx := { d.fx with fid := some fabricId, fmId := some (managerId % 8192) },
                        tm := { d.tm with since := if wbit d.tm.ctrl 0 then d.tm.since else d.now } }
      d.ackMgmt 2

/-- R467: ASSIGN_ID. -/
def execAssignId (fromSwitch : Bool) (src fabricId managerId : Nat) (s : State) : Host.Outcome State Fault Refusal :=
  s.onDev fun d => d.assignId fromSwitch src fabricId managerId

/-- R394, R467, R468: GROUP: the member list is set, and every member is probed. `members` are eight words with VALID in bit 15. -/
def Dev.groupList (d : Dev) (fromSwitch : Bool) (src : Nat) (members : List Nat) : Dev :=
  if !d.agentRuns then d
  else
    let d := d.awake
    if !d.mgmtFrom fromSwitch src then d.rejMgmt
    else
      let word (m : Nat) : Word32 := BitVec.ofNat 32 (m % 8192 + if m.testBit 15 then 2 ^ 31 else 0)
      let ws := (List.range 8).map fun i => word (members.getD i 0)
      ({ d with fx := { d.fx with cohMembers := ws, gone := [] } }.sendProbes).ackMgmt 3

/-- R467: GROUP. -/
def execGroup (fromSwitch : Bool) (src : Nat) (members : List Nat) (s : State) : Host.Outcome State Fault Refusal :=
  s.onDev fun d => d.groupList fromSwitch src members

/-- R467: ASSIGN_RANK. -/
def execAssignRank (fromSwitch : Bool) (src rank : Nat) (s : State) : Host.Outcome State Fault Refusal :=
  s.onDev fun d =>
    if !d.agentRuns then d
    else if !d.awake.mgmtFrom fromSwitch src then d.awake.rejMgmt
    else { d.awake with boot := { d.awake.boot with sysRank := some rank } }.ackMgmt 4

/-- R404: FM_COMMAND reaches Acwald firmware; no rule gives such a command an effect on the device's state. -/
def execFmCommand (fromSwitch : Bool) (src : Nat) (payload : List Byte) (s : State) : Host.Outcome State Fault Refusal :=
  s.onDev fun d =>
    if !d.agentRuns then d
    else if d.awake.mgmtFrom fromSwitch src && decide (payload.length ≤ 4096) then d.awake else d.awake.rejMgmt

end Sys2Proof.Machine
end

