-- ==== Sys2Proof/Machine/InterQueue.lean ====
section
/-! DEFINITION. The meanings of the commands of inter-device tile queues: TILE, CREDIT and CLOSE messages, the credit timer and
REMOTE_WAIT (R409 to R413, R577). -/

namespace Sys2Proof.Machine

open Sys2Proof

/-- The ACK of a MESSAGE (R385). -/
def Dev.ackMsg (d : Dev) (via : Via) (status : Nat) : Dev :=
  let a : Packet :=
    { version := 1, cls := 1, op := 7, flags := 0, destId := via.srcId, srcId := d.fx.fid.getD 0, jobId := d.fx.jobId,
      reqTag := via.reqTag, stream := 0, crc := 0, len := 0, addr := status, payload := [] }
  d.emit (.packet d.pickPort (sealPacket a))

/-- Check 1 of R378 for a MESSAGE: refused with JOB, or taken in. -/
def Dev.msgIn (d : Dev) (via : Via) : Bool × Dev :=
  let d := d.awake
  if via.jobId ≠ d.fx.jobId || d.fx.jobId = 0 || !wbit d.fx.ctrl 0 then
    (false, (d.rxRefuse via.port via.srcId via.jobId 1 false).ackMsg via 1)
  else
    let (m, d) := d.mimic (detId 0x2A via.port)
    if m then (false, (d.rxRefuse via.port via.srcId via.jobId 2 true).ackMsg via 2) else (true, d)

/-- A message of the adders or of a queue that no rank matches, or that names nothing open, is counted in RD_STALE (R577). -/
def Dev.rdStale (d : Dev) : Dev := 
  { d with rd := { d.rd with stale := sat32 (d.rd.stale + 1), err := wset d.rd.err 4 } }

/-- Whether a message's sender is the rank at the far end of a queue (R577). -/
def Dev.fromEnd (d : Dev) (via : Via) (e : QEndpoint) : Bool :=
  match d.fidRank via.srcId, e.rank with
  | some r, some q => r == q
  | _, _ => false

/-- A queue whose count of received tiles has reached its CLOSE is closed (R412). -/
def QState.settleClose (s : QState) : QState :=
  if s.closeAt = some (s.received % 2 ^ 32) then { s with closed := true } else s

/-- A tile of an inter-device queue is written whole into its ring (R412); the first one compares the declarations (R409). -/
def Dev.queueTile (d : Dev) (via : Via) (m : QMsg) : Dev :=
  match d.msgIn via with
  | (false, d) => d
  | (true, d) =>
    let here (s : QState) : Bool := s.decl.num == m.queue && d.isHere s.decl.cons && s.decl.cons.core == m.consumer && d.farProd s
    match d.queues.findIdx? here with
    | none => if m.version = 1 && m.kind = 1 && m.consumer < d.n && (d.fidRank via.srcId).isSome then
        (d.haltCore m.consumer { foreignEnd .cc 0 with unit := 5 }).ackMsg via 0
      else d.rdStale.ackMsg via 0
    | some i =>
      match d.q? i with
      | none => d
      | some s =>
        if !d.fromEnd via s.decl.prod || m.version ≠ 1 || m.kind ≠ 1 then d.rdStale.ackMsg via 0
        else if (!s.compared && s.decl.prod.core ≠ m.producer) || m.tile.length ≠ tileTotal s.decl.fmt then
          (d.haltCore s.decl.cons.core { foreignEnd .cc 0 with unit := 5 }).ackMsg via 0
        else if (d.core s.decl.cons.core).halted then d
        else
          let d := d.setQ i fun s =>
            ({ s with ring := s.ring ++ [m.tile], received := s.received + 1, compared := true, crossed := d.now,
                      quiet := false }).settleClose
          (d.ackMsg via 0).reevaluate s.decl.cons.core

/-- R412: QUEUE_TILE. -/
def execQueueTile (via : Via) (m : QMsg) (s : State) : Host.Outcome State Fault Refusal := s.onDev fun d => d.queueTile via m

/-- A cumulative CREDIT reaches the producer (R411). -/
def Dev.queueCredit (d : Dev) (via : Via) (m : QMsg) : Dev :=
  match d.msgIn via with
  | (false, d) => d
  | (true, d) =>
    let here (s : QState) : Bool := s.decl.num == m.queue && d.isHere s.decl.prod && s.decl.prod.core == m.producer && d.farCons s
    match d.queues.findIdx? here with
    | none => d.rdStale.ackMsg via 0
    | some i =>
      match d.q? i with
      | none => d
      | some s =>
        if !d.fromEnd via s.decl.cons || m.version ≠ 1 || m.kind ≠ 2 || s.decl.cons.core ≠ m.consumer then
          d.rdStale.ackMsg via 0
        else
          let seen := s.creditSeen + (m.count + 2 ^ 32 - s.creditSeen % 2 ^ 32) % 2 ^ 32
          let d := d.setQ i fun s =>
            { s with creditSeen := if seen ≤ s.pushed then seen else s.creditSeen, crossed := d.now, quiet := false }
          (d.ackMsg via 0).settleCore s.decl.prod.core

/-- R411: QUEUE_CREDIT. -/
def execQueueCredit (via : Via) (m : QMsg) (s : State) : Host.Outcome State Fault Refusal := s.onDev fun d => d.queueCredit via m

/-- A CLOSE reaches the consumer (R412); pops that can no longer be met halt it (R80). -/
def Dev.queueClose (d : Dev) (via : Via) (m : QMsg) : Dev :=
  match d.msgIn via with
  | (false, d) => d
  | (true, d) =>
    let here (s : QState) : Bool := s.decl.num == m.queue && d.isHere s.decl.cons && s.decl.cons.core == m.consumer && d.farProd s
    match d.queues.findIdx? here with
    | none => d.rdStale.ackMsg via 0
    | some i =>
      match d.q? i with
      | none => d
      | some s =>
        if !d.fromEnd via s.decl.prod || m.version ≠ 1 || m.kind ≠ 3 then d.rdStale.ackMsg via 0
        else if (d.core s.decl.cons.core).halted then d
        else
          let d := d.setQ i fun s => ({ s with closeAt := some m.count }).settleClose
          (d.ackMsg via 0).reevaluate s.decl.cons.core

/-- R412: QUEUE_CLOSE_MSG. -/
def execQueueCloseMsg (via : Via) (m : QMsg) (s : State) : Host.Outcome State Fault Refusal := s.onDev fun d => d.queueClose via m

/-- The queue of a consumer core whose producer lies on another device. -/
def Dev.farQueue (d : Dev) (c q : Nat) : Option Nat :=
  d.queues.findIdx? fun s => s.decl.num == q && d.isHere s.decl.cons && s.decl.cons.core == c && d.farProd s

/-- 2 µs after the first pop that no CREDIT covers, a CREDIT goes out (R411). -/
def Dev.creditTimer (d : Dev) (c q : Nat) : Dev :=
  match (d.farQueue c q).bind fun i => (d.q? i).map fun s => (i, s) with
  | none => d
  | some (i, s) => if s.popped = s.creditSent then d else (d.advanceTo (s.firstPop + 2000)).sendCredit i

/-- R411: CREDIT_TIMER. -/
def execCreditTimer (core queue : Nat) (s : State) : Host.Outcome State Fault Refusal := s.onDev fun d => d.creditTimer core queue

/-- A refused CREDIT goes out again after 100 µs, with the count as it stands then (R411). -/
def Dev.creditResend (d : Dev) (c q : Nat) : Dev :=
  match (d.farQueue c q).bind fun i => (d.q? i).map fun s => (i, s) with
  | none => d
  | some (i, s) => match s.resend with
    | none => d
    | some t => (d.advanceTo t).sendCredit i

/-- R411: CREDIT_RESEND. -/
def execCreditResend (core queue : Nat) (s : State) : Host.Outcome State Fault Refusal := s.onDev fun d => d.creditResend core queue

/-- REMOTE_WAIT has passed since the last tile or credit crossed a queue of a core: it is pending no more (R413). -/
def Dev.remoteWait (d : Dev) (c q : Nat) : Dev :=
  let here (s : QState) : Bool := s.decl.num == q &&
    ((d.isHere s.decl.cons && s.decl.cons.core == c && d.farProd s) || (d.isHere s.decl.prod && s.decl.prod.core == c && d.farCons s))
  match (d.queues.findIdx? here).bind fun i => (d.q? i).map fun s => (i, s) with
  | none => d
  | some (i, s) =>
    if s.quiet then d
    else (d.advanceTo (s.crossed + 1000000 * s.decl.remoteWaitMs)).setQ i fun s => { s with quiet := true }

/-- R413: REMOTE_WAIT_EXPIRE. -/
def execRemoteWaitExpire (core queue : Nat) (s : State) : Host.Outcome State Fault Refusal :=
  s.onDev fun d => d.remoteWait core queue

end Sys2Proof.Machine
end

