-- ==== Sys2Proof/Machine/LoadStore.lean ====
section
/-! DEFINITION. The meanings of the load/store engine's commands: LOAD and STORE (R572), GATHER_ROWS and SCATTER_ROWS (R114), with
the prefetch streams that loads train (R341) and the stream cache (R339, R340). -/

namespace Sys2Proof.Machine

open Sys2Proof

/-! ## Coherent lines of this device -/

/-- The local lines of a coherent span that a member holds in the way of an access by this device (R395). -/
def Dev.localConflicts (d : Dev) (write : Bool) (s : Span) : List (Nat × List Nat) :=
  match s with
  | .mem ps => ps.flatMap fun p =>
      if d.inCoh p.1 p.2 then
        ((List.range ((p.1 + p.2 - 1) / 128 - p.1 / 128 + 1)).map fun i => p.1 / 128 + i).filterMap fun l =>
          let hs := d.fx.holders l (d.fx.fid.getD 8192) write
          if hs.isEmpty then none else some (l, hs)
      else []
  | _ => []

/-- Whether the home's own access may go on (R395): copies in its way are recalled first, once per command. -/
def Dev.recallLocal (d : Dev) (c : Nat) (write : Bool) (ss : List Span) : Bool × Dev :=
  let cs := ss.flatMap (d.localConflicts write)
  if cs.isEmpty then (true, d)
  else if d.asked (.eng c .ls) then (false, d)
  else (false, (cs.foldl (fun d x => d.sendInvalidate x.1 x.2) d).markAsked (.eng c .ls))

/-- Whether a span touches a line of this device's coherent window that was lost (R398): its address. -/
def Dev.lostSpan (d : Dev) (ss : List Span) : Option Nat :=
  ss.findSome? fun s => match s with
    | .mem ps => (ps.find? fun p => d.inCoh p.1 p.2 && d.lostIn p.1 p.2).map (·.1)
    | _ => none

/-- A local access to a lost line completes COH_LOST, and the core halts (R393, R398). -/
def Dev.cohLostHalt (d : Dev) (c a : Nat) : Dev :=
  let d := d.cplErr none (some a) 8 (reqCore c) false
  d.haltCmd c .ls (d.busHalt .ls a)

/-! ## Prefetch streams -/

/-- The live buffer that holds an address of device memory, and the offset of it there (R344). -/
def Depot.offsetAt (dp : Depot) (a : Nat) : Option (Buf × Nat) :=
  dp.bufs.findSome? fun b => (b.offsetOf a).map fun o => (b, o)

/-- Streams of a die (R341). -/
def pfStreams : Nat := 128

/-- A stream after one more load of its core at an offset of its buffer (R341). -/
def PfStream.feed (s : PfStream) (off now : Nat) : PfStream :=
  let str : Int := (off : Int) - s.last
  let n := if s.loads ≥ 2 && str = s.stride then s.loads + 1 else 2
  { s with last := off, loads := n, stride := str, used := now, next := (max 0 ((off : Int) + str)).toNat }

/-- One load of a core at an address trains or feeds a prefetch stream (R341): three loads with one stride inside one buffer train it;
with every stream busy a new pattern takes the one idle longest. -/
def Dev.noteLoad (d : Dev) (die c a : Nat) : Dev :=
  match d.depot.offsetAt a with
  | none => d
  | some (b, off) =>
    let ss := d.depot.streams
    let mine (s : PfStream) : Bool := s.die == die && s.core == c && s.slot == b.slot && s.gen == b.gen
    if ss.any mine then
      { d with depot := { d.depot with streams := ss.map fun s => if mine s then s.feed off d.now else s } }
    else
      let here := ss.filter fun s => s.die == die
      let oldest := here.foldl (fun (m : Option PfStream) s => if s.used < (m.elim (s.used + 1) (·.used)) then some s else m) none
      let ss := if here.length < pfStreams then ss else match oldest with | some o => ss.erase o | none => ss
      let s : PfStream :=
        { die := die, core := c, slot := b.slot, gen := b.gen, stride := 0, next := off, last := off, loads := 1, used := d.now }
      { d with depot := { d.depot with streams := ss ++ [s] } }

/-- What a LOAD of local spans leaves in the prefetcher. -/
def Dev.noteLoads (d : Dev) (c : Nat) (ss : List Span) : Dev :=
  let die := dieOfCore d.grade c
  ss.foldl (fun d s => match s with
    | .mem ((a, _) :: _) => if d.spanCoh s then d else d.noteLoad die c a
    | _ => d) d

/-! ## LOAD and STORE -/

/-- The declared format of a queue at a unit's end. -/
def Dev.tailFmt (d : Dev) (c : Nat) (q : Nat) : Fmt := ((d.tailIdx c .ls q).bind d.q?).elim .fp32 (·.decl.fmt)
def Dev.headFmt (d : Dev) (c : Nat) (u : EngUnit) (q : Nat) : Fmt := ((d.headIdx c u q).bind d.q?).elim .fp32 (·.decl.fmt)

/-- The running command of an engine that has not run yet. -/
def Dev.fresh? (d : Dev) (c : Nat) (u : EngUnit) : Option QCmd :=
  match d.running c u with
  | some q => if q.ran then none else some q
  | none => none

/-- LOAD (R572): n tiles from memory to a queue tail, each checked, and turned where the source is read transposed (R48). -/
def Dev.runLoad (d : Dev) (c : Nat) : Dev :=
  match d.fresh? c .ls with
  | none => d
  | some q =>
    match q.cmd.op with
    | .load src stride tr n qn =>
      let f := d.tailFmt c qn
      if n = 0 || n > 1024 then d.haltCmd c .ls (badShape 2)
      else
        let o : Operand := { src := .mem src stride f tr, n := n, pos := 0, accept := fun g => g == f }
        match d.tileSpans 0 src stride f n false with
        | .error h => d.haltEng c .ls h
        | .ok ss =>
          match d.lostSpan ss with
          | some a => d.cohLostHalt c a
          | none =>
            match d.recallLocal c false ss with
            | (false, d) => d
            | (true, d) =>
              match d.gather c .ls [o] [] with
              | .wait d => d
              | .tiles ts d => (d.noteLoads c ss).commit c .ls [] (ts.flatten.map fun t => (qn, t))
    | _ => d

/-- R572: LOAD. -/
def execLoad (core : Nat) (s : State) : Host.Outcome State Fault Refusal := s.onDev fun d => d.runLoad core

/-- Tiles written to their aimed spans in order. -/
def Dev.writeTiles (d : Dev) (c : Nat) (ws : List (Span × List Byte)) : Dev := ws.foldl (fun d w => d.writeTile c w.1 w.2) d

/-- The writes of an LS command that has its tiles: it halts, with nothing written, on a write refused at once (R102); otherwise it has
run. -/
def Dev.finishWrites (d : Dev) (c : Nat) (q : QCmd) (ws : List (Span × List Byte)) : Dev :=
  match d.aimWrites c (ws.map (·.1)) with
  | (.error a, d) => d.haltCmd c .ls (d.busHalt .ls a)
  | (.ok ss, d) =>
    let d := d.writeTiles c (ss.zip (ws.map (·.2)))
    let trap := if q.cmd.nanTrap then (ws.find? fun w => tileNan w.2).map fun w => (w.1.addr, 0xFF) else none
    (d.setHead c .ls fun q => { q with trap := trap }).commit c .ls (opPops q.cmd.op) []

/-- STORE (R572): n tiles from a queue head to memory, turned where the operand is read transposed (R48). -/
def Dev.runStore (d : Dev) (c : Nat) : Dev :=
  match d.fresh? c .ls with
  | none => d
  | some q =>
    match q.cmd.op with
    | .store qn keep tr dst stride n =>
      let f := d.headFmt c .ls qn
      if n = 0 || n > 1024 then d.haltCmd c .ls (badShape 3)
      else
        let o : Operand := { src := .queue qn keep tr, n := n, pos := 0, accept := fun g => g == f }
        match d.tileSpans 1 dst stride f n true with
        | .error h => d.haltEng c .ls h
        | .ok ss =>
          match d.recallLocal c true ss with
          | (false, d) => d
          | (true, d) =>
            if ss.any d.spanHeld then d.waitMem c .ls
            else match d.gather c .ls [o] [] with
            | .wait d => d
            | .tiles ts d => d.finishWrites c q (ss.zip ts.flatten)
    | _ => d

/-- R572: STORE. -/
def execStore (core : Nat) (s : State) : Host.Outcome State Fault Refusal := s.onDev fun d => d.runStore core

/-! ## GATHER_ROWS and SCATTER_ROWS -/

/-- The row indices of an index tile: its valid elements in row-major order (R39, R114). -/
def indexRows (t : List Byte) : List Int :=
  (validCells (tileRows t) (tileCols t)).map fun p => (BitVec.ofNat 32 (codeAt .int32 t p.1 p.2)).toInt

/-- A row of a tile: the code and the block scale of each valid element. -/
abbrev TileRow := List (Nat × Nat)

/-- Row `r` of a tile of format `f`, if it is a valid row (R39). -/
def rowOf (f : Fmt) (t : List Byte) (r : Nat) : Option TileRow :=
  let sc := tileScales t
  if r < tileRows t then
    some ((List.range (tileCols t)).map fun c => (codeAt f t r c, if fmtScaled f then sc.getD (blockOf r c) 0x7F else 0x7F))
  else none

/-- The scale of a block built from rows of blocks with the given scales: theirs where it is one, 0xFF apart, which stands for NaN
elements; otherwise no rule names it (Config.gatherScale). -/
def rowsScale (ss : List Nat) : Nat :=
  match ss.filter (· != 0xFF) with
  | [] => 0x7F
  | s :: rest => if rest.all (· == s) then s else Config.gatherScale (s :: rest) % 0xFF

/-- A tile built from rows of equal length (R38, R43 to R45, R60): an element whose block keeps its scale keeps its code, and only what
is encoded anew can set a flag. -/
def tileOfRows (f : Fmt) (epoch : Nat) (rows : List TileRow) : List Byte :=
  let cols := (rows.headD []).length
  let at_ (p : Nat × Nat) : Nat × Nat := ((rows.getD p.1 []).getD p.2 (0, 0x7F))
  let scales := (List.range 4).map fun b =>
    if fmtScaled f then rowsScale ((blockCells rows.length cols b).map fun p => (at_ p).2) else 0x7F
  (tileOfConvs f rows.length cols epoch scales false
    (fun p => reExpress f (at_ p).2 (scales.getD (blockOf p.1 p.2) 0x7F) (at_ p).1) fun _ _ => Fl.zero).tile

/-- Whether rows are all there and equally long, so that they can stand in one tile. -/
def rowsFit (rows : List (Option TileRow)) : Bool :=
  rows.all fun r => r.isSome && (r.getD []).length == ((rows.headD none).getD []).length

/-- The memory reference moved by a signed number of bytes; none below its start through a handle. -/
def moveRef (r : MemRef) (o : Int) : Option MemRef :=
  match r with
  | .addr a => some (.addr (((a : Int) + o) % 2 ^ 64).toNat)
  | .handle h off => if (off : Int) + o < 0 then none else some (.handle h ((off : Int) + o).toNat)

/-- The span of column tile `j` of the row tile that holds row `r` of a tensor of `hTiles` tiles a row. -/
def Dev.rowSpan (d : Dev) (pos : Nat) (ref : MemRef) (f : Fmt) (hTiles : Nat) (r : Int) (j : Nat) (write : Bool) :
    Except HaltInfo Span :=
  let tile : Int := r.fdiv 32 * hTiles + j
  match moveRef ref (tile * tileTotal f) with
  | some ref => d.tileSpan pos ref none f 0 write
  | none => match ref with
    | .handle h _ => .error (badHandle h 6)
    | .addr _ => .error (badShape pos)

/-- The spans of every (row, column tile), row by row. -/
def Dev.rowSpans (d : Dev) (pos : Nat) (ref : MemRef) (f : Fmt) (hTiles : Nat) (rs : List Int) (write : Bool) :
    Except HaltInfo (List Span) :=
  rs.foldl (fun (e : Except HaltInfo (List Span)) r => (List.range hTiles).foldl (fun e j => e.bind fun ss =>
    (d.rowSpan pos ref f hTiles r j write).bind fun s =>
      if d.spanCoh s then .error { reason := rBadOperand, unit := 0, kind := 9, address := s.addr, d0 := pos }
      else .ok (ss ++ [s])) e) (.ok [])

/-- Tiles of spans that may lie on another device, asked for under a stage mark: `none` while they are awaited. -/
def Dev.stageTiles (d : Dev) (c stage pos : Nat) (f : Fmt) (ss : List Span) : Except Dev (List (List Byte) × Dev) :=
  let r : Reader := .eng c .ls
  let keyed := (List.range ss.length).map fun j => (tileKey stage j, ss.getD j (.mem []))
  let mark := 2 ^ 121 + stage
  if keyed.any (fun x => d.spanRemote x.2) && !(d.inputs r).any (fun x => x.1 == mark) then
    match d.askAll r keyed with
    | .ok d => .error (d.giveInput r mark [])
    | .error (a, st) =>
      let d := d.cplErr none (some a) st (reqCore c) false
      .error (d.haltCmd c .ls (d.busHalt .ls a))
  else if !d.inputsIn r keyed then .error d
  else if ss.any d.spanHeld then .error (d.waitMem c .ls)
  else match d.readTiles c .ls pos (fun g => g == f) keyed with
    | (.error h, d) => .error (d.haltEng c .ls h)
    | (.ok ts, d) => .ok (ts, d)

/-- The index tile of a gather or scatter. -/
def Dev.indexTile (d : Dev) (c : Nat) (index : TileSrc) : Gathered :=
  let o : Operand := { src := index, n := 1, pos := 1, accept := fun g => g == .int32 }
  let coh : Option (Nat × Span) := match d.operandSpans .ls o with
    | .ok ss => ss.find? fun x => d.spanCoh x.2
    | .error _ => none
  match coh with
  | some x => .wait (d.haltCmd c .ls { reason := rBadOperand, unit := 0, kind := 9, address := x.2.addr, d0 := 1 })
  | none => d.gather c .ls [o] []

/-- Row `i` of the rows that a gather names, in column tile `j`: `tiles` holds the source tiles by row and column. -/
def gatheredRow (f : Fmt) (tr : Bool) (h : Nat) (rs : List Int) (tiles : List (List Byte)) (j i : Nat) : Option TileRow :=
  let t := tiles.getD (i * h + j) []
  rowOf f (if tr then transposeTile t else t) ((rs.getD i 0) % 32).toNat

/-- GATHER_ROWS (R114): 32 of the rows that the index tile names to an output tile, row tiles in order and each with its column tiles.
A named row that is padding of its tile, or rows of different lengths in one tile, fit no tile: BAD_OPERAND, kind 7 (R39; DESIGN
CHOICE, log entry 20). -/
def Dev.runGather (d : Dev) (c : Nat) : Dev :=
  match d.fresh? c .ls with
  | none => d
  | some q =>
    match q.cmd.op with
    | .gatherRows src f tr h index qn =>
      if h = 0 || d.tailFmt c qn ≠ f then d.haltCmd c .ls (badShape 0)
      else match d.indexTile c index with
        | .wait d => d
        | .tiles ts d =>
          let rs := indexRows (ts.flatten.headD [])
          match d.rowSpans 0 src f h rs false with
          | .error e => d.haltEng c .ls e
          | .ok ss =>
            match d.stageTiles c 2 0 f ss with
            | .error d => d
            | .ok (tiles, d) =>
              let group (g j : Nat) : List (Option TileRow) :=
                (List.range (min 32 (rs.length - 32 * g))).map fun i => gatheredRow f tr h rs tiles j (32 * g + i)
              let places := (List.range (ceilDiv rs.length 32)).flatMap fun g => (List.range h).map fun j => (g, j)
              if places.any fun x => (group x.1 x.2).any (·.isNone) then d.haltCmd c .ls (badShape 1)
              else if !(places.all fun x => rowsFit (group x.1 x.2)) then d.haltCmd c .ls (badShape 0)
              else
                let out (x : Nat × Nat) : List Byte :=
                  tileOfRows f (tileEpoch (tiles.getD (32 * x.1 * h + x.2) [])) ((group x.1 x.2).filterMap id)
                d.commit c .ls (opPops q.cmd.op) (places.map fun x => (qn, out x))
    | _ => d

/-- R114: GATHER_ROWS. -/
def execGatherRows (core : Nat) (s : State) : Host.Outcome State Fault Refusal := s.onDev fun d => d.runGather core

/-- A tile with one of its valid rows replaced by a row of the same length: the other rows as they were (R38, R39, R60); none where the
row does not fit. -/
def replaceRow (f : Fmt) (t : List Byte) (r : Nat) (row : Option TileRow) : Option (List Byte) :=
  let rows := (List.range (tileRows t)).map fun i => if i = r then row else rowOf f t i
  if r < tileRows t && rowsFit rows then some (tileOfRows f (tileEpoch t) (rows.filterMap id)) else none

/-- The tiles of a scatter after it: each (tile number, bytes) as the last of the rows that fall into it leaves it; none where a row
does not fit. -/
def scatterInto (f : Fmt) (h : Nat) (src : List (List Byte)) : List (Nat × Int) → List ((Int × Nat) × Nat × Option (List Byte)) →
    List ((Int × Nat) × Nat × Option (List Byte))
  | [], ts => ts
  | (i, r) :: rest, ts =>
    let ts := ts.map fun x =>
      if x.1.1 = r.fdiv 32 then
        (x.1, x.2.1, x.2.2.bind fun t => replaceRow f t (r % 32).toNat (rowOf f (src.getD (i / 32 * h + x.1.2) []) (i % 32)))
      else x
    scatterInto f h src rest ts

/-- Whether a tile is the first of its place in a list of (row, column) places. -/
def firstPlace (ps : List (Int × Nat)) (k : Nat) : Bool := (ps.take k).all fun p => p != ps.getD k (0, 0)

/-- SCATTER_ROWS (R114): the rows of the popped tiles, 32 to a tile, replace the rows that the index tile names, in ascending order.
Popped row tiles that are not as many as the index tile's rows need, or a row that fits no row of its destination tile: BAD_OPERAND,
kind 7 (DESIGN CHOICE, log entry 20). -/
def Dev.runScatter (d : Dev) (c : Nat) : Dev :=
  match d.fresh? c .ls with
  | none => d
  | some q =>
    match q.cmd.op with
    | .scatterRows qn keep tr index dst f n h =>
      if h = 0 || d.headFmt c .ls qn ≠ f then d.haltCmd c .ls (badShape 0)
      else match d.indexTile c index with
        | .wait d => d
        | .tiles its d =>
          let rs := indexRows (its.flatten.headD [])
          if ceilDiv rs.length 32 ≠ n then d.haltCmd c .ls (badShape 1)
          else match d.rowSpans 2 dst f h rs true with
          | .error e => d.haltEng c .ls e
          | .ok ss =>
            match d.stageTiles c 2 2 f ss with
            | .error d => d
            | .ok (old, d) =>
              let o : Operand := { src := .queue qn keep tr, n := n * h, pos := 0, accept := fun g => g == f }
              match d.gather c .ls [o] [] with
              | .wait d => d
              | .tiles ts d =>
                let places : List (Int × Nat) := rs.flatMap fun r => (List.range h).map fun j => (r.fdiv 32, j)
                let start := ((List.range places.length).filter (firstPlace places)).map fun k =>
                  (places.getD k (0, 0), k, some (old.getD k []))
                let res := scatterInto f h ts.flatten ((List.range rs.length).map fun i => (i, rs.getD i 0)) start
                if res.any fun x => x.2.2.isNone then d.haltCmd c .ls (badShape 0)
                else d.finishWrites c q (res.map fun x => (ss.getD x.2.1 (.mem []), x.2.2.getD []))
    | _ => d

/-- R114: SCATTER_ROWS. -/
def execScatterRows (core : Nat) (s : State) : Host.Outcome State Fault Refusal := s.onDev fun d => d.runScatter core

end Sys2Proof.Machine
end

