-- ==== Sys2Proof/Machine/Scale.lean ====
section
/-! DEFINITION. The scale table: entries (R154), lookups, reports and seals (R155 to R161, R163), warm-up (R165, R166), the image
of a checkpoint (R168), and references that cannot be read (R153, R573). -/

namespace Sys2Proof.Machine

open Sys2Proof

/-- An entry of the scale table (R154). -/
structure ScaleEntry where
  format : BitVec 8
  valid : BitVec 1
  mode : BitVec 1
  warm : BitVec 1
  prevWarm : BitVec 1
  window : BitVec 4
  headroom : BitVec 3
  boost : BitVec 4
  warmLeft : BitVec 5
  ovfLast : BitVec 1
  iterFault : BitVec 1
  resv : BitVec 2
  scale : BitVec 8
  span : BitVec 8
  iter : BitVec 16
  srcA : BitVec 16
  srcB : BitVec 16
  curAmax : BitVec 32
  prevAmax : BitVec 32
  history : BitVec 128
  curOvf : BitVec 16
  prevOvf : BitVec 16
  curRetry : BitVec 16
  prevRetry : BitVec 16
  clean : BitVec 16
  prevScale : BitVec 8
  tail : BitVec 136
  deriving DecidableEq, Repr

/-- The 512 bits of an entry (R154). -/
def packEntry (e : ScaleEntry) : BitVec 512 :=
  e.tail ++ e.prevScale ++ e.clean ++ e.prevRetry ++ e.curRetry ++ e.prevOvf ++ e.curOvf ++ e.history ++ e.prevAmax ++
    e.curAmax ++ e.srcB ++ e.srcA ++ e.iter ++ e.span ++ e.scale ++ e.resv ++ e.iterFault ++ e.ovfLast ++ e.warmLeft ++
    e.boost ++ e.headroom ++ e.window ++ e.prevWarm ++ e.warm ++ e.mode ++ e.valid ++ e.format

/-- The fields of an entry's 512 bits (R154). -/
def unpackEntry (b : BitVec 512) : ScaleEntry :=
  { format := b.extractLsb' 0 8, valid := b.extractLsb' 8 1, mode := b.extractLsb' 9 1, warm := b.extractLsb' 10 1,
    prevWarm := b.extractLsb' 11 1, window := b.extractLsb' 12 4, headroom := b.extractLsb' 16 3,
    boost := b.extractLsb' 19 4, warmLeft := b.extractLsb' 23 5, ovfLast := b.extractLsb' 28 1,
    iterFault := b.extractLsb' 29 1, resv := b.extractLsb' 30 2, scale := b.extractLsb' 32 8, span := b.extractLsb' 40 8,
    iter := b.extractLsb' 48 16, srcA := b.extractLsb' 64 16, srcB := b.extractLsb' 80 16,
    curAmax := b.extractLsb' 96 32, prevAmax := b.extractLsb' 128 32, history := b.extractLsb' 160 128,
    curOvf := b.extractLsb' 288 16, prevOvf := b.extractLsb' 304 16, curRetry := b.extractLsb' 320 16,
    prevRetry := b.extractLsb' 336 16, clean := b.extractLsb' 352 16, prevScale := b.extractLsb' 368 8,
    tail := b.extractLsb' 376 136 }

/-- An entry read from 64 bytes. -/
def entryOf (bs : List Byte) : ScaleEntry := unpackEntry (BitVec.ofNat 512 (leNat bs))

/-- An entry as 64 bytes. -/
def entryBytes (e : ScaleEntry) : List Byte := leBytes 64 (packEntry e).toNat

/-- Address of the table's image and of an entry (R153, R169). -/
def Dev.scaleBase (d : Dev) : Nat := d.scale.baseLo.toNat + d.scale.baseHi.toNat * 2 ^ 32
def Dev.entryAddr (d : Dev) (i : Nat) : Nat := d.scaleBase + 32 + 64 * i

/-- An entry as it stands in memory. -/
def Dev.entry (d : Dev) (i : Nat) : ScaleEntry := entryOf (d.peek (d.entryAddr i) 64)

/-- An entry written back. The device writes nothing outside job memory, wherever ST_BASE points (R17). -/
def Dev.setEntry (d : Dev) (i : Nat) (e : ScaleEntry) : Dev :=
  if inJobMem d.grade (d.entryAddr i) 64 then d.write (d.entryAddr i) (entryBytes e) else d

/-- HISTORY byte k, 0 the newest. -/
def ScaleEntry.hist (e : ScaleEntry) (k : Nat) : Nat := bits e.history.toNat (8 * k + 7) (8 * k)

/-- The scaled format of an entry. -/
def ScaleEntry.fmt (e : ScaleEntry) : Fmt := (fmtOf e.format.toNat).getD .e4m3

/-- The estimate of R160. -/
def ScaleEntry.estimate (e : ScaleEntry) : Nat :=
  let h := ((List.range (e.window.toNat + 1)).map e.hist).foldl max 0
  if h = 0 then 0x7F else limitScale ((h : Int) - targetExp e.fmt + e.headroom.toNat + e.boost.toNat)

/-- The seal of R157 on the entry itself. -/
def ScaleEntry.seal (e : ScaleEntry) : ScaleEntry :=
  let code := magCode (f32 e.prevAmax)
  let exceeded := decide (e.prevOvf.toNat > 0)
  let clean1 := min 0xFFFF (e.clean.toNat + 1)
  let boost := if exceeded then (if e.ovfLast = 1 then min (e.boost.toNat + 1) 8 else e.boost.toNat)
    else if clean1 = 64 then e.boost.toNat - 1 else e.boost.toNat
  let clean := if exceeded || clean1 = 64 then 0 else clean1
  let left := if e.warm = 1 then e.warmLeft.toNat - 1 else e.warmLeft.toNat
  let e1 : ScaleEntry :=
    { e with history := (e.history <<< 8) ||| BitVec.ofNat 128 code, boost := BitVec.ofNat 4 boost,
             ovfLast := BitVec.ofBool exceeded, clean := BitVec.ofNat 16 clean, prevAmax := e.curAmax, prevOvf := e.curOvf,
             prevRetry := e.curRetry, prevScale := e.scale, prevWarm := e.warm, curAmax := 0, curOvf := 0, curRetry := 0,
             iter := e.iter + 1, warmLeft := BitVec.ofNat 5 left,
             warm := if e.warm = 1 && left = 0 then 0 else e.warm }
  { e1 with scale := BitVec.ofNat 8 e1.estimate }

/-- The SPAN of an entry narrowed (R157). -/
def ScaleEntry.narrow (e : ScaleEntry) : ScaleEntry := { e with span := BitVec.ofNat 8 (max (e.span.toNat - 8) 16) }

/-- An entry entering warm-up (R165). -/
def ScaleEntry.enterWarm (e : ScaleEntry) : ScaleEntry :=
  { e with warm := 1, warmLeft := 16, history := 0, curAmax := 0, curOvf := 0, curRetry := 0, prevAmax := 0, prevOvf := 0,
           prevRetry := 0, boost := 0, ovfLast := 0, clean := 0, prevWarm := 1, scale := 0x7F, prevScale := 0x7F }

/-- Why a reference to an entry fails: no such entry (R153), or its line cannot be read (R573), with its address. -/
inductive EntryFail where
  | invalid (addr : Nat)
  | bus (addr : Nat)
  deriving DecidableEq, Repr

/-- An entry read for a reference (R153, R573). -/
def Dev.readEntry (d : Dev) (req i : Nat) : Except EntryFail ScaleEntry × Dev :=
  if i ≥ d.scale.count.toNat then (.error (.invalid (d.entryAddr i)), d)
  else match d.readFor req (d.entryAddr i) 64 with
    | (none, d) => (.error (.bus (d.entryAddr i)), d)
    | (some bs, d) => let e := entryOf bs; if e.valid = 1 then (.ok e, d) else (.error (.invalid (d.entryAddr i)), d)

/-- The first of the operand entries of a seal that cannot be read (R573). -/
def Dev.sourceFail (d : Dev) (req : Nat) : List Nat → Option EntryFail × Dev
  | [] => (none, d)
  | i :: is =>
    match d.readFor req (d.entryAddr i) 64 with
    | (none, d) => (some (.bus (d.entryAddr i)), d)
    | (some _, d) => d.sourceFail req is

/-- The SPAN of an operand's entry is narrowed by a seal (R157). -/
def Dev.narrowEntry (d : Dev) (i : Nat) : Dev :=
  if (d.entry i).valid = 1 then d.setEntry i (d.entry i).narrow else d

/-- Which open iteration a reference names (R156). -/
inductive IterSlot where
  | cur | prev | other
  deriving DecidableEq, Repr

/-- A lookup or report reaches an entry (R155, R156): it seals for ITER + 1; a reference to a closed iteration sets ITER_FAULT,
with an error record. -/
def Dev.touchEntry (d : Dev) (req : Nat) (ref : ScaleRef) : Except EntryFail (ScaleEntry × IterSlot) × Dev :=
  match d.readEntry req ref.idx with
  | (.error f, d) => (.error f, d)
  | (.ok e, d) =>
    let i := ref.iter % 65536
    let n := e.iter.toNat
    if i = (n + 1) % 65536 then
      let near := if e.prevRetry.toNat > 0 then [e.srcA.toNat, e.srcB.toNat].filter (fun j => decide (j ≠ 0xFFFF ∧ j < d.scale.count.toNat)) else []
      match d.sourceFail req near with
      | (some f, d) => (.error f, d)
      | (none, d) =>
        let d := near.foldl Dev.narrowEntry d
        -- an entry that names itself as a source is narrowed before it is sealed
        let e := (d.entry ref.idx).seal
        (.ok (e, .cur), d.setEntry ref.idx e)
    else if i = n then (.ok (e, .cur), d)
    else if (i + 1) % 65536 = n then (.ok (e, .prev), d)
    else
      let e := { e with iterFault := 1 }
      let d := d.setEntry ref.idx e
      let d := { d with scale := { d.scale with iterFaults := wset d.scale.iterFaults 1 } }
      (.ok (e, .other), d.detect (detId 0x48 0) 1 false none ref.idx 0 0)

/-- How a producer chooses its scales under an entry and a slot (R156, R160, R161, R166). -/
def ScaleEntry.rule (e : ScaleEntry) (s : IterSlot) : ScaleRule :=
  let sc := if s = .prev then e.prevScale.toNat else e.scale.toNat
  let warm := if s = .prev then e.prevWarm = 1 else e.warm = 1
  if warm then .actual e.headroom.toNat 0
  else if e.mode = 1 then .actual e.headroom.toNat (sc - e.span.toNat)
  else .fixed sc

/-- A lookup: the rule for the scales of a tile (R156). -/
def Dev.lookupScale (d : Dev) (req : Nat) (ref : ScaleRef) : Except EntryFail ScaleRule × Dev :=
  match d.touchEntry req ref with
  | (.error f, d) => (.error f, d)
  | (.ok (e, s), d) => (.ok (e.rule s), d)

/-- A sum saturating at 0xFFFF. -/
def sat16 (a : BitVec 16) (n : Nat) : BitVec 16 := BitVec.ofNat 16 (min 0xFFFF (a.toNat + n))

/-- The larger of two FP32 absolute maxima. -/
def amaxOf (a : Word32) (x : Fl) : Word32 := if Fl.lt (f32 a) x then roundUp32 x else a

/-- A report's effect on its entry (R155, R156, R163). -/
def ScaleEntry.report (e : ScaleEntry) (s : IterSlot) (amax : Fl) (ovf retry : Nat) : ScaleEntry :=
  match s with
  | .cur => { e with curAmax := amaxOf e.curAmax amax, curOvf := sat16 e.curOvf ovf, curRetry := sat16 e.curRetry retry }
  | .prev =>
    { e with prevAmax := amaxOf e.prevAmax amax, prevOvf := sat16 e.prevOvf ovf, prevRetry := sat16 e.prevRetry retry }
  | .other => e

/-- A report (R156, R163). -/
def Dev.reportScale (d : Dev) (req : Nat) (ref : ScaleRef) (amax : Fl) (ovf retry : Nat) : Except EntryFail Unit × Dev :=
  match d.touchEntry req ref with
  | (.error f, d) => (.error f, d)
  | (.ok (e, s), d) => (.ok (), d.setEntry ref.idx (e.report s amax ovf retry))

/-- The halt that a failed reference of a core gives (R153, R573). -/
def Dev.entryHalt (d : Dev) (u : EngUnit) (pos : Nat) : EntryFail → HaltInfo
  | .invalid a => { reason := rBadOperand, unit := u.code, kind := 9, address := a, d0 := pos }
  | .bus a => d.busHalt u a

/-- Entries with WARM = 1 (R167). -/
def Dev.warmCount (d : Dev) : Nat :=
  ((List.range d.scale.count.toNat).filter fun i => let e := d.entry i; e.valid == 1 && e.warm == 1).length

/-- Every valid entry that can be read enters warm-up (R165, R573): the device after it, and whether all could be read. -/
def Dev.forceWarm (d : Dev) : Dev :=
  let d := { d with scale := { d.scale with status := wclr d.scale.status 0x10 } }
  (List.range d.scale.count.toNat).foldl (fun d i =>
    match d.readFor reqFirmware (d.entryAddr i) 64 with
    | (none, d) => { d with scale := { d.scale with status := wset d.scale.status 0x10 } }
    | (some bs, d) => let e := entryOf bs; if e.valid = 1 then d.setEntry i e.enterWarm else d) d

/-- R165: FORCE_WARM. -/
def execForceWarm (s : State) : Host.Outcome State Fault Refusal :=
  s.onBar fun d => d.forceWarm

/-- The image CRC is written (R168), once every entry could be read (R573). A table outside job memory is not written (R17). -/
def Dev.snapshotScale (d : Dev) : Dev :=
  let d := { d with scale := { d.scale with status := wclr d.scale.status 0xC } }
  if !inJobMem d.grade d.scaleBase (32 + 64 * d.scale.count.toNat) then
    { d with scale := { d.scale with status := wset d.scale.status 8 } }
  else match d.readFor reqFirmware (d.entryAddr 0) (64 * d.scale.count.toNat) with
  | (none, d) => { d with scale := { d.scale with status := wset d.scale.status 8 } }
  | (some bs, d) =>
    let d := d.write (d.scaleBase + 12) (leBytes 4 (crc32c bs))
    { d with scale := { d.scale with status := wset d.scale.status 4 } }

/-- R168: ST_SNAPSHOT. -/
def execStSnapshot (s : State) : Host.Outcome State Fault Refusal :=
  s.onBar fun d => d.snapshotScale

end Sys2Proof.Machine
end

