-- ==== Sys2Proof/Machine/Matrix.lean ====
section
/-! DEFINITION. The matrix engine: integer forms (R121, R122), the accumulator window and its passes (R128 to R133), residues
(R134), the meanings of MATMUL, MATMUL_TOPK, MATMUL_LSE and ACC_PASS_END, and the ranking and log-sum-exp of the drain (R143 to
R147). -/

namespace Sys2Proof.Machine

open Sys2Proof

/-! ## Integer forms -/

/-- An element in the operand store (R121, R122): n, and its special mark (0 none, 1 NaN, 2 +Inf, 3 −Inf). -/
structure IntEl where
  n : Int
  sp : Nat
  deriving DecidableEq, Repr

/-- f of R121. -/
def fOf : Fmt → Int
  | .fp4 => -1 | .e4m3 => -9 | .e5m2 => -16 | .int8 => 0 | .fp16 => -24 | .bf16 => -31 | _ => 0

/-- The unbiased exponent of a BF16 code, −126 for a subnormal (R121). -/
def bf16Exp (code : Nat) : Int := let x := (code >>> 7) % 256; if x = 0 then -126 else (x : Int) - 127

/-- The codes of the valid elements of a tile's block. -/
def blockCodes (f : Fmt) (t : List Byte) (b : Nat) : List Nat :=
  (blockCells (tileRows t) (tileCols t) b).map fun p => codeAt f t p.1 p.2

/-- e of a block (R121). -/
def blockExp (f : Fmt) (t : List Byte) (b : Nat) : Int :=
  match f with
  | .fp16 => 0
  | .bf16 =>
    let es := ((blockCodes .bf16 t b).filter fun x =>
      let v := decodeElem .bf16 x
      v.isFinite && !v.isZero).map bf16Exp
    match es with
    | [] => 0
    | x :: xs => xs.foldl max x
  | _ => ((tileScales t).getD b 0x7F : Int) - 127

/-- The integer form of a code in a block of exponent e with a scale byte (R121, R122). -/
def intForm (f : Fmt) (e : Int) (scale code : Nat) : IntEl :=
  if fmtScaled f && scale = 0xFF then ⟨0, 1⟩
  else match decodeElem f code with
    | .nan => ⟨0, 1⟩
    | .inf neg => ⟨0, if neg then 3 else 2⟩
    | .fin neg m x =>
      let q := if f = .bf16 then fOf f + e else fOf f
      let n : Int := roundInt .nearest m x q
      ⟨if neg then -n else n, 0⟩

/-- Whether a block is non-zero: it holds a non-zero valid element with an integer form (R128). -/
def blockLive (f : Fmt) (t : List Byte) (b : Nat) : Bool :=
  let s := (tileScales t).getD b 0x7F
  !(fmtScaled f && s == 0xFF) && (blockCodes f t b).any fun x =>
    let v := decodeElem f x
    v.isFinite && !v.isZero

/-- The integer forms of the 16 elements of row `r` of a tile within block column `k`; padding is zero (R38). -/
def rowForms (f : Fmt) (t : List Byte) (r k : Nat) : List IntEl :=
  let b := 2 * (r / 16) + k
  let e := blockExp f t b
  let s := (tileScales t).getD b 0x7F
  (List.range 16).map fun i =>
    let c := 16 * k + i
    if r < tileRows t && c < tileCols t then intForm f e s (codeAt f t r c) else ⟨0, 0⟩

/-- The integer forms of the 16 elements of column `c` of a tile within block row `h`. -/
def colForms (f : Fmt) (t : List Byte) (c h : Nat) : List IntEl :=
  let b := 2 * h + c / 16
  let e := blockExp f t b
  let s := (tileScales t).getD b 0x7F
  (List.range 16).map fun i =>
    let r := 16 * h + i
    if r < tileRows t && c < tileCols t then intForm f e s (codeAt f t r c) else ⟨0, 0⟩

/-! ## The window -/

/-- The operands of one chunk for an output block (i, j): eA + eB + fA + fB, and whether it is active (R128). -/
structure Chunk where
  w : Int
  live : Bool
  deriving DecidableEq, Repr

/-- The chunks of an accumulation for an output block, in ascending K (R126, R128). -/
def chunksOf (fa fb : Fmt) (pairs : List (List Byte × List Byte)) (bi bj : Nat) : List Chunk :=
  pairs.flatMap fun p => [0, 1].map fun k =>
    { w := fOf fa + fOf fb + blockExp fa p.1 (2 * bi + k) + blockExp fb p.2 (2 * k + bj),
      live := blockLive fa p.1 (2 * bi + k) && blockLive fb p.2 (2 * k + bj) }

/-- The first window position of a block (R128). -/
def placeWindow (cs : List Chunk) : Int :=
  match (cs.filter (·.live)).map (·.w) with
  | [] => 0
  | x :: xs => xs.foldl min x

/-- The special state of a product (R133). -/
def prodSpecial (a b : IntEl) : Nat :=
  if a.sp = 0 && b.sp = 0 then 0
  else if a.sp = 1 || b.sp = 1 then 1
  else
    let negA := if a.sp = 0 then decide (a.n < 0) else a.sp == 3
    let negB := if b.sp = 0 then decide (b.n < 0) else b.sp == 3
    if (a.sp = 0 && a.n = 0) || (b.sp = 0 && b.n = 0) then 1
    else if negA == negB then 2 else 3

/-- Special states combine as under IEEE 754 addition (R133). -/
def joinSpecial (a b : Nat) : Nat :=
  if a = 0 then b else if b = 0 then a else if a = b then a else 1

/-- A residue modulo 255 of a signed integer (R134). -/
def res255 (n : Int) : Nat := (n.emod 255).toNat

/-- n × 2^(w − L): exact, or rounded to an integer, nearest even (R128). -/
def shifted (p w l : Int) : Int :=
  if w ≥ l then p * 2 ^ (w - l).toNat
  else
    let m : Int := roundInt .nearest p.natAbs 0 (l - w)
    if p < 0 then -m else m

/-- A cell during a pass: V, the overflow mark, special state and residue. -/
structure PassCell where
  v : Int
  ovf : Bool
  sp : Nat
  rho : Nat
  deriving DecidableEq, Repr

/-- V modulo 2^96 in two's complement (R128). -/
def wrap96 (v : Int) : Int := (v + 2 ^ 95).emod (2 ^ 96) - 2 ^ 95

/-- One chunk of one cell (R128, R133, R134). -/
def chunkStep (l : Int) (s : PassCell) (w : Int) (as bs : List IntEl) : PassCell :=
  let ps := as.zip bs
  let term (x : IntEl × IntEl) : Int × Nat × Nat :=
    let sp := prodSpecial x.1 x.2
    if sp ≠ 0 then (0, 0, sp)
    else
      let p := x.1.n * x.2.n
      let q := shifted p w l
      let r := if w ≥ l then res255 x.1.n * res255 x.2.n * 2 ^ ((w - l).toNat % 8) % 255 else res255 q
      (q, r, 0)
  let ts := ps.map term
  let sum := ts.foldl (fun a t => a + t.1) (0 : Int)
  let v := s.v + sum
  { v := wrap96 v, ovf := s.ovf || decide (v < -(2 ^ 95)) || decide (v > 2 ^ 95 - 1),
    sp := ts.foldl (fun a t => joinSpecial a t.2.2) s.sp, rho := ts.foldl (fun a t => (a + t.2.1) % 255) s.rho }

/-- One pass of the cell (i, j) (R128). -/
def cellPass (fa fb : Fmt) (pairs : List (List Byte × List Byte)) (l : Int) (i j : Nat) : PassCell :=
  let cs := chunksOf fa fb pairs (i / 16) (j / 16)
  let rows := pairs.flatMap fun p => [0, 1].map fun k => (rowForms fa p.1 i k, colForms fb p.2 j k)
  (cs.zip rows).foldl (fun s x => chunkStep l s x.1.w x.2.1 x.2.2) ⟨0, false, 0, 0⟩

/-- The formats of an accumulation's operands. -/
def accFmts (pairs : List (List Byte × List Byte)) : Fmt × Fmt :=
  match pairs with
  | [] => (.fp32, .fp32)
  | p :: _ => (tileFmt p.1, tileFmt p.2)

/-- The windows of the four blocks as first placed (R128). -/
def placeAll (pairs : List (List Byte × List Byte)) : List Int :=
  let f := accFmts pairs
  [0, 1, 2, 3].map fun b => placeWindow (chunksOf f.1 f.2 pairs (b / 2) (b % 2))

/-- A pass over every valid cell, in row-major order. -/
def passAll (pairs : List (List Byte × List Byte)) (lpos : List Int) : List ((Nat × Nat) × PassCell) :=
  let f := accFmts pairs
  let s := accShape pairs
  (validCells s.1 s.2).map fun p => (p, cellPass f.1 f.2 pairs (lpos.getD (blockOf p.1 p.2) 0) p.1 p.2)

/-- Steps of an accumulation (R126). -/
def accSteps (pairs : List (List Byte × List Byte)) : Nat :=
  let kt := pairs.length
  match (accFmts pairs).1 with
  | .fp4 => kt
  | .e4m3 | .e5m2 | .int8 => 2 * kt
  | _ => 4 * kt

/-- What a pass comes to (R128, R129, R131). -/
inductive PassEnd where
  | range (row col : Nat)
  | again (lpos : List Int) (retry : List Nat)
  | done (cells : List Cell)

/-- The end of a pass: ACC_RANGE, moved windows and another pass, or the cells. -/
def passEnd (pairs : List (List Byte × List Byte)) (lpos : List Int) (retry : List Nat) : PassEnd :=
  let cells := passAll pairs lpos
  let exceeded (b : Nat) : Bool := cells.any fun x => x.2.ovf && blockOf x.1.1 x.1.2 == b
  match cells.find? fun x => x.2.ovf && retry.getD (blockOf x.1.1 x.1.2) 0 == 4 with
  | some x => .range x.1.1 x.1.2
  | none =>
    if [0, 1, 2, 3].any exceeded then
      .again ((List.range 4).map fun b => lpos.getD b 0 + if exceeded b then 16 else 0)
        ((List.range 4).map fun b => retry.getD b 0 + if exceeded b then 1 else 0)
    else .done (cells.map fun x => { v := x.2.v, special := x.2.sp, rho := x.2.rho })

/-! ## Operand pairs -/

/-- Formats that MX takes in either operand (R120). -/
def mxTakes : Fmt → Bool
  | .fp32 | .int32 => false
  | _ => true

/-- Whether a pair of formats is in the table of R120. -/
def pairOk (a b : Fmt) : Bool :=
  let fp8 (f : Fmt) : Bool := f == .e4m3 || f == .e5m2
  mxTakes a && (a == b || (fp8 a && fp8 b))

/-- Tile `j` of an operand, read, checked and turned. -/
def Dev.pairTile (d : Dev) (c : Nat) (o : Operand) (spans : List (Nat × Span)) (skip j : Nat) :
    Except HaltInfo (List Byte) × Dev :=
  match d.operandTiles c .mx { o with n := 1 } ((spans.drop j).take 1) (skip + j) with
  | (.error h, d) => (.error h, d)
  | (.ok ts, d) => (.ok (ts.headD []), d)

/-- The checks of R124 on a pair that joins an accumulation, after those of R120. -/
def pairFault (pairs : List (List Byte × List Byte)) (a b : List Byte) : Option HaltInfo :=
  if !pairOk (tileFmt a) (tileFmt b) then some { reason := rBadOperand, unit := 1, kind := 6, d0 := 1 }
  else if tileCols a ≠ tileRows b then some { badShape 1 with unit := 1 }
  else match pairs with
    | [] => none
    | p :: _ =>
      if tileRows a ≠ tileRows p.1 then some { badShape 0 with unit := 1 }
      else if tileCols b ≠ tileCols p.2 then some { badShape 1 with unit := 1 }
      else if tileFmt a ≠ tileFmt p.1 then some { badShape 0 with unit := 1 }
      else if tileFmt b ≠ tileFmt p.2 then some { badShape 1 with unit := 1 }
      else none

/-- The address of tile `j` of an operand for a halt record; 0 for a queue (R104, R107). -/
def operandAddr (spans : List (Nat × Span)) (j : Nat) : Nat := (spans[j]?).elim 0 (·.2.addr)

/-- A shape or format halt with the address of the operand it names (R107). -/
def HaltInfo.atPair (h : HaltInfo) (sa sb : List (Nat × Span)) (j : Nat) : HaltInfo :=
  { h with address := operandAddr (if h.d0 = 0 then sa else sb) j }

/-- The operand pairs of a command enter the operand store one after another, each checked as it is popped (R124, R140). -/
def Dev.takePairs (d : Dev) (c : Nat) (a b : Operand) (sa sb : List (Nat × Span)) (skipB : Nat) :
    Nat → Nat → List (List Byte × List Byte) → Except HaltInfo (List (List Byte × List Byte)) × Dev
  | 0, _, ps => (.ok ps, d)
  | n + 1, j, ps =>
    match d.pairTile c a sa 0 j with
    | (.error h, d) => (.error h, d)
    | (.ok ta, d) =>
      match d.pairTile c b sb skipB j with
      | (.error h, d) => (.error h, d)
      | (.ok tb, d) =>
        match (pairFault ps ta tb).or (if ps.length ≥ 256 then some { badShape 0 with unit := 1 } else none) with
        | some h => (.error (h.atPair sa sb j), d)
        | none => Dev.takePairs d c a b sa sb skipB n (j + 1) (ps ++ [(ta, tb)])

/-- The format checks of the outputs of a draining command (R138, R144, R147, R572). -/
def Dev.outFault (d : Dev) (c : Nat) (m : MatmulArgs) : Option HaltInfo :=
  let declared (q : Nat) : Option Fmt := ((d.tailIdx c .mx q).bind d.q?).map (·.decl.fmt)
  let want (q pos : Nat) (f : Fmt) : Option HaltInfo :=
    if declared q = some f then none else some { reason := rBadOperand, unit := 1, kind := 6, d0 := pos }
  let main : Option HaltInfo := match m.out with
    | none => none
    | some q =>
      if m.outFmt = .int32 then some { reason := rBadOperand, unit := 1, kind := 6, d0 := 3 }
      else if fmtScaled m.outFmt && m.entry.isNone then some { badShape 4 with unit := 1 }
      else want q 2 m.outFmt
  main.or (match m.kind with
    | .plain => none
    | .topk _ _ _ lse qv qp ql =>
      ((want qv 6 .fp32).or (want qp 7 .int32)).or (if lse then want ql 8 .fp32 else none)
    | .lse _ _ ql => want ql 6 .fp32)

/-- The span rules that the last operand pair settles (R142). -/
def spanFault (span : Option SpanSt) (kind : DrainKind) (rows cols : Nat) : Option HaltInfo :=
  let bad : HaltInfo := { badShape 0 with unit := 1 }
  let have_ := span.elim 0 (·.cols) + cols
  let rowsBad := span.elim false fun s => decide (s.aRows ≠ rows)
  match kind with
  | .plain => none
  | .topk k n pos .. => if rowsBad || (pos + 1 = n && have_ < k) then some bad else none
  | .lse .. => if rowsBad then some bad else none

/-- Useful MACs of an accumulation (R29, R499). -/
def accMacs (pairs : List (List Byte × List Byte)) : Nat := (pairs.map fun p => tileRows p.1 * tileCols p.1 * tileCols p.2).sum

/-- MACs of an accumulation go into the work counts (R499). -/
def Dev.countMacs (d : Dev) (c : Nat) (pairs : List (List Byte × List Byte)) : Dev :=
  let n := accMacs pairs
  let die := dieOfCore d.grade c
  let w := d.work
  { d with work := match (accFmts pairs).1 with
    | .fp4 => { w with macFp4 := w.macFp4.modify die (· + n) }
    | .bf16 | .fp16 => { w with mac16 := w.mac16.modify die (· + n) }
    | _ => { w with mac8 := w.mac8.modify die (· + n) } }

/-- What the accumulation after one that is closed begins with (R119): the other bank. -/
def AccSt.drained (a : AccSt) : AccSt := { AccSt.empty with bank := 1 - a.bank, lastPair := some (accFmts a.pairs) }

/-- The command at the head of MX leaves for the pipe with its accumulation; the next one uses the other bank (R119). -/
def CoreSt.toPipe (s : CoreSt) (pairs : List (List Byte × List Byte)) : CoreSt :=
  match s.mx with
  | [] => s
  | q :: qs =>
    { s with mx := qs, pipe := s.pipe ++ [{ cmd := q, acc := { s.acc with pairs := pairs, closedAcc := true } }],
             acc := { s.acc with pairs := pairs }.drained }

/-- The running MX command multiplies (R124, R125): its pairs join the accumulation; with CHAIN it completes, without it the
accumulation is closed, and its passes and its drain follow. Where A and B are popped from one queue, all Kt tiles of A come before
those of B (DESIGN CHOICE, log entry 99). -/
def Dev.runMatmul (d : Dev) (c : Nat) (kindOk : DrainKind → Bool) : Dev :=
  match d.fresh? c .mx with
  | none => d
  | some q =>
    match q.cmd.op with
    | .matmul m =>
      let s := d.core c
      if !kindOk m.kind || !s.mayTake m then d
      else match (if m.chain then none else d.outFault c m) with
        | some h => d.haltEng c .mx h
        | none =>
          let a : Operand := { src := m.a, n := m.kt, pos := 0, accept := mxTakes }
          let b : Operand := { src := m.b, n := m.kt, pos := 1, accept := mxTakes }
          match d.allSpans .mx [a, b] with
          | .error h => d.haltEng c .mx h
          | .ok sss =>
            let sa := sss.getD 0 []
            let sb := sss.getD 1 []
            match d.gather c .mx [] (sa ++ sb) with
            | .wait d => d
            | .tiles _ d =>
              let skipB := match m.a, m.b with
                | .queue qa false _, .queue qb _ _ => if qa = qb then m.kt else 0
                | _, _ => 0
              match d.takePairs c a b sa sb skipB m.kt 0 s.acc.pairs with
              | (.error h, d) => d.haltEng c .mx h
              | (.ok ps, d) =>
                let sh := accShape ps
                match (if m.chain then none else spanFault s.spanAhead m.kind sh.1 sh.2) with
                | some h => d.haltEng c .mx h
                | none =>
                  let d := d.popAll c .mx (opPops q.cmd.op)
                  if m.chain then
                    (d.setCore c fun s => { s with acc := if s.halted then s.acc.fresh else { s.acc with pairs := ps } }).complete c .mx
                  else ((d.setCore c fun s => s.toPipe ps).countMacs c ps).settleCore c
    | _ => d

/-- R124: MATMUL. -/
def execMatmul (core : Nat) (s : State) : Host.Outcome State Fault Refusal :=
  s.onDev fun d => d.runMatmul core fun k => match k with | .plain => true | _ => false

/-- R141: MATMUL_TOPK. -/
def execMatmulTopk (core : Nat) (s : State) : Host.Outcome State Fault Refusal :=
  s.onDev fun d => d.runMatmul core fun k => match k with | .topk .. => true | _ => false

/-- R145: MATMUL_LSE. -/
def execMatmulLse (core : Nat) (s : State) : Host.Outcome State Fault Refusal :=
  s.onDev fun d => d.runMatmul core fun k => match k with | .lse .. => true | _ => false

/-- The first accumulation of the pipe without cells changed. -/
def setPassing (f : AccSt → AccSt) : List MxJob → List MxJob
  | [] => []
  | j :: js => if j.acc.cells.isSome then j :: setPassing f js else { j with acc := f j.acc } :: js

/-- The accumulation that the array multiplies changed. -/
def CoreSt.setPass (s : CoreSt) (f : AccSt → AccSt) : CoreSt :=
  if s.pipe.isEmpty then { s with acc := f s.acc } else { s with pipe := setPassing f s.pipe }

/-- Whether an accumulation meets the conditions of R32 as a part of a product: FP8, whole tiles, and a K of at least 512. -/
def accCovered (pairs : List (List Byte × List Byte)) : Bool :=
  let fp8 (f : Fmt) : Bool := f == .e4m3 || f == .e5m2
  let whole (t : List Byte) : Bool := tileRows t == 32 && tileCols t == 32
  decide (pairs.length ≥ 16) && pairs.all fun p => fp8 (tileFmt p.1) && fp8 (tileFmt p.2) && whole p.1 && whole p.2

/-- A pass of a MATMUL's accumulation has ended: the last one counts for the run, an earlier one is a window retry (R32). -/
def Dev.noteAcc (d : Dev) (c : Nat) (pairs : List (List Byte × List Byte)) (last : Bool) : Dev :=
  if (d.core c).pipe.isEmpty then d
  else d.setTrack 0 c fun t =>
    if last then t.accumulate (accMacs pairs) (accSteps pairs) (accFmts pairs) (accCovered pairs) else { t with ok := false }

/-- A pass of the accumulation in progress ends (R128, R129, R131): ACC_RANGE, another pass after moved windows, or a final pass. -/
def Dev.accPass (d : Dev) (c : Nat) : Dev :=
  match (d.core c).passing with
  | none => d
  | some a =>
    let lpos := if a.placed then a.lpos else placeAll a.pairs
    let retry := if a.placed then a.retry else [0, 0, 0, 0]
    let again := decide (retry ≠ [0, 0, 0, 0])
    let d := if again then d.setCore c fun s => { s with retrySteps := s.retrySteps + accSteps a.pairs } else d
    match passEnd a.pairs lpos retry with
    | .range i j =>
      let h : HaltInfo := { reason := rAccRange, unit := 1, d0 := i + j * 2 ^ 8 + 4 * 2 ^ 16 }
      if (d.core c).pipe.isEmpty then d.haltEng c .mx h
      else d.haltJob c ((d.core c).pipe.findIdx fun j => j.acc.cells.isNone) h
    | .again l r => (d.setCore c fun s => s.setPass fun a => { a with lpos := l, retry := r, placed := true }).noteAcc c a.pairs false
    | .done cs =>
      (d.setCore c fun s => s.setPass fun a => { a with lpos := lpos, retry := retry, placed := true, cells := some cs }).noteAcc c a.pairs true

/-- R128: ACC_PASS_END. -/
def execAccPassEnd (core : Nat) (s : State) : Host.Outcome State Fault Refusal := s.onDev fun d => d.accPass core

/-! ## The drain: exact values, ranking and log-sum-exp -/

/-- The exact drained value of a cell (R137). -/
def Cell.value (c : Cell) (l : Int) : Fl :=
  match c.special with
  | 1 => .nan
  | 2 => .inf false
  | 3 => .inf true
  | _ => Fl.ofInt c.v l

/-- The cells of a finished accumulation by position. -/
def AccSt.cellAt (a : AccSt) (cols r c : Nat) : Cell := (a.cells.getD []).getD (r * cols + c) ⟨0, 0, 0⟩

/-- The drained value at a position. -/
def AccSt.valueAt (a : AccSt) (cols r c : Nat) : Fl := (a.cellAt cols r c).value (a.lpos.getD (blockOf r c) 0)

/-- The residue check of R135: the first failing cell in drain order with its residues. -/
def AccSt.residueFail (a : AccSt) (rows cols : Nat) : Option (Nat × Nat × Nat × Nat) :=
  (validCells rows cols).findSome? fun p =>
    let x := a.cellAt cols p.1 p.2
    if x.special = 0 && x.rho ≠ res255 x.v then some (x.rho, res255 x.v, p.1, p.2) else none

/-- The RESIDUE_FAIL halt of MX (R107, R135), with its record. -/
def Dev.residueHalt (d : Dev) (c : Nat) (r : Nat × Nat × Nat × Nat) (inj : Bool) : HaltInfo × Dev :=
  let det := detId 0x12 (d.trust.lmap.getD c 0)
  let d0 := r.1 + r.2.1 * 2 ^ 8 + r.2.2.1 * 2 ^ 16 + r.2.2.2 * 2 ^ 24
  let d := d.detect det 2 inj none d0 0 0
  ({ reason := rResidue, unit := 1, d0 := d0, injected := inj, first := some d.er.seq }, d)

/-- The residue check of a drain, with the injection point MX_RESIDUE (R135, R136, R576): the halt, if it fails. -/
def Dev.checkResidue (d : Dev) (c : Nat) (a : AccSt) : Option HaltInfo × Dev :=
  let sh := accShape a.pairs
  match a.residueFail sh.1 sh.2 with
  | some r => let x := d.residueHalt c r false; (some x.1, x.2)
  | none =>
    let (m, d) := d.mimic (detId 0x12 (d.trust.lmap.getD c 0))
    if m then
      let x := a.cellAt sh.2 0 0
      let y := d.residueHalt c (x.rho, x.rho, 0, 0) true
      (some y.1, y.2)
    else (none, d)

/-- A value as ranked (R143): kind 0 finite, 1 +Inf, 2 −Inf, 3 NaN. -/
def rankedOf (x : Fl) (pos : Nat) : Ranked :=
  match x with
  | .nan => ⟨3, false, 0, 0, pos⟩
  | .inf neg => ⟨if neg then 2 else 1, neg, 0, 0, pos⟩
  | .fin neg m e => ⟨0, neg, m, e, pos⟩

/-- The value of a ranked score. -/
def Ranked.value (r : Ranked) : Fl :=
  match r.kind with
  | 0 => .fin r.neg r.m r.e
  | 1 => .inf false
  | 2 => .inf true
  | _ => .nan

/-- Whether one score ranks before another (R143). -/
def Ranked.before (a b : Ranked) : Bool :=
  let cls (r : Ranked) : Nat := match r.kind with | 1 => 0 | 0 => 1 | 2 => 2 | _ => 3
  if cls a ≠ cls b then decide (cls a < cls b)
  else if a.kind = 0 then
    let k := Fl.cmp a.value b.value
    if k > 0 then true else if k < 0 then false else decide (a.pos < b.pos)
  else decide (a.pos < b.pos)

/-- Insertion into a ranking. -/
def insertRank (x : Ranked) : List Ranked → List Ranked
  | [] => [x]
  | y :: ys => if y.before x then y :: insertRank x ys else x :: y :: ys

/-- The k best of a row after a tile's values (R143). -/
def rankRow (k : Nat) (best : List Ranked) (base : Nat) (xs : List Fl) : List Ranked :=
  (List.range xs.length).foldl (fun l i => (insertRank (rankedOf (xs.getD i .nan) (base + i)) l).take k) best

/-- Sums of neighbours, one level of the tree of R145. -/
def pairSums : List Word32 → List Word32
  | a :: b :: rest => add32 a b :: pairSums rest
  | l => l

/-- The fixed tree of five levels over 32 values (R145). -/
def treeSum (xs : List Word32) : Word32 := (pairSums (pairSums (pairSums (pairSums (pairSums xs))))).headD 0

/-- −Infinity in FP32. -/
def negInf32 : Word32 := 0xFF800000#32
/-- +Infinity in FP32. -/
def posInf32 : Word32 := 0x7F800000#32
/-- The canonical NaN of FP32. -/
def nan32 : Word32 := 0x7FC00000#32

/-- The larger of two FP32 values that are not NaN. -/
def max32 (a b : Word32) : Word32 := if Fl.lt (f32 a) (f32 b) then b else a

/-- The log-sum-exp state of a row after a tile's values (R145, R146). A tile that leaves the maximum at −Inf adds nothing. -/
def SpanRow.lse (r : SpanRow) (xs : List Fl) : SpanRow :=
  let ws := xs.map toF32
  let nan := ws.any fun w => (f32 w).isNan
  let pinf := ws.any fun w => w == posInf32
  let others := ws.any fun w => w != negInf32
  if nan || pinf || r.nan || r.posInf then
    { r with nan := r.nan || nan, posInf := r.posInf || pinf, allNegInf := r.allNegInf && !others }
  else
    let mt := ws.foldl max32 negInf32
    let m2 := max32 r.m mt
    if m2 = negInf32 then r
    else
      let st := treeSum ((ws.map fun w => exp32 (sub32 w m2)) ++ List.replicate (32 - ws.length) 0)
      { r with m := m2, s := add32 (mul32 r.s (exp32 (sub32 r.m m2))) st, allNegInf := r.allNegInf && !others }

/-- The result of a row (R145, R146). -/
def SpanRow.lseResult (r : SpanRow) : Word32 :=
  if r.nan then nan32 else if r.posInf then posInf32 else if r.allNegInf then negInf32 else add32 r.m (log32 r.s)

/-- A row of a span after the values of one more tile (R143, R145). -/
def SpanSt.row (sp : SpanSt) (r : SpanRow) (xs : List Fl) : SpanRow :=
  let r := if sp.withLse then r.lse xs else r
  if sp.lseOnly then r else { r with best := rankRow sp.k r.best (32 * (sp.next - 1)) xs }

/-- The span after one more drained tile (R142, R143, R145). Its tiles will carry the epoch of the newest (R144). -/
def spanStep (s : Option SpanSt) (kind : DrainKind) (rows cols epoch : Nat) (val : Nat → Nat → Fl) : Option SpanSt :=
  match kind with
  | .plain => s
  | _ => (spanMove s kind rows cols).map fun sp =>
    let xs (i : Nat) : List Fl := (List.range cols).map fun c => val i c
    { sp with epoch := epoch,
              rows := (List.range sp.rows.length).map fun i => sp.row (sp.rows.getD i SpanRow.empty) (xs i) }

/-- The values tile of a finished span (R144). -/
def SpanSt.valuesTile (s : SpanSt) : List Byte :=
  (convTile .fp32 s.aRows s.k s.epoch (.fixed 0x7F) (fun _ _ => .nearest) false fun r j =>
    (((s.rows.getD r SpanRow.empty).best[j]?).map Ranked.value).getD .nan).tile

/-- The positions tile of a finished span (R144). -/
def SpanSt.posTile (s : SpanSt) : List Byte :=
  mkTile .int32 s.aRows s.k ⟨false, false, false, false⟩ [] s.epoch fun r j =>
    (((s.rows.getD r SpanRow.empty).best[j]?).map (·.pos)).getD 0

/-- The log-sum-exp tile of a finished span (R147). -/
def SpanSt.lseTile (s : SpanSt) : List Byte :=
  f32Tile s.aRows 1 s.epoch false false fun r _ => (s.rows.getD r SpanRow.empty).lseResult

/-- The tiles that a span emits after its last tile, in push order (R144, R147). -/
def spanTiles (s : Option SpanSt) (kind : DrainKind) : List (Nat × List Byte) :=
  match s, kind with
  | some sp, .topk _ span pos lse qv qp ql =>
    if pos + 1 = span then
      [(qv, sp.valuesTile), (qp, sp.posTile)] ++ if lse then [(ql, sp.lseTile)] else []
    else []
  | some sp, .lse span pos ql => if pos + 1 = span then [(ql, sp.lseTile)] else []
  | _, _ => []

/-- The conversion of a drained tile, with the report to its entry (R137, R138, R156, R163): the tile, or the halt. Only a scaled
output takes its scales from the entry; the entry of an unscaled one is only reported to. -/
def Dev.drainConvert (d : Dev) (c : Nat) (f : Fmt) (entry : Option ScaleRef) (rows cols epoch retry : Nat)
    (val : Nat → Nat → Fl) : Except HaltInfo (List Byte) × Dev :=
  let conv (rule : ScaleRule) : TileConv := convTile f rows cols epoch rule (fun _ _ => .nearest) false val
  match entry with
  | none => (.ok (conv (.fixed 0x7F)).tile, d)
  | some ref =>
    match (if fmtScaled f then d.lookupScale (reqCore c) ref else (.ok (.fixed 0x7F), d)) with
    | (.error e, d) => (.error (d.entryHalt .mx 4 e), d)
    | (.ok rule, d) =>
      let twice := match rule with | .actual .. => true | _ => false
      let d := if twice then d.setCore c fun s => { s with retrySteps := s.retrySteps + 16 } else d
      let r := conv rule
      match d.reportScale (reqCore c) ref r.amax r.sat retry with
      | (.error e, d) => (.error (d.entryHalt .mx 4 e), d)
      | (.ok _, d) => (.ok r.tile, d)

/-- The product tile of a drained MATMUL for its output queue, or the report alone where that is NONE (R138, R141). -/
def Dev.productTile (d : Dev) (c : Nat) (m : MatmulArgs) (a : AccSt) (epoch : Nat) : Except HaltInfo (List (Nat × List Byte)) × Dev :=
  let sh := accShape a.pairs
  match m.out with
  | none =>
    match (if m.entry.isSome then d.drainConvert c .fp32 m.entry sh.1 sh.2 epoch a.retry.sum (a.valueAt sh.2) else (.ok [], d)) with
    | (.error h, d) => (.error h, d)
    | (.ok _, d) => (.ok [], d)
  | some q =>
    match d.drainConvert c m.outFmt m.entry sh.1 sh.2 epoch a.retry.sum (a.valueAt sh.2) with
    | (.error h, d) => (.error h, d)
    | (.ok t, d) => (.ok [(q, t)], d)

/-- The drain of the oldest MATMUL, MATMUL_TOPK or MATMUL_LSE of the pipe (R137 to R150). Its bank stays occupied until its tiles are
pushed (R139). -/
def Dev.drainMatmul (d : Dev) (c : Nat) (a : AccSt) (m : MatmulArgs) : Dev :=
  match d.checkResidue c a with
  | (some h, d) => d.haltJob c 0 h
  | (none, d) =>
    let sh := accShape a.pairs
    let epoch := (a.pairs.head?.map fun p => tileEpoch p.1).getD 0
    let span := spanStep (d.core c).span m.kind sh.1 sh.2 epoch (a.valueAt sh.2)
    match d.productTile c m a epoch with
    | (.error h, d) => d.haltJob c 0 h
    | (.ok outs, d) =>
      (d.setCore c fun s => { s with span := if spanEnds m.kind then none else span }).commitJob c (outs ++ spanTiles span m.kind)

end Sys2Proof.Machine
end

