-- ==== Sys2Proof/Machine/Groups.lean ====
section
/-! DEFINITION. Parameter groups (R311, R312), their version buffers (R264, R355), and the placement engine: the Well, die and core
group of an expert (R355, R356, R358) and hot-expert copies (R359 to R361). -/

namespace Sys2Proof.Machine

open Sys2Proof

/-! ## Group records -/

/-- A field of a group record written by the device. -/
def Dev.setGField (d : Dev) (g o n v : Nat) : Dev := d.write (d.groupAddr g + o) (leBytes n v)

/-- The Well of an expert of a group as placed (R355). -/
def Dev.expertWell? (d : Dev) (g e : Nat) : Option Nat :=
  (d.place.expertWell.find? fun x => x.1 == g && x.2.1 == e).map (·.2.2)

/-- The Well of tile `t` of a group's tensor in a version buffer (R355): the expert's, or a rotation in runs of 64 tiles. -/
def Dev.versionWell (d : Dev) (g : Nat) (p : Pool) (t : Nat) : Nat :=
  if d.gExperts g = 0 then
    let ms := p.wells d.grade
    ms.getD (t / 64 % max 1 ms.length) 0
  else (d.expertWell? g (t / max 1 (d.gTiles g))).getD 0

/-- The first tile of each extent of a version buffer: of the master tiles, then of the compute copy, which has extents of its own, so
that tile i of the copy can lie whole beside tile i of the master as R345 asks (DESIGN CHOICE, log entry 100). -/
def Dev.versionFirsts (d : Dev) (g : Nat) (p : Pool) : List Nat :=
  let part (f : Fmt) : List Nat :=
    let eb := p.extent (some f)
    (List.range (ceilDiv (d.gUnits g * d.gTiles g * tileTotal f) (max 1 eb))).map fun i => i * eb / tileTotal f
  part (d.masterFmt g) ++ if d.hasCopy g then part (d.computeFmt g) else []

/-- The extents of a new version buffer by their first tiles, or none without room. -/
def Dev.versionExtents (d : Dev) (g : Nat) (p : Pool) : List Nat → List Nat → Option (List Nat)
  | [], acc => some acc.reverse
  | t :: ts, acc =>
    match d.depot.freePage p (d.versionWell g p t) acc with
    | none => none
    | some a => d.versionExtents g p ts (a :: acc)

/-- A new version buffer of a group from its pool (R266, R312). -/
def Dev.allocVersion (d : Dev) (g : Nat) : Option (Buf × Dev) :=
  match d.pool (d.gField g 120 1), d.depot.freeSlot with
  | some p, some slot =>
    let f := d.masterFmt g
    let part2 := if d.hasCopy g then some (d.masterBytes g, p.extent (some (d.computeFmt g))) else none
    (d.versionExtents g p (d.versionFirsts g p) []).map fun es =>
      let b : Buf := { slot := slot, pool := p.num, kind := 2, gen := d.depot.gen slot, bytes := d.versionBytes g, fmt := some f,
                       k0 := 0, eb := p.extent (some f), extents := es, refs := 1, torn := false, tornTiles := 0, part2 := part2 }
      (b, d.addBuf b)
  | _, _ => none

/-! ## Versions -/

/-- The live version of a group by number (R264). -/
def Dev.version? (d : Dev) (g num : Nat) : Option Version := d.wells.versions.find? fun v => v.group == g && v.num == num

/-- CUR_VERSION of a group. -/
def Dev.curNum (d : Dev) (g : Nat) : Nat := d.gField g 64 4

/-- The current version. -/
def Dev.curVersion (d : Dev) (g : Nat) : Option Version := d.version? g (d.curNum g)

/-- The live versions of a group (R267). -/
def Dev.liveVersions (d : Dev) (g : Nat) : List Version := d.wells.versions.filter fun v => v.group == g

/-- A version's count raised by one. -/
def Dev.takeVersion (d : Dev) (g num : Nat) : Dev :=
  let up (v : Version) : Version := if v.group == g && v.num == num then { v with count := v.count + 1 } else v
  { d with wells := { d.wells with versions := d.wells.versions.map up } }

/-- A version's count lowered by one; at zero it is freed with its buffer and its replicas (R264, R360). -/
def Dev.dropVersion (d : Dev) (g num : Nat) : Dev :=
  match d.version? g num with
  | none => d
  | some v =>
    if v.count ≤ 1 then
      let d := { d with wells := { d.wells with versions := d.wells.versions.filter fun x => !(x.group == g && x.num == num) } }
      let reps := (d.place.replicas.filter fun r => r.vslot == v.slot).map (·.slot)
      (reps.foldl (fun d s => d.dropReplica s) d).release v.slot
    else
      let down (x : Version) : Version := if x.group == g && x.num == num then { x with count := x.count - 1 } else x
      { d with wells := { d.wells with versions := d.wells.versions.map down } }

/-! ## Placement -/

/-- The expert group of a routed layer: one of the job's expert groups, by the free value. -/
def Dev.layerGroup (d : Dev) (layer : Nat) : Option Nat :=
  let gs := (d.place.expertWell.map (·.1)).eraseDups
  gs[Config.layerGroup layer % max 1 gs.length]?

/-- The last override entry that names an expert of a group and holds a test (R358). -/
def Dev.overrideOf (d : Dev) (g e : Nat) (p : Nat × Nat × Nat × Nat × Bool → Bool) : Option (Nat × Nat × Nat × Nat × Bool) :=
  (d.place.overrides.filter fun o => o.1 == g && (o.2.1 == e || o.2.1 == 0xFFFF) && p o).getLast?

/-- The die of a local expert of a layer (R356), and the core group of its work items (R356, R358). Without an expert group
both follow the core that dispatches. -/
def Dev.expertPlace (d : Dev) (layer e core : Nat) : Nat × Nat :=
  let g := d.layerGroup layer
  let die := match g.bind fun g => d.expertWell? g e with
    | some w => dieOfWell w
    | none => dieOfCore d.grade core
  let per := coresPerDie d.grade / 8
  let dflt := die * per + e % per
  let grp := match g.bind fun g => d.overrideOf g e fun o => o.2.2.2.1 != 0xFF with
    | some o => o.2.2.2.1
    | none => dflt
  (die, grp)

/-- The range of a version buffer that a replica of an expert copies (R359). -/
def Dev.replicaRange (d : Dev) (g e : Nat) : Nat × Nat :=
  if d.hasCopy g then
    let n := d.gTiles g * tileTotal (d.computeFmt g)
    (d.masterBytes g + e * n, n)
  else
    let n := d.gTiles g * tileTotal (d.masterFmt g)
    (e * n, n)

/-- Bytes of replicas in a Well. -/
def Dev.replicaBytes (d : Dev) (w : Nat) : Nat := ((d.place.replicas.filter fun r => r.well == w).map (·.len)).sum

/-- The present Well of a die with the fewest replica bytes, the lowest on a tie (R359). -/
def Dev.replicaWell (d : Dev) (die : Nat) : Nat :=
  let ws := (presentWells d.grade).filter fun w => dieOfWell w == die
  ws.foldl (fun best w => if d.replicaBytes w < d.replicaBytes best then w else best) (ws.headD 0)

/-- A replica refused (R359). -/
def Dev.denyReplica (d : Dev) : Dev := { d with place := { d.place with denied := sat32 (d.place.denied + 1) } }

/-- A replica of the current version of an expert starts (R359). -/
def Dev.startReplica (d : Dev) (g e : Nat) : Dev :=
  match d.curVersion g, d.pool 254, d.expertWell? g e with
  | some v, some p, some home =>
    if d.place.replicas.length ≥ d.place.hotMax.toNat then d.denyReplica
    else
      let w := d.replicaWell (1 - dieOfWell home)
      let r := d.replicaRange g e
      let f := if d.hasCopy g then d.computeFmt g else d.masterFmt g
      match d.allocIn p r.2 3 (some f) (some 0) w with
      | none => d.denyReplica
      | some (b, d) =>
        { d with place := { d.place with replicas := d.place.replicas ++
          [{ slot := b.slot, vslot := v.slot, lo := r.1, len := r.2, group := g, expert := e, version := v.num, well := w,
             complete := false, coldRounds := 0 }] } }
  | _, _, _ => d.denyReplica

/-- The copy into a replica completes (R360); a copy whose source cannot be read leaves no replica. -/
def Dev.replicaDone (d : Dev) (slot : Nat) : Dev :=
  match d.place.replicas.find? fun r => r.slot == slot && !r.complete with
  | none => d
  | some r =>
    match d.depot.buf r.vslot, d.depot.buf r.slot with
    | some v, some b =>
      match d.readPieces reqFirmware (v.pieces r.lo r.len) with
      | (none, d) => d.dropReplica slot
      | (some bs, d) =>
        let d := d.writePieces (b.pieces 0 r.len) bs
        let done (x : Replica) : Replica := if x.slot == slot then { x with complete := true } else x
        { d with place := { d.place with replicas := d.place.replicas.map done } }
    | _, _ => d.dropReplica slot

/-- R360: REPLICA_COPY_DONE. -/
def execReplicaCopyDone (slot : Nat) (s : State) : Host.Outcome State Fault Refusal := s.onDev fun d => d.replicaDone slot

/-- One expert evaluated after a dispatch round (R359, R361). -/
def Dev.evalExpert (d : Dev) (g : Nat) (sums : List Nat) (e : Nat) : Dev :=
  let mine (r : Replica) : Bool := r.group == g && r.expert == e
  let hot := decide (sums.getD e 0 * 16 * sums.length > d.place.hotRatio.toNat * sums.sum)
  let noHot := (d.overrideOf g e fun _ => true).elim false (·.2.2.2.2)
  if hot && !noHot then
    if d.place.replicas.any mine then
      let warm (r : Replica) : Replica := if mine r then { r with coldRounds := 0 } else r
      { d with place := { d.place with replicas := d.place.replicas.map warm } }
    else if wbit d.place.ctrl 0 then d.startReplica g e
    else d
  else
    let cool (r : Replica) : Replica := if mine r then { r with coldRounds := r.coldRounds + 1 } else r
    let d := { d with place := { d.place with replicas := d.place.replicas.map cool } }
    let cold := (d.place.replicas.filter fun r => mine r && r.coldRounds ≥ 4 * d.place.hotWindow.toNat).map (·.slot)
    cold.foldl (fun d s => d.dropReplica s) d

/-- What follows a forward dispatch's arrangement: `rows`, those of each local expert, enter the visit counts (R197) and the placement
engine's window (R359). -/
def Dev.afterArrange (d : Dev) (layer : Nat) (rows : List Nat) : Dev :=
  let hist := (layer, rows) :: d.place.history
  let win := ((hist.filter fun h => h.1 == layer).map (·.2)).take d.place.hotWindow.toNat
  let sums := (List.range rows.length).map fun e => (win.map fun r => r.getD e 0).sum
  let total (old : List Nat) : List Nat := (List.range (max old.length rows.length)).map fun e => old.getD e 0 + rows.getD e 0
  let before := ((d.place.visits.find? fun v => v.1 == layer).map (·.2)).getD []
  let visits := (layer, total before) :: d.place.visits.filter fun v => v.1 != layer
  let d := { d with place := { d.place with history := hist, visits := visits } }
  match d.layerGroup layer with
  | none => d
  | some g => (List.range sums.length).foldl (fun d e => d.evalExpert g sums e) d

end Sys2Proof.Machine
end

