-- ==== Sys2Proof/Machine/Vector.lean ====
section
/-! DEFINITION. The meanings of the vector engine's commands (R114): MAP, REDUCE, BROADCAST, CONVERT (R50 to R52, R571) and AMAX
(R163), in FP32 with one rounding per operation (R170). -/

namespace Sys2Proof.Machine

open Sys2Proof

/-! ## FP32 operations -/

/-- A word with a NaN turned into the canonical one (R43). -/
def canon32 (w : Word32) : Word32 := if (f32 w).isNan then nan32 else w

/-- minimum in FP32; the result is open where an input is NaN or the inputs are zeros of both signs. -/
def minOf (a b : Word32) : Word32 :=
  if Fl.lt (f32 a) (f32 b) then a else if Fl.lt (f32 b) (f32 a) then b
  else if a = b && !(f32 a).isNan then a else canon32 (Config.minNan a b)

/-- maximum in FP32. -/
def maxOf (a b : Word32) : Word32 :=
  if Fl.lt (f32 a) (f32 b) then b else if Fl.lt (f32 b) (f32 a) then a
  else if a = b && !(f32 a).isNan then a else canon32 (Config.maxNan a b)

/-- Whether a comparison holds; −0 and +0 are equal (R42), and a NaN holds in `ne` alone (IEEE 754). -/
def cmpHolds (c : Cmp) (a b : Fl) : Bool :=
  match c with
  | .lt => Fl.lt a b
  | .le => Fl.lt a b || Fl.eqv a b
  | .eq => Fl.eqv a b
  | .ne => !Fl.eqv a b
  | .gt => Fl.lt b a
  | .ge => Fl.lt b a || Fl.eqv a b

/-- A function of one operand whose values are open: NaN gives NaN. -/
def unary32 (f : Word32 → Word32) (a : Word32) : Word32 := if (f32 a).isNan then nan32 else canon32 (f a)

/-- The operands that an operation takes. -/
def mapArity : MapOp → Nat
  | .add | .sub | .mul | .min | .max | .compare _ => 2
  | .fma | .select => 3
  | _ => 1

/-- One element of MAP (R114). -/
def mapElem (op : MapOp) (xs : List Word32) : Word32 :=
  let a := xs.getD 0 0
  let b := xs.getD 1 0
  let c := xs.getD 2 0
  match op with
  | .add => add32 a b
  | .sub => sub32 a b
  | .mul => mul32 a b
  | .fma => fma32 a b c
  | .min => minOf a b
  | .max => maxOf a b
  | .compare k => canon32 (if cmpHolds k (f32 a) (f32 b) then Config.compareTrue else Config.compareFalse)
  | .select => if Config.selectTakes a then b else c
  | .exp => canon32 (exp32 a)
  | .log => canon32 (log32 a)
  | .recip => unary32 (elementary32 .recip) a
  | .rsqrt => unary32 (elementary32 .rsqrt) a
  | .tanh => unary32 (elementary32 .tanh) a
  | .sigmoid => canon32 (sigmoid32 a)
  | .silu => unary32 (elementary32 .silu) a

/-- The values of an operand's element in FP32. -/
def elem32 (t : List Byte) (r c : Nat) : Word32 := toF32 (valueAt (tileFmt t) t r c)

/-- Formats that VX takes but in CONVERT: all but INT32 (R571). -/
def vxTakes : Fmt → Bool
  | .int32 => false
  | _ => true

/-- The format of an output queue of VX. -/
def Dev.vxTail (d : Dev) (c q : Nat) : Fmt := ((d.tailIdx c .vx q).bind d.q?).elim .fp32 (·.decl.fmt)

/-- The first operand whose tile's valid shape is not that of the first operand (R114). -/
def otherShape (ts : List (List Byte)) : Option Nat :=
  match ts with
  | [] => none
  | t :: _ => ts.findIdx? fun u => !(tileRows u == tileRows t && tileCols u == tileCols t)

/-- The address of tile `j` of a source for a halt record; 0 for a queue (R104, R107). -/
def Dev.srcAddr (d : Dev) (src : TileSrc) (j : Nat) : Nat :=
  match src with
  | .queue .. => 0
  | .mem ref stride f _ => match d.tileSpan 0 ref stride f j false with | .ok s => s.addr | .error _ => 0

/-- BAD_OPERAND of VX: kind and operand position. -/
def vxBad (kind pos : Nat) : HaltInfo := { reason := rBadOperand, unit := 2, kind := kind, d0 := pos }

/-- What an output of VX needs: a format that VX writes there, and an entry for a scaled format (R153, R571). -/
def vxOutFault (f : Fmt) (entry : Option ScaleRef) (posOut posEntry : Nat) : Option HaltInfo :=
  if f = .int32 then some (vxBad 6 posOut)
  else if fmtScaled f && entry.isNone then some (vxBad 7 posEntry)
  else none

/-- A tile converted under its entry, with the report to it (R51, R52, R156, R162, R163); an unscaled tile is only reported (R46). -/
def Dev.vxConvert (d : Dev) (c pos : Nat) (f : Fmt) (entry : Option ScaleRef) (rows cols epoch : Nat)
    (rnd : Nat → Nat → Rnd) (stoch : Bool) (val : Nat → Nat → Fl) : Except HaltInfo (List Byte) × Dev :=
  let conv (rule : ScaleRule) : TileConv := convTile f rows cols epoch rule rnd stoch val
  match entry with
  | none => (.ok (conv (.fixed 0x7F)).tile, d)
  | some ref =>
    match (if fmtScaled f then d.lookupScale (reqCore c) ref else (.ok (.fixed 0x7F), d)) with
    | (.error e, d) => (.error (d.entryHalt .vx pos e), d)
    | (.ok rule, d) =>
      let r := conv rule
      match d.reportScale (reqCore c) ref r.amax r.sat 0 with
      | (.error e, d) => (.error (d.entryHalt .vx pos e), d)
      | (.ok _, d) => (.ok r.tile, d)

/-- Vector operations go into the work counts (R499). -/
def Dev.countVec (d : Dev) (c n : Nat) : Dev :=
  let die := dieOfCore d.grade c
  { d with work := { d.work with vecOps := d.work.vecOps.modify die (· + n) } }

/-- An element-wise operation on operand tiles, converted into the output format. -/
def Dev.mapTile (d : Dev) (c posEntry : Nat) (f : Fmt) (entry : Option ScaleRef) (rows cols epoch : Nat)
    (w : Nat → Nat → Word32) : Except HaltInfo (List Byte) × Dev :=
  (d.countVec c (rows * cols)).vxConvert c posEntry f entry rows cols epoch (fun _ _ => .nearest) false fun r k => f32 (w r k)

/-- The output tiles of MAP, one after another; `ins` holds the tiles of each operand. -/
def Dev.mapTiles (d : Dev) (c : Nat) (op : MapOp) (f : Fmt) (entry : Option ScaleRef) (src : List TileSrc)
    (ins : List (List (List Byte))) (j : Nat) :
    Nat → Except HaltInfo (List (List Byte)) × Dev
  | 0 => (.ok [], d)
  | n + 1 =>
    let ts := ins.map fun l => l.getD j []
    let t := ts.headD []
    match otherShape ts with
    | some i => (.error { vxBad 7 i with address := d.srcAddr (src.getD i (.queue 0 false false)) j }, d)
    | none => match d.mapTile c (ins.length + 1) f entry (tileRows t) (tileCols t) (tileEpoch t)
        fun r k => mapElem op (ts.map fun x => elem32 x r k) with
      | (.error h, d) => (.error h, d)
      | (.ok o, d) =>
        match d.mapTiles c op f entry src ins (j + 1) n with
        | (.error h, d) => (.error h, d)
        | (.ok os, d) => (.ok (o :: os), d)

/-! ## The meanings -/

/-- The running VX command's operands read and what its work makes of them: the tiles for each queue, or a halt. -/
def Dev.runVx (d : Dev) (c : Nat) (q : QCmd) (fault : Option HaltInfo) (os : List Operand)
    (work : Dev → List (List (List Byte)) → Except HaltInfo (List (Nat × List Byte)) × Dev) : Dev :=
  match fault with
  | some h => d.haltEng c .vx h
  | none =>
    match d.gather c .vx os [] with
    | .wait d => d
    | .tiles ts d =>
      match work d ts with
      | (.error h, d) => d.haltEng c .vx h
      | (.ok outs, d) => d.commit c .vx (opPops q.cmd.op) outs

/-- MAP of the running command. -/
def Dev.runMap (d : Dev) (c : Nat) : Dev :=
  match d.fresh? c .vx with
  | none => d
  | some q =>
    match q.cmd.op with
    | .map op ins out entry n =>
      let f := d.vxTail c out
      let k := ins.length
      let fault := if k ≠ mapArity op || n = 0 then some (vxBad 7 0) else vxOutFault f entry k (k + 1)
      let os := (List.range k).map fun i =>
        ({ src := ins.getD i (.queue 64 false false), n := n, pos := i, accept := vxTakes } : Operand)
      d.runVx c q fault os fun d ts =>
        match d.mapTiles c op f entry ins ts 0 n with
        | (.error h, d) => (.error h, d)
        | (.ok os, d) => (.ok (os.map fun t => (out, t)), d)
    | _ => d

/-- R114: MAP. -/
def execMap (core : Nat) (s : State) : Host.Outcome State Fault Refusal := s.onDev fun d => d.runMap core

/-- A sum of FP32 values in index order, by halves cut where the free value says. -/
def sumSplit : Nat → List Word32 → Word32
  | 0, xs => xs.headD 0
  | fuel + 1, xs =>
    if xs.length ≤ 1 then xs.headD 0
    else
      let k := 1 + Config.reduceSplit xs.length % (xs.length - 1)
      add32 (sumSplit fuel (xs.take k)) (sumSplit fuel (xs.drop k))

/-- One reduction over the valid elements of a row or column (R39, R114). -/
def reduceVals (op : RedOp) (xs : List Word32) : Word32 :=
  match op with
  | .sum => sumSplit xs.length xs
  | .sumsq => sumSplit xs.length (xs.map fun x => mul32 x x)
  | .max => xs.tail.foldl maxOf (xs.headD 0)
  | .min => xs.tail.foldl minOf (xs.headD 0)

/-- The tile of a reduction: one column, or one row (R39, R114). -/
def reduceTile (op : RedOp) (alongRows : Bool) (t : List Byte) : List Byte :=
  let rows := tileRows t
  let cols := tileCols t
  let at_ (i : Nat) : Word32 :=
    if alongRows then reduceVals op ((List.range cols).map fun c => elem32 t i c)
    else reduceVals op ((List.range rows).map fun r => elem32 t r i)
  if alongRows then f32Tile rows 1 (tileEpoch t) false false fun r _ => at_ r
  else f32Tile 1 cols (tileEpoch t) false false fun _ c => at_ c

/-- REDUCE of the running command. -/
def Dev.runReduce (d : Dev) (c : Nat) : Dev :=
  match d.fresh? c .vx with
  | none => d
  | some q =>
    match q.cmd.op with
    | .reduce op along src out =>
      let fault := if d.vxTail c out = .fp32 then none else some (vxBad 6 2)
      d.runVx c q fault [{ src := src, n := 1, pos := 0, accept := vxTakes }] fun d ts =>
        let t := ts.flatten.headD []
        (.ok [(out, reduceTile op along t)], d.countVec c (tileRows t * tileCols t))
    | _ => d

/-- R114: REDUCE. -/
def execReduce (core : Nat) (s : State) : Host.Outcome State Fault Refusal := s.onDev fun d => d.runReduce core

/-- The element of the vector that goes with (r, c): of a column vector when it has one column and the tile's rows, of a row
vector when it has one row and the tile's columns; none otherwise. -/
def vectorAt (t v : List Byte) : Option (Nat → Nat → Word32) :=
  if tileCols v = 1 && tileRows v = tileRows t then some fun r _ => elem32 v r 0
  else if tileRows v = 1 && tileCols v = tileCols t then some fun _ c => elem32 v 0 c
  else none

/-- BROADCAST of the running command. -/
def Dev.runBroadcast (d : Dev) (c : Nat) : Dev :=
  match d.fresh? c .vx with
  | none => d
  | some q =>
    match q.cmd.op with
    | .broadcast op tile vec out entry =>
      let f := d.vxTail c out
      let fault := if mapArity op ≠ 2 then some (vxBad 7 2) else vxOutFault f entry 3 4
      let os : List Operand := [{ src := tile, n := 1, pos := 0, accept := vxTakes }, { src := vec, n := 1, pos := 1, accept := vxTakes }]
      d.runVx c q fault os fun d ts =>
        let t := ts.flatten.getD 0 []
        match vectorAt t (ts.flatten.getD 1 []) with
        | none => (.error { vxBad 7 1 with address := d.srcAddr vec 0 }, d)
        | some v =>
          match d.mapTile c 4 f entry (tileRows t) (tileCols t) (tileEpoch t) fun r k => mapElem op [elem32 t r k, v r k] with
          | (.error h, d) => (.error h, d)
          | (.ok o, d) => (.ok [(out, o)], d)
    | _ => d

/-- R114: BROADCAST. -/
def execBroadcast (core : Nat) (s : State) : Host.Outcome State Fault Refusal := s.onDev fun d => d.runBroadcast core

/-- The 64-bit seed of stochastic rounding (R169). -/
def Dev.seed (d : Dev) : Word64 := BitVec.ofNat 64 (d.scale.seedLo.toNat + d.scale.seedHi.toNat * 2 ^ 32)

/-- CONVERT of the running command. -/
def Dev.runConvert (d : Dev) (c : Nat) : Dev :=
  match d.fresh? c .vx with
  | none => d
  | some q =>
    match q.cmd.op with
    | .convert src out f entry stoch ordinal =>
      let fault :=
        if d.vxTail c out ≠ f then some (vxBad 6 4)
        else if fmtScaled f && entry.isNone then some (vxBad 7 2)
        else none
      let rnd (r k : Nat) : Rnd :=
        if stoch then .stoch (rand16 d.seed (entry.elim Config.noEntryStream (·.idx)) (entry.elim 0 (·.iter))
          (1024 * ordinal + 32 * r + k))
        else .nearest
      d.runVx c q fault [{ src := src, n := 1, pos := 0, accept := fun _ => true }] fun d ts =>
        let t := ts.flatten.headD []
        match d.vxConvert c 2 f entry (tileRows t) (tileCols t) (tileEpoch t) rnd stoch (valueAt (tileFmt t) t) with
        | (.error h, d) => (.error h, d)
        | (.ok o, d) => (.ok [(out, o)], d)
    | _ => d

/-- R51: CONVERT. -/
def execConvert (core : Nat) (s : State) : Host.Outcome State Fault Refusal := s.onDev fun d => d.runConvert core

/-- AMAX of the running command: a report without a tile (R163). -/
def Dev.runAmax (d : Dev) (c : Nat) : Dev :=
  match d.fresh? c .vx with
  | none => d
  | some q =>
    match q.cmd.op with
    | .amax src entry =>
      d.runVx c q none [{ src := src, n := 1, pos := 0, accept := vxTakes }] fun d ts =>
        let t := ts.flatten.headD []
        let a := maxAbs ((validCells (tileRows t) (tileCols t)).map fun p => valueAt (tileFmt t) t p.1 p.2)
        match d.reportScale (reqCore c) entry a 0 0 with
        | (.error e, d) => (.error (d.entryHalt .vx 1 e), d)
        | (.ok _, d) => (.ok [], d)
    | _ => d

/-- R163: AMAX. -/
def execAmax (core : Nat) (s : State) : Host.Outcome State Fault Refusal := s.onDev fun d => d.runAmax core

end Sys2Proof.Machine
end

