-- ==== Sys2Proof/Machine/Gate.lean ====
section
/-! DEFINITION. The gate station: routing tables (R185), reservations of tag entries (R227 to R229), choices and weights (R181 to
R184), admission and renormalization (R191 to R195), the choice array and round summary (R199, R200), requests and grants of
NEGOTIATED (R217), and the meanings of GATE and DRAIN_END. -/

namespace Sys2Proof.Machine

open Sys2Proof

/-! ## Rounds -/

/-- BZ_TAG_LIMIT and BZ_ROUND_LIMIT (R227, R229). -/
def tagLimit : Nat := 65536
def roundLimit : Nat := 64

/-- Whether a reservation fits and a round of its direction may open (R227, R229). -/
def Dev.bzRoom (d : Dev) (bwd : Bool) (need : Nat) : Bool :=
  decide (d.bz.tagsInUse + need ≤ tagLimit) && decide ((d.bz.rounds.filter fun r => r.bwd == bwd).length < roundLimit)

/-- A round opens with its entries (R227, R229). -/
def Dev.openRound (d : Dev) (r : Round) : Dev :=
  let bz := { d.bz with rounds := d.bz.rounds ++ [r] }
  { d with bz := { bz with tagsPeak := max bz.tagsPeak bz.tagsInUse } }

/-- A bit of BZ_ERR set (R237). -/
def Dev.bzErr (d : Dev) (m : Nat) : Dev := { d with bz := { d.bz with err := wset d.bz.err m } }

/-- ENGINE_ABSENT of a disabled Bazaar (R237). -/
def bzAbsent (u : EngUnit) : HaltInfo := { reason := rEngineAbsent, unit := u.code, kind := 5 }

/-- An entry of a routing table (R185): capacity in rows, OWNER, LOCAL; or the kind of the halt. -/
def Dev.routeEntry (d : Dev) (w : Nat) : Except Nat (Nat × Nat × Nat) :=
  if bits w 15 11 ≠ 0 || bits w 31 29 ≠ 0 || bits w 63 44 ≠ 0 then .error 4
  else if !d.rankValid (bits w 28 16) then .error 9
  else .ok (32 * bits w 10 0, bits w 28 16, bits w 43 32)

/-- The routing table of a layer read (R185), for an operand position. -/
def Dev.readRoute (d : Dev) (r : Reader) (pos addr n : Nat) : Except HaltInfo (List (Nat × Nat × Nat)) × Dev :=
  if !inJobMem d.grade addr (8 * n) then (.error { reason := rBadOperand, unit := 0, kind := 9, address := addr, d0 := pos }, d)
  else match d.readUnit r addr (8 * n) with
    | (none, d) => (.error (d.busHalt .cc addr), d)
    | (some bs, d) =>
      ((List.range n).foldl (fun (e : Except HaltInfo (List (Nat × Nat × Nat))) i => e.bind fun es =>
        match d.routeEntry (fieldAt bs (8 * i) 8) with
        | .error k => .error { reason := rBadOperand, unit := 0, kind := k, address := addr + 8 * i, d0 := pos }
        | .ok x => .ok (es ++ [x])) (.ok []), d)

/-- The ranks of the members of an exchange group or a collective, each in the job (R208, R272, R372). -/
def Dev.readRanks (d : Dev) (r : Reader) (pos addr n : Nat) : Except HaltInfo (List Nat) × Dev :=
  if !inJobMem d.grade addr (2 * n) then (.error { reason := rBadOperand, unit := 0, kind := 9, address := addr, d0 := pos }, d)
  else match d.readUnit r addr (2 * n) with
    | (none, d) => (.error (d.busHalt .cc addr), d)
    | (some bs, d) =>
      let rs := (List.range n).map fun i => fieldAt bs (2 * i) 2
      (if rs.all d.rankValid then .ok rs else .error { badShape pos with address := addr }, d)

/-- A message of a round leaves for another member, over the bridge where its next port lies on the other die (R22, R215). -/
def Dev.bzSend (d : Dev) (core kind phase : Nat) (f : Fmt) (layer mb dst epoch hTiles : Nat) (body : List Byte) : Dev :=
  match d.crossPort (dieOfCore d.grade core) with
  | (false, d) => d
  | (true, d) => d.sendBz core kind phase (fmtCode f) layer mb dst epoch hTiles body

/-- The local experts of a rank in a layer: one more than its largest LOCAL. -/
def localCount (route : List (Nat × Nat × Nat)) (rank : Nat) : Nat :=
  (route.filter fun x => x.2.1 == rank).foldl (fun n x => max n (x.2.2 + 1)) 0

/-- The capacity in rows of a rank's local expert. -/
def localCap (route : List (Nat × Nat × Nat)) (rank e : Nat) : Nat :=
  (route.find? fun x => x.2.1 == rank && x.2.2 == e).elim 0 (·.1)

/-- The expert index of a rank's local expert. -/
def localExpert (route : List (Nat × Nat × Nat)) (rank e : Nat) : Nat :=
  (route.findIdx? fun x => x.2.1 == rank && x.2.2 == e).getD 0

/-- A reservation by its number in the station program (R96, R208). -/
def Dev.reservation (d : Dev) (i : Nat) : Option Reservation := (d.job.map (·.prog.reservations)).bind fun l => l[i]?

/-- The reservation that the station program declares for a layer (R96, R98). -/
def Dev.layerReservation (d : Dev) (layer : Nat) : Option Nat :=
  (d.job.map (·.prog.reservations)).bind fun l => l.findIdx? fun v => v.layer == layer

/-- C of a local expert in a round (R194): the routing capacity, or the smaller reserved one. -/
def Dev.roundCap (d : Dev) (r : Round) (res : Option Nat) (e : Nat) : Nat :=
  let cap := localCap r.route d.fx.rankSelf e
  match res.bind d.reservation with
  | some v => min cap (v.caps.getD e 0)
  | none => cap

/-- A source's share of a capacity under QUOTA (R192). -/
def quota (cap s p : Nat) : Nat := cap / max 1 s + if p < cap % max 1 s then 1 else 0

/-! ## Tokens -/

/-- The raw weights of a token's choices and its NORM (R183, R199). -/
def gateWeights (fn : GateFn) (xs : List Word32) (lse : Word32) : List Word32 × Word32 :=
  match fn with
  | .softmaxAll => (xs.map fun x => exp32 (sub32 x lse), lse)
  | .softmaxTopk =>
    let es := xs.map fun x => exp32 (sub32 x (xs.headD 0))
    let den := es.tail.foldl add32 (es.headD 0)
    (es.map fun e => div32 e den, den)
  | .sigmoid => (xs.map sigmoid32, 0)

/-- Admission of a token's choices in rank order (R191, R192): `room e n` says whether the expert admits another choice after
`n`; the counts by expert move on. -/
def admitChoices (room : Nat → Nat → Bool) : List Nat → List Choice → List Nat × List Choice
  | counts, [] => (counts, [])
  | counts, c :: cs =>
    if room c.expert (counts.getD c.expert 0) then
      let r := admitChoices room (counts.modify c.expert (· + 1)) cs
      (r.1, { c with dropped := false } :: r.2)
    else
      let r := admitChoices room counts cs
      (r.1, { c with dropped := true } :: r.2)

/-- The final weights of a token after its drops (R193, R195). -/
def TokenRec.settle (t : TokenRec) (renorm : Bool) : TokenRec :=
  let adm := t.choices.filter fun c => !c.dropped
  let s := (adm.tail.map (·.raw)).foldl add32 ((adm.headD ⟨0, 0, 0, false, false⟩).raw)
  let redo := renorm && !adm.isEmpty && adm.length != t.choices.length && (f32 s).isFinite && Fl.lt Fl.zero (f32 s)
  let fin (c : Choice) : Choice :=
    if c.dropped then { c with weight := 0, renorm := false }
    else if redo then { c with weight := div32 c.raw s, renorm := true }
    else { c with weight := c.raw, renorm := false }
  { t with choices := t.choices.map fin, rsum := if redo then s else 0x3F800000#32 }

/-- Whether a token has a NaN weight, raw or final (R200). -/
def TokenRec.nanWeight (t : TokenRec) : Bool := t.choices.any fun c => (f32 c.weight).isNan || (f32 c.raw).isNan

/-- Whether a weight that the token carries is NaN (R206). -/
def TokenRec.nanFinal (t : TokenRec) : Bool := t.choices.any fun c => (f32 c.weight).isNan

/-- A token's record as row `r` of a finished span gives it, before admission. -/
def tokenOf (fn : GateFn) (row : SpanRow) (nanScore : Bool) : TokenRec :=
  let xs := row.best.map fun b => toF32 b.value
  let w := gateWeights fn xs row.lseResult
  let mk (i : Nat) : Choice :=
    { expert := ((row.best[i]?).map (·.pos)).getD 0, raw := w.1.getD i 0, weight := w.1.getD i 0, dropped := false,
      renorm := false }
  { choices := (List.range row.best.length).map mk, norm := w.2, rsum := 0x3F800000#32, nan := nanScore }

/-- A tag of the gate unit (R187). -/
def Dev.choiceTag (d : Dev) (mb token rank epoch : Nat) (c : Choice) : Word64 :=
  packTag { source := BitVec.ofNat 13 d.fx.rankSelf, microBatch := BitVec.ofNat 8 mb, token := BitVec.ofNat 20 token,
            rank := BitVec.ofNat 3 rank, epoch := BitVec.ofNat 4 epoch, dropped := BitVec.ofBool c.dropped,
            renorm := BitVec.ofBool c.renorm, empty := 0, resv := 0 }

/-- An FP32 weight as FP16 (R184). -/
def weight16 (w : Word32) : Nat := (encodeElem .fp16 .nearest (f32 w)).code

/-- A record of the choice array (R199). -/
def Dev.choiceRecord (d : Dev) (mb token epoch : Nat) (t : TokenRec) : List Byte :=
  ((List.range t.choices.length).flatMap fun j =>
    let c := t.choices.getD j ⟨0, 0, 0, true, false⟩
    sideEntry (d.choiceTag mb token j epoch c) c.expert (weight16 c.weight)) ++
    leBytes 4 t.norm.toNat ++ leBytes 4 t.rsum.toNat

/-- Per expert: admitted, dropped and PROB_SUM in admission order (R200). -/
def expertSums (n : Nat) (ts : List TokenRec) : List (Nat × Nat × Word32) :=
  (ts.flatMap (·.choices)).foldl (fun l c => l.modify c.expert fun x =>
    if c.dropped then (x.1, x.2.1 + 1, add32 x.2.2 c.raw) else (x.1 + 1, x.2.1, add32 x.2.2 c.raw))
    (List.replicate n (0, 0, 0))

/-- The round summary (R200). -/
def summaryBytes (g : GateArgs) (ts : List TokenRec) : List Byte :=
  let cs := ts.flatMap (·.choices)
  let dropped := (cs.filter (·.dropped)).length
  let fn := match g.fn with | .softmaxAll => 0 | .softmaxTopk => 1 | .sigmoid => 2
  leBytes 4 g.tokens ++ leBytes 4 (g.tokens * g.k) ++ leBytes 4 (cs.length - dropped) ++ leBytes 4 dropped ++
    leBytes 4 (ts.filter fun t => t.choices.all (·.dropped)).length ++
    leBytes 4 (ts.filter fun t => t.choices.any (·.renorm)).length ++
    leBytes 4 (ts.filter fun t => t.nan || t.nanWeight).length ++ leBytes 2 g.layer ++ leBytes 1 g.microBatch ++
    leBytes 1 (b2n g.negotiated + 2 * b2n g.renorm + 4 * fn) ++ leBytes 2 g.experts ++ leBytes 1 g.k ++ zeros 29 ++
    ((expertSums g.experts ts).flatMap fun x => leBytes 4 x.1 ++ leBytes 4 x.2.1 ++ leBytes 4 x.2.2.toNat ++ zeros 4)

/-! ## The end of a GATE -/

/-- A GATE completes: choice array and summary are written, the tags are in the Bazaar (R201); `lost` members of its exchange group did
not answer (R231). -/
def Dev.gateEnd (d : Dev) (c : Nat) (lost : Nat) : Dev :=
  match (d.core c).gate with
  | none => d
  | some g =>
    let a := g.args
    let epoch := d.rd.epoch.toNat
    let ts := g.tokens.map fun t => t.settle a.renorm
    if (d.running c .mx).elim false (fun q => q.cmd.nanTrap) && ts.any (·.nanFinal) then
      d.haltCmd c .mx { reason := rNanAbort, unit := 1, d0 := 0xFF }
    else
      let recs := (List.range ts.length).flatMap fun i => d.choiceRecord a.microBatch i epoch (ts.getD i ⟨[], 0, 0, false⟩)
      let d := (d.writeHandle a.choices 0 recs).writeHandle a.summary 0 (summaryBytes a ts)
      let d := d.setRound false a.layer a.microBatch fun r => { r with gateDone := true }
      let d := d.lossRecord c a.layer a.microBatch 0 (lossStatus a.group lost)
      let d := d.setCore c fun s => { s with gate := none }
      (d.setHead c .mx fun q => { q with ran := true }).settleCore c

/-- Choices of a source for each expert. -/
def choiceCounts (n : Nat) (ts : List TokenRec) : List Nat :=
  (ts.flatMap (·.choices)).foldl (fun l c => l.modify c.expert (· + 1)) (List.replicate n 0)

/-- Counts of a source by the local experts of an owner (R212). -/
def countsFor (route : List (Nat × Nat × Nat)) (rank : Nat) (counts : List Nat) : List Nat :=
  (List.range (localCount route rank)).map fun e => min 0xFFFF (counts.getD (localExpert route rank e) 0)

/-- The grants of an owner's expert to the sources in ascending position (R192, R217): (a_p, BASE). -/
def grantFold (cap : Nat) : List Nat → Nat → List (Nat × Nat)
  | [], _ => []
  | want :: rest, base =>
    let a := min want (cap - base)
    (a, base) :: grantFold cap rest (base + a)

/-- The admission of a NEGOTIATED round once every GRANT is in or missing (R192, R217, R231). -/
def Dev.finishNegotiated (d : Dev) (r : Round) : Dev :=
  match (d.core r.core).gate with
  | none => d
  | some g =>
    if g.phase ≠ 2 then d
    else
      let s := r.members.length
      let have_ (p : Nat) : Bool := (r.grants.any fun x => x.1 == p) || r.reqMissing.contains p
      if !(List.range s).all have_ then d
      else
        let room (e n : Nat) : Bool :=
          match g.route[e]? with
          | none => false
          | some (_, owner, l) =>
            decide (n < (((r.grants.find? fun x => x.1 == r.members.idxOf owner).map fun x => (x.2.getD l (0, 0)).1).getD 0))
        let step (acc : List Nat × List TokenRec) (t : TokenRec) : List Nat × List TokenRec :=
          let a := admitChoices room acc.1 t.choices
          (a.1, acc.2 ++ [{ t with choices := a.2 }])
        let res := g.tokens.foldl step (List.replicate g.args.experts 0, [])
        let lost := ((List.range s).filter fun p => !(r.grants.any fun x => x.1 == p)).length
        (d.setCore r.core fun s => { s with gate := some { g with tokens := res.2, admitted := res.1 } }).gateEnd r.core lost

/-- The owner of a NEGOTIATED round grants once it holds the requests of every member that is not missing (R217). -/
def Dev.tryGrant (d : Dev) (layer mb : Nat) : Dev :=
  match d.round? false layer mb with
  | none => d
  | some r =>
    let s := r.members.length
    let have_ (p : Nat) : Bool := (r.requests.any fun x => x.1 == p) || r.reqMissing.contains p
    if r.granted || !(List.range s).all have_ then d
    else
      let self := d.fx.rankSelf
      let n := localCount r.route self
      let want (e p : Nat) : Nat := ((r.requests.find? fun x => x.1 == p).map fun x => x.2.getD e 0).getD 0
      let cap (e : Nat) : Nat := d.roundCap r (d.layerReservation layer) e
      let byExpert := (List.range n).map fun e => grantFold (cap e) ((List.range s).map fun p => want e p) 0
      let grant (p : Nat) : List (Nat × Nat) := (List.range n).map fun e => (byExpert.getD e []).getD p (0, 0)
      let d := d.setRound false layer mb fun r =>
        { r with granted := true, shares := (List.range s).map fun p => (p, (grant p).map (·.1)),
                 grants := r.grants ++ [(r.pos, grant r.pos)] }
      (List.range s).foldl (fun d p =>
        if p = r.pos || r.reqMissing.contains p then d
        else
          let body := leBytes 2 n ++ zeros 30 ++ ((grant p).flatMap fun x => leBytes 2 x.1 ++ leBytes 2 x.2)
          d.bzSend r.core bzGrant 0 r.fmt layer mb (r.members.getD p 0) r.epoch r.hTiles body) d

/-- What follows when a request or grant has come in, or its wait has ended. -/
def Dev.negotiate (d : Dev) (layer mb : Nat) : Dev :=
  let d := d.tryGrant layer mb
  match d.round? false layer mb with
  | none => d
  | some r => d.finishNegotiated r

/-- The requests of a NEGOTIATED source go out (R216, R217). -/
def Dev.sendRequests (d : Dev) (c : Nat) (g : GateSt) : Dev :=
  let a := g.args
  let counts := choiceCounts a.experts g.tokens
  match d.round? false a.layer a.microBatch with
  | none => d
  | some r =>
    let own := countsFor g.route d.fx.rankSelf counts
    let d := d.setRound false a.layer a.microBatch fun r => { r with requests := r.requests ++ [(r.pos, own)] }
    let d := (List.range r.members.length).foldl (fun d p =>
      if p = r.pos then d
      else
        let m := r.members.getD p 0
        let cs := countsFor g.route m counts
        d.bzSend c bzRequest 0 r.fmt a.layer a.microBatch m r.epoch r.hTiles
          (leBytes 2 cs.length ++ zeros 30 ++ cs.flatMap fun n => leBytes 2 n)) d
    let d := d.setCore c fun s => { s with gate := some { g with phase := 2 } }
    d.negotiate a.layer a.microBatch

/-! ## The gate product -/

/-- The span of one tile of a memory operand of GATE; a queue has none. MX names no coherent address (R396). -/
def Dev.gateTile (d : Dev) (pos : Nat) (src : TileSrc) (i : Nat) : Except HaltInfo (List (Nat × Span)) :=
  match src with
  | .queue .. => .ok []
  | .mem ref stride f _ =>
    match d.tileSpan pos ref stride f i false with
    | .error h => .error h
    | .ok s =>
      if d.spanCoh s then .error { reason := rBadOperand, unit := 1, kind := 9, address := s.addr, d0 := pos }
      else .ok [(2 ^ 40 * pos + i, s)]

/-- The spans of a list of tiles. -/
def Dev.gateSpans (d : Dev) (pos : Nat) (src : TileSrc) (is : List Nat) : Except HaltInfo (List (Nat × Span)) :=
  is.foldl (fun (e : Except HaltInfo (List (Nat × Span))) i => e.bind fun ss =>
    (d.gateTile pos src i).bind fun s => .ok (ss ++ s)) (.ok [])

/-- Widths of a GATE in tiles: K tiles, output tiles, row tiles. -/
def gateKt (g : GateArgs) : Nat := ceilDiv g.hidden 32
def gateEt (g : GateArgs) : Nat := ceilDiv g.experts 32
def gateRt (g : GateArgs) : Nat := ceilDiv g.tokens 32

/-- Tiles of X for a row tile, and of WG for a column tile, by their number in row-major order of tiles. -/
def gateXIdx (g : GateArgs) (row : Nat) : List Nat := (List.range (gateKt g)).map fun k => row * gateKt g + k
def gateWIdx (g : GateArgs) (col : Nat) : List Nat := (List.range (gateKt g)).map fun k => k * gateEt g + col

/-- Tiles of an operand of GATE, read and checked. -/
def Dev.gateRead (d : Dev) (c pos n : Nat) (src : TileSrc) (spans : List (Nat × Span)) (skip : Nat) :
    Except HaltInfo (List (List Byte)) × Dev :=
  d.operandTiles c .mx { src := src, n := n, pos := pos, accept := mxTakes } spans skip

/-- Operand pairs under the checks of R120, R124 and R179 (shape of X after T, of WG after E). -/
def gatePairs (g : GateArgs) (row col : Nat) (xs ws : List (List Byte)) :
    Except HaltInfo (List (List Byte × List Byte)) :=
  let rows := min 32 (g.tokens - 32 * row)
  let cols := min 32 (g.experts - 32 * col)
  (xs.zip ws).foldl (fun (e : Except HaltInfo (List (List Byte × List Byte))) p => e.bind fun ps =>
    match pairFault ps p.1 p.2 with
    | some h => .error h
    | none =>
      if tileRows p.1 ≠ rows then .error { badShape 0 with unit := 1 }
      else if tileCols p.2 ≠ cols then .error { badShape 1 with unit := 1 }
      else .ok (ps ++ [p])) (.ok [])

/-- The next output tile of a running GATE: its operand pairs enter the operand store, once they are there (R180). -/
def Dev.gateGo (d : Dev) (c : Nat) : Dev :=
  match (d.core c).gate, d.fresh? c .mx with
  | some g, some _ =>
    let a := g.args
    if g.phase ≠ 1 || (d.core c).acc.closedAcc || g.rowTile ≥ (gateRt a) then d
    else
      let needX := g.x.isEmpty
      let pops := (if needX then srcPop (gateKt a) 0 a.x else []) ++ srcPop (gateKt a) 1 a.wg
      match d.popShort c .mx pops with
      | some (true, n, need, have_) => d.haltCmd c .mx (closedHalt .mx n 0 need have_)
      | some (false, _) => d
      | none =>
        match d.gateSpans 0 a.x (if needX then gateXIdx a g.rowTile else []), d.gateSpans 1 a.wg (gateWIdx a g.colTile) with
        | .error h, _ => d.haltEng c .mx h
        | _, .error h => d.haltEng c .mx h
        | .ok sx, .ok sw =>
          if !d.inputsIn (.eng c .mx) (sx ++ sw) then d
          else match (if needX then d.gateRead c 0 (gateKt a) a.x sx 0 else (.ok g.x, d)) with
            | (.error h, d) => d.haltEng c .mx h
            | (.ok xs, d) =>
              let skip := match a.x, a.wg with
                | .queue qa false _, .queue qb _ _ => if qa = qb && needX then (gateKt a) else 0
                | _, _ => 0
              match d.gateRead c 1 (gateKt a) a.wg sw skip with
              | (.error h, d) => d.haltEng c .mx h
              | (.ok ws, d) =>
                match gatePairs a g.rowTile g.colTile xs ws with
                | .error h => d.haltEng c .mx h
                | .ok ps =>
                  let d := d.popAll c .mx pops
                  let d := d.setCore c fun s =>
                    { s with acc := { s.acc with pairs := ps, closedAcc := true }, gate := some { g with x := xs } }
                  (d.countMacs c ps).settleCore c
  | _, _ => d

/-- The members of a GATE's exchange group. Under QUOTA they serve only the ABORTs of R233: where MEMBERS does not hold them, none are
known (log entry 99). -/
def Dev.gateMembers (d : Dev) (c : Nat) (a : GateArgs) : Except HaltInfo (List Nat) × Dev :=
  match d.readRanks (.eng c .mx) 8 a.members a.group with
  | (.ok ms, e) => (.ok ms, e)
  | (.error h, e) => if a.negotiated || h.reason = rBusError then (.error h, e) else (.ok [], e)

/-- The format of the tiles that a source of a GATE gives. -/
def Dev.srcFmt (d : Dev) (c : Nat) : TileSrc → Fmt
  | .queue q _ _ => d.headFmt c .mx q
  | .mem _ _ f _ => f

/-- The Bazaar takes a GATE's reservation: its round opens and the product runs (R203, R227, R229). -/
def Dev.gateGranted (d : Dev) (c : Nat) : Dev :=
  match (d.core c).gate with
  | none => d
  | some g =>
    let a := g.args
    if (d.round? false a.layer a.microBatch).isSome then d.haltCmd c .mx { badShape 9 with unit := 1 }
    else
      match d.gateMembers c a with
      | (.error h, d) => d.haltEng c .mx h
      | (.ok ms, d) =>
        let r : Round :=
          { bwd := false, layer := a.layer, mb := a.microBatch, core := c, tokens := a.tokens, k := a.k,
            epoch := d.rd.epoch.toNat, members := ms, pos := a.pos, negotiated := a.negotiated, route := g.route,
            gateDone := false, fmt := d.srcFmt c a.x, hTiles := gateKt a, requests := [], granted := false, shares := [], grants := [], reqMissing := [],
            entries := a.tokens * a.k, gateStart := g.since, opener := none, early := [], disp := none, comb := none, arranged := [] }
        ((d.openRound r).setCore c fun s => { s with gate := some { g with phase := 1 } }).gateGo c

/-- The limits of R179 and R228. -/
def Dev.gateLimits (d : Dev) (g : GateArgs) : Option Nat :=
  let room (h : Word64) (n : Nat) : Bool := match d.checkHandle h ⟨0, n, 8, true⟩ with | .error 6 => false | _ => true
  if g.tokens = 0 || g.tokens > 2 ^ 20 || g.tokens * g.k > tagLimit || g.hidden = 0 || (gateKt g) > 256 then some 0
  else if g.experts = 0 || g.experts > 4096 || g.experts < g.k then some 2
  else if g.k = 0 || g.k > 8 then some 3
  else if g.routeTable % 64 ≠ 0 then some 7
  else if g.group = 0 || g.group > 8192 || g.pos ≥ g.group then some 8
  else if g.layer > 65535 then some 9
  else if g.microBatch > 255 then some 10
  else if !room g.choices (g.tokens * (16 * g.k + 8)) then some 11
  else if !room g.summary (64 + 16 * g.experts) then some 12
  else none

/-- The check of a handle that a GATE writes (R348). -/
def Dev.gateHandle (d : Dev) (h : Word64) (n : Nat) : Option HaltInfo :=
  match d.checkHandle h ⟨0, n, 8, true⟩ with
  | .error k => some (badHandle h k)
  | .ok _ => none

/-- GATE starts: its operands are checked, the routing table read, and its entries reserved (R179, R185, R227 to R229). -/
def Dev.gateStart (d : Dev) (c : Nat) (g : GateArgs) : Dev :=
  if !wbit d.bz.ctrl 0 then d.haltCmd c .mx (bzAbsent .mx)
  else match d.gateLimits g with
    | some pos => d.haltCmd c .mx { badShape pos with unit := 1 }
    | none =>
      match (d.gateHandle g.choices (g.tokens * (16 * g.k + 8))).or (d.gateHandle g.summary (64 + 16 * g.experts)) with
      | some h => d.haltEng c .mx h
      | none =>
        if (d.round? false g.layer g.microBatch).isSome then d.haltCmd c .mx { badShape 9 with unit := 1 }
        else match d.gateSpans 0 g.x (List.range ((gateRt g) * (gateKt g))), d.gateSpans 1 g.wg (List.range ((gateKt g) * (gateEt g))) with
          | .error h, _ => d.haltEng c .mx h
          | _, .error h => d.haltEng c .mx h
          | .ok sx, .ok sw =>
            match d.readRoute (.eng c .mx) 7 g.routeTable g.experts with
            | (.error h, d) => d.haltEng c .mx h
            | (.ok route, d) =>
              match d.tableCheck (dieOfCore d.grade c) 3 with
              | (false, d) => d
              | (true, d) =>
                let asked := if d.mustAsk (.eng c .mx) (sx ++ sw) then d.askAll (.eng c .mx) (sx ++ sw) else .ok d
                match asked with
                | .error (a, st) =>
                  let d := d.cplErr none (some a) st (reqCore c) false
                  d.haltCmd c .mx (d.busHalt .mx a)
                | .ok d =>
                  let gs : GateSt :=
                    { args := g, since := d.now, route := route, x := [], rowTile := 0, colTile := 0, nanRows := [], phase := 0,
                      admitted := List.replicate g.experts 0, tokens := [] }
                  let d := d.setCore c fun s => { s with gate := some gs }
                  let need := g.tokens * g.k
                  if d.bz.waits.isEmpty && d.bzRoom false need then d.gateGranted c
                  else
                    { d with bz := { d.bz with waits := d.bz.waits ++
                      [{ core := c, bwd := false, acc := 0, layer := g.layer, mb := g.microBatch, need := need }] } }

/-- GATE of the running command: it starts, or it goes on when tiles it waits for are there. -/
def Dev.runGate (d : Dev) (c : Nat) : Dev :=
  match d.fresh? c .mx with
  | none => d
  | some q =>
    match q.cmd.op with
    | .gate g => if (d.core c).gate.isSome then d.gateGo c else d.gateStart c g
    | _ => d

/-- R179: GATE. -/
def execGate (core : Nat) (s : State) : Host.Outcome State Fault Refusal := s.onDev fun d => d.runGate core

/-! ## The drain of a gate product -/

/-- The tokens of a drained row tile, in ascending row order (R180, R191): the gate state after them, and whether a NaN weight
stops a GATE that carries NAN_TRAP (R206). -/
def GateSt.tokensIn (g : GateSt) (sp : SpanSt) (trap : Bool) : List Nat → GateSt × Bool
  | [] => (g, false)
  | r :: rs =>
    let t := tokenOf g.args.fn (sp.rows.getD r SpanRow.empty) (g.nanRows.getD r false)
    let room (e n : Nat) : Bool := decide (n < quota ((g.route[e]?).elim 0 (·.1)) g.args.group g.args.pos)
    let a := if g.args.negotiated then (g.admitted, t.choices) else admitChoices room g.admitted t.choices
    let t : TokenRec := { t with choices := a.2 }
    let g : GateSt := { g with admitted := a.1, tokens := g.tokens ++ [t] }
    if trap && (t.settle g.args.renorm).nanFinal then (g, true) else g.tokensIn sp trap rs

/-- The drain of an output tile of a GATE (R139, R180 to R184, R204). -/
def Dev.drainGate (d : Dev) (c : Nat) (g : GateSt) : Dev :=
  let acc := (d.core c).acc
  let sh := accShape acc.pairs
  match d.checkResidue c acc with
  | (some h, d) => d.haltEng c .mx h
  | (none, d) =>
    let a := g.args
    let val := acc.valueAt sh.2
    let kind : DrainKind := .topk a.k (gateEt a) g.colTile (match a.fn with | .softmaxAll => true | _ => false) 0 0 0
    let span := spanStep (d.core c).span kind sh.1 sh.2 0 val
    let nan := (List.range sh.1).map fun r =>
      g.nanRows.getD r false || (List.range sh.2).any fun k => (val r k).isNan
    let g : GateSt := { g with nanRows := nan }
    if g.colTile + 1 < (gateEt a) then
      (d.setCore c fun s =>
        { s with acc := s.acc.drained, span := span, gate := some { g with colTile := g.colTile + 1 } }).gateGo c
    else
      let trap := (d.running c .mx).elim false fun q => q.cmd.nanTrap
      let res := match span with
        | none => (g, false)
        | some sp => g.tokensIn sp trap (List.range sh.1)
      let g' : GateSt := { res.1 with x := [], rowTile := g.rowTile + 1, colTile := 0, nanRows := [] }
      let d := d.setCore c fun s => { s with acc := s.acc.drained, span := none, gate := some g' }
      if res.2 then d.haltCmd c .mx { reason := rNanAbort, unit := 1, d0 := 0xFF }
      else if g'.rowTile < (gateRt a) then d.gateGo c
      else if a.negotiated then d.sendRequests c g'
      else d.gateEnd c 0

/-- A drained output tile (R139): of the oldest MATMUL of the pipe, or of a GATE. -/
def Dev.drain (d : Dev) (c : Nat) : Dev :=
  match (d.core c).pipe with
  | j :: _ =>
    match j.cmd.cmd.op with
    | .matmul m => if j.acc.cells.isSome && !j.cmd.ran then d.drainMatmul c j.acc m else d
    | _ => d
  | [] =>
    match d.fresh? c .mx, (d.core c).gate with
    | some _, some g => if (d.core c).acc.cells.isSome then d.drainGate c g else d
    | _, _ => d

/-- R139: DRAIN_END. -/
def execDrainEnd (core : Nat) (s : State) : Host.Outcome State Fault Refusal := s.onDev fun d => d.drain core

end Sys2Proof.Machine
end

