-- ==== Sys2Proof/Machine/Bazaar.lean ====
section
/-! DEFINITION. The Bazaar: rows and re-tiling (R213, R219, R222), what the messages of a phase do (R214, R220, R226, R230), the
arrangement of a dispatch (R221, R223), the combine of a return (R224, R225), and the meanings of its commands. -/

namespace Sys2Proof.Machine

open Sys2Proof

/-! ## Rows and tiles -/

/-- The value of a code under a scale byte. -/
def scaledVal (f : Fmt) (s code : Nat) : Fl :=
  if fmtScaled f then (if s = 0xFF then .nan else (decodeElem f code).scale ((s : Int) - 127)) else decodeElem f code

/-- The scale of a new block from the scales of the rows that meet in it (R222): the largest; 0xFF where an FP4 or INT8 row brings it.
R222 states no scale for an FP8 block whose sources are all 0xFF: 0x7F (DESIGN CHOICE, log entry 98). -/
def meetScale (f : Fmt) (ss : List Nat) : Nat :=
  if !fmtScaled f || ss.isEmpty then 0x7F
  else if ss.contains 0xFF && (f == .fp4 || f == .int8) then 0xFF
  else match ss.filter (· != 0xFF) with
    | [] => 0x7F
    | x :: xs => xs.foldl max x

/-- A row that is not there. -/
def RowSt.none_ : RowSt := ⟨0, 0, 0, 0, 0, 0, [], [], 0, []⟩

/-- Column tile `j` of a row group of at most 32 rows, with the number of elements whose value changed (R213, R222). -/
def bzTile (f : Fmt) (epoch j : Nat) (rows : List RowSt) : List Byte × Nat :=
  let row (r : Nat) : RowSt := rows.getD r RowSt.none_
  let n := rows.length
  let cols := min 32 ((row 0).cols - 32 * j)
  let rowScale (r b : Nat) : Nat := (row r).scales.getD (2 * j + b % 2) 0x7F
  let scales := (List.range 4).map fun b => meetScale f ((blockCells n cols b).map fun p => rowScale p.1 b)
  let old (r c : Nat) : Nat := (row r).codes.getD (32 * j + c) 0
  let conv (p : Nat × Nat) : Conv :=
    reExpress f (rowScale p.1 (p.2 / 16)) (scales.getD (blockOf p.1 p.2) 0x7F) (old p.1 p.2)
  let t := tileOfConvs f n cols epoch scales false conv fun r c => scaledVal f (rowScale r (c / 16)) (old r c)
  (t.tile, t.moved)

/-- The codes and scales of row `r` of tiles in column order; padding is zero (R38). -/
def rowCodes (f : Fmt) (tiles : List (List Byte)) (r : Nat) : List Nat × List Nat :=
  (tiles.flatMap fun t => (List.range 32).map fun c => if r < tileRows t && c < tileCols t then codeAt f t r c else 0,
   tiles.flatMap fun t => let s := tileScales t; [s.getD (2 * (r / 16)) 0x7F, s.getD (2 * (r / 16) + 1) 0x7F])

/-- A row as it is sent, from the tiles of its row tile; `bad` names the column tiles that failed. -/
def mkRow (f : Fmt) (tiles : List (List Byte)) (bad : List (Nat × Option Nat)) (r pos cols : Nat) (tag : Word64) (expert weight : Nat) :
    RowSt :=
  let c := rowCodes f tiles r
  { key := 0, pos := pos, j := 0, tag := tag, expert := expert, weight := weight, codes := c.1, scales := c.2, cols := cols,
    bad := bad }

/-- Whether a row's column tile failed its check. -/
def RowSt.failed (x : RowSt) (j : Nat) : Bool := x.bad.any fun b => b.1 == j

/-- The side column of a row group (R189). -/
def bzSide (layer epoch : Nat) (rows : List RowSt) : List Byte :=
  sideColumn layer epoch (rows.map fun r => sideEntry r.tag r.expert r.weight)

/-- Column tile `j` as it is sent with the CRCs of the failed tiles that it holds rows of. One of those goes on with the CRC it came
with (R67); after an uncorrectable error, or where that CRC would be right for the new content (R70), it carries the torn mark
(R545; log entry 44). -/
def passOn (t : List Byte) : List (Option Nat) → List Byte
  | [] => t
  | crcs@(c :: _) => match c with
    | some s => if crcs.contains none || tileCrc t = s then tearTile t else setCrc t s
    | none => tearTile t

/-- The body of a ROWS message with the number of re-expressed elements (R212, R222). -/
def rowsBody (f : Fmt) (layer epoch hTiles : Nat) (rows : List RowSt) : List Byte × Nat :=
  let ts := (List.range hTiles).map fun j =>
    let t := bzTile f epoch j rows
    (passOn t.1 (rows.flatMap fun r => (r.bad.filter fun b => b.1 == j).map (·.2)), t.2)
  (bzSide layer epoch rows ++ ts.flatMap (·.1), (ts.map (·.2)).sum)

/-- Groups of at most 32 rows. -/
def groupRows (rows : List RowSt) : List (List RowSt) :=
  (List.range (ceilDiv rows.length 32)).map fun i => (rows.drop (32 * i)).take 32

/-- A HEADER's body (R212). -/
def headerBody (rows groups : Nat) (tag : Word64) (drops : Nat) (counts : List Nat) : List Byte :=
  leBytes 4 rows ++ leBytes 4 groups ++ leBytes 8 tag.toNat ++ leBytes 4 drops ++ leBytes 2 counts.length ++ zeros 10 ++
    counts.flatMap fun n => leBytes 2 n

/-- The round tag of a HEADER (R212). -/
def Dev.headerTag (d : Dev) (mb epoch : Nat) (empty : Bool) : Word64 :=
  packTag { source := BitVec.ofNat 13 d.fx.rankSelf, microBatch := BitVec.ofNat 8 mb, token := 0, rank := 0,
            epoch := BitVec.ofNat 4 epoch, dropped := 0, renorm := 0, empty := BitVec.ofBool empty, resv := 0 }

/-! ## Phases -/

/-- A phase with the state of one member changed. -/
def PhaseSt.mapMember (p : PhaseSt) (pos : Nat) (f : MemberSt → MemberSt) : PhaseSt :=
  { p with members := p.members.map fun m => if m.pos == pos then f m else m }

/-- A member is missing from a phase (R230): its rows are discarded, and an OUT tile that was made of one of them is to be torn
(R231). -/
def PhaseSt.lose (p : PhaseSt) (k pos : Nat) (stale : Bool) : PhaseSt :=
  let gone := p.rows.filter fun y => y.pos == pos
  let p := p.mapMember pos fun m => { m with missing := true, stale := m.stale || stale }
  { p with rows := p.rows.filter fun y => y.pos != pos,
           outDone := p.outDone.filter fun rt => !gone.any fun y => y.key / max 1 k / 32 == rt }

/-- A member is missing from a phase of a round. -/
def Dev.markMissing (d : Dev) (r : Round) (ret : Bool) (pos : Nat) (stale : Bool) : Dev :=
  d.mapPhase r ret fun p => p.lose r.k pos stale

/-- The dispatch command of a round's phase. -/
def Dev.dispatchOf (d : Dev) (p : PhaseSt) : Option DispatchArgs :=
  (d.acc p.acc).bind fun a => match a.cmd.op with | .dispatch x => some x | _ => none

/-- The combine command of a round's phase. -/
def Dev.combineOf (d : Dev) (p : PhaseSt) : Option CombineArgs :=
  (d.acc p.acc).bind fun a => match a.cmd.op with | .combine x => some x | _ => none

/-- A source's share of a local expert (R194): its part of C under QUOTA, or what it was granted, within C. -/
def Dev.shareOf (d : Dev) (r : Round) (res : Option Nat) (e pos : Nat) : Nat :=
  let granted (q : Nat) : Nat := ((r.shares.find? fun x => x.1 == q).map fun x => x.2.getD e 0).getD 0
  let cap := d.roundCap r res e
  if r.negotiated then min (granted pos) (cap - ((List.range pos).map granted).sum) else quota cap r.members.length pos

/-! ## Rows that arrive -/

/-- The check of a side column or tile by the Bazaar, with its injection point (R67, R214, R576). -/
def Dev.bzCheck (d : Dev) (r : Round) (detail : Nat) (good : Bool) : Bool × Dev :=
  let det := detId 0x25 (dieOfCore d.grade r.core)
  let d1 := r.layer + r.mb * 2 ^ 16
  if !good then (false, (d.detect det 1 false none detail d1 0).bzErr 0x20)
  else
    let (m, d) := d.mimic det
    if m then (false, (d.detect det 1 true none detail d1 0).bzErr 0x20) else (true, d)

/-- The column tiles of a row group that fail their checks, with the CRCs they came with. -/
def Dev.badTiles (d : Dev) (r : Round) (f : Fmt) (tag : Nat) : List (Nat × List Byte) → List (Nat × Option Nat) × Dev
  | [] => ([], d)
  | (j, t) :: ts =>
    match d.bzCheck r tag (tileGood (fun g => g == f) t) with
    | (ok, d) =>
      match d.badTiles r f tag ts with
      | (bs, d) => (if ok then bs else (j, some (storedCrc t)) :: bs, d)

/-- A row kept in a dispatch phase (R219, R220). -/
def Dev.keepDispatch (d : Dev) (r : Round) (p : PhaseSt) (res : Option Nat) (x : RowSt) : PhaseSt × Nat × Nat :=
  match r.route.find? fun e => e.2.1 == d.fx.rankSelf && localExpert r.route d.fx.rankSelf e.2.2 == x.expert with
  | none => (p, 0, 0)
  | some (_, _, e) =>
    let p := p.mapMember x.pos fun m => { m with byExpert := m.byExpert.modify e (· + 1) }
    if p.rows.any (fun y => y.tag == x.tag) || p.dropTags.any (fun y => y.2 == x.tag) then
      ({ p with dup := p.dup + 1 }, 1, 0)
    else
      let j := (p.rows.filter fun y => y.pos == x.pos && y.key == e).length
      if !r.bwd && j ≥ d.shareOf r res e x.pos then
        ({ p with overrun := p.overrun + 1, dropTags := p.dropTags ++ [(x.pos, x.tag)] }, 0, 1)
      else ({ p with rows := p.rows ++ [{ x with key := e, j := j }] }, 0, 0)

/-- A row kept in a return phase (R224, R226). -/
def keepReturn (k : Nat) (p : PhaseSt) (x : RowSt) : PhaseSt × Nat × Nat :=
  let t := unpackTag x.tag
  let key := t.token.toNat * k + t.rank.toNat
  let ok := match p.choices[t.token.toNat]? with
    | none => false
    | some cs => decide (t.rank.toNat < k) && (cs.getD t.rank.toNat (false, 0)).1
  if !ok || p.rows.any fun y => y.key == key then ({ p with dup := p.dup + 1 }, 1, 0)
  else ({ p with rows := p.rows ++ [{ x with key := key }] }, 0, 0)

/-- The rows of a message entered one after another; duplicates and overruns are counted (R237). -/
def Dev.keepRows (d : Dev) (r : Round) (ret : Bool) (res : Option Nat) (p : PhaseSt) : List RowSt → PhaseSt × Nat × Nat
  | [] => (p, 0, 0)
  | x :: xs =>
    let a := if ret then keepReturn r.k p x else d.keepDispatch r p res x
    let b := d.keepRows r ret res a.1 xs
    (b.1, a.2.1 + b.2.1, a.2.2 + b.2.2)

/-- A ROWS message enters a phase (R213, R214, R219). -/
def Dev.enterRows (d : Dev) (r : Round) (ret : Bool) (p : PhaseSt) (pos : Nat) (m : BzMsg) : Dev :=
  match fmtOf m.format with
  | none => d.markMissing r ret pos false
  | some f =>
    if m.body.length ≠ 544 + m.hTiles * tileTotal f then d.markMissing r ret pos false
    else
      let side := m.body.take 544
      let n := min 32 (fieldAt side 1 1)
      let tag0 := fieldAt side 32 8
      match d.bzCheck r tag0 (sideGood side && fieldAt side 2 2 == r.layer && fieldAt side 4 4 == p.epoch) with
      | (sideOk, d) =>
        let ts := (List.range m.hTiles).map fun j => (j, (m.body.drop (544 + j * tileTotal f)).take (tileTotal f))
        match d.badTiles r f tag0 ts with
        | (bad, d) =>
          let bad := if sideOk then bad else ts.map fun x => (x.1, some (storedCrc x.2))
          let tiles := ts.map (·.2)
          let cols := (tiles.map tileCols).sum
          let rows := (List.range n).map fun i =>
            let e := slice side (32 + 16 * i) 16
            mkRow f tiles bad i pos cols (BitVec.ofNat 64 (fieldAt e 0 8)) (fieldAt e 8 2 % 4096) (fieldAt e 10 2)
          let p := p.mapMember pos fun x => { x with rows := x.rows + n, groups := x.groups + 1 }
          let res := (d.dispatchOf p).bind (·.reservation)
          let k := d.keepRows r ret res p rows
          let d := d.mapPhase r ret fun _ => k.1
          let bz := d.bz
          let d := { d with bz := { bz with dup := sat32 (bz.dup + k.2.1), overrun := sat32 (bz.overrun + k.2.2) } }
          d.bzErr ((if k.2.1 > 0 then 4 else 0) + if k.2.2 > 0 then 8 else 0)

/-- A HEADER enters a phase: its counts must be those received before it (R230). -/
def Dev.enterHeader (d : Dev) (r : Round) (ret : Bool) (p : PhaseSt) (pos : Nat) (m : BzMsg) : Dev :=
  match p.members.find? fun x => x.pos == pos with
  | none => d
  | some x =>
    let n := fieldAt m.body 20 2
    let counts := (List.range n).map fun i => fieldAt m.body (32 + 2 * i) 2
    let ok := fieldAt m.body 0 4 == x.rows && fieldAt m.body 4 4 == x.groups && fieldAt m.body 16 4 == x.drops &&
      (ret || (List.range (max n x.byExpert.length)).all fun e => counts.getD e 0 == x.byExpert.getD e 0 % 65536)
    if ok then d.mapPhase r ret fun p => p.mapMember pos fun x => { x with header := true }
    else d.markMissing r ret pos false

/-- A choice that came back as dropped (R220): its entry of CHOICES, and the phase's view of it. -/
def Dev.dropChoice (d : Dev) (r : Round) (h : Word64) (tag : Word64) : Dev :=
  let t := unpackTag tag
  let token := t.token.toNat
  let rank := t.rank.toNat
  if token ≥ r.tokens || rank ≥ r.k then d
  else
    let off := token * (16 * r.k + 8) + 16 * rank
    let d := (d.writeHandle h off (leBytes 8 (tag ||| BitVec.ofNat 64 (2 ^ 48)).toNat)).writeHandle h (off + 10) [0#8, 0#8]
    d.mapPhase r true fun p => { p with choices := p.choices.modify token fun cs => cs.modify rank fun _ => (false, 0) }

/-- A DROP_LIST enters a return phase (R220). -/
def Dev.enterDrops (d : Dev) (r : Round) (p : PhaseSt) (pos : Nat) (m : BzMsg) : Dev :=
  let n := fieldAt m.body 0 4
  let tags := (List.range n).map fun i => BitVec.ofNat 64 (fieldAt m.body (32 + 8 * i) 8)
  let h := (d.combineOf p).elim 0 (·.r.choices)
  let d := d.mapPhase r true fun p => p.mapMember pos fun x => { x with drops := x.drops + n }
  tags.foldl (fun d t => d.dropChoice r h t) d

/-! ## The combine -/

/-- Whether every admitted choice of a token has returned (R224). -/
def PhaseSt.tokenDone (p : PhaseSt) (k t : Nat) : Bool :=
  let cs := p.choices.getD t []
  (List.range k).all fun j => !(cs.getD j (false, 0)).1 || p.rows.any fun y => y.key == t * k + j

/-- One combined element (R224). -/
def PhaseSt.combineElem (p : PhaseSt) (k : Nat) (unit : Bool) (t c : Nat) : Fl :=
  let cs := p.choices.getD t []
  f32 ((List.range k).foldl (fun acc j =>
    let ch := cs.getD j (false, 0)
    match p.rows.find? fun y => y.key == t * k + j with
    | some y =>
      if !ch.1 then acc
      else
        let w := if unit then Fl.fin false 1 0 else decodeElem .fp16 ch.2
        let v := scaledVal p.fmt (y.scales.getD (c / 16) 0x7F) (y.codes.getD c 0)
        toF32 (Fl.add (Fl.mul w v) (f32 acc))
    | none => acc) 0#32)

/-- A station command halts its issuing core; a handle that failed is counted (R348). -/
def Dev.haltSta (d : Dev) (id : Nat) (h : HaltInfo) : Dev :=
  (if h.reason = rHandle then d.countInvalid else d).haltAcc id h

/-- One tile converted into a format under an optional entry, with the report to it (R137, R156, R163). -/
def Dev.convEntry (d : Dev) (req : Nat) (f : Fmt) (entry : Option ScaleRef) (rows cols epoch : Nat) (val : Nat → Nat → Fl) :
    Except EntryFail (List Byte) × Dev :=
  let conv (rule : ScaleRule) : TileConv := convTile f rows cols epoch rule (fun _ _ => .nearest) false val
  match entry with
  | none => (.ok (conv (.fixed 0x7F)).tile, d)
  | some ref =>
    match (if fmtScaled f then d.lookupScale req ref else (.ok (.fixed 0x7F), d)) with
    | (.error e, d) => (.error e, d)
    | (.ok rule, d) =>
      let r := conv rule
      match d.reportScale req ref r.amax r.sat 0 with
      | (.error e, d) => (.error e, d)
      | (.ok _, d) => (.ok r.tile, d)

/-- The OUT tiles of one row tile written (R224, R225); a tile with a row that failed its check carries the torn mark. False says
that the core halted. -/
def Dev.combineTile (d : Dev) (r : Round) (p : PhaseSt) (x : CombineArgs) (rt : Nat) : List Nat → Bool × Dev
  | [] => (true, d)
  | j :: js =>
    let rows := min 32 (r.tokens - 32 * rt)
    let cols := min 32 (x.r.hidden - 32 * j)
    let val (i c : Nat) : Fl := p.combineElem r.k x.unitWeight (32 * rt + i) (32 * j + c)
    match d.convEntry (reqBazaar (dieOfCore d.grade r.core)) x.outFmt x.outEntry rows cols p.epoch val with
    | (.error e, d) => (false, d.haltSta p.acc (d.entryHalt .st 8 e))
    | (.ok t, d) =>
      match d.checkHandle x.out ⟨0, 0, 1, true⟩ with
      | .error k => (false, d.haltSta p.acc (badHandle x.out k))
      | .ok b =>
        let off := (rt * p.hTiles + j) * tileTotal x.outFmt
        let torn := p.rows.any fun y => y.failed j && decide (y.key / max 1 r.k / 32 = rt)
        let d := if torn then d.storeTorn b off t else d.storeBuf b off t
        let d := d.mapPhase r true fun p =>
          { p with torn := p.torn + b2n torn, nan := p.nan.or (if tileNan t then some (b.span off 32).addr else none) }
        d.combineTile r p x rt js

/-- The row tiles of OUT whose tokens are all combined are written, and their entries retire (R224, R225, R227). -/
def Dev.combineReady (d : Dev) (bwd : Bool) (layer mb : Nat) : List Nat → Dev
  | [] => d
  | rt :: rest =>
    match d.round? bwd layer mb with
    | none => d
    | some r =>
      match r.comb with
      | none => d
      | some p =>
        let toks := (List.range (min 32 (r.tokens - 32 * rt))).map (· + 32 * rt)
        if p.outDone.contains rt || !toks.all fun t => p.tokenDone r.k t then d.combineReady bwd layer mb rest
        else match d.combineOf p with
          | none => d
          | some x =>
            match d.combineTile r p x rt (List.range p.hTiles) with
            | (false, d) => d
            | (true, d) =>
              (d.mapPhase r true fun p => { p with outDone := p.outDone ++ [rt] }).combineReady bwd layer mb rest

/-- The entries that a round's tokens still hold: those of a token retire once its row is computed (R227). -/
def Dev.retireEntries (d : Dev) (bwd : Bool) (layer mb : Nat) : Dev :=
  d.setRound bwd layer mb fun r => match r.comb with
    | none => r
    | some p =>
      let done := (List.range r.tokens).filter fun t => p.retired.contains t || p.tokenDone r.k t
      { r with entries := r.k * (r.tokens - done.length), comb := some { p with retired := done } }

/-! ## The end of a phase -/

/-- The offset of a local expert's part of EXPERT_IN or EXPERT_OUT: its row groups have `bytes` bytes each (R221). -/
def Dev.partOff (d : Dev) (r : Round) (res : Option Nat) (bytes e : Nat) : Nat :=
  ((List.range e).map fun x => ceilDiv (d.roundCap r res x) 32 * bytes).sum

/-- Bytes of a row group of EXPERT_IN: its tiles, then its side column. -/
def groupBytes (f : Fmt) (hTiles : Nat) : Nat := hTiles * tileTotal f + 544

/-- One row group written to EXPERT_IN (R221): its tiles with the torn mark where a row failed, its side column. -/
def Dev.writeGroup (d : Dev) (r : Round) (p : PhaseSt) (b : Buf) (off : Nat) (rows : List RowSt) : Dev :=
  let torn := rows.any fun x => !x.bad.isEmpty
  let d := (List.range p.hTiles).foldl (fun (d : Dev) j =>
    let t := bzTile p.fmt p.epoch j rows
    let o := off + j * tileTotal p.fmt
    let d := if torn then d.storeTorn b o t.1 else d.storeBuf b o t.1
    d.mapPhase r false fun q =>
      { q with reexpr := q.reexpr + t.2, torn := q.torn + b2n torn,
               nan := q.nan.or (if tileNan t.1 then some (b.span o 32).addr else none) }) d
  d.storeBuf b (off + p.hTiles * tileTotal p.fmt) (bzSide r.layer p.epoch rows)

/-- The slots of a reservation are marked (R97): FILLED with the items of the row groups, or EMPTY. -/
def Dev.markSlots (d : Dev) (res : Reservation) (items : List (Nat × Nat × WorkItem)) : Dev :=
  let mark (s : SlotDecl) : SlotMark :=
    { item := (items.find? fun x => x.1 == s.expert && x.2.1 == s.ordinal).map (·.2.2), slotSteps := res.slotSteps,
      runs := none, ended := false }
  let cores := (res.slots.map (·.core)).eraseDups
  cores.foldl (fun d c =>
    let d := d.setCore c fun s => { s with slots := s.slots ++ ((res.slots.filter fun x => x.core == c).map mark) }
    if (d.core c).taking then
      let drop (l : WorkList) : WorkList := { l with takes := l.takes.filter fun y => y != c }
      ({ d with lists := d.lists.map drop }).takeNow c
    else d) d

/-- A dispatch phase is arranged: rows in ascending position and slot order, row groups, work items or slots (R221, R223). -/
def Dev.arrange (d : Dev) (r : Round) (p : PhaseSt) (x : DispatchArgs) : Dev :=
  let self := d.fx.rankSelf
  let n := localCount r.route self
  let sorted (e : Nat) : List RowSt :=
    (List.range r.members.length).flatMap fun pos => p.rows.filter fun y => y.key == e && y.pos == pos
  let all := (List.range n).flatMap sorted
  let d := d.setRound r.bwd r.layer r.mb fun r =>
    { (r.mapPhase false fun p => { p with rows := all, arranged := true }) with
      arranged := all.map fun y => (y.key, y.pos, y.tag) }
  match d.checkHandle x.expertIn ⟨0, 0, 1, true⟩ with
  | .error _ => d
  | .ok b =>
    let gb := groupBytes p.fmt p.hTiles
    let groups := (List.range n).flatMap fun e =>
      let gs := groupRows (sorted e)
      (List.range gs.length).map fun i => (e, i, d.partOff r x.reservation gb e + i * gb, gs.getD i [])
    let d := groups.foldl (fun d g => d.writeGroup r p b g.2.2.1 g.2.2.2) d
    let item (g : Nat × Nat × Nat × List RowSt) : WorkItem :=
      let place := d.expertPlace r.layer g.1 r.core
      { routine := x.routine, cls := x.cls, expert := some (localExpert r.route self g.1), rows := g.2.2.2.length,
        affinity := some place.2, done := x.done,
        args := #v[BitVec.ofNat 64 (b.span g.2.2.1 32).addr, BitVec.ofNat 64 (b.span (g.2.2.1 + p.hTiles * tileTotal p.fmt) 32).addr,
                   BitVec.ofNat 64 g.2.1, 0, 0, 0] }
    let noAff (w : WorkItem) : WorkItem := { w with affinity := none }
    let d := match x.reservation.bind d.reservation with
      | some res => d.markSlots res (groups.map fun g => (g.1, g.2.1, noAff (item g)))
      | none => d.mapPhase r false fun p =>
          { p with toPush := groups.map fun g => ((d.expertPlace r.layer g.1 r.core).1, item g) }
    if r.bwd then d else d.afterArrange r.layer ((List.range n).map fun e => (sorted e).length)

/-- The OUT tiles that lack a returned row carry the torn mark (R231). -/
def Dev.tearOut (d : Dev) (r : Round) (x : CombineArgs) : Dev :=
  match d.round? r.bwd r.layer r.mb with
  | none => d
  | some r =>
    match r.comb, d.checkHandle x.out ⟨0, 0, 1, true⟩ with
    | some p, .ok b =>
      let open_ := (List.range (ceilDiv r.tokens 32)).filter fun rt => !p.outDone.contains rt
      let offs := open_.flatMap fun rt => (List.range p.hTiles).map fun j => (rt * p.hTiles + j) * tileTotal x.outFmt
      let d := offs.foldl (fun d o => d.tearBuf b o (tileTotal x.outFmt)) d
      d.mapPhase r true fun p => { p with torn := p.torn + offs.length }
    | _, _ => d

/-- A reservation or an opening that waits is served when it fits (R227, R229): the GATE goes on; a backward round opens for its
DISPATCH, which the caller runs. -/
def Dev.serveWait (d : Dev) : Dev :=
  match d.bz.waits with
  | [] => d
  | w :: rest =>
    if !d.bzRoom w.bwd w.need then d
    else
      let d := { d with bz := { d.bz with waits := rest } }
      if !w.bwd then d.gateGranted w.core
      else match d.acc w.acc with
        | some a =>
          match a.cmd.op with
          | .dispatch x =>
            if (d.round? true w.layer w.mb).isSome then d.haltSta w.acc (badShape 1)
            else d.openRound (bwdRound w.core w.acc w.need x)
          | _ => d
        | none => d

/-- A phase ends once every member has sent its HEADER or is missing (R230, R231). -/
def Dev.phaseCheck (d : Dev) (bwd : Bool) (layer mb : Nat) (ret : Bool) : Dev :=
  let d := if ret then
      (match d.round? bwd layer mb with
       | some r => (d.combineReady bwd layer mb (List.range (ceilDiv r.tokens 32))).retireEntries bwd layer mb
       | none => d)
    else d
  match d.round? bwd layer mb with
  | none => d
  | some r =>
    match r.phase? ret with
    | none => d
    | some p =>
      if p.arranged || !p.sentHeaders || !p.members.all fun m => m.header || m.missing then d
      else
        let gone := p.members.filter (·.missing)
        let stale := (gone.filter (·.stale)).length
        let bz := d.bz
        let d := { d with bz := { bz with missing := sat32 (bz.missing + gone.length), stale := sat32 (bz.stale + stale) } }
        let d := d.bzErr ((if gone.isEmpty then 0 else 0x10) + if stale > 0 then 1 else 0)
        match d.round? bwd layer mb with
        | none => d
        | some r =>
          match r.phase? ret with
          | none => d
          | some p =>
            let d := if ret then
                (match d.combineOf p with | some x => d.tearOut r x | none => d)
              else (match d.dispatchOf p with | some x => d.arrange r p x | none => d)
            match d.round? bwd layer mb with
            | none => d
            | some r =>
              match r.phase? ret with
              | none => d
              | some p =>
                let re := d.bz.reexpr
                let d := { d with bz := { d.bz with reexpr := sat32 (re + p.reexpr) } }
                let d := if ret then
                    { d with bz := { d.bz with rounds := d.bz.rounds.filter fun y => !(y.bwd == bwd && y.layer == layer && y.mb == mb) } }
                  else d
                if p.toPush.isEmpty then d.closeOp r p else d.feedRound r

/-! ## Messages of a phase -/

/-- A message of a phase that has begun here and has not ended (R214, R230). -/
def Dev.enterMsg (d : Dev) (r : Round) (ret : Bool) (m : BzMsg) : Dev :=
  match r.phase? ret with
  | none => d
  | some p =>
    let pos := r.members.idxOf m.src
    match p.members.find? fun x => x.pos == pos with
    | none => d
    | some x =>
      if x.missing || x.header then d
      else
        let d :=
          if m.epoch ≠ p.epoch then d.markMissing r ret pos true
          else if m.format ≠ fmtCode p.fmt || m.hTiles ≠ p.hTiles then d.markMissing r ret pos false
          else if m.kind = bzRows then d.enterRows r ret p pos m
          else if m.kind = bzHeader then d.enterHeader r ret p pos m
          else if m.kind = bzDropList && ret then d.enterDrops r p pos m
          else d.markMissing r ret pos false
        d.phaseCheck r.bwd r.layer r.mb ret

/-- A message that is discarded as late (R232). -/
def Dev.bzLate (d : Dev) : Dev := ({ d with bz := { d.bz with late := sat32 (d.bz.late + 1) } }).bzErr 2

/-- A member is missing from the REQUEST wait of a NEGOTIATED round: its request is no longer there, and its GRANT does not come
(R230, R231). -/
def Dev.requestLost (d : Dev) (layer mb pos : Nat) : Dev :=
  match d.round? false layer mb with
  | none => d
  | some r =>
    if !r.negotiated || r.gateDone || pos ≥ r.members.length || r.reqMissing.contains pos then d
    else
      let lose (r : Round) : Round :=
        { r with requests := if r.granted then r.requests else r.requests.filter fun x => x.1 != pos, reqMissing := r.reqMissing ++ [pos] }
      (d.setRound false layer mb lose).negotiate layer mb

/-- A message of a phase reaches its round: it waits there while the phase has not begun on this device; after the phase has
ended it is late (R232). -/
def Dev.phaseMsg (d : Dev) (m : BzMsg) : Dev :=
  let bwd := decide (m.phase ≥ 2)
  let ret := m.phase % 2 == 1
  match d.round? bwd m.layer m.microBatch with
  | none => d.bzLate
  | some r =>
    match r.phase? ret with
    | none =>
      let d := d.setRound bwd m.layer m.microBatch fun r => { r with early := r.early ++ [(m.phase, m)] }
      if m.kind = bzAbort && m.phase = 0 then d.requestLost m.layer m.microBatch (r.members.idxOf m.src) else d
    | some p => if p.arranged then d.bzLate else d.enterMsg r ret m

/-- The checks of a message's own CRC and head (R214). -/
def Dev.headOk (d : Dev) (kind : Nat) (m : BzMsg) : Bool :=
  m.crc == bzCrc m && m.version == 1 && m.kind == kind && decide (m.phase ≤ 3) && m.resv == 0 && m.resvHi == 0 &&
    decide (m.src < 8192) && m.dst == d.fx.rankSelf && m.body.length % 32 == 0 && decide (1 ≤ m.hTiles) && decide (m.hTiles ≤ 2048) &&
    decide (m.layer ≤ 65535)

/-- An ABORT in the place of a message that failed (R214, R230). -/
def abortOf (m : BzMsg) : BzMsg := { m with kind := bzAbort, body := zeros 32 }

/-- A Bazaar message arrives: the receiving checks, its ACK, its sender, its head (R214, R378, R385, R577). -/
def Dev.bzIn (d : Dev) (via : Via) (kind : Nat) (m : BzMsg) (act : Dev → Dev) : Dev :=
  match d.msgIn via with
  | (false, d) => d
  | (true, d) =>
    let d := d.ackMsg via 0
    let fail (d : Dev) : Dev := ({ d with bz := { d.bz with msgFail := sat32 (d.bz.msgFail + 1) } }).bzErr 0x40
    if d.fidRank via.srcId ≠ some m.src then fail d
    else if !d.headOk kind m then
      let d := if m.crc == bzCrc m then fail d else (fail d).bzErr 0x20
      if (d.round? (decide (m.phase ≥ 2)) m.layer m.microBatch).isSome && m.phase ≤ 3 then d.phaseMsg (abortOf m) else d
    else act d

/-- R221: HEADER. -/
def execHeader (via : Via) (m : BzMsg) (s : State) : Host.Outcome State Fault Refusal :=
  s.onDev fun d => d.bzIn via bzHeader m fun d => d.phaseMsg m

/-- The tiles of a ROWS message of a round came in by a port (R29). What comes before the phase begins here counts for it too. -/
def Dev.rowsCame (d : Dev) (via : Via) (m : BzMsg) : Dev :=
  let key := bzKey m.phase m.layer m.microBatch
  match d.round? (decide (m.phase ≥ 2)) m.layer m.microBatch with
  | none => d
  | some r =>
    let d := if (d.track? 2 key).isSome || ((r.phase? (m.phase % 2 == 1)).elim false (·.arranged)) then d
      else d.track 2 key (bazaarUnit (dieOfCore d.grade r.core)) true
    d.noteTiles key via.port 1 ((fmtOf m.format).elim 0 fun f => m.hTiles * tileTotal f)

/-- R219: ROWS. -/
def execRows (via : Via) (m : BzMsg) (s : State) : Host.Outcome State Fault Refusal :=
  s.onDev fun d => d.bzIn via bzRows m fun d => (d.rowsCame via m).phaseMsg m

/-- R220: DROP_LIST. -/
def execDropList (via : Via) (m : BzMsg) (s : State) : Host.Outcome State Fault Refusal :=
  s.onDev fun d => d.bzIn via bzDropList m fun d => d.phaseMsg m

/-- R230: BAZAAR_ABORT. -/
def execBazaarAbort (via : Via) (m : BzMsg) (s : State) : Host.Outcome State Fault Refusal :=
  s.onDev fun d => d.bzIn via bzAbort m fun d => d.phaseMsg m

/-- Whether a message names the format and width of a round's rows (R210). -/
def Round.agrees (r : Round) (m : BzMsg) : Bool := m.format == fmtCode r.fmt && m.hTiles == r.hTiles

/-- A REQUEST at an owner (R217). -/
def Dev.requestMsg (d : Dev) (m : BzMsg) : Dev :=
  match d.round? false m.layer m.microBatch with
  | none => d.bzLate
  | some r =>
    let pos := r.members.idxOf m.src
    if !r.negotiated || r.granted || m.phase ≠ 0 || pos ≥ r.members.length || r.requests.any (fun x => x.1 == pos) then d.bzLate
    else
      let counts := (List.range (fieldAt m.body 0 2)).map fun i => fieldAt m.body (32 + 2 * i) 2
      let d := d.setRound false m.layer m.microBatch fun r =>
        if m.epoch = r.epoch && r.agrees m then { r with requests := r.requests ++ [(pos, counts)] }
        else { r with reqMissing := r.reqMissing ++ [pos] }
      d.negotiate m.layer m.microBatch

/-- R217: REQUEST. -/
def execRequest (via : Via) (m : BzMsg) (s : State) : Host.Outcome State Fault Refusal :=
  s.onDev fun d => d.bzIn via bzRequest m fun d => d.requestMsg m

/-- A GRANT at a source (R217). -/
def Dev.grantMsg (d : Dev) (m : BzMsg) : Dev :=
  match d.round? false m.layer m.microBatch with
  | none => d.bzLate
  | some r =>
    let pos := r.members.idxOf m.src
    if !r.negotiated || r.gateDone || m.phase ≠ 0 || pos ≥ r.members.length || r.grants.any (fun x => x.1 == pos) then d.bzLate
    else
      let es := (List.range (fieldAt m.body 0 2)).map fun i => (fieldAt m.body (32 + 4 * i) 2, fieldAt m.body (34 + 4 * i) 2)
      let d := d.setRound false m.layer m.microBatch fun r =>
        if m.epoch = r.epoch && r.agrees m then { r with grants := r.grants ++ [(pos, es)] }
        else { r with reqMissing := r.reqMissing ++ [pos] }
      d.negotiate m.layer m.microBatch

/-- R217: GRANT. -/
def execGrant (via : Via) (m : BzMsg) (s : State) : Host.Outcome State Fault Refusal :=
  s.onDev fun d => d.bzIn via bzGrant m fun d => d.grantMsg m

/-! ## Sending -/

/-- A tile that the Bazaar reads to send: the tile, and where it failed the CRC it came with, or none after an uncorrectable error (R67,
R545). -/
def Dev.bzRead (d : Dev) (r : Round) (id key : Nat) (s : Span) (f : Fmt) (rows cols epoch : Nat) :
    (List Byte × Option (Option Nat)) × Dev :=
  let failed := d.inputFailed (.acc id) key
  match (if failed then (Except.error 0, d) else d.readSpan (.acc id) key s) with
  | (.error _, d) => ((mkTile f rows cols ⟨false, false, false, false⟩ [] epoch fun _ _ => 0, some none), d)
  | (.ok t, d) =>
    match d.bzCheck r epoch (tileGood (fun g => g == f) t) with
    | (ok, d) => ((t, if ok then none else some (some (storedCrc t))), d)

/-- Tiles read one after another: (key, span, rows, cols). -/
def Dev.bzReads (d : Dev) (r : Round) (id : Nat) (f : Fmt) (epoch : Nat) :
    List (Nat × Span × Nat × Nat) → List (List Byte × Option (Option Nat)) × Dev
  | [] => ([], d)
  | (key, s, rows, cols) :: rest =>
    match d.bzRead r id key s f rows cols epoch with
    | (t, d) =>
      match d.bzReads r id f epoch rest with
      | (ts, d) => (t :: ts, d)

/-- The column tiles of a row tile that failed, with the CRCs they came with. -/
def badOf (ts : List (List Byte × Option (Option Nat))) : List (Nat × Option Nat) :=
  (List.range ts.length).filterMap fun j => (ts.getD j ([], none)).2.map fun c => (j, c)

/-- The rows and header of one member go out (R216); to itself they go through the same steps (R207). -/
def Dev.sendMember (d : Dev) (bwd : Bool) (layer mb : Nat) (ret : Bool) (p : PhaseSt) (pos : Nat) (rows : List RowSt)
    (drops : List Word64) (counts : List Nat) : Dev :=
  match d.round? bwd layer mb with
  | none => d
  | some r =>
    let m := r.members.getD pos 0
    let own := decide (pos = r.pos)
    let phase := phaseCode bwd ret
    let send (d : Dev) (kind : Nat) (body : List Byte) : Dev :=
      if own then
        match d.round? bwd layer mb with
        | none => d
        | some r =>
          let msg : BzMsg :=
            { version := 1, kind := kind, phase := phase, format := fmtCode p.fmt, layer := layer, microBatch := mb,
              resv := 0, src := m, dst := m, epoch := p.epoch, crc := 0, hTiles := p.hTiles, resvHi := 0, body := body }
          d.enterMsg r ret msg
      else d.bzSend r.core kind phase p.fmt layer mb m p.epoch p.hTiles body
    let gs := groupRows rows
    let d := gs.foldl (fun d g =>
      let b := rowsBody p.fmt layer p.epoch p.hTiles g
      send (d.mapPhase r ret fun p => { p with reexpr := p.reexpr + b.2 }) bzRows b.1) d
    let d := if drops.isEmpty then d
      else send d bzDropList (leBytes 4 drops.length ++ zeros 28 ++ drops.flatMap fun t => leBytes 8 t.toNat)
    let d := d.mapPhase r ret fun p => { p with rowsSent := p.rowsSent + rows.length }
    send d bzHeader (headerBody rows.length gs.length (d.headerTag mb p.epoch rows.isEmpty) drops.length counts)

/-- A phase has begun: messages that came before it enter it, then this device's own sending (R216, R218). -/
def Dev.runPhase (d : Dev) (bwd : Bool) (layer mb : Nat) (ret : Bool) (p : PhaseSt)
    (jobs : List (Nat × List RowSt × List Word64 × List Nat)) : Dev :=
  let code := phaseCode bwd ret
  let early := (d.round? bwd layer mb).elim [] fun r => r.early.filter fun x => x.1 == code
  let key := bzKey code layer mb
  let d := if (d.track? 2 key).isSome then d
    else d.track 2 key (bazaarUnit (dieOfCore d.grade ((d.round? bwd layer mb).elim 0 (·.core)))) true
  let d := d.setRound bwd layer mb fun r =>
    let r := { r with early := r.early.filter fun x => x.1 != code }
    if ret then { r with comb := some p } else { r with disp := some p }
  let d := early.foldl (fun d x => match d.round? bwd layer mb with
    | some r => d.enterMsg r ret x.2
    | none => d) d
  let d := jobs.foldl (fun d j => d.sendMember bwd layer mb ret p j.1 j.2.1 j.2.2.1 j.2.2.2) d
  let d := match d.round? bwd layer mb with
    | some r => d.mapPhase r ret fun p => { p with sentHeaders := true }
    | none => d
  d.phaseCheck bwd layer mb ret

/-- The choice array as bytes, by token and rank: admitted, tag, expert, WEIGHT (R199). -/
def choicesOf (bs : List Byte) (tokens k : Nat) : List (List (Bool × Word64 × Nat × Nat)) :=
  (List.range tokens).map fun t => (List.range k).map fun j =>
    let e := slice bs (t * (16 * k + 8) + 16 * j) 16
    let tag := BitVec.ofNat 64 (fieldAt e 0 8)
    ((unpackTag tag).dropped == 0, tag, fieldAt e 8 2 % 4096, fieldAt e 10 2)

/-- The span of a handle's range, or the halt of R348. -/
def Dev.handleSpan (d : Dev) (h : Word64) (len : Nat) (write : Bool) : Except HaltInfo Span :=
  match d.checkHandle h ⟨0, len, 8, write⟩ with
  | .error k => .error (badHandle h k)
  | .ok b => .ok (b.span 0 len)

/-- Bytes of a row slot of RECV (R219) and, with the format and width of EXPERT_OUT, of RET (R208; log entry 99). -/
def rowSlot (f : Fmt) (hTiles : Nat) : Nat := roundUp (hTiles * 4 * fmtBits f + 2 * hTiles + 16) 32

/-- The limits of R208 that both operations share: the position of an operand outside them, `wide` that of the tiles H wide. -/
def roundLimits (r : RoundArgs) (hTiles wide : Nat) : Option Nat :=
  if r.layer > 65535 || r.microBatch > 255 then some 1
  else if r.group = 0 || r.group > 8192 || r.pos ≥ r.group then some 3
  else if r.tokens = 0 || r.tokens > 2 ^ 20 || r.k = 0 || r.k > 8 || r.tokens * r.k > tagLimit then some 4
  else if hTiles = 0 || hTiles > 2048 then some wide
  else none

/-- A scaled or integer format that OUT cannot take: INT32 (R571), or a scaled one without an entry (R153). -/
def outBad (f : Fmt) (entry : Option ScaleRef) : Bool := f == .int32 || (fmtScaled f && entry.isNone)

/-- The checks of a DISPATCH before it opens or joins its round (R92, R208). -/
def Dev.dispatchFault (d : Dev) (x : DispatchArgs) : Option HaltInfo :=
  if !wbit d.bz.ctrl 0 then some (bzAbsent .st)
  else match roundLimits x.r (ceilDiv x.r.hidden 32) 6 with
    | some p => some (badShape p)
    | none =>
      if x.routeTable % 64 ≠ 0 then some (badShape 5)
      else if x.experts = 0 || x.experts > 4096 || x.experts < x.r.k then some (badShape 5)
      else if !d.hasRoutine x.routine || x.cls > 3 || !x.done.all d.doneOk then some (badShape 9)
      else if x.reservation.any fun i => (d.reservation i).all fun v => v.layer != x.r.layer then some (badShape 9)
      else none

/-- The spans of the row tiles of ROWS_IN, by tile number. -/
def Dev.rowsSpans (d : Dev) (x : DispatchArgs) : Except HaltInfo (List (Nat × Span)) :=
  let n := ceilDiv x.r.tokens 32 * ceilDiv x.r.hidden 32
  (List.range n).foldl (fun (e : Except HaltInfo (List (Nat × Span))) i => e.bind fun ss =>
    (d.tileSpan 6 x.rowsIn none x.rowsFmt i false).bind fun s =>
      if d.spanCoh s then .error { reason := rBadOperand, unit := 0, kind := 9, address := s.addr, d0 := 6 }
      else .ok (ss ++ [(i, s)])) (.ok [])

/-- The slot of a handle, for the references of a command (R352). -/
def handleSlots (hs : List Word64) : List Nat := hs.map fun h => (unpackHandle h).slot.toNat

/-- Handles of a memory operand. -/
def refHandles : MemRef → List Word64
  | .addr _ => []
  | .handle h _ => [h]

/-- Inputs of a station command from outside the device: asked for once; `none` while some are awaited. -/
def Dev.staInputs (d : Dev) (id : Nat) (ss : List (Nat × Span)) : Option Dev × Dev :=
  let r : Reader := .acc id
  if d.mustAsk r ss then
    match d.askAll r ss with
    | .ok d => (none, d)
    | .error (a, st) =>
      let d := d.cplErr none (some a) st (d.readerReq r) false
      (none, d.haltSta id (d.busHalt .st a))
  else if d.inputsIn r ss then (some d, d) else (none, d)

/-- A DISPATCH runs in its round: it reads its operands and sends (R208, R216, R218, R219). -/
def Dev.dispatchGo (d : Dev) (a : Accepted) (x : DispatchArgs) : Dev :=
  let ht := ceilDiv x.r.hidden 32
  let nCh := x.r.tokens * (16 * x.r.k + 8)
  match d.rowsSpans x, d.handleSpan x.r.choices nCh false with
  | .error h, _ => d.haltSta a.id h
  | _, .error h => d.haltSta a.id h
  | .ok rs, .ok cs =>
    let chKey := 2 ^ 41
    match d.staInputs a.id (rs ++ [(chKey, cs)]) with
    | (none, d) => d
    | (some _, d) =>
      match d.readRanks (.acc a.id) 3 x.r.members x.r.group with
      | (.error h, d) => d.haltSta a.id h
      | (.ok ms, d) =>
        match d.readRoute (.acc a.id) 5 x.routeTable x.experts with
        | (.error h, d) => d.haltSta a.id h
        | (.ok route, d) =>
          let d := d.setRound x.r.bwd x.r.layer x.r.microBatch fun r => { r with members := ms, route := route, pos := x.r.pos }
          match d.round? x.r.bwd x.r.layer x.r.microBatch with
          | none => d
          | some r =>
            let self := d.fx.rankSelf
            let n := localCount route self
            let recv := ((List.range n).map fun e => localCap route self e * rowSlot x.rowsFmt ht).sum
            let inBytes := d.partOff r x.reservation (groupBytes x.rowsFmt ht) n
            let recBytes := 64 + roundUp (ceilDiv x.r.group 8) 32
            let small := match d.checkHandle x.recv ⟨0, recv, 8, true⟩ with | .error 6 => true | _ => false
            match d.handleSpan x.recv recv true, d.handleSpan x.expertIn inBytes true, d.handleSpan x.r.record recBytes true with
            | .error h, _, _ => d.haltSta a.id (if small then badShape 7 else h)
            | _, .error h, _ => d.haltSta a.id h
            | _, _, .error h => d.haltSta a.id h
            | .ok _, .ok _, .ok _ =>
              match d.readSpan (.acc a.id) chKey cs with
              | (.error addr, d) => d.haltSta a.id (d.busHalt .st addr)
              | (.ok chb, d) =>
                let chs := choicesOf chb x.r.tokens x.r.k
                let tile (i : Nat) : Nat × Span × Nat × Nat :=
                  (i, ((rs.find? fun y => y.1 == i).map (·.2)).getD (.mem []), min 32 (x.r.tokens - 32 * (i / ht)),
                   min 32 (x.r.hidden - 32 * (i % ht)))
                match d.bzReads r a.id x.rowsFmt x.r.epoch ((List.range rs.length).map tile) with
                | (ts, d) =>
                  let rowTiles (rt : Nat) : List (List Byte × Option (Option Nat)) := (ts.drop (rt * ht)).take ht
                  let row (t : Nat) (c : Bool × Word64 × Nat × Nat) : RowSt :=
                    let rtiles := rowTiles (t / 32)
                    mkRow x.rowsFmt (rtiles.map (·.1)) (badOf rtiles) (t % 32) x.r.pos x.r.hidden c.2.1 c.2.2.1 c.2.2.2
                  let rows := (List.range chs.length).flatMap fun t =>
                    ((chs.getD t []).filter (·.1)).map fun c => row t c
                  let ownerPos (e : Nat) : Nat := ms.idxOf ((route[e]?).elim 0 (·.2.1))
                  let job (p : Nat) : Nat × List RowSt × List Word64 × List Nat :=
                    let mine := rows.filter fun y => ownerPos y.expert == p
                    let m := ms.getD p 0
                    (p, mine, [], (List.range (localCount route m)).map fun e =>
                      (mine.filter fun y => y.expert == localExpert route m e).length)
                  let ph := PhaseSt.opening (phaseCode x.r.bwd false) a x.r.epoch x.rowsFmt ht x.r.group n x.reservation []
                  let d := d.beginAcc a.id
                    (handleSlots ([x.r.choices, x.recv, x.expertIn, x.r.record] ++ refHandles x.rowsIn))
                  d.runPhase x.r.bwd x.r.layer x.r.microBatch false ph ((List.range x.r.group).map job)

/-- The oldest DISPATCH of a core that has not begun goes on: a forward one joins its round once its GATE has completed, a
backward one reserves and opens its round (R208, R218, R227, R229). -/
def Dev.runDispatch (d : Dev) (c : Nat) : Dev :=
  match d.oldest c fun op => match op with | .dispatch _ => true | _ => false with
  | none => d
  | some a =>
    match a.cmd.op with
    | .dispatch x =>
      match d.dispatchFault x with
      | some h => d.haltSta a.id h
      | none =>
        let need := x.r.tokens * x.r.k
        match x.r.bwd, d.round? x.r.bwd x.r.layer x.r.microBatch with
        | false, none => d.haltSta a.id (badShape 1)
        | false, some r =>
          if r.disp.isSome || r.tokens ≠ x.r.tokens || r.k ≠ x.r.k then d.haltSta a.id (badShape 1) else if r.gateDone then d.dispatchGo a x else d
        | true, some r => if r.opener = some a.id && r.disp.isNone then d.dispatchGo a x else d.haltSta a.id (badShape 1)
        | true, none =>
          if d.bz.waits.any fun w => w.bwd && w.acc == a.id then d
          else match d.tableCheck (dieOfCore d.grade c) 3 with
            | (false, d) => d
            | (true, d) =>
              let first := d.bz.waits.isEmpty
              let d := { d with bz := { d.bz with waits := d.bz.waits ++
                [{ core := c, bwd := true, acc := a.id, layer := x.r.layer, mb := x.r.microBatch, need := need }] } }
              if first && d.bzRoom true need then d.serveWait.dispatchGo a x else d
    | _ => d

/-- R208: DISPATCH. -/
def execDispatch (core : Nat) (s : State) : Host.Outcome State Fault Refusal := s.onDev fun d => d.runDispatch core

/-- The backward DISPATCH whose round has just opened runs. -/
def Dev.afterServe (d : Dev) : Dev :=
  match d.bz.rounds.getLast? with
  | none => d
  | some r =>
    match r.opener.bind d.acc with
    | some a =>
      match a.cmd.op with
      | .dispatch x => if r.disp.isNone && !a.begun then d.dispatchGo a x else d
      | _ => d
    | none => d

/-- R227: TAG_RESERVE_SERVED. -/
def execTagReserveServed (s : State) : Host.Outcome State Fault Refusal := s.onDev fun d => d.serveWait.afterServe

/-- R229: ROUND_OPEN_SERVED. -/
def execRoundOpenServed (s : State) : Host.Outcome State Fault Refusal := s.onDev fun d => d.serveWait.afterServe

/-- A COMBINE runs in its round: it reads EXPERT_OUT and CHOICES and sends (R208, R216, R224). -/
def Dev.combineGo (d : Dev) (a : Accepted) (x : CombineArgs) (r : Round) (disp : PhaseSt) : Dev :=
  let ht := ceilDiv x.r.hidden 32
  let nCh := x.r.tokens * (16 * x.r.k + 8)
  let outBytes := ceilDiv x.r.tokens 32 * ht * tileTotal x.outFmt
  let recBytes := 64 + roundUp (ceilDiv x.r.group 8) 32
  let res := disp.reservation
  let gb := ht * tileTotal x.expFmt
  let n := localCount r.route d.fx.rankSelf
  let inExpert (e : Nat) : List RowSt := disp.rows.filter fun y => y.key == e
  let places := (List.range n).flatMap fun e => (List.range (inExpert e).length).map fun i => (e, i)
  let tiles := (List.range n).flatMap fun e =>
    (List.range (ceilDiv (inExpert e).length 32)).flatMap fun g => (List.range ht).map fun j => (e, g, j)
  let key (t : Nat × Nat × Nat) : Nat := (t.1 * 4096 + t.2.1) * 2048 + t.2.2
  let off (t : Nat × Nat × Nat) : Nat := d.partOff r res gb t.1 + t.2.1 * gb + t.2.2 * tileTotal x.expFmt
  let spans := tiles.foldl (fun (e : Except HaltInfo (List (Nat × Span))) t => e.bind fun ss =>
    match d.checkHandle x.expertOut ⟨off t, tileTotal x.expFmt, 32, false⟩ with
    | .error k => .error (badHandle x.expertOut k)
    | .ok b => .ok (ss ++ [(key t, b.span (off t) (tileTotal x.expFmt))])) (.ok [])
  let ret := x.r.tokens * x.r.k * rowSlot x.expFmt ht
  let small := match d.checkHandle x.ret ⟨0, ret, 8, true⟩ with | .error 6 => true | _ => false
  match spans, d.handleSpan x.r.choices nCh true, d.handleSpan x.ret ret true, d.handleSpan x.out outBytes true,
      d.handleSpan x.r.record recBytes true with
  | .error h, _, _, _, _ => d.haltSta a.id h
  | _, .error h, _, _, _ => d.haltSta a.id h
  | _, _, .error h, _, _ => d.haltSta a.id (if small then badShape 6 else h)
  | _, _, _, .error h, _ => d.haltSta a.id h
  | _, _, _, _, .error h => d.haltSta a.id h
  | .ok ss, .ok cs, .ok _, .ok _, .ok _ =>
    let chKey := 2 ^ 41
    match d.staInputs a.id (ss ++ [(chKey, cs)]) with
    | (none, d) => d
    | (some _, d) =>
      match d.readRanks (.acc a.id) 3 x.r.members x.r.group with
      | (.error h, d) => d.haltSta a.id h
      | (.ok ms, d) =>
        let d := d.setRound r.bwd r.layer r.mb fun r => { r with members := ms }
        match d.readSpan (.acc a.id) chKey cs with
        | (.error addr, d) => d.haltSta a.id (d.busHalt .st addr)
        | (.ok chb, d) =>
          let chs := choicesOf chb x.r.tokens x.r.k
          let want (t : Nat × Nat × Nat) : Nat × Span × Nat × Nat :=
            (key t, ((ss.find? fun y => y.1 == key t).map (·.2)).getD (.mem []),
             min 32 ((inExpert t.1).length - 32 * t.2.1), min 32 (x.r.hidden - 32 * t.2.2))
          match d.bzReads r a.id x.expFmt x.r.epoch (tiles.map want) with
          | (got, d) =>
            let lookup (e g j : Nat) : List Byte × Option (Option Nat) := got.getD (tiles.idxOf (e, g, j)) ([], none)
            let row (p : Nat × Nat) : Nat × RowSt :=
              let src := (inExpert p.1).getD p.2 RowSt.none_
              let ts := (List.range ht).map fun j => lookup p.1 (p.2 / 32) j
              (src.pos, mkRow x.expFmt (ts.map (·.1)) (badOf ts) (p.2 % 32) x.r.pos x.r.hidden src.tag src.expert src.weight)
            let rows := places.map row
            let job (p : Nat) : Nat × List RowSt × List Word64 × List Nat :=
              (p, (rows.filter fun y => y.1 == p).map (·.2), (disp.dropTags.filter fun y => y.1 == p).map (·.2), [])
            let ph := PhaseSt.opening (phaseCode x.r.bwd true) a x.r.epoch x.expFmt ht x.r.group 0 none
              (chs.map fun t => t.map fun c => (c.1, c.2.2.2))
            let d := d.beginAcc a.id (handleSlots [x.r.choices, x.expertOut, x.ret, x.out, x.r.record])
            d.runPhase x.r.bwd x.r.layer x.r.microBatch true ph ((List.range x.r.group).map job)

/-- The oldest COMBINE of a core that has not begun runs once its round's dispatch is arranged (R208). -/
def Dev.runCombine (d : Dev) (c : Nat) : Dev :=
  match d.oldest c fun op => match op with | .combine _ => true | _ => false with
  | none => d
  | some a =>
    match a.cmd.op with
    | .combine x =>
      if !wbit d.bz.ctrl 0 then d.haltSta a.id (bzAbsent .st)
      else match roundLimits x.r (ceilDiv x.r.hidden 32) 5 with
        | some p => d.haltSta a.id (badShape p)
        | none =>
          if outBad x.outFmt x.outEntry then d.haltSta a.id (badShape 8)
          else match d.round? x.r.bwd x.r.layer x.r.microBatch with
            | none => d.haltSta a.id (badShape 1)
            | some r =>
              if r.comb.isSome || r.tokens ≠ x.r.tokens || r.k ≠ x.r.k then d.haltSta a.id (badShape 1)
              else match r.disp with
                | some p => if p.arranged then d.combineGo a x r p else d
                | none => d
    | _ => d

/-- R224: COMBINE. -/
def execCombine (core : Nat) (s : State) : Host.Outcome State Fault Refusal := s.onDev fun d => d.runCombine core

/-! ## Deadlines, counts and the enable -/

/-- BZ_DEADLINE in ns. -/
def Dev.bzDeadline (d : Dev) : Nat := d.bz.deadline.toNat * 1000

/-- The REQUEST wait of a NEGOTIATED round ends (R230, R231): sources without a REQUEST and owners without a GRANT are missing. -/
def Dev.requestDeadline (d : Dev) (layer mb : Nat) : Dev :=
  match d.round? false layer mb with
  | none => d
  | some r =>
    if !r.negotiated || r.gateDone then d
    else
      let d := d.advanceTo (r.gateStart + d.bzDeadline)
      let s := r.members.length
      let late := (List.range s).filter fun p => p != r.pos && !(r.requests.any fun x => x.1 == p) && !r.reqMissing.contains p
      let d := if r.granted then d
        else (d.setRound false layer mb fun r => { r with reqMissing := r.reqMissing ++ late }).tryGrant layer mb
      match d.round? false layer mb with
      | none => d
      | some r =>
        let noGrant := (List.range s).filter fun p => !(r.grants.any fun x => x.1 == p) && !r.reqMissing.contains p
        let d := d.setRound false layer mb fun r => { r with reqMissing := r.reqMissing ++ noGrant }
        d.negotiate layer mb

/-- R230: PHASE_DEADLINE: members without a HEADER are missing. -/
def execPhaseDeadline (layer microBatch phase : Nat) (s : State) : Host.Outcome State Fault Refusal :=
  s.onDev fun d =>
    if phase = 4 then d.requestDeadline layer microBatch
    else
      let bwd := decide (phase ≥ 2)
      let ret := phase % 2 == 1
      match d.round? bwd layer microBatch with
      | none => d
      | some r =>
        match r.phase? ret with
        | none => d
        | some p =>
          if p.arranged then d
          else
            let d := d.advanceTo (p.since + d.bzDeadline)
            let d := d.mapPhase r ret fun p => (p.members.filter fun m => !m.header).foldl (fun p m => p.lose r.k m.pos false) p
            d.phaseCheck bwd layer microBatch ret

/-- R237: BZ_CLEAR_COUNTS. -/
def execBzClearCounts (s : State) : Host.Outcome State Fault Refusal :=
  s.onBar fun d =>
    { d with bz := { d.bz with tagsPeak := 0, stale := 0, late := 0, dup := 0, overrun := 0, reexpr := 0, missing := 0, msgFail := 0 } }

/-- A GATE whose round ended under R233 completes FAILED (R206, R233). -/
def Dev.gateAbort (d : Dev) (c : Nat) : Dev :=
  let d := d.setCore c fun s => { s with gate := none, span := none, acc := s.acc.fresh }
  (d.setHead c .mx fun q => { q with ran := true, hold := [] }).settleCore c

/-- The Bazaar is disabled (R238): every open round ends under R233; operations that wait for room halt their cores with ENGINE_ABSENT
(R237), in ascending order of the cores (R108). -/
def Dev.bzDisable (d : Dev) : Dev :=
  let d := { d with bz := { d.bz with ctrl := wclr d.bz.ctrl 1 } }
  let gates := (d.bz.rounds.filter fun r => !r.bwd && !r.gateDone).map (·.core)
  let waits := d.bz.waits
  let d := d.bz.rounds.foldl (fun d r => d.endRound r) d
  let d := gates.foldl (fun d c => d.gateAbort c) { d with bz := { d.bz with waits := [] } }
  let byCore := (List.range d.n).flatMap fun c => waits.filter fun w => w.core == c
  byCore.foldl (fun d w => if w.bwd then d.haltSta w.acc (bzAbsent .st) else d.haltCmd w.core .mx (bzAbsent .mx)) d

/-- R238: BZ_DISABLE. -/
def execBzDisable (s : State) : Host.Outcome State Fault Refusal := s.onBar fun d => d.bzDisable

end Sys2Proof.Machine
end

