-- ==== Sys2Proof/Machine/Depot.lean ====
section
/-! DEFINITION. The meanings of the Depot's commands: ALLOC with its waits (R349, R350), RETAIN and RELEASE (R351), stash allocations
(R247 to R254), version takes and drops (R264 to R269), prefetch streams (R341), and the counts of the Depot and the placement
engine (R365, R366). -/

namespace Sys2Proof.Machine

open Sys2Proof

/-- ENGINE_ABSENT of a disabled Depot (R365). -/
def depotAbsent : HaltInfo := { reason := rEngineAbsent, unit := 4, kind := 6 }

/-- A Depot command halts its core; a handle that failed is counted (R348). -/
def Dev.haltDepot (d : Dev) (id : Nat) (h : HaltInfo) : Dev :=
  (if h.reason = rHandle then d.countInvalid else d).haltAcc id h

/-- The halt of a RESULT address (R349): kind 9 outside job memory, then kind 1. -/
def Dev.resultFault (d : Dev) (pos a : Nat) : Option HaltInfo :=
  if !inJobMem d.grade a 8 then some { reason := rBadOperand, unit := 4, kind := 9, address := a, d0 := pos }
  else if a % 8 ≠ 0 then some { reason := rBadOperand, unit := 4, kind := 1, address := a, d0 := pos }
  else none

/-- A handle written to a RESULT address, and the command's completion (R349, R87). -/
def Dev.giveHandle (d : Dev) (id result : Nat) (h : Word64) : Dev := (d.write result (leBytes 8 h.toNat)).completeAcc id

/-! ## ALLOC -/

/-- What an ALLOC asks for once it has passed its checks, those of ALIGN_WITH as a handle first (R348): the pool and the k₀ that
ALIGN_WITH gives. -/
def Dev.allocCheck (d : Dev) (a : AllocArgs) : Except (Nat × Nat) (Pool × Option Nat) :=
  let aligned : Except (Nat × Nat) (Option Buf) :=
    if a.alignWith = 0 then .ok none
    else match d.checkHandle a.alignWith ⟨0, 0, 1, false⟩ with
      | .error k => .error (a.alignWith.toNat, k)
      | .ok b => .ok (some b)
  aligned.bind fun al =>
    match d.pool a.pool with
    | none => .error (0, 12)
    | some p =>
      if p.kind ≠ 1 || a.bytes % 32 ≠ 0 || a.bytes < 32 || a.bytes > 2 ^ 40 then .error (0, 12)
      else if p.extent a.fmt > 2 ^ p.pageLog2 then .error (0, 12)
      else if p.spread = 2 && !(p.wells d.grade).contains a.well then .error (0, 12)
      else match al with
        | none => .ok (p, none)
        | some b =>
          if (d.pool b.pool).any fun q => q.spread == p.spread && q.mask == p.mask then .ok (p, some b.k0)
          else .error (a.alignWith.toNat, 12)

/-- A buffer of KIND 0 for a checked ALLOC, or none without room or slot (R350). -/
def Dev.allocTry (d : Dev) (a : AllocArgs) : Option (Buf × Dev) :=
  match d.allocCheck a with
  | .error _ => none
  | .ok (p, k0) => d.allocIn p a.bytes 0 a.fmt k0 a.well

/-- Whether an ALLOC of a pool must let the waiting ALLOCs of a list go first (R350): one of them waits on the same pool, or there is no
free slot beyond those that they would take now. -/
def Dev.behind (d : Dev) (ws : List AllocWait) (pool : Nat) : Bool :=
  (ws.any fun w => w.args.pool == pool) ||
    decide (slotCount ≤ d.depot.bufs.length + (ws.filter fun w => (d.allocTry w.args).isSome).length)

/-- An ALLOC waits (R350). -/
def Dev.waitAlloc (d : Dev) (id : Nat) (a : AllocArgs) (host : Option (Nat × Nat)) : Dev :=
  { d with depot := { d.depot with waits := d.depot.waits ++ [{ id := id, args := a, since := d.now, host := host }],
                                   err := wset d.depot.err 4 } }

/-- R349, R350: ALLOC of a core. -/
def Dev.allocOp (d : Dev) (c : Nat) : Dev :=
  match d.oldest c fun o => match o with | .alloc _ => true | _ => false with
  | none => d
  | some x =>
    match x.cmd.op with
    | .alloc a =>
      let result := a.result.getD 0
      if !wbit d.depot.ctrl 0 then d.haltDepot x.id depotAbsent
      else match d.allocCheck a, d.resultFault 5 result with
        | .error (h, k), _ => d.haltDepot x.id { reason := rHandle, unit := 4, d0 := h, d1 := k }
        | .ok _, some h => d.haltDepot x.id h
        | .ok _, none =>
          let d := d.beginAcc x.id []
          if d.behind d.depot.waits a.pool then d.waitAlloc x.id a none
          else match d.allocTry a with
            | none => d.waitAlloc x.id a none
            | some (b, d) => d.giveHandle x.id result (d.handleOf b)
    | _ => d

/-- R349: ALLOC. -/
def execAlloc (core : Nat) (s : State) : Host.Outcome State Fault Refusal := s.onDev fun d => d.allocOp core

/-- A waiting ALLOC leaves the line. -/
def Dev.dropWait (d : Dev) (w : AllocWait) : Dev := { d with depot := { d.depot with waits := d.depot.waits.erase w } }

/-- The oldest ALLOC that waits on a pool takes the room and the slot freed meanwhile, unless an earlier one of another pool is to have
that slot (R350). -/
def Dev.allocGranted (d : Dev) (pool : Nat) : Dev :=
  match d.depot.waits.find? fun w => w.args.pool == pool with
  | none => d
  | some w =>
    match (if d.behind (d.depot.waits.takeWhile (· != w)) pool then none else d.allocTry w.args) with
    | none => d
    | some (b, d) =>
      let d := d.dropWait w
      let h := d.handleOf b
      match w.host with
      | none => d.giveHandle w.id (w.args.result.getD 0) h
      | some (ring, slot) => d.finishDesc ring slot stOk 0 h.toNat 0 0

/-- R350: ALLOC_GRANTED. -/
def execAllocGranted (pool : Nat) (s : State) : Host.Outcome State Fault Refusal := s.onDev fun d => d.allocGranted pool

/-- A waiting ALLOC passes WAIT_MAX and fails check 10 (R350). -/
def Dev.allocTimeout (d : Dev) (id : Nat) : Dev :=
  match d.depot.waits.find? fun w => w.id == id with
  | none => d
  | some w =>
    let d := d.advanceTo (w.since + 1000 * (d.pool w.args.pool).elim 0 (·.waitMax))
    let d := d.dropWait w
    let d := { d with depot := { d.depot with err := wset d.depot.err 8 } }
    match w.host with
    | none => d.haltDepot id { reason := rHandle, unit := 4, d0 := 0, d1 := 10 }
    | some (ring, slot) => d.countInvalid.finishDesc ring slot stRejected 0x0F 0 10 0

/-- R350: ALLOC_TIMEOUT. -/
def execAllocTimeout (id : Nat) (s : State) : Host.Outcome State Fault Refusal := s.onDev fun d => d.allocTimeout id

/-! ## Counts -/

/-- The checks of RETAIN and RELEASE (R348): the buffer, or the failing check. -/
def Dev.countCheck (d : Dev) (h : Word64) (retain : Bool) : Except Nat Buf :=
  match d.checkHandle h ⟨0, 0, 1, false⟩ with
  | .error k => .error k
  | .ok b => if b.kind ≥ 2 then .error 9 else if retain && b.refs ≥ 65535 then .error 11 else .ok b

/-- RETAIN (R351). -/
def Dev.retainOp (d : Dev) (c : Nat) : Dev :=
  match d.oldest c fun o => match o with | .retain _ => true | _ => false with
  | none => d
  | some x =>
    match x.cmd.op with
    | .retain h =>
      if !wbit d.depot.ctrl 0 then d.haltDepot x.id depotAbsent
      else match d.countCheck h true with
        | .error k => d.haltDepot x.id (badHandle h k)
        | .ok b => ((d.beginAcc x.id []).retain b.slot).completeAcc x.id
    | _ => d

/-- R351: RETAIN. -/
def execRetain (core : Nat) (s : State) : Host.Outcome State Fault Refusal := s.onDev fun d => d.retainOp core

/-- RELEASE (R351). -/
def Dev.releaseOp (d : Dev) (c : Nat) : Dev :=
  match d.oldest c fun o => match o with | .release _ => true | _ => false with
  | none => d
  | some x =>
    match x.cmd.op with
    | .release h =>
      if !wbit d.depot.ctrl 0 then d.haltDepot x.id depotAbsent
      else match d.countCheck h false with
        | .error k => d.haltDepot x.id (badHandle h k)
        | .ok b => ((d.beginAcc x.id []).release b.slot).completeAcc x.id
    | _ => d

/-- R351: RELEASE. -/
def execRelease (core : Nat) (s : State) : Host.Outcome State Fault Refusal := s.onDev fun d => d.releaseOp core

/-! ## The stash -/

/-- Lines of the stash in use in a Well. -/
def Depot.stashIn (dp : Depot) (g : Grade) (w : Nat) : List Nat :=
  (dp.bufs.filter fun b => b.pool == 255 && b.kind == 0).flatMap fun b => b.extents.filter fun e => wellOf g e == w

/-- Stash lines in use (R365, DP_STASH_USED). -/
def Depot.stashUsed (dp : Depot) : Nat :=
  ((dp.bufs.filter fun b => b.pool == 255 && b.kind == 0).map fun b => b.extents.length).sum

/-- Stash lines reserved (R365, DP_STASH_RESERVED). -/
def Depot.stashLines (dp : Depot) : Nat := (dp.stash.map (·.2.2)).sum

/-- Free lines of the reservation by Well, lowest address first (R248). -/
def Dev.stashFree (d : Dev) : List (Nat × List Nat) :=
  (presentWells d.grade).map fun w =>
    let used := d.depot.stashIn d.grade w
    (w, match d.depot.stash.find? fun r => r.1 == w with
      | none => []
      | some (_, base, n) => ((List.range n).map fun i => base + 2048 * i).filter fun a => !used.contains a)

/-- One line at a place of the rotation, or of the next Well that has one (R248): the line, and what is left. -/
def takeLine (free : List (Nat × List Nat)) (i : Nat) : Option (Nat × List (Nat × List Nat)) :=
  let m := free.length
  ((List.range m).map fun j => (i + j) % max 1 m).findSome? fun j =>
    match free.getD j (0, []) with
    | (w, l :: ls) => some (l, free.set j (w, ls))
    | _ => none

/-- `n` lines from place `i` of the rotation on. -/
def takeLines : Nat → Nat → List (Nat × List Nat) → Option (List Nat)
  | 0, _, _ => some []
  | n + 1, i, free =>
    match takeLine free i with
    | none => none
    | some (l, free) => (takeLines n (i + 1) free).map fun ls => l :: ls

/-- The offset at which the spill ring takes an allocation, if it has room (R251). -/
def Depot.spillAt (dp : Depot) (size bytes : Nat) : Option Nat :=
  let tail := dp.spillTail
  match dp.spill.head?, dp.spill.getLast? with
  | some h, some l =>
    if l.off < h.off then (if tail + bytes ≤ h.off then some tail else none)
    else if tail + bytes ≤ size then some tail
    else if bytes ≤ h.off then some 0
    else none
  | _, _ => if tail + bytes ≤ size then some tail else if bytes ≤ size then some 0 else none

/-- STASH_ALLOC (R248 to R251). -/
def Dev.stashAlloc (d : Dev) (c : Nat) : Dev :=
  match d.oldest c fun o => match o with | .stashAlloc .. => true | _ => false with
  | none => d
  | some x =>
    match x.cmd.op with
    | .stashAlloc mb bytes result =>
      if !wbit d.depot.ctrl 0 then d.haltDepot x.id depotAbsent
      else if mb > 255 then d.haltDepot x.id (badShape 0)
      else if bytes < 32 || bytes > 2 ^ 32 || bytes % 32 ≠ 0 then d.haltDepot x.id (badShape 1)
      else match d.resultFault 2 result with
        | some h => d.haltDepot x.id h
        | none =>
          let n := roundUp bytes 2048
          let left := 2048 * (d.depot.stashLines - d.depot.stashUsed)
          let full : HaltInfo := { reason := rStashFull, unit := 4, d0 := n, d1 := left }
          match d.depot.freeSlot with
          | none => d.haltDepot x.id full
          | some slot =>
            let buf (kind eb k0 : Nat) (es : List Nat) : Buf :=
              { slot := slot, pool := 255, kind := kind, gen := d.depot.gen slot, bytes := n, fmt := none, k0 := k0, eb := eb,
                extents := es, refs := 1, torn := false, tornTiles := 0 }
            let free := d.stashFree
            let k0 := (d.pool 255).elim 0 fun p => d.depot.leastWell d.grade p
            match (if n ≤ left then takeLines (n / 2048) k0 free else none) with
            | some es =>
              let b := buf 0 2048 k0 es
              let d := (d.beginAcc x.id []).addBuf b
              let d := { d with depot := { d.depot with stashPeak := max d.depot.stashPeak d.depot.stashUsed } }
              d.giveHandle x.id result (d.handleOf b)
            | none =>
              let st := d.job.elim ⟨0, 0, false, 0, 0⟩ (·.stash)
              match (if st.spill then d.depot.spillAt st.ringSize n else none) with
              | none => d.haltDepot x.id full
              | some off =>
                let b := buf 1 n 0 [st.ringBase + off]
                let d := (d.beginAcc x.id []).addBuf b
                let e : SpillEntry := { slot := slot, off := off, bytes := n, freed := false }
                let d := { d with depot := { d.depot with spill := d.depot.spill ++ [e], spillTail := off + n } }
                d.giveHandle x.id result (d.handleOf b)
    | _ => d

/-- R249: STASH_ALLOC. -/
def execStashAlloc (core : Nat) (s : State) : Host.Outcome State Fault Refusal := s.onDev fun d => d.stashAlloc core

/-! ## Versions -/

/-- VERSION_LIMIT with a version of the group (R267, R268). -/
def Dev.versionHalt (d : Dev) (g num : Nat) : HaltInfo :=
  { reason := rVersion, unit := 4, d0 := g, d1 := num, d2 := ((d.version? g num).map (·.count)).getD 0 }

/-- The hold of a number on a group (R265). -/
def Dev.hold? (d : Dev) (g h : Nat) : Option Hold := d.wells.holds.find? fun x => x.group == g && x.hold == h

/-- The operand checks that takes and drops share (R265). -/
def Dev.versionFault (d : Dev) (g h : Nat) : Option HaltInfo :=
  if !wbit d.depot.ctrl 0 then some depotAbsent
  else if g ≥ d.groupCount then some (badShape 0)
  else if h > 1023 then some (badShape 1)
  else none

/-- VERSION_TAKE (R265, R268). -/
def Dev.versionTake (d : Dev) (c : Nat) : Dev :=
  match d.oldest c fun o => match o with | .versionTake .. => true | _ => false with
  | none => d
  | some x =>
    match x.cmd.op with
    | .versionTake g h result =>
      match d.versionFault g h, d.resultFault 2 result with
      | some f, _ => d.haltDepot x.id f
      | none, some f => d.haltDepot x.id f
      | none, none =>
        if d.trainMode g = 1 then d.haltDepot x.id (d.versionHalt g (d.curNum g))
        else match d.hold? g h with
          | some o => d.haltDepot x.id (d.versionHalt g o.num)
          | none =>
            let cur := d.curNum g
            let d := (d.beginAcc x.id []).takeVersion g cur
            let o : Hold := { group := g, hold := h, num := cur }
            let d := { d with wells := { d.wells with holds := d.wells.holds ++ [o] } }
            d.giveHandle x.id result (BitVec.ofNat 64 (d.gField g 72 8))
    | _ => d

/-- R265: VERSION_TAKE. -/
def execVersionTake (core : Nat) (s : State) : Host.Outcome State Fault Refusal := s.onDev fun d => d.versionTake core

/-- VERSION_DROP (R265, R268). -/
def Dev.versionDrop (d : Dev) (c : Nat) : Dev :=
  match d.oldest c fun o => match o with | .versionDrop .. => true | _ => false with
  | none => d
  | some x =>
    match x.cmd.op with
    | .versionDrop g h =>
      match d.versionFault g h with
      | some f => d.haltDepot x.id f
      | none =>
        if d.trainMode g = 1 then d.haltDepot x.id (d.versionHalt g (d.curNum g))
        else match d.hold? g h with
          | none => d.haltDepot x.id (d.versionHalt g (d.curNum g))
          | some o =>
            let d := d.beginAcc x.id []
            let d := { d with wells := { d.wells with holds := d.wells.holds.erase o } }
            (d.dropVersion g o.num).completeAcc x.id
    | _ => d

/-- R265: VERSION_DROP. -/
def execVersionDrop (core : Nat) (s : State) : Host.Outcome State Fault Refusal := s.onDev fun d => d.versionDrop core

/-! ## Prefetch streams and counts -/

/-- A trained stream goes on (R341): it reads its next line, within the buffer's range and job memory and at most DP_PF_DEPTH lines ahead
of its core's loads; a line that those have reached is not read again. -/
def Dev.prefetchRead (d : Dev) (die i : Nat) : Dev :=
  match (d.depot.streams.filter fun s => s.die == die)[i]? with
  | none => d
  | some s =>
    match (d.depot.buf s.slot).filter fun b => b.gen == s.gen with
    | none => d
    | some b =>
      let ahead := ((s.next / lineBytes : Nat) - (s.last / lineBytes : Nat) : Int).natAbs
      let l := ((b.pieces s.next 1).head?.elim 0 (·.1)) / lineBytes
      if s.loads < 3 || ahead > d.depot.pfDepth.toNat || s.next ≥ b.bytes || !inJobMem d.grade (l * lineBytes) lineBytes then d
      else
        let nx (x : PfStream) : PfStream := if x = s then { x with next := (max 0 ((s.next : Int) + s.stride)).toNat } else x
        let d := { d with depot := { d.depot with streams := d.depot.streams.map nx } }
        if ahead = 0 || d.poison.contains l then d
        else
          let d := d.cacheFill die [l]
          { d with work := d.work.addHbm (dieOfWell (wellOf d.grade (l * lineBytes))) lineBytes }

/-- R341: PREFETCH_READ. -/
def execPrefetchRead (die stream : Nat) (s : State) : Host.Outcome State Fault Refusal :=
  s.onDev fun d => d.prefetchRead die stream

/-- R341: PREFETCH_STREAM_FREE: 64 µs without a matching load. -/
def execPrefetchStreamFree (die stream : Nat) (s : State) : Host.Outcome State Fault Refusal :=
  s.onDev fun d =>
    match (d.depot.streams.filter fun x => x.die == die)[stream]? with
    | none => d
    | some x =>
      let d := d.advanceTo (x.used + 64000)
      { d with depot := { d.depot with streams := d.depot.streams.erase x } }

/-- R365: DP_CLEAR_COUNTS. -/
def execDpClearCounts (s : State) : Host.Outcome State Fault Refusal :=
  s.onBar fun d => { d with depot := { d.depot with invalid := 0, scParity := 0 } }

/-- R366: PL_CLEAR_COUNTS. -/
def execPlClearCounts (s : State) : Host.Outcome State Fault Refusal :=
  s.onBar fun d => { d with place := { d.place with denied := 0, replicaReads := 0 } }

end Sys2Proof.Machine
end

