-- ==== Sys2Proof/Machine/WellCmds.lean ====
section
/-! DEFINITION. Well commands up to their start: operands and their checks (R304 to R306, R345), parts (R305), completion records
(R309), the order of folds (R255 to R258), waits of an update (R267), and the start of the parts (R307, R310, R314). -/

namespace Sys2Proof.Machine

open Sys2Proof

/-- OP of R309. -/
def wellOpCode : WellOp → Nat
  | .optUpdate .. => 1 | .sumsq .. => 2 | .requant .. => 3 | .scatterRows .. => 4 | .fold _ => 4 | .fill .. => 5 | .scrub .. => 6

/-- A Well command by id, and the device with one changed. -/
def Dev.wcmd (d : Dev) (id : Nat) : Option WellCmd := d.wells.cmds.find? fun k => k.id == id
def Dev.setWcmd (d : Dev) (id : Nat) (f : WellCmd → WellCmd) : Dev :=
  { d with wells := { d.wells with cmds := d.wells.cmds.map fun k => if k.id == id then f k else k } }

/-! ## Tile operands and parts -/

/-- The Well of tile i of the operands of a command: that of the first operand in device memory that has such a tile. A spilled tile
has no Well, so it counts as beside the Well that works on it, and the lead Well works on tiles that are all spilled (R253, R345;
DESIGN CHOICE, log entry 101). -/
def wellIn (g : Grade) (lead : Nat) (ops : List WTiles) (i : Nat) : Nat :=
  match ops.find? fun t => !t.spilled && decide (i < t.n) with
  | some t => t.wellAt g i
  | none => lead

/-- The co-location rule of R345 over operands: tile i of each lies whole in the Well of tile i of the first. -/
def colocated (g : Grade) (ops : List WTiles) : Bool :=
  ops.all fun u => u.spilled || (List.range u.n).all fun i => u.whole i && u.wellAt g i == wellIn g 0 ops i

/-- Whether the tiles of each expert lie in one Well (R345). -/
def expertsWhole (g : Grade) (ops : List WTiles) (per n : Nat) : Bool :=
  (List.range n).all fun i => wellIn g 0 ops i == wellIn g 0 ops (i / max 1 per * per)

/-- A range of job memory that a Well command names by address (R338, R396). -/
def Dev.wAddr (d : Dev) (a n : Nat) : Except WReject Unit :=
  if !inJobMem d.grade a n || d.inCoh a n then .error rejRef else .ok ()

/-! ## Parts -/

/-- One more tile for the runs formed so far, newest first (R305). -/
def addRun (rs : List (Nat × Nat × Nat)) (x : Nat × Nat) : List (Nat × Nat × Nat) :=
  match rs with
  | (w, f, n) :: r => if w = x.1 && n < 4096 then (w, f, n + 1) :: r else (x.1, x.2, 1) :: rs
  | [] => [(x.1, x.2, 1)]

/-- Runs of up to 4,096 consecutive tiles of one Well (R305): Well, first tile, tiles. -/
def runsOf (ws : List Nat) : List (Nat × Nat × Nat) := ((ws.zipIdx).foldl addRun []).reverse

/-- Parts from runs, each with its expert or, for SUMSQ, the index of its buffer. -/
def partsOf (rs : List (Option Nat × Nat × Nat × Nat)) : List WPart :=
  rs.zipIdx.map fun x =>
    { idx := x.2, well := x.1.2.1, expert := x.1.1, first := x.1.2.2.1, count := x.1.2.2.2, done := false, failed := false,
      cause := 0 }

/-- The parts over `n` tiles of operands, laid out by experts of `per` tiles each, or by runs for dense data (R305). -/
def opParts (g : Grade) (lead : Nat) (ops : List WTiles) (n : Nat) (experts : Option (List Nat)) (per : Nat) : List WPart :=
  match experts with
  | some es => partsOf (es.zipIdx.map fun x => (some x.1, wellIn g lead ops (x.2 * per), x.2 * per, per))
  | none => partsOf ((runsOf ((List.range n).map (wellIn g lead ops))).map fun r => (none, r))

/-- What an accepted command does: its parts, and the slots of the buffers that its handles name (R352). -/
structure WPlan where
  parts : List WPart
  refs : List Nat
  deriving DecidableEq, Repr

/-- A plan, unless it has more than 65,536 parts (R306). -/
def planOf (parts : List WPart) (refs : List Nat) : Except WReject WPlan :=
  if parts.length > 65536 then .error rejLimit else .ok ⟨parts, refs⟩

/-! ## Folds -/

/-- The iteration of a group's accumulators, none before the first fold after job load (R257, R325). -/
def Dev.accIter (d : Dev) (g : Nat) : Option Nat := (d.wells.folds.find? fun f => f.group == g).map (·.iter)

/-- The progress of an accumulator (R256). -/
def Dev.foldSt (d : Dev) (g : Nat) (e : Option Nat) (iter : Nat) : FoldSt :=
  (d.wells.folds.find? fun f => f.group == g && f.expert == e).getD ⟨g, e, iter, [], 0, []⟩

/-- The accumulator's progress replaced. -/
def Dev.setFold (d : Dev) (f : FoldSt) : Dev :=
  let rest := d.wells.folds.filter fun x => !(x.group == f.group && x.expert == f.expert)
  { d with wells := { d.wells with folds := f :: rest } }

/-- MB_PER_ITER and USES of a group (R256). -/
def Dev.gMbs (d : Dev) (g : Nat) : Nat := d.gField g 6 1 + 1
def Dev.gUses (d : Dev) (g : Nat) : Nat := d.gField g 7 1 + 1

/-- The key that follows those folded (R256). -/
def nextKey (uses : Nat) (done : List (Nat × Nat × Nat × Bool)) : Nat × Nat × Nat :=
  match done.getLast? with
  | none => (0, 0, 0)
  | some (mb, u, c, last) =>
    if !last then (mb, u, c + 1) else if u + 1 < uses then (mb, u + 1, 0) else (mb + 1, 0, 0)

/-- The key of a fold. -/
def foldKey (f : FoldArgs) : Nat × Nat × Nat := (f.microBatch, f.use, f.chunk)

/-- Folds of an accumulator that are accepted and not complete, in order of arrival. -/
def Dev.foldsWaiting (d : Dev) (g : Nat) (e : Option Nat) : List (Nat × FoldArgs) :=
  d.wells.cmds.filterMap fun k => match k.op with
    | .fold f => if f.group == g && f.expert == e then some (k.id, f) else none
    | _ => none

/-- The keys folded once the waiting folds that come next have been folded too. -/
def foldAhead (uses : Nat) (done : List (Nat × Nat × Nat × Bool)) (fs : List FoldArgs) : Nat → List (Nat × Nat × Nat × Bool)
  | 0 => done
  | n + 1 =>
    match fs.find? fun f => foldKey f == nextKey uses done with
    | none => done
    | some f => foldAhead uses (done ++ [(f.microBatch, f.use, f.chunk, f.last)]) fs n

/-- Whether a fold must be held on its arrival (R256, R257). -/
def Dev.foldEarly (d : Dev) (f : FoldArgs) : Bool :=
  let it := f.iter % 65536
  let cur := (d.accIter f.group).getD it
  let ws := ((d.foldsWaiting f.group f.expert).map (·.2)).filter fun x => x.iter % 65536 == it
  decide (it ≠ cur) ||
    decide (foldKey f ≠ nextKey (d.gUses f.group) (foldAhead (d.gUses f.group) (d.foldSt f.group f.expert cur).done ws ws.length))

/-- Whether a fold comes next now (R256). -/
def Dev.foldNext (d : Dev) (f : FoldArgs) : Bool :=
  let it := f.iter % 65536
  decide ((d.accIter f.group).getD it = it) && decide (foldKey f = nextKey (d.gUses f.group) (d.foldSt f.group f.expert it).done)

/-- Whether the accumulators of an iteration are complete (R257). -/
def Dev.accComplete (d : Dev) (g iter : Nat) : Bool :=
  let need := d.gMbs g * d.gUses g
  let es : List (Option Nat) := match d.gExpertList g with
    | none => [none]
    | some l => l.map some
  (d.accIter g == some (iter % 65536)) &&
    es.all fun e => decide (((d.foldSt g e iter).done.filter fun k => k.2.2.2).length = need)

/-- A zero tile in the valid counts of a master tile (R257). -/
def zeroLike (t : List Byte) (epoch : Nat) : List Byte :=
  let ok (n : Nat) : Bool := decide (1 ≤ n) && decide (n ≤ 32)
  let whole := ok (tileRows t) && ok (tileCols t)
  mkTile .fp32 (if whole then tileRows t else 32) (if whole then tileCols t else 32) ⟨false, false, false, false⟩ [] epoch
    fun _ _ => 0

/-- Whether a group's accumulator and current version are live buffers. -/
def Dev.accLive (d : Dev) (g : Nat) : Bool :=
  match d.checkHandle (d.gHandle g 96) ⟨0, d.gAll g * tileTotal .fp32, 32, true⟩, d.checkHandle (d.gHandle g 72) ⟨0, 0, 1, false⟩ with
  | .ok _, .ok _ => true
  | _, _ => false

/-- The accumulator of a group is set to +0 (R257). -/
def Dev.zeroAcc (d : Dev) (g : Nat) : Dev :=
  match d.checkHandle (d.gHandle g 96) ⟨0, d.gAll g * tileTotal .fp32, 32, true⟩, d.checkHandle (d.gHandle g 72) ⟨0, 0, 1, false⟩ with
  | .ok a, .ok m =>
    let mt := d.masterOf g m
    (List.range (d.gAll g)).foldl (fun d i =>
      let head := d.peekPieces (mt.tile i)
      d.storeBuf a (i * tileTotal .fp32) (zeroLike head d.rd.epoch.toNat)) d
  | _, _ => d

/-- The +0 of a job load (R257): it takes effect once the accumulator's buffer exists, at the latest before a command on the group is
judged (log entry 62). -/
def Dev.readyAcc (d : Dev) (g : Nat) : Dev :=
  if d.wells.zeroed.contains g || !d.accLive g then d
  else
    let d := d.zeroAcc g
    { d with wells := { d.wells with zeroed := g :: d.wells.zeroed } }

/-! ## Plans -/

/-- Whether an update would advance a counter past 2^32 − 1 (R313): the group's of a dense group, else that of an expert which the
update visits. -/
def Dev.stepsFull (d : Dev) (g : Nat) (visited : Nat → Bool) : Bool :=
  match d.gExpertList g with
  | none => decide ((d.optState g none).1 ≥ 0xFFFFFFFF)
  | some l => l.any fun e => visited e && decide ((d.optState g (some e)).1 ≥ 0xFFFFFFFF)

/-- Whether the update of a group changes an expert with a COUNTS total (R316). -/
def Dev.visits (d : Dev) (g total : Nat) : Bool := total != 0 || (d.gField g 2 1).testBit 0

/-- The checks and parts of an OPT_UPDATE on a group that is not FROZEN (R305, R306, R313, R345). -/
def Dev.planOpt (d : Dev) (g iter lead : Nat) (grad : Word64) (counts normIn : Option Nat) : Except WReject WPlan := do
  let n := d.gAll g
  let ex := d.gExperts g
  let gt ← d.wTiles grad .fp32 0 n false
  let mb ← d.wRange (d.gHandle g 72) 0 (d.versionBytes g) 32 false
  let mt := d.masterOf g mb
  let m1 ← d.wTiles (d.gHandle g 80) .fp32 0 n true
  let m2 ← if d.adamw g then (d.wTiles (d.gHandle g 88) .fp32 0 n true).map some else .ok none
  let _ ← if ex = 0 then .ok () else (d.wRange (d.gHandle g 104) 0 (16 * ex) 8 true).map fun _ => ()
  let _ ← if d.trainMode g = 2 then (d.wRange (d.gHandle g 112) 0 (ceilDiv n 8) 8 false).map fun _ => () else .ok ()
  let _ ← match counts with
    | some a => if ex = 0 then .ok () else d.wAddr a (8 * ex)
    | none => if ex = 0 then .ok () else .error rejLimit
  let _ ← match normIn with
    | some a => d.wAddr a 16
    | none => if (d.gField g 2 1).testBit 6 then .error rejLimit else .ok ()
  let copy := if d.hasCopy g then [d.copyOf g mb] else []
  let ops := [gt, mt, m1] ++ m2.toList ++ copy
  if !colocated d.grade ops then .error rejHandle
  else if ex ≠ 0 && !expertsWhole d.grade ops (d.gTiles g) n then .error rejHandle
  else if !d.accComplete g iter then .error ⟨wcAcc, false⟩
  else
    let totals := d.peek (counts.getD 0) (8 * ex)
    if d.stepsFull g fun e => d.visits g (fieldAt totals (8 * e) 8) then .error ⟨wcGroup, false⟩
    else planOf (opParts d.grade lead ops n (d.gExpertList g) (d.gTiles g)) [gt.buf.slot]

/-- The checks and parts of a fold (R241, R255 to R258, R262). -/
def Dev.planFold (d : Dev) (lead : Nat) (f : FoldArgs) : Except WReject WPlan := do
  let g := f.group
  let ex := d.gExperts g
  let it := f.iter % 65536
  let cur := (d.accIter g).getD it
  let st := d.foldSt g f.expert cur
  let waiting := (d.foldsWaiting g f.expert).map fun x => (x.2.iter % 65536, foldKey x.2)
  let eOk := match f.expert with
    | none => decide (ex = 0)
    | some e => decide (e < ex)
  if d.trainMode g = 1 then .error ⟨wcGroup, false⟩
  else if !eOk || f.microBatch ≥ d.gMbs g || f.use ≥ d.gUses g || f.chunk > 255 || f.rows ≥ 2 ^ 32 then .error rejLimit
  else if f.part.isNone && (f.rows ≠ 0 || !f.last) then .error rejLimit
  else if it ≠ cur && it ≠ (cur + 1) % 65536 then .error rejLimit
  else if waiting.contains (it, foldKey f) then .error rejLimit
  else if it = cur && (st.done.any fun k => (k.1, k.2.1, k.2.2.1) == foldKey f || (k.1 == f.microBatch && k.2.1 == f.use && k.2.2.2)) then
    .error rejLimit
  else
    let n := d.gTiles g
    let e0 := f.expert.getD 0
    let acc ← d.wTiles (d.gHandle g 96) .fp32 (e0 * n * tileTotal .fp32) n true
    match f.part with
    | none =>
      if !colocated d.grade [acc] || (f.expert.isSome && !expertsWhole d.grade [acc] n n) then .error rejHandle else .ok ⟨[], []⟩
    | some h =>
      let pt ← d.wTiles h .fp32 0 n false
      let isF32 (i : Nat) : Bool :=
        pt.spilled || match fmtOf ((d.peek (pt.addr i) 1).headD 0).toNat with
        | none => true
        | some x => x == .fp32
      if (pt.buf.fmt.elim false fun x => x != .fp32) || !(List.range n).all isF32 then .error rejLimit
      else if !colocated d.grade [pt, acc] then .error rejHandle
      else if f.expert.isSome && !expertsWhole d.grade [pt, acc] n n then .error rejHandle
      else planOf (opParts d.grade lead [pt, acc] n (f.expert.map fun e => [e]) n) [pt.buf.slot]

/-- The checks and parts of a SUMSQ (R321). -/
def Dev.planSumsq (d : Dev) (lead : Nat) (bufs : List (Word64 × Fmt × Nat)) (result : Nat) : Except WReject WPlan := do
  if bufs.isEmpty || bufs.length > 256 || bufs.any fun b => !(b.2.1 == .fp32 || b.2.1 == .bf16) then .error rejLimit
  else
    let _ ← d.wAddr result 16
    let ts ← bufs.foldl (fun (e : Except WReject (List WTiles)) b => do
      let l ← e
      let t ← d.wTiles b.1 b.2.1 0 b.2.2 false
      .ok (l ++ [t])) (.ok [])
    if !colocated d.grade ts then .error rejHandle
    else
      let runs (t : WTiles) : List (Nat × Nat × Nat) := runsOf ((List.range t.n).map (wellIn d.grade lead (t :: ts)))
      planOf (partsOf (ts.zipIdx.flatMap fun x => (runs x.1).map fun r => (some x.2, r))) (ts.map fun t => t.buf.slot)

/-- Whether two lists of pieces meet. -/
def piecesMeet (a b : List (Nat × Nat)) : Bool :=
  a.any fun x => b.any fun y => decide (x.1 < y.1 + y.2) && decide (y.1 < x.1 + x.2)

/-- The pieces of an operand of REQUANT, with its checks; for tiles also the operand (R53, R54, R322). -/
def Dev.layoutOf (d : Dev) (l : TensorLayout) (f : Fmt) (tiles : Nat) (write : Bool) :
    Except WReject (List (Nat × Nat) × Option WTiles × List Nat) :=
  match l with
  | .tiled h _ => do
    let t ← d.wTiles h f 0 tiles write
    .ok (t.buf.pieces 0 (tiles * tileTotal f), some t, [t.buf.slot])
  | .raw h rows cols g => do
    if rows > 1048576 || cols > 1048576 || rows = 0 || cols = 0 || !(g == .bf16 || g == .fp16 || g == .fp32) then .error rejLimit
    else
      let n := rows * cols * (fmtBits g / 8)
      let b ← d.wRange h 0 n 8 write
      .ok (b.pieces 0 n, none, [b.slot])
  | .mx hE hS rows cols g axisCol => do
    if g = .mxfp6e2m3 || g = .mxfp6e3m2 || (if axisCol then rows else cols) % 32 ≠ 0 || rows = 0 || cols = 0 then .error rejLimit
    else
      let n := ceilDiv (rows * cols * mxBits g) 8
      let m := rows * cols / 32
      let b ← d.wRange hE 0 n 8 write
      let s ← d.wRange hS 0 m 8 write
      .ok (b.pieces 0 n ++ s.pieces 0 m, none, [b.slot, s.slot])

/-- The checks and parts of a REQUANT (R53, R54, R322). -/
def Dev.planRequant (d : Dev) (lead : Nat) (src dst : TensorLayout) (target : Fmt) (entry : Option ScaleRef) (tiles : Nat) :
    Except WReject WPlan := do
  let n := requantTiles src dst tiles
  let dstOk := match src, dst with
    | _, .tiled .. => true
    | .tiled .., .mx .. => true
    | _, _ => false
  if !dstOk || n = 0 then .error rejLimit
  else
    let s ← d.layoutOf src (layoutFmt src) n false
    let t ← d.layoutOf dst target n true
    if fmtScaled target && entry.isNone then .error rejLimit
    else if piecesMeet s.1 t.1 then .error rejLimit
    else
      let ops := s.2.1.toList ++ t.2.1.toList
      if !colocated d.grade ops then .error rejHandle
      else planOf (opParts d.grade lead ops n none 1) (s.2.2 ++ t.2.2)

/-- The checks and parts of a SCATTER_ADD in ROWS mode (R324). -/
def Dev.planScatter (d : Dev) (lead : Nat) (src index dst : Word64) (srcRows dstRows hTiles : Nat) : Except WReject WPlan := do
  if srcRows = 0 || dstRows = 0 || hTiles = 0 then .error rejLimit
  else
    let s ← d.wTiles src .fp32 0 (ceilDiv srcRows 32 * hTiles) false
    let i ← d.wTiles index .int32 0 (d.indexTiles index) false
    let t ← d.wTiles dst .fp32 0 (ceilDiv dstRows 32 * hTiles) true
    if !colocated d.grade [s, i, t] then .error rejHandle
    else planOf (opParts d.grade lead [s, i, t] s.n none 1) [s.buf.slot, i.buf.slot, t.buf.slot]

/-- The checks and parts of a FILL (R329). -/
def Dev.planFill (d : Dev) (lead : Nat) (dst : Word64) (off bytes : Nat) (pat : FillPattern) : Except WReject WPlan :=
  match pat with
  | .tiles f rows cols => do
    if rows = 0 || rows > 32 || cols = 0 || cols > 32 || bytes % tileTotal f ≠ 0 || bytes = 0 then .error rejLimit
    else
      let t ← d.wTiles dst f off (bytes / tileTotal f) true
      if !colocated d.grade [t] then .error rejHandle
      else planOf (opParts d.grade lead [t] t.n none 1) [t.buf.slot]
  | _ => do
    let b ← d.wRange dst off bytes 8 true
    let at_ (i : Nat) : Nat := ((b.pieces (off + 2048 * i) 1).head?.map (·.1)).getD 0
    if bytes = 0 || at_ 0 % 2048 ≠ 0 then .error rejLimit
    else
      let rs := runsOf ((List.range (ceilDiv bytes 2048)).map fun i => if b.kind = 1 then lead else wellOf d.grade (at_ i))
      planOf (partsOf (rs.map fun r => (none, r))) [b.slot]

/-- The checks and parts of a SCRUB_RANGE (R331, R338). -/
def Dev.planScrub (d : Dev) (base len : Nat) : Except WReject WPlan :=
  if base % 2048 ≠ 0 || len % 2048 ≠ 0 || len = 0 then .error rejLimit
  else if !inJobMem d.grade base len then .error rejRef
  else planOf (partsOf ((runsOf (List.replicate (len / 2048) (wellOf d.grade base))).map fun r => (none, r))) []

/-- The group that an operation names. -/
def opGroup : WellOp → Option Nat
  | .optUpdate g .. => some g
  | .fold f => some f.group
  | _ => none

/-- The checks that the lead Well makes before any part starts (R306), and the parts. -/
def Dev.wellPlan (d : Dev) (lead : Nat) (op : WellOp) : Except WReject WPlan :=
  if !wbit d.wells.ctrl 0 then .error rejLimit
  else if (opGroup op).elim false fun g => decide (g ≥ d.groupCount) then .error rejRef
  else match op with
    | .optUpdate g it gr c n => if d.trainMode g = 1 then .ok ⟨[], []⟩ else d.planOpt g it lead gr c n
    | .sumsq bs r => d.planSumsq lead bs r
    | .requant s t f e _ _ n _ => d.planRequant lead s t f e n
    | .scatterRows s i t r q h => d.planScatter lead s i t r q h
    | .fold f => d.planFold lead f
    | .fill h o n p => d.planFill lead h o n p
    | .scrub b n => d.planScrub b n

/-! ## Records -/

/-- Bytes of a record with a number of parts (R309). -/
def wellRecordBytes (parts : Nat) : Nat := 96 + roundUp (ceilDiv parts 8) 32

/-- The operation fields of a record (R320, R321, R323, R325, R329, R331), from a command's counts. -/
def wellFields (op : WellOp) (counts : List Nat) : List Byte :=
  let c (i : Nat) : Nat := counts.getD i 0
  let w (i : Nat) : List Byte := leBytes 4 (sat32 (c i))
  slice (match op with
    | .optUpdate .. =>
      w 0 ++ w 1 ++ w 2 ++ w 3 ++ w 4 ++ w 5 ++ w 6 ++ w 7 ++ w 8 ++ w 9 ++ leBytes 1 (c 10)
    | .sumsq .. => leBytes 8 (c 0) ++ leBytes 4 (c 1) ++ leBytes 1 (c 2)
    | .requant .. => w 0 ++ w 1 ++ w 2 ++ w 3 ++ w 4
    | .scatterRows .. => w 0 ++ w 1
    | .fold _ => w 0 ++ w 1 ++ w 2
    | .fill .. => leBytes 8 (c 0)
    | .scrub .. => leBytes 8 (c 0) ++ w 1 ++ w 2 ++ leBytes 8 (if c 2 = 0 then 2 ^ 64 - 1 else c 3) ++ w 4 ++ w 5) 0 48

/-- The completion record of a Well command (R309). -/
def Dev.wellRecord (d : Dev) (k : WellCmd) (status cause : Nat) : List Byte :=
  let map := k.parts.foldl (fun m p => if p.failed then m ||| 2 ^ p.idx else m) 0
  leBytes 1 1 ++ leBytes 1 (wellOpCode k.op) ++ leBytes 1 status ++ leBytes 1 cause ++ leBytes 2 k.well ++ zeros 2 ++
    leBytes 4 k.parts.length ++ leBytes 4 (k.parts.filter (·.failed)).length ++ leBytes 4 k.torn ++ zeros 4 ++
    leBytes 8 k.tStart ++ leBytes 8 d.timeStamp ++ zeros 8 ++ wellFields k.op k.counts ++
    padTo 32 (leBytes (ceilDiv k.parts.length 8) map)

/-- A Well command before it has done anything. -/
def Dev.newWell (d : Dev) (id : Nat) (o : WellOrigin) (well : Nat) (record : Word64) (op : WellOp) (nanTrap : Bool)
    (plan : WPlan) : WellCmd :=
  { id := id, origin := o, well := well, record := record, op := op, nanTrap := nanTrap, started := false, parts := plan.parts,
    tStart := d.timeStamp, heldSince := none, heldUs := 0, counts := [], torn := 0, nanAt := none, visited := [],
    clip := 0x3F800000#32, newSlot := none, refs := plan.refs }

/-- The host's status code of a record's STATUS, and the reason (R449, R450). -/
def Dev.endHostWell (d : Dev) (ring slot : Nat) (k : WellCmd) (status cause : Nat) : Dev :=
  let failed := min 0xFFFFFF (k.parts.filter (·.failed)).length
  d.finishDesc ring slot status (if status = 0 then 0 else 0x12) k.record.toNat (cause % 256 + failed * 256) 0

/-- A command completes REJECTED (R88, R306): its record is written when RECORD can take it, and nothing else. -/
def Dev.rejectWell (d : Dev) (k : WellCmd) (r : WReject) : Dev :=
  let d := if r.handle then d.countInvalid else d
  let rec_ := d.wRange k.record 0 96 8 true
  let k := { k with parts := [] }
  let d := match rec_ with
    | .ok b => d.storeBuf b 0 (d.wellRecord k 3 r.cause)
    | .error _ => d
  match k.origin with
  | .core _ acc => d.rejectAcc acc (match rec_ with | .ok b => (b.span 0 96).addr | .error _ => 0) r.cause
  | .host ring slot => d.endHostWell ring slot k 3 r.cause

/-- A command completes OK, PARTIAL or FAILED (R308, R309): its record, then its signals, or NAN_ABORT (R107, R320). -/
def Dev.finishWell (d : Dev) (k : WellCmd) (status cause : Nat) : Dev :=
  let d := d.writeHandle k.record 0 (d.wellRecord k status cause)
  let d := { d with wells := { d.wells with cmds := d.wells.cmds.filter fun x => x.id != k.id } }
  match k.origin with
  | .core _ acc =>
    match k.nanTrap, k.nanAt with
    | true, some a => d.haltAcc acc { reason := rNanAbort, unit := 4, address := a, d0 := 0xFF }
    | _, _ => d.completeAcc acc
  | .host ring slot => (d.dropRefs k.refs).endHostWell ring slot k status cause

/-! ## Acceptance -/

/-- The scale-table entry that an operation names (R153). -/
def Dev.opEntry (d : Dev) (op : WellOp) : Option Nat :=
  match op with
  | .requant _ _ _ (some r) _ _ _ _ => some r.idx
  | .optUpdate g .. => if d.trainMode g ≠ 1 && d.hasCopy g && fmtScaled (d.computeFmt g) then some (d.gField g 48 2) else none
  | _ => none

/-- Whether an update may go on (R266, R267, R350): fewer than MAX_VERSIONS live versions and a new buffer for the next one. -/
def Dev.admitUpdate (d : Dev) (id g : Nat) : Option Dev :=
  if (d.liveVersions g).length ≥ d.gField g 5 1 then none
  else (d.allocVersion g).map fun x =>
    (x.2).setWcmd id fun k => { k with newSlot := some x.1.slot, heldSince := none,
                                       heldUs := k.heldUs + (k.heldSince.elim 0 fun t => (d.now - t) / 1000) }

/-- The counts of a FROZEN update's record, and of one that failed (R313, R320). -/
def Dev.optIdle (d : Dev) (g held : Nat) : List Nat := [d.curNum g, 0, 0, 0, 0, 0, 0, 0, 0, held, 0]

/-- What an operation reads of the buffers that its handles name: handle, offset and bytes (R253). -/
def Dev.opReads (d : Dev) (op : WellOp) : List (Word64 × Nat × Nat) :=
  let mask (g : Nat) : List (Word64 × Nat × Nat) := if d.trainMode g = 2 then [(d.gHandle g 112, 0, ceilDiv (d.gAll g) 8)] else []
  let whole (l : TensorLayout) (f : Fmt) (n : Nat) : List (Word64 × Nat × Nat) := match l with
    | .tiled h _ => [(h, 0, n * tileTotal f)]
    | .raw h rows cols g => [(h, 0, rows * cols * (fmtBits g / 8))]
    | .mx hE hS rows cols g _ => [(hE, 0, ceilDiv (rows * cols * mxBits g) 8), (hS, 0, rows * cols / 32)]
  match op with
  | .optUpdate g _ grad _ _ =>
    let n := d.gAll g * tileTotal .fp32
    if d.trainMode g = 1 then [] else [(grad, 0, n), (d.gHandle g 80, 0, n)] ++ (if d.adamw g then [(d.gHandle g 88, 0, n)] else []) ++
      (if d.gExperts g = 0 then [] else [(d.gHandle g 104, 0, 16 * d.gExperts g)]) ++ mask g
  | .sumsq bs _ => bs.map fun b => (b.1, 0, b.2.2 * tileTotal b.2.1)
  | .requant src dst _ _ _ _ n _ =>
    whole src (layoutFmt src) (requantTiles src dst n) ++ (match dst with | .mx .. => whole dst .fp32 0 | _ => [])
  | .scatterRows s i t srcRows dstRows hTiles =>
    [(s, 0, ceilDiv srcRows 32 * hTiles * tileTotal .fp32), (i, 0, d.indexTiles i * tileTotal .int32),
     (t, 0, ceilDiv dstRows 32 * hTiles * tileTotal .fp32)]
  | .fold f =>
    let n := d.gTiles f.group * tileTotal .fp32
    f.part.toList.map (fun h => (h, 0, n)) ++ [(d.gHandle f.group 96, f.expert.getD 0 * n, n)] ++ mask f.group
  | .fill .. | .scrub .. => []

/-- Host reads for the spilled operands of an accepted command (R253). -/
def Dev.fetchOps (d : Dev) (id : Nat) (op : WellOp) : Dev :=
  (d.opReads op).foldl (fun d x => match d.wRange x.1 x.2.1 x.2.2 1 false with
    | .ok b => d.fetchPieces id (b.pieces x.2.1 x.2.2)
    | .error _ => d) d

/-- An OPT_UPDATE is admitted as a tracked workload (R30, R533); whether each Well that it touches holds at least 16 MiB of the master
parameters (R32). R345 keeps its operands in the Well's own stack. -/
def Dev.trackPass (d : Dev) (k : WellCmd) : Dev :=
  match k.op with
  | .optUpdate .. =>
    let bytes (w : Nat) : Nat := ((k.parts.filter fun p => p.well == w).map fun p => p.count * tileTotal .fp32).sum
    d.track 3 k.id (wellUnit k.well) (k.parts.all fun p => decide (bytes p.well ≥ 16777216))
  | _ => d

/-- A Well command reaches its lead Well (R304 to R306): it is accepted with its parts, or completes at once. -/
def Dev.acceptWell (d : Dev) (o : WellOrigin) (well : Nat) (record : Word64) (op : WellOp) (nanTrap : Bool) : Dev :=
  let (id, d) := d.fresh
  let d := ((opGroup op).filter (· < d.groupCount)).elim d d.readyAcc
  let blank := d.newWell id o well record op nanTrap ⟨[], []⟩
  match d.wellPlan well op with
  | .error r => d.rejectWell blank r
  | .ok plan =>
    match d.wRange record 0 (wellRecordBytes plan.parts.length) 8 true with
    | .error r => d.rejectWell blank r
    | .ok rb =>
      let plan := { plan with refs := (rb.slot :: plan.refs).eraseDups }
      let k := d.newWell id o well record op nanTrap plan
      let e := match d.opEntry op with
        | none => (none, d)
        | some i => match d.readEntry (reqWell well) i with
          | (.ok _, d) => (none, d)
          | (.error x, d) => (some x, d)
      match e with
      | (some (.invalid _), d) => d.rejectWell blank rejRef
      | (e, d) =>
        let d := match o with
          | .core _ acc => d.beginAcc acc plan.refs
          | .host .. => plan.refs.foldl (fun d s => d.retain s) d
        let d := (({ d with wells := { d.wells with cmds := d.wells.cmds ++ [k] } } : Dev).trackPass k).fetchOps id op
        if e.isSome then d.finishWell { k with counts := (opGroup op).elim [] fun g => d.optIdle g 0 } 2 wcBus
        else match op with
          | .optUpdate g .. =>
            if d.trainMode g = 1 then d.finishWell { k with counts := d.optIdle g 0 } 0 0
            else match d.admitUpdate id g with
              | some d => d
              | none => d.setWcmd id fun k => { k with heldSince := some d.now }
          | .fold f =>
            let held := ({ d with wells := { d.wells with cmds := d.wells.cmds.filter fun x => x.id != id } }).foldEarly f
            let d := match d.accIter f.group with
              | some _ => d
              | none => d.setFold (d.foldSt f.group f.expert (f.iter % 65536))
            d.setWcmd id fun k => { k with counts := [0, 0, b2n held], heldSince := if held then some d.now else none }
          | _ => d

/-- The oldest accepted Well command of a core with an operation goes to its lead Well. -/
def Dev.wellRow (d : Dev) (c : Nat) (p : WellOp → Bool) : Dev :=
  match d.oldest c fun o => match o with | .well _ _ op => p op | _ => false with
  | none => d
  | some x =>
    match x.cmd.op with
    | .well w record op => d.acceptWell (.core c x.id) w record op x.cmd.nanTrap
    | _ => d

/-- R313: OPT_UPDATE. -/
def execOptUpdate (core : Nat) (s : State) : Host.Outcome State Fault Refusal :=
  s.onDev fun d => d.wellRow core fun o => match o with | .optUpdate .. => true | _ => false

/-- R321: SUMSQ. -/
def execSumsq (core : Nat) (s : State) : Host.Outcome State Fault Refusal :=
  s.onDev fun d => d.wellRow core fun o => match o with | .sumsq .. => true | _ => false

/-- R322: REQUANT. -/
def execRequant (core : Nat) (s : State) : Host.Outcome State Fault Refusal :=
  s.onDev fun d => d.wellRow core fun o => match o with | .requant .. => true | _ => false

/-- R324: SCATTER_ADD in ROWS mode. -/
def execScatterAdd (core : Nat) (s : State) : Host.Outcome State Fault Refusal :=
  s.onDev fun d => d.wellRow core fun o => match o with | .scatterRows .. => true | _ => false

/-- R256: SCATTER_ADD in FOLD mode. -/
def execFold (core : Nat) (s : State) : Host.Outcome State Fault Refusal :=
  s.onDev fun d => d.wellRow core fun o => match o with | .fold _ => true | _ => false

/-- R329: FILL. -/
def execFill (core : Nat) (s : State) : Host.Outcome State Fault Refusal :=
  s.onDev fun d => d.wellRow core fun o => match o with | .fill .. => true | _ => false

/-- R331: SCRUB_RANGE. -/
def execScrubRange (core : Nat) (s : State) : Host.Outcome State Fault Refusal :=
  s.onDev fun d => d.wellRow core fun o => match o with | .scrub .. => true | _ => false

/-! ## Waits of an update -/

/-- A held update is evaluated again (R267). -/
def Dev.updateAdmit (d : Dev) (id : Nat) : Dev :=
  match d.wcmd id with
  | none => d
  | some k =>
    match k.op with
    | .optUpdate g .. => if k.heldSince.isSome then (d.admitUpdate id g).getD d else d
    | _ => d

/-- R267: UPDATE_ADMIT. -/
def execUpdateAdmit (id : Nat) (s : State) : Host.Outcome State Fault Refusal := s.onDev fun d => d.updateAdmit id

/-- The live version other than the current one that lies furthest below it, or the current one (R267). -/
def Dev.furthest (d : Dev) (g : Nat) : Nat :=
  let cur := d.curNum g
  let back (n : Nat) : Nat := (cur + 2 ^ 32 - n) % 2 ^ 32
  (((d.liveVersions g).map (·.num)).filter fun n => n != cur).foldl
    (fun (best : Option Nat) n => match best with
      | none => some n
      | some b => if back n > back b then some n else some b) none |>.getD cur

/-- An update held for HOLD_MAX completes FAILED, and its core halts with VERSION_LIMIT (R267). -/
def Dev.holdMaxExpire (d : Dev) (id : Nat) : Dev :=
  match d.wcmd id with
  | none => d
  | some k =>
    match k.op, k.heldSince with
    | .optUpdate g .., some t =>
      let us := d.gField g 36 4
      let d := d.advanceTo (t + 1000 * us)
      let h := d.versionHalt g (d.furthest g)
      let k := { k with counts := d.optIdle g (k.heldUs + (d.now - t) / 1000) }
      match k.origin with
      | .core c acc =>
        let a := d.acc acc
        let d := d.finishWell k 2 wcVersion
        d.haltCore c { h with unit := 4, opIndex := a.elim 0 (·.cmd.opIndex), seq := a.elim 0 (·.seq) }
      | .host .. => d.finishWell k 2 wcVersion
    | _, _ => d

/-- R267: HOLD_MAX_EXPIRE. -/
def execHoldMaxExpire (id : Nat) (s : State) : Host.Outcome State Fault Refusal := s.onDev fun d => d.holdMaxExpire id

/-! ## The start of the parts -/

/-- Buffer slots that an operation reads, and those that it writes (R307). -/
def Dev.opUses (d : Dev) (k : WellCmd) : List Nat × List Nat :=
  let mask (g : Nat) : List Nat := if d.trainMode g = 2 then [slotOf (d.gHandle g 112)] else []
  match k.op with
  | .optUpdate g _ grad _ _ =>
    ([slotOf grad, slotOf (d.gHandle g 72)] ++ mask g,
     [slotOf (d.gHandle g 80), slotOf (d.gHandle g 88), slotOf (d.gHandle g 96), slotOf (d.gHandle g 104)] ++ k.newSlot.toList)
  | .sumsq bs _ => (bs.map fun b => slotOf b.1, [])
  | .requant s t _ _ _ _ _ _ =>
    let hs (l : TensorLayout) : List Nat := match l with
      | .tiled h _ => [slotOf h]
      | .raw h .. => [slotOf h]
      | .mx a b .. => [slotOf a, slotOf b]
    (hs s, hs t)
  | .scatterRows s i t _ _ _ => ([slotOf s, slotOf i], [slotOf t])
  | .fold f => (f.part.toList.map slotOf ++ mask f.group, [slotOf (d.gHandle f.group 96)])
  | .fill h _ _ _ => ([], [slotOf h])
  | .scrub .. => ([], [])

/-- Buffer slots that a command reads, and those that it writes, its RECORD among them (R307). -/
def Dev.wellUses (d : Dev) (k : WellCmd) : List Nat × List Nat := ((d.opUses k).1, slotOf k.record :: (d.opUses k).2)

/-- Whether an earlier command at the same Well stands in the way (R307). -/
def Dev.wellBlocked (d : Dev) (k : WellCmd) : Bool :=
  let mine := d.wellUses k
  let at_ (x : WellCmd) : List Nat := x.well :: x.parts.map (·.well)
  (d.wells.cmds.takeWhile fun x => x.id != k.id).any fun x =>
    x.heldSince.isNone && ((at_ x).any fun w => (at_ k).contains w) &&
      ((d.wellUses x).2.any fun s => mine.1.contains s || mine.2.contains s)

/-- Whether a Well repairs a channel or switches its microcode (R484, R489). -/
def Dev.wellBusy (d : Dev) (w : Nat) : Bool := let s := d.well w; s.retraining || s.sparing || s.laneRepair || s.ucode

/-- What the lead Well of an update reads before any part starts (R314, R316): the clip factor and the visited experts, or the
CAUSE of a failure. -/
def Dev.optPrepare (d : Dev) (k : WellCmd) (g : Nat) (counts normIn : Option Nat) : Except Nat (Word32 × List Bool) × Dev :=
  let norm := if (d.gField g 2 1).testBit 6 then d.readAcross (dieOfWell k.well) (reqWell k.well) (normIn.getD 0) 16 else (some (zeros 16), d)
  match norm with
  | (none, d) => (.error wcBus, d)
  | (some nb, d) =>
    let ex := d.gExperts g
    let cs := if ex = 0 then (some [], d) else d.readAcross (dieOfWell k.well) (reqWell k.well) (counts.getD 0) (8 * ex)
    match cs with
    | (none, d) => (.error wcBus, d)
    | (some cb, d) =>
      let visited := if ex = 0 then [true] else (List.range ex).map fun e => fieldAt cb (8 * e) 8 != 0
      if !(d.gField g 2 1).testBit 6 then (.ok (0x3F800000#32, visited), d)
      else
        let n : Word32 := BitVec.ofNat 32 (fieldAt nb 8 4)
        let cm : Word32 := BitVec.ofNat 32 (d.gField g 32 4)
        if fieldAt nb 12 1 = 0 || !(f32 n).isFinite then (.error wcNorm, d)
        else (.ok (if Fl.lt (f32 cm) (f32 n) then div32 cm n else 0x3F800000#32, visited), d)

/-- The new version's buffer of an update that fails is released (R266). -/
def Dev.dropNew (d : Dev) (k : WellCmd) : Dev := k.newSlot.elim d fun s => d.freeSlotNow s

/-- A fold is done: its key, its rows, and its torn tiles enter the accumulator's progress (R256, R257, R260). -/
def Dev.foldDone (d : Dev) (f : FoldArgs) : Dev :=
  let s := d.foldSt f.group f.expert (f.iter % 65536)
  d.setFold { s with done := s.done ++ [(f.microBatch, f.use, f.chunk, f.last)], visit := s.visit + f.rows }

/-- The parts of a command start (R307, R310), once its spilled operands have been read (R253). -/
def Dev.wellStart (d : Dev) (id : Nat) : Dev :=
  match d.wcmd id with
  | none => d
  | some k =>
    if k.started || d.wellBlocked k || d.fetching id || (k.parts.any (d.partHeld k)) || (d.well k.well).ucode then d
    else match k.op with
      | .optUpdate g _ _ counts normIn =>
        if k.heldSince.isSome || d.heldAt (counts.getD 0) (8 * d.gExperts g) || d.heldAt (normIn.getD 0) 16 then d
        else match d.optPrepare k g counts normIn with
          | (.error c, d) => (d.dropNew k).finishWell { k with counts := d.optIdle g k.heldUs } 2 c
          | (.ok x, d) => d.setWcmd id fun k => { k with started := true, clip := x.1, visited := x.2 }
      | .fold f =>
        if !d.foldNext f then d
        else if k.parts.isEmpty then
          (d.foldDone f).finishWell { k with heldSince := none, counts := [f.rows, 0, k.counts.getD 2 0] } 0 0
        else d.setWcmd id fun k => { k with started := true, heldSince := none }
      | _ => d.setWcmd id fun k => { k with started := true }

/-- R307: WELL_COMMAND_START. -/
def execWellCommandStart (id : Nat) (s : State) : Host.Outcome State Fault Refusal := s.onDev fun d => d.wellStart id

end Sys2Proof.Machine
end

