-- ==== Sys2Proof/Machine/WellParts.lean ====
section
/-! DEFINITION. The parts of Well commands: reading and checking input tiles (R67, R308), the optimizer (R315 to R319, R173 to
R175), sums of squares (R298, R321), requantization and MX conversion (R53 to R58, R322, R323), scatter-add and fold (R256, R260,
R263, R324), fill (R329) and scrub (R330, R331), and the completion of a command (R308, R318, R319). -/

namespace Sys2Proof.Machine

open Sys2Proof

/-! ## Inputs and outputs of a part -/

/-- One input tile of a part in a format, checked (R61, R65, R67); the error is the CAUSE of R309. -/
def Dev.partTile (d : Dev) (w : Nat) (ps : List (Nat × Nat)) (f : Fmt) : Except Nat (List Byte) × Dev :=
  match d.piecesAcross (dieOfWell w) (reqWell w) ps with
  | (none, d) => (.error wcBus, d)
  | (some t, d) => (if tileGood (fun g => g == f) t then .ok t else .error wcChecksum, d)

/-- Input tiles in order; the first failure ends the reading. -/
def Dev.partTiles (d : Dev) (w : Nat) (f : Fmt) : List (List (Nat × Nat)) → Except Nat (List (List Byte)) × Dev
  | [] => (.ok [], d)
  | p :: ps =>
    match d.partTile w p f with
    | (.error c, d) => (.error c, d)
    | (.ok t, d) =>
      match d.partTiles w f ps with
      | (.error c, d) => (.error c, d)
      | (.ok ts, d) => (.ok (t :: ts), d)

/-- Tiles `first` to `first + count − 1` of an operand. -/
def WTiles.tilesOf (t : WTiles) (first count : Nat) : List (List (Nat × Nat)) :=
  (List.range count).map fun i => t.tile (first + i)

/-- The outputs of a part: writes, additions to the command's counts, and its first tile with NAN_PRESENT. -/
structure PartOut where
  writes : List (List (Nat × Nat) × List Byte)
  counts : List Nat
  nanAt : Option Nat
  deriving DecidableEq, Repr

/-- Counts added place by place. -/
def addCounts (a b : List Nat) : List Nat :=
  (List.range (max a.length b.length)).map fun i => a.getD i 0 + b.getD i 0

/-- A tile as an output, with its NaN mark. -/
def tileOut (ps : List (Nat × Nat)) (t : List Byte) : PartOut :=
  ⟨[(ps, t)], [], if tileNan t then some ((ps.head?.map (·.1)).getD 0) else none⟩

/-- Two outputs together. -/
def PartOut.join (a b : PartOut) : PartOut := ⟨a.writes ++ b.writes, addCounts a.counts b.counts, a.nanAt.or b.nanAt⟩

/-- No output. -/
def PartOut.none_ : PartOut := ⟨[], [], none⟩

/-- The outputs are written. -/
def Dev.putOut (d : Dev) (o : PartOut) : Dev := o.writes.foldl (fun d w => d.writeTsvPieces w.1 w.2) d

/-- Torn marks over the tiles of a failed part, by the Well that ran it (R308, R363, R364). -/
def Dev.tearAll (d : Dev) (w : Nat) (tiles : List (List (Nat × Nat))) : Dev :=
  let d := tiles.foldl (fun d ps => d.tearPieces ps) d
  if tiles.isEmpty then d else d.setWell w fun s => { s with err := wset s.err 0x20 }

/-! ## Sums of squares -/

/-- A sum along the fixed pairwise tree, an absent value adding nothing (R175, R279). -/
def pairOnce64 : List (Option Fl) → List (Option Fl)
  | a :: b :: rest =>
    (match a, b with
      | none, y => y
      | x, none => x
      | some x, some y => some (add64 x y)) :: pairOnce64 rest
  | xs => xs

/-- The levels of a tree of 2^k values. -/
def foldLevels64 : Nat → List (Option Fl) → List (Option Fl)
  | 0, xs => xs
  | k + 1, xs => foldLevels64 k (pairOnce64 xs)

/-- The sum along the left-complete pairwise tree (R175): the leaves beyond a power of two pair off from the left on the lowest
level. -/
def treeSum64 (xs : List (Option Fl)) : Option Fl :=
  if xs.isEmpty then none
  else
    let k := Nat.log2 xs.length
    let m := xs.length - 2 ^ k
    (foldLevels64 k (pairOnce64 (xs.take (2 * m)) ++ xs.drop (2 * m))).headD none

/-- The binary64 sum of squares of values in order (R175). -/
def squares (xs : List Fl) : Fl := xs.foldl (fun s x => add64 s (Fl.mul x x)) Fl.zero

/-- The values of the valid elements of a tile in index order. -/
def tileValues (f : Fmt) (t : List Byte) : List Fl := (validCells (tileRows t) (tileCols t)).map fun p => valueAt f t p.1 p.2

/-- The sum of squares of a list of tiles by chunks of 65,536 elements (R298); a chunk with an absent tile is omitted. -/
def chunkSum (f : Fmt) (tiles : List (Option (List Byte))) : Fl :=
  let n := ceilDiv tiles.length 64
  let chunk (i : Nat) : Option Fl :=
    let ts := (tiles.drop (64 * i)).take 64
    if ts.all (·.isSome) then some (squares ((ts.filterMap id).flatMap (tileValues f))) else none
  (treeSum64 ((List.range n).map chunk)).getD Fl.zero

/-- NORM_OUT of a sum (R299). -/
def normOut (sumsq : Fl) (valid : Bool) : List Byte :=
  leBytes 8 (code64 sumsq) ++ leBytes 4 (toF32 (Fl.sqrt (f64 (code64 sumsq)))).toNat ++ leBytes 1 (b2n valid) ++ zeros 3

/-! ## The optimizer -/

/-- What the update of an element needs (R315): OPT, c, BETA1, BETA2, EPS, WEIGHT_DECAY, LR_BASE × 2^LR_EXP, and the advanced
B1T and B2T. -/
structure OptIn where
  adamw : Bool
  clip : Word32
  beta1 : Word32
  beta2 : Word32
  eps : Word32
  decay : Word32
  lr : Fl
  b1t : Word32
  b2t : Word32

/-- 1.0 in FP32. -/
def one32 : Word32 := 0x3F800000#32

/-- One element of the update (R315): m, v and d from w, m, v and the gradient. -/
def optElem (o : OptIn) (w m v grad : Word32) : Word32 × Word32 × Word32 :=
  let g := mul32 grad o.clip
  if o.adamw then
    let m := add32 (mul32 o.beta1 m) (mul32 (sub32 one32 o.beta1) g)
    let v := add32 (mul32 o.beta2 v) (mul32 (sub32 one32 o.beta2) (mul32 g g))
    let d := add32 (div32 (div32 m (sub32 one32 o.b1t)) (add32 (sqrt32 (div32 v (sub32 one32 o.b2t))) o.eps)) (mul32 o.decay w)
    (m, v, d)
  else
    let m := add32 (mul32 o.beta1 m) g
    (m, v, add32 m (mul32 o.decay w))

/-- The weight write of R173: one rounding of w − LR × d into the master format. -/
def optWeight (f : Fmt) (rnd : Rnd) (lr : Fl) (w d : Word32) : Conv :=
  encodeElem f rnd (Fl.add (f32 w) (Fl.mul lr (f32 d)).negate)

/-- The FP32 value of a master element (R315). -/
def masterWord (f : Fmt) (t : List Byte) (r c : Nat) : Word32 := toF32 (valueAt f t r c)

/-- A group's parameters for an update of a unit whose counter has been advanced. -/
def Dev.optIn (d : Dev) (g : Nat) (clip b1t b2t : Word32) : OptIn :=
  let w (o : Nat) : Word32 := BitVec.ofNat 32 (d.gField g o 4)
  let ex := (BitVec.ofNat 8 (d.gField g 12 1)).toInt
  { adamw := d.adamw g, clip := clip, beta1 := w 16, beta2 := w 20, eps := w 24, decay := w 28, lr := (f32 (w 8)).scale ex,
    b1t := b1t, b2t := b2t }

/-- Whether a group's weight write rounds stochastically (R174, R318). -/
def Dev.optStoch (d : Dev) (g : Nat) : Bool :=
  let fl := d.gField g 2 1
  bits fl 2 1 == 1 || (bits fl 2 1 == 2 && fl.testBit 3)

/-- The advanced counter of a unit (R315). -/
def Dev.optNext (d : Dev) (g : Nat) (e : Option Nat) : Nat × Word32 × Word32 :=
  let s := d.optState g e
  let w (o : Nat) : Word32 := BitVec.ofNat 32 (d.gField g o 4)
  (s.1 + 1, mul32 s.2.1 (w 16), mul32 s.2.2 (w 20))

/-- SR_SEED (R171). -/
def Dev.seed64 (d : Dev) : Word64 := d.scale.seedHi ++ d.scale.seedLo

/-- What one tile of the update gives: the new master tile, the moments, LOST, NaN elements and elements. -/
structure OptTile where
  master : List Byte
  m1 : List Byte
  m2 : List Byte
  lost : Nat
  nan : Nat
  elems : Nat

/-- The update of one tile (R315, R172): `idx` is the tile's index in the group's tensor, `t` the advanced counter. -/
def Dev.optTile (d : Dev) (g idx t : Nat) (o : OptIn) (w m v grad : List Byte) : OptTile :=
  let f := d.masterFmt g
  let rows := tileRows w
  let cols := tileCols w
  let st := d.optStoch g
  let seed := d.seed64
  let one (p : Nat × Nat) : Word32 × Word32 × Bool × Conv :=
    let x := masterWord f w p.1 p.2
    let r := optElem o x (word32At m p.1 p.2) (word32At v p.1 p.2) (word32At grad p.1 p.2)
    let rnd := if st then Rnd.stoch (rand16 seed g t (1024 * idx + 32 * p.1 + p.2)) else Rnd.nearest
    let c := optWeight f rnd o.lr x r.2.2
    (r.1, r.2.1, !(f32 r.2.2).isZero && !(f32 r.2.2).isNan && Fl.eqv (decodeElem f c.code) (f32 x), c)
  let cells := validCells rows cols
  let res := cells.map fun p => (32 * p.1 + p.2, one p)
  let at_ (r c : Nat) : Word32 × Word32 × Bool × Conv :=
    ((res.find? fun x => x.1 == 32 * r + c).map (·.2)).getD (0, 0, false, ⟨0, false, false, false, false⟩)
  { master := mkTile f rows cols ⟨res.any fun x => x.2.2.2.2.nan, res.any fun x => x.2.2.2.2.ovf, res.any fun x => x.2.2.2.2.unf, st⟩
      [] (tileEpoch w) fun r c => (at_ r c).2.2.2.code,
    m1 := f32Tile rows cols (tileEpoch m) false false fun r c => (at_ r c).1,
    m2 := f32Tile rows cols (tileEpoch v) false false fun r c => (at_ r c).2.1,
    lost := (res.filter fun x => x.2.2.2.1).length,
    nan := (res.filter fun x => x.2.2.2.2.nan).length,
    elems := cells.length }

/-- The compute copy of a master tile (R317): requantization under COMPUTE_ENTRY, with its report. -/
def Dev.optCopy (d : Dev) (w g iter : Nat) (master : List Byte) : Except Nat (List Byte) × Dev :=
  let f := d.computeFmt g
  let mf := d.masterFmt g
  let conv (rule : ScaleRule) : TileConv :=
    convTile f (tileRows master) (tileCols master) (tileEpoch master) rule (fun _ _ => .nearest) false (valueAt mf master)
  if !fmtScaled f then (.ok (conv (.fixed 0x7F)).tile, d)
  else
    let ref : ScaleRef := ⟨d.gField g 48 2, iter % 65536⟩
    let why : EntryFail → Nat := fun e => match e with | .invalid _ => wcRef | .bus _ => wcBus
    match d.lookupScale (reqWell w) ref with
    | (.error e, d) => (.error (why e), d)
    | (.ok rule, d) =>
      let c := conv rule
      match d.reportScale (reqWell w) ref c.amax c.sat 0 with
      | (.error e, d) => (.error (why e), d)
      | (.ok _, d) => (.ok c.tile, d)

/-- The operands of an update as its parts use them: gradient, current master, moments, current copy, new master, new copy. -/
structure OptOps where
  grad : WTiles
  master : WTiles
  m1 : WTiles
  m2 : Option WTiles
  copy : WTiles
  newMaster : WTiles
  newCopy : WTiles

/-- The operands of an update, if they still stand. -/
def Dev.optOps (d : Dev) (k : WellCmd) (g : Nat) (grad : Word64) : Option OptOps :=
  let n := d.gAll g
  match d.wTiles grad .fp32 0 n false, d.wRange (d.gHandle g 72) 0 (d.versionBytes g) 32 false,
      d.wTiles (d.gHandle g 80) .fp32 0 n true, k.newSlot.bind d.depot.buf with
  | .ok gt, .ok vb, .ok m1, some nb =>
    let m2 := if d.adamw g then (d.wTiles (d.gHandle g 88) .fp32 0 n true).toOption else none
    some { grad := gt, master := d.masterOf g vb, m1 := m1, m2 := m2, copy := d.copyOf g vb, newMaster := d.masterOf g nb,
           newCopy := d.copyOf g nb }
  | _, _, _, _ => none

/-- Whether tile `i` of a group is trained (R263). -/
def Dev.trained (d : Dev) (g i : Nat) (mask : List Byte) : Bool := d.trainMode g != 2 || (fieldAt mask (i / 8) 1).testBit (i % 8)

/-- One tile of an update's part once its inputs are checked: its outputs, or the CAUSE. Places of `counts`: LOST, NAN_OUT,
elements. -/
def Dev.optOne (d : Dev) (w g iter t i : Nat) (o : OptIn) (ops : OptOps) (update : Bool) (ts : List (List Byte)) :
    Except Nat PartOut × Dev :=
  let x := ts.getD 0 []
  let cp := d.hasCopy g
  if !update then
    let keep : PartOut := tileOut (ops.newMaster.tile i) x
    let keep := { keep with counts := [0, (tileValues (d.masterFmt g) x).countP (·.isNan), (validCells (tileRows x) (tileCols x)).length] }
    (.ok (if cp then keep.join ⟨[(ops.newCopy.tile i, ts.getD 1 [])], [], none⟩ else keep), d)
  else
    let r := d.optTile g i t o x (ts.getD 1 []) (ts.getD 2 []) (ts.getD 3 [])
    let out : PartOut :=
      ((tileOut (ops.newMaster.tile i) r.master).join ⟨[(ops.m1.tile i, r.m1)], [r.lost, r.nan, r.elems], none⟩).join
        (match ops.m2 with | some m2 => ⟨[(m2.tile i, r.m2)], [], none⟩ | none => PartOut.none_)
    if !cp then (.ok out, d)
    else match d.optCopy w g iter r.master with
      | (.error c, d) => (.error c, d)
      | (.ok c, d) => (.ok (out.join ⟨[(ops.newCopy.tile i, c)], [], none⟩), d)

/-- The input tiles of one tile of an update: the master tile and its copy, or master, moments and gradient. -/
def Dev.optInputs (d : Dev) (w g i : Nat) (ops : OptOps) (update : Bool) : Except Nat (List (List Byte)) × Dev :=
  let mf := d.masterFmt g
  match d.partTile w (ops.master.tile i) mf with
  | (.error c, d) => (.error c, d)
  | (.ok x, d) =>
    if !update then
      if d.hasCopy g then
        match d.partTile w (ops.copy.tile i) (d.computeFmt g) with
        | (.error c, d) => (.error c, d)
        | (.ok y, d) => (.ok [x, y], d)
      else (.ok [x], d)
    else
      let same (t : List Byte) : Bool := tileRows t == tileRows x && tileCols t == tileCols x
      match d.partTiles w .fp32 [ops.m1.tile i, (ops.m2.getD ops.m1).tile i, ops.grad.tile i] with
      | (.error c, d) => (.error c, d)
      | (.ok ts, d) => if ts.all same then (.ok (x :: ts), d) else (.error wcChecksum, d)

/-- The inputs of every tile of a part. -/
def Dev.optGather (d : Dev) (w g : Nat) (ops : OptOps) (upd : Nat → Bool) :
    List Nat → Except Nat (List (Nat × List (List Byte))) × Dev
  | [] => (.ok [], d)
  | i :: is =>
    match d.optInputs w g i ops (upd i) with
    | (.error c, d) => (.error c, d)
    | (.ok ts, d) =>
      match d.optGather w g ops upd is with
      | (.error c, d) => (.error c, d)
      | (.ok rest, d) => (.ok ((i, ts) :: rest), d)

/-- The outputs of every tile of a part. -/
def Dev.optAll (d : Dev) (w g iter t : Nat) (o : OptIn) (ops : OptOps) (upd : Nat → Bool) :
    List (Nat × List (List Byte)) → Except Nat PartOut × Dev
  | [] => (.ok PartOut.none_, d)
  | (i, ts) :: rest =>
    match d.optOne w g iter t i o ops (upd i) ts with
    | (.error c, d) => (.error c, d)
    | (.ok a, d) =>
      match d.optAll w g iter t o ops upd rest with
      | (.error c, d) => (.error c, d)
      | (.ok b, d) => (.ok (a.join b), d)

/-- The bytes of TRAIN_MASK, none when they cannot be read (R263). -/
def Dev.maskBytes (d : Dev) (w g : Nat) : Option (List Byte) × Dev :=
  if d.trainMode g ≠ 2 then (some [], d)
  else match d.checkHandle (d.gHandle g 112) ⟨0, ceilDiv (d.gAll g) 8, 8, false⟩ with
    | .error _ => (none, d)
    | .ok b => d.piecesAcross (dieOfWell w) (reqWell w) (b.pieces 0 (ceilDiv (d.gAll g) 8))

/-- Whether the update changes an expert (R316). -/
def Dev.optVisit (d : Dev) (k : WellCmd) (g : Nat) (e : Option Nat) : Bool :=
  match e with
  | none => true
  | some e => k.visited.getD e false || (d.gField g 2 1).testBit 0

/-- The pieces of the records that a part of an update reads: the group's record, and the entry of its expert (R311). -/
def Dev.optRecords (d : Dev) (g : Nat) (e : Option Nat) : List (Nat × Nat) :=
  (d.groupAddr g, 256) :: e.elim [] fun e =>
    ((d.wRange (d.gHandle g 104) (16 * e) 16 8 true).toOption).elim [] fun b => b.pieces (16 * e) 16

/-- What a part of an update reads beside its tiles: the records, and TRAIN_MASK; none where a read fails (R308). -/
def Dev.optReadMask (d : Dev) (w g : Nat) (e : Option Nat) : Option (List Byte) × Dev :=
  match d.piecesAcross (dieOfWell w) (reqWell w) (d.optRecords g e) with
  | (none, d) => (none, d)
  | (some _, d) => d.maskBytes w g

/-- A part of an OPT_UPDATE. -/
def Dev.partOpt (d : Dev) (k : WellCmd) (p : WPart) (g iter : Nat) (grad : Word64) : Except Nat PartOut × Dev :=
  match d.optOps k g grad with
  | none => (.error wcRef, d)
  | some ops =>
    match d.optReadMask p.well g p.expert with
    | (none, d) => (.error wcBus, d)
    | (some mask, d) =>
      let visit := d.optVisit k g p.expert
      let upd (i : Nat) : Bool := visit && d.trained g i mask
      let is := (List.range p.count).map (· + p.first)
      match d.optGather p.well g ops upd is with
      | (.error c, d) => (.error c, d)
      | (.ok xs, d) =>
        let s := d.optNext g p.expert
        d.optAll p.well g iter s.1 (d.optIn g k.clip s.2.1 s.2.2) ops upd xs

/-! ## Requantization and conversion -/

/-- The element of a raw tensor (R53). -/
def rawValue (f : Fmt) (bs : List Byte) (cols r c : Nat) : Fl :=
  let n := fmtBits f / 8
  valueAt f (zeros 32 ++ slice bs ((r * cols + c) * n) n) 0 0

/-- The code of an MX element, and the scale of its block (R54). -/
def mxCode (f : MxFmt) (es : List Byte) (i : Nat) : Nat :=
  if mxBits f = 4 then (let b := fieldAt es (i / 2) 1; if i % 2 = 0 then b % 16 else b / 16) else fieldAt es i 1

/-- The effective scale of an MX scale byte (R55). -/
def mxEff (f : MxFmt) (x : Nat) : Int := if f = .mxint8 then (x : Int) - 6 else x

/-- One import tile (R56): `val` and `eff` give an element's value and its block's effective scale (none for NaN) in the tile. A tile
block takes the largest effective scale among its rows, at least 0; an element of a NaN scale is NaN, so it follows R51. -/
def mxImport (f : Fmt) (rows cols epoch : Nat) (rnd : Nat → Nat → Rnd) (stoch : Bool) (val : Nat → Nat → Fl)
    (eff : Nat → Nat → Option Int) : TileConv :=
  let scale (b : Nat) : Nat := limitScale (((blockCells rows cols b).filterMap fun p => eff p.1 p.2).foldl max 0)
  convUnder f rows cols epoch scale rnd stoch fun r c => match eff r c with
    | some x => (val r c).scale (x - 127)
    | none => .nan

/-- One tile of a REQUANT into tiles: its conversion under a rule (R50 to R56). -/
def requantConv (src : TensorLayout) (bs sc t : List Byte) (target : Fmt) (epoch i : Nat) (rule : ScaleRule)
    (rnd : Nat → Nat → Rnd) (stoch : Bool) : TileConv :=
  match src with
  | .tiled _ f => convTile target (tileRows t) (tileCols t) (tileEpoch t) rule rnd stoch (valueAt f t)
  | .raw _ rows cols f =>
    let s := tileShape rows cols i
    convTile target s.1 s.2.1 epoch rule rnd stoch fun r c => rawValue f bs cols (s.2.2.1 + r) (s.2.2.2 + c)
  | .mx _ _ rows cols f ax =>
    let s := tileShape rows cols i
    let code (r c : Nat) : Nat := mxCode f bs ((s.2.2.1 + r) * cols + s.2.2.2 + c)
    let eff (r c : Nat) : Option Int :=
      let x := fieldAt sc (mxBlock ax cols (s.2.2.1 + r) (s.2.2.2 + c)) 1
      if x = 0xFF then none else some (mxEff f x)
    let val (r c : Nat) : Fl := decodeElem (mxElem f) (code r c)
    if fmtScaled target then mxImport target s.1 s.2.1 epoch rnd stoch val eff
    else convTile target s.1 s.2.1 epoch rule rnd stoch fun r c =>
      match eff r c with
      | some x => (val r c).scale (x - 127)
      | none => .nan

/-- The bytes of a layout that is not tiled: elements and scales. -/
def Dev.layoutBytes (d : Dev) (w : Nat) (l : TensorLayout) : Option (List Byte × List Byte) × Dev :=
  let read (d : Dev) (h : Word64) (n : Nat) : Option (List Byte) × Dev :=
    match d.wRange h 0 n 8 false with
    | .error _ => (none, d)
    | .ok b => d.piecesAcross (dieOfWell w) (reqWell w) (b.pieces 0 n)
  match l with
  | .tiled .. => (some ([], []), d)
  | .raw h rows cols f =>
    match read d h (rows * cols * (fmtBits f / 8)) with
    | (some bs, d) => (some (bs, []), d)
    | (none, d) => (none, d)
  | .mx hE hS rows cols f _ =>
    match read d hE (ceilDiv (rows * cols * mxBits f) 8) with
    | (none, d) => (none, d)
    | (some es, d) =>
      match read d hS (rows * cols / 32) with
      | (some ss, d) => (some (es, ss), d)
      | (none, d) => (none, d)

/-- The source of tile `i` can be read; none when a read fails. -/
def Dev.sourceOk (d : Dev) (w : Nat) (src : TensorLayout) (i : Nat) : Bool × Dev :=
  match d.piecesAcross (dieOfWell w) (reqWell w) (d.sourcePieces src i).eraseDups with
  | (some _, d) => (true, d)
  | (none, d) => (false, d)

/-- Every byte of a layout as it stands. -/
def Dev.layoutPeek (d : Dev) (l : TensorLayout) : List Byte × List Byte :=
  let peek (h : Word64) (n : Nat) : List Byte :=
    match d.wRange h 0 n 8 false with
    | .error _ => []
    | .ok b => d.peekPieces (b.pieces 0 n)
  match l with
  | .tiled .. => ([], [])
  | .raw h rows cols f => (peek h (rows * cols * (fmtBits f / 8)), [])
  | .mx hE hS rows cols f _ => (peek hE (ceilDiv (rows * cols * mxBits f) 8), peek hS (rows * cols / 32))

/-- One tile of a REQUANT converted, with its lookup and report (R156, R163). -/
def Dev.requantTile (d : Dev) (w : Nat) (src : TensorLayout) (bs sc t : List Byte) (target : Fmt) (entry : Option ScaleRef)
    (stoch : Bool) (iter i : Nat) : Except Nat TileConv × Dev :=
  let seed := d.seed64
  let stream := (entry.map (·.idx)).getD Config.noEntryStream
  let rnd (r c : Nat) : Rnd := if stoch then .stoch (rand16 seed stream iter (1024 * i + 32 * r + c)) else .nearest
  let conv (d : Dev) (rule : ScaleRule) : TileConv := requantConv src bs sc t target d.rd.epoch.toNat i rule rnd stoch
  match entry with
  | none => (.ok (conv d (.fixed 0x7F)), d)
  | some ref =>
    let ref : ScaleRef := ⟨ref.idx, iter % 65536⟩
    let why : EntryFail → Nat := fun e => match e with | .invalid _ => wcRef | .bus _ => wcBus
    match (if fmtScaled target then d.lookupScale (reqWell w) ref else (.ok (.fixed 0x7F), d)) with
    | (.error e, d) => (.error (why e), d)
    | (.ok rule, d) =>
      let c := conv d rule
      match d.reportScale (reqWell w) ref c.amax c.sat 0 with
      | (.error e, d) => (.error (why e), d)
      | (.ok _, d) => (.ok c, d)

/-- The counts that a converted tile adds: ROUNDED, SATURATED, ZEROED, NAN_OUT, TILES_OUT (R323). -/
def convCounts (c : TileConv) : List Nat := [c.rounded, c.sat, c.zeroed, c.nanOut, 1]

/-- The tiles of a REQUANT's part, one after another. -/
def Dev.requantAll (d : Dev) (w : Nat) (src : TensorLayout) (bs sc : List Byte) (dst : WTiles) (entry : Option ScaleRef)
    (stoch : Bool) (iter : Nat) : List (Nat × List Byte) → Except Nat PartOut × Dev
  | [] => (.ok PartOut.none_, d)
  | (i, t) :: rest =>
    match d.requantTile w src bs sc t dst.fmt entry stoch iter i with
    | (.error c, d) => (.error c, d)
    | (.ok c, d) =>
      match d.requantAll w src bs sc dst entry stoch iter rest with
      | (.error e, d) => (.error e, d)
      | (.ok o, d) => (.ok (((tileOut (dst.tile i) c.tile).join ⟨[], convCounts c, none⟩).join o), d)

/-- The scale of the MX block `k` of a tile (R57): the larger of the scales of the two tile blocks it spans, of those that hold a valid
element (R47), plus 6 for MXINT8; 0xFF where one of them is 0xFF. Of an MX block without a valid element it is that of 0x7F. -/
def mxBlockScale (f : MxFmt) (ax : Bool) (t : List Byte) (k : Nat) : Nat :=
  let bs := if ax then [k / 16, 2 + k / 16] else [2 * (k / 16), 2 * (k / 16) + 1]
  let live := bs.filter fun b => !(blockCells (tileRows t) (tileCols t) b).isEmpty
  let ss := live.map fun b => if fmtScaled (tileFmt t) then (tileScales t).getD b 0x7F else 0x7F
  if ss.contains 0xFF then 0xFF
  else min 0xFE ((if ss.isEmpty then 0x7F else ss.foldl max 0) + if f = .mxint8 then 6 else 0)

/-- What the export of one tile to MX writes: scales by block, and elements by place, with the counts (R57, R58). An element that the
format cannot hold makes its MX block's scale 0xFF (R51), and such a block has zero codes (R45). -/
def mxExport (f : MxFmt) (ax : Bool) (tiles : Nat → List Byte) (rnd : Nat → Nat → Rnd) (rows cols i : Nat) :
    List (Nat × Nat) × List (Nat × Nat) × List Nat :=
  let s := tileShape rows cols i
  let t := tiles i
  let cells := (List.range s.1).flatMap fun r => (List.range s.2.1).map fun c => (r, c)
  let key (p : Nat × Nat) : Nat := if ax then p.2 else p.1
  let scales := (List.range 32).map (mxBlockScale f ax t)
  let scale (p : Nat × Nat) : Nat := scales.getD (key p) 0x7F
  let valid (p : Nat × Nat) : Bool := decide (p.1 < tileRows t) && decide (p.2 < tileCols t)
  let val (p : Nat × Nat) : Fl := valueAt (tileFmt t) t p.1 p.2
  let conv (p : Nat × Nat) : Conv := encodeElem (mxElem f) (rnd p.1 p.2) ((val p).scale (127 - mxEff f (scale p)))
  let res := (cells.filter valid).map fun p => (p, conv p)
  let dead := (List.range 32).filter fun k => scales.getD k 0x7F == 0xFF || res.any fun x => key x.1 == k && x.2.bad
  let isDead (p : Nat × Nat) : Bool := dead.contains (key p)
  let place (p : Nat × Nat) : Nat := (s.2.2.1 + p.1) * cols + s.2.2.2 + p.2
  let codes := res.map fun x => (x.1, if isDead x.1 then 0 else x.2.code)
  let out (x : (Nat × Nat) × Conv) : Fl :=
    if isDead x.1 then .nan else (decodeElem (mxElem f) x.2.code).scale (mxEff f (scale x.1) - 127)
  let isSat (x : (Nat × Nat) × Conv) : Bool := x.2.ovf || (!(val x.1).isFinite && !(val x.1).isNan)
  let changed (x : (Nat × Nat) × Conv) : Bool := !((val x.1).isNan && (out x).isNan) && !Fl.eqv (out x) (val x.1)
  (((cells.map fun p => (mxBlock ax cols (s.2.2.1 + p.1) (s.2.2.2 + p.2), if isDead p then 0xFF else scale p)).eraseDups),
   cells.map fun p => (place p, (codes.find? fun x => x.1 == p).elim 0 (·.2)),
   [(res.filter fun x => !isSat x && !x.2.unf && changed x).length, (res.filter isSat).length,
    (res.filter fun x => x.2.unf).length, (res.filter fun x => x.2.nan || isDead x.1).length, 1])

/-- One MX element written at its place; an FP4 element shares its byte with its neighbour. -/
def Dev.putMx (d : Dev) (f : MxFmt) (b : Buf) (x : Nat × Nat) : Dev :=
  if mxBits f = 4 then
    let ps := b.pieces (x.1 / 2) 1
    let old := ((d.peekPieces ps).headD 0).toNat
    let new := if x.1 % 2 = 0 then old / 16 * 16 + x.2 else old % 16 + x.2 * 16
    d.writeTsvPieces ps (leBytes 1 new)
  else d.writeTsvPieces (b.pieces x.1 1) (leBytes 1 x.2)

/-- The tiles of a REQUANT's part exported to MX (R57). -/
def Dev.requantExport (d : Dev) (k : WellCmd) (hE hS : Word64) (rows cols : Nat) (f : MxFmt) (ax : Bool) (entry : Option ScaleRef)
    (stoch : Bool) (iter : Nat) (ts : List (Nat × List Byte)) : List Nat × Dev :=
  let seed := d.seed64
  let stream := (entry.map (·.idx)).getD Config.noEntryStream
  let one (i : Nat) (t : List Byte) : List (Nat × Nat) × List (Nat × Nat) × List Nat :=
    mxExport f ax (fun _ => t) (fun r c => if stoch then .stoch (rand16 seed stream iter (1024 * i + 32 * r + c)) else .nearest)
      rows cols i
  match d.depot.buf (slotOf hE), d.depot.buf (slotOf hS) with
  | some e, some s =>
    ts.foldl (fun acc x =>
      let r := one x.1 x.2
      let d := r.1.foldl (fun d y => d.writeTsvPieces (s.pieces y.1 1) (leBytes 1 y.2)) acc.2
      (addCounts acc.1 r.2.2, r.2.1.foldl (fun d y => d.putMx f e y) d)) (k.counts, d)
  | _, _ => (k.counts, d)

/-! ## Fill and scrub -/

/-- The outputs of a FILL's part (R329). -/
def fillOut (b : Buf) (off bytes : Nat) (pat : FillPattern) (epoch : Nat) (p : WPart) : PartOut :=
  match pat with
  | .tiles f rows cols =>
    let t := mkTile f rows cols ⟨false, false, false, false⟩ [] epoch fun _ _ => 0
    let T := tileTotal f
    ⟨(List.range p.count).map fun i => (b.pieces (off + (p.first + i) * T) T, t), [p.count * T], none⟩
  | _ =>
    let w := match pat with | .word w => w | _ => 0
    let n := min (2048 * p.count) (bytes - 2048 * p.first)
    ⟨[(b.pieces (off + 2048 * p.first) n, slice ((List.range (ceilDiv n 4)).flatMap fun _ => leBytes 4 w) 0 n)], [n], none⟩

/-- A line found bad by the Drone or SCRUB_RANGE is marked poisoned (R330): DRONE_POISON. -/
def Dev.dronePoison (d : Dev) (w l : Nat) (inj : Bool) : Dev :=
  (d.poisonLine l).detect (detId 0x04 w) 1 inj (some (l * lineBytes)) 0 0 0

/-- A line corrected and written back (R330): HBM_CE, and the Well's counts. -/
def Dev.droneCorrect (d : Dev) (w l : Nat) (inj : Bool) : Dev :=
  let d := d.setWell w fun s => { s with corrected := sat32 (s.corrected + 1), err := wset s.err 1 }
  d.detect (detId 0x01 w) 0 inj (some (l * lineBytes)) (channelOf (l * lineBytes)) 0 0

/-- What a pass over one line finds (R327, R330): 0 clean, 1 corrected, 2 newly poisoned, 3 poisoned already, 4 skipped. -/
def Dev.scrubLine (d : Dev) (w l : Nat) (ecc : EccOutcome) : Nat × Dev :=
  if d.poison.contains l then (3, d)
  else if (d.well w).track.invalid (l % (wellSize / lineBytes)) then (4, d)
  else match ecc with
    | .uncorrectable => (2, d.dronePoison w l false)
    | .corrected => (1, d.droneCorrect w l false)
    | .clean =>
      let (ue, d) := d.mimic (detId 0x04 w)
      if ue then (2, d.dronePoison w l true)
      else
        let (ce, d) := d.mimic (detId 0x01 w)
        if ce then (1, d.droneCorrect w l true) else (0, d)

/-- A part of a SCRUB_RANGE (R331): LINES, CORRECTED, UNCORRECTABLE, the lowest such address, POISONED, SKIPPED. -/
def Dev.partScrub (d : Dev) (p : WPart) (base : Nat) (ecc : List (Nat × EccOutcome)) (counts : List Nat) : List Nat × Dev :=
  (List.range p.count).foldl (fun acc i =>
    let l := base / lineBytes + p.first + i
    let r := acc.2.scrubLine p.well l (((ecc.find? fun x => x.1 == l).map (·.2)).getD .clean)
    let c := acc.1
    let first := if r.1 = 2 && (c.getD 2 0 = 0 || l * lineBytes < c.getD 3 0) then l * lineBytes else c.getD 3 0
    ([c.getD 0 0 + 1, c.getD 1 0 + b2n (r.1 == 1), c.getD 2 0 + b2n (r.1 == 2), first, c.getD 4 0 + b2n (r.1 == 3),
      c.getD 5 0 + b2n (r.1 == 4)], r.2)) (counts, d)

/-! ## Scatter-add and fold -/

/-- A tile with one row of another added to one of its rows in FP32 (R324). Rows and columns beyond the valid ones of either tile add
nothing (R39), a NaN that is kept becomes the canonical one (R43), and OVERFLOW is that of the command's own additions, of which
`ovf` says whether an earlier one exceeded the range (R60). -/
def addRow (dst src : List Byte) (rd rs : Nat) (ovf : Bool) : List Byte :=
  let there (c : Nat) : Bool := decide (rs < tileRows src) && decide (c < tileCols src)
  let old (r c : Nat) : Word32 := word32At dst r c
  let new (c : Nat) : Word32 := add32 (old rd c) (word32At src rs c)
  let exceeded (c : Nat) : Bool :=
    there c && (f32 (old rd c)).isFinite && (f32 (word32At src rs c)).isFinite && !(f32 (new c)).isFinite
  f32Tile (tileRows dst) (tileCols dst) (tileEpoch dst)
    (ovf || (decide (rd < tileRows dst) && (List.range (tileCols dst)).any exceeded)) false
    fun r c => if r = rd && there c then new c else BitVec.ofNat 32 (canonCode .fp32 (old r c).toNat)

/-- The inputs of a SCATTER_ADD's part in ROWS mode are read and checked: source, index and destination tiles. -/
def Dev.scatterCheck (d : Dev) (p : WPart) (src index dst : Word64) (srcRows dstRows hTiles : Nat) : Except Nat Unit × Dev :=
  match d.wTiles src .fp32 0 (ceilDiv srcRows 32 * hTiles) false, d.wTiles index .int32 0 (d.indexTiles index) false,
      d.wTiles dst .fp32 0 (ceilDiv dstRows 32 * hTiles) true with
  | .ok s, .ok i, .ok t =>
    match d.partTiles p.well .int32 ((d.indexCover i (partRows srcRows hTiles p)).map i.tile) with
    | (.error c, d) => (.error c, d)
    | (.ok _, d) =>
      let idx := d.scatterIndex i
      match d.partTiles p.well .fp32 (s.tilesOf p.first p.count ++ (scatterDst idx srcRows hTiles dstRows p).map t.tile) with
      | (.error c, d) => (.error c, d)
      | (.ok ts, d) =>
        let wide (i : Nat) : Bool := tileCols (ts.getD i []) == tileCols (ts.getD 0 [])
        (if hTiles = 1 && !(List.range ts.length).all wide then .error wcChecksum else .ok (), d)
  | _, _, _ => (.error wcRef, d)

/-- The additions of a SCATTER_ADD in ROWS mode, once every part has ended: ascending source rows, then the torn marks of failed
parts (R308, R324). -/
def Dev.scatterRun (d : Dev) (k : WellCmd) (src index dst : Word64) (srcRows dstRows hTiles : Nat) : WellCmd × Dev :=
  match d.wTiles src .fp32 0 (ceilDiv srcRows 32 * hTiles) false, d.wTiles index .int32 0 (d.indexTiles index) false,
      d.wTiles dst .fp32 0 (ceilDiv dstRows 32 * hTiles) true with
  | .ok s, .ok it, .ok t =>
    let idx := d.scatterIndex it
    let good (i : Nat) : Bool := !k.parts.any fun p => p.failed && decide (p.first ≤ i) && decide (i < p.first + p.count)
    let d := ((List.range s.n).foldl (fun acc i =>
      if !good i then acc
      else
        let st := acc.1.peekPieces (s.tile i)
        (scatterRowsOf idx srcRows hTiles dstRows i).foldl (fun acc x =>
          let j := x.2 / 32 * hTiles + i % max 1 hTiles
          let ps := t.tile j
          let old := acc.1.peekPieces ps
          (acc.1.writeTsvPieces ps (addRow old st (x.2 % 32) x.1 (acc.2.contains j && (tileHdr old).ovf == 1)), j :: acc.2)) acc)
      (d, ([] : List Nat))).1
    let bad := ((k.parts.filter (·.failed)).flatMap fun p => scatterDst idx srcRows hTiles dstRows p).eraseDups
    let d := bad.foldl (fun d j => d.tearAll (t.wellAt d.grade j) [t.tile j]) d
    let rows := List.range srcRows
    let inRange (r : Nat) : Bool := match idx[r]? with
      | some x => decide (0 ≤ x) && decide (x < dstRows)
      | none => false
    let done (r : Nat) : Bool := (List.range hTiles).all fun c => good (r / 32 * hTiles + c)
    let hit := (List.range t.n).findSome? fun j =>
      if bad.contains j then none
      else
        let ps := t.tile j
        if tileNan (d.peekPieces ps) && (List.range s.n).any fun i => good i &&
            (scatterRowsOf idx srcRows hTiles dstRows i).any fun x => x.2 / 32 * hTiles + i % max 1 hTiles == j then
          some (t.addr j)
        else none
    ({ k with torn := bad.length, nanAt := hit,
              counts := [(rows.filter fun r => inRange r && done r).length, (rows.filter fun r => !inRange r).length] }, d)
  | _, _, _ => (k, d)

/-- The first part of a SCATTER_ADD with a row skipped for its index (R324). -/
def Dev.scatterSkips (d : Dev) (index : Word64) (srcRows dstRows hTiles : Nat) (p : WPart) : Bool :=
  match d.wTiles index .int32 0 (d.indexTiles index) false with
  | .error _ => false
  | .ok it =>
    let idx := d.scatterIndex it
    (List.range p.count).any fun j =>
      let rt := (p.first + j) / max 1 hTiles
      decide ((scatterRowsOf idx srcRows hTiles dstRows (p.first + j)).length < min 32 (srcRows - 32 * rt))

/-- One accumulator tile with a part tile added (R256). -/
def foldTile (acc part : List Byte) (epoch : Nat) : List Byte :=
  let sum (r c : Nat) : Word32 := add32 (word32At acc r c) (word32At part r c)
  let exceeded := (validCells (tileRows acc) (tileCols acc)).any fun p =>
    (f32 (word32At acc p.1 p.2)).isFinite && (f32 (word32At part p.1 p.2)).isFinite && !(f32 (sum p.1 p.2)).isFinite
  f32Tile (tileRows acc) (tileCols acc) epoch exceeded false sum

/-- A part of a fold: tile by tile (R256, R260, R263). The result: tiles tried, tiles torn, the first CAUSE, the first NaN. -/
def Dev.foldGo (d : Dev) (w : Nat) (acc pt : WTiles) (f : FoldArgs) (mask : List Byte) (g n : Nat) :
    List Nat → Nat × Nat × Nat × Option Nat → (Nat × Nat × Nat × Option Nat) × Dev
  | [], r => (r, d)
  | i :: is, (tried, torn, cause, nan) =>
    let st := d.foldSt g f.expert (f.iter % 65536)
    if st.torn.contains i || !d.trained g (f.expert.getD 0 * n + i) mask then d.foldGo w acc pt f mask g n is (tried, torn, cause, nan)
    else
      match d.partTile w (pt.tile i) .fp32 with
      | (.error c, d) =>
        let d := (d.tearAll w [acc.tile i]).setFold { st with torn := st.torn ++ [i] }
        d.foldGo w acc pt f mask g n is (tried + 1, torn + 1, if cause = 0 then c else cause, nan)
      | (.ok x, d) =>
        match d.partTile w (acc.tile i) .fp32 with
        | (.error c, d) =>
          let d := (d.tearAll w [acc.tile i]).setFold { st with torn := st.torn ++ [i] }
          d.foldGo w acc pt f mask g n is (tried + 1, torn + 1, if cause = 0 then c else cause, nan)
        | (.ok a, d) =>
          if tileRows a ≠ tileRows x || tileCols a ≠ tileCols x then
            let d := (d.tearAll w [acc.tile i]).setFold { st with torn := st.torn ++ [i] }
            d.foldGo w acc pt f mask g n is (tried + 1, torn + 1, if cause = 0 then wcChecksum else cause, nan)
          else
            let t := foldTile a x (tileEpoch a)
            let d := d.writeTsvPieces (acc.tile i) t
            d.foldGo w acc pt f mask g n is (tried + 1, torn, cause, nan.or (if tileNan t then some (acc.addr i) else none))

/-! ## One part -/

/-- The pieces of the tiles that a part writes, to be torn when it fails (R308): new version tiles of an update, DST tiles. A
failed part of MX output has no tile to mark. -/
def Dev.partTargets (d : Dev) (k : WellCmd) (p : WPart) : List (List (Nat × Nat)) :=
  match k.op with
  | .optUpdate g _ grad _ _ =>
    match d.optOps k g grad with
    | none => []
    | some o => o.newMaster.tilesOf p.first p.count ++ if d.hasCopy g then o.newCopy.tilesOf p.first p.count else []
  | .requant src dst f _ _ _ n _ =>
    match dst with
    | .tiled h _ => match d.wTiles h f 0 (requantTiles src dst n) true with
      | .ok t => t.tilesOf p.first p.count
      | .error _ => []
    | _ => []
  | .fill h off _ (.tiles f ..) =>
    match d.wTiles h f off (p.first + p.count) true with
    | .ok t => t.tilesOf p.first p.count
    | .error _ => []
  | .fold f =>
    let n := d.gTiles f.group
    match d.wTiles (d.gHandle f.group 96) .fp32 (f.expert.getD 0 * n * tileTotal .fp32) n true with
    | .ok t => t.tilesOf p.first p.count
    | .error _ => []
  | _ => []

/-- What a part of a command with outputs does: its outputs or its CAUSE. -/
def Dev.partRun (d : Dev) (k : WellCmd) (p : WPart) : Except Nat PartOut × Dev :=
  match k.op with
  | .optUpdate g iter grad _ _ => d.partOpt k p g iter grad
  | .sumsq bs _ =>
    let b := bs.getD (p.expert.getD 0) (0, .fp32, 0)
    match d.wTiles b.1 b.2.1 0 b.2.2 false with
    | .error _ => (.error wcRef, d)
    | .ok t =>
      match d.partTiles p.well b.2.1 (t.tilesOf p.first p.count) with
      | (.error c, d) => (.error c, d)
      | (.ok _, d) => (.ok PartOut.none_, d)
  | .requant src dst f entry stoch iter n _ =>
    let tiles := requantTiles src dst n
    let is := (List.range p.count).map (· + p.first)
    let inputs : Except Nat (List (Nat × List Byte)) × Dev :=
      match src with
      | .tiled h sf =>
        match d.wTiles h sf 0 tiles false with
        | .error _ => (.error wcRef, d)
        | .ok s =>
          match d.partTiles p.well sf (s.tilesOf p.first p.count) with
          | (.error c, d) => (.error c, d)
          | (.ok ts, d) => (.ok (is.zip ts), d)
      | _ =>
        let r := is.foldl (fun (a : Bool × Dev) i => if a.1 then a.2.sourceOk p.well src i else a) (true, d)
        (if r.1 then .ok (is.map fun i => (i, [])) else .error wcBus, r.2)
    match inputs with
    | (.error c, d) => (.error c, d)
    | (.ok ts, d) =>
      let raw := d.layoutPeek src
      match dst with
      | .tiled h _ =>
        match d.wTiles h f 0 tiles true with
        | .error _ => (.error wcRef, d)
        | .ok t => d.requantAll p.well src raw.1 raw.2 t entry stoch iter ts
      | .mx hE hS rows cols g ax =>
        let r := d.requantExport { k with counts := [] } hE hS rows cols g ax entry stoch iter ts
        (.ok ⟨[], r.1, none⟩, r.2)
      | .raw .. => (.error wcRef, d)
  | .scatterRows s i t r q h =>
    match d.scatterCheck p s i t r q h with
    | (.error c, d) => (.error c, d)
    | (.ok _, d) => (.ok PartOut.none_, d)
  | .fill h off bytes pat =>
    match d.depot.buf (slotOf h) with
    | none => (.error wcRef, d)
    | some b => (.ok (fillOut b off bytes pat d.rd.epoch.toNat p), d)
  | .fold _ => (.ok PartOut.none_, d)
  | .scrub .. => (.ok PartOut.none_, d)

/-- The Well of a part fails under an error of its own (R537, R484): it restarts with its stack tracked, every line reading as
zero. -/
def Dev.restartWell (d : Dev) (w : Nat) : Dev :=
  let d := { d with mem := d.mem.erase (wellBase d.grade w) wellSize }
  d.setWell w fun s => { s with track := ⟨true, [], [], []⟩ }

/-- Whether a part meets a WELL_ENGINE parity failure, real or under MIMIC; WELL_BUFFER_CE is recorded alone (R537). -/
def Dev.engineCheck (d : Dev) (w op : Nat) (real : Bool) : Bool × Dev :=
  if real then (true, (d.detect (detId 0x06 w) 1 false none op 0 0).restartWell w)
  else
    let (m, d) := d.mimic (detId 0x06 w)
    if m then (true, d.detect (detId 0x06 w) 1 true none op 0 0)
    else
      let (ce, d) := d.mimic (detId 0x07 w)
      (false, if ce then d.detect (detId 0x07 w) 0 true none 0 0 0 else d)

/-- A part's end noted in its command and its Well's counts (R308, R334). -/
def Dev.notePart (d : Dev) (id : Nat) (p : WPart) (cause : Option Nat) (torn : Nat) (o : PartOut) : Dev :=
  let fin (x : WPart) : WPart :=
    if x.idx = p.idx then { x with done := true, failed := cause.isSome, cause := cause.getD 0 } else x
  let d := d.setWcmd id fun k =>
    { k with parts := k.parts.map fin, torn := k.torn + torn, nanAt := k.nanAt.or o.nanAt, counts := addCounts k.counts o.counts }
  d.setWell p.well fun s =>
    { s with cmds := sat32 (s.cmds + 1), partsFailed := if cause.isSome then sat32 (s.partsFailed + 1) else s.partsFailed }

/-! ## The end of a command -/

/-- The tiles of an operand by part: none where the part that holds it failed. -/
def Dev.survivors (d : Dev) (k : WellCmd) (t : WTiles) (key : Option Nat) : List (Option (List Byte)) :=
  (List.range t.n).map fun i =>
    if k.parts.any fun p => (key.isNone || p.expert == key) && p.failed && decide (p.first ≤ i) && decide (i < p.first + p.count) then none
    else some (d.peekPieces (t.tile i))

/-- The result of a SUMSQ (R321): RESULT written, and the record's fields. -/
def Dev.sumsqEnd (d : Dev) (k : WellCmd) (bs : List (Word64 × Fmt × Nat)) (result : Nat) : WellCmd × Dev :=
  let sums := bs.zipIdx.map fun x =>
    match d.wTiles x.1.1 x.1.2.1 0 x.1.2.2 false with
    | .error _ => Fl.zero
    | .ok t => chunkSum x.1.2.1 (d.survivors k t (some x.2))
  let q := sums.tail.foldl add64 (sums.headD Fl.zero)
  let valid := !k.parts.any (·.failed)
  let out := normOut q valid
  ({ k with counts := [fieldAt out 0 8, fieldAt out 8 4, b2n valid] }, d.write result out)

/-- UWR of R175. -/
def uwrOf (u2 w2 : Fl) : Word32 :=
  if u2.isNan || w2.isNan then 0x7FC00000#32
  else if w2.isZero then (if u2.isZero then 0#32 else 0x7F800000#32)
  else toF32 (Fl.sqrt (Fl.div u2 w2))

/-- U2 and W2 over the group's chunks (R175, R263, R316): a skipped expert and a masked tile add to W2 only; chunks of failed parts are omitted. -/
def Dev.optSums (d : Dev) (k : WellCmd) (g : Nat) (ops : OptOps) : Fl × Fl :=
  let f := d.masterFmt g
  let per := max 1 (d.gTiles g)
  let old := d.survivors k ops.master none
  let new := d.survivors k ops.newMaster none
  let mask := ((d.wRange (d.gHandle g 112) 0 (ceilDiv (d.gAll g) 8) 8 false).toOption).elim [] fun b =>
    d.peekPieces (b.pieces 0 (ceilDiv (d.gAll g) 8))
  let updated (i : Nat) : Bool := d.optVisit k g ((d.gExpertList g).map fun _ => i / per) && d.trained g i mask
  let diff (i : Nat) : Option (List Fl) :=
    match old.getD i none, new.getD i none with
    | some a, some b =>
      some (if updated i then (List.zipWith (fun x y => Fl.add y x.negate) (tileValues f a) (tileValues f b)) else [])
    | _, _ => none
  let n := ceilDiv ops.master.n 64
  let chunk (i : Nat) : Option Fl :=
    let ds := ((List.range 64).map (· + 64 * i)).filter (fun j => decide (j < ops.master.n)) |>.map diff
    if ds.all (·.isSome) then some (squares (ds.filterMap id).flatten) else none
  ((treeSum64 ((List.range n).map chunk)).getD Fl.zero, chunkSum f old)

/-- The counters of an update that completed OK or PARTIAL are written (R315, R319). -/
def Dev.optCounters (d : Dev) (k : WellCmd) (g : Nat) : Dev :=
  match d.gExpertList g with
  | none =>
    let s := d.optNext g none
    ((d.setGField g 52 4 s.1).setGField g 56 4 s.2.1.toNat).setGField g 60 4 s.2.2.toNat
  | some es =>
    es.foldl (fun d e =>
      if !d.optVisit k g (some e) then d
      else
        let s := d.optNext g (some e)
        match d.depot.buf (slotOf (d.gHandle g 104)) with
        | none => d
        | some b => d.writeTsvPieces (b.pieces (16 * e) 16)
            (leBytes 4 s.1 ++ leBytes 4 s.2.1.toNat ++ leBytes 4 s.2.2.toNat ++ zeros 4)) d

/-- The accumulators of a group after an update (R257): +0, no visits, the next iteration; the visit counts of its layers begin again
(R197). -/
def Dev.resetAcc (d : Dev) (g : Nat) : Dev :=
  let next (f : FoldSt) : FoldSt :=
    if f.group = g then { f with iter := (f.iter + 1) % 65536, done := [], visit := 0, torn := [] } else f
  { d with wells := { d.wells with folds := d.wells.folds.map next },
           place := { d.place with visits := d.place.visits.filter fun v => d.layerGroup v.1 != some g } }.zeroAcc g

/-- The end of an update that made a new version (R264, R266, R318, R319, R360), with the record's counts (R320). -/
def Dev.optEnd (d : Dev) (k : WellCmd) (g iter : Nat) (grad : Word64) : WellCmd × Dev :=
  match d.optOps k g grad, k.newSlot.bind d.depot.buf with
  | some ops, some nb =>
    let s := d.optSums k g ops
    let cur := d.curNum g
    let num := (cur + 1) % 2 ^ 32
    let lost := k.counts.getD 0 0
    let fl := d.gField g 2 1
    let switch := bits fl 2 1 == 2 && !fl.testBit 3 && decide (64 * lost > k.counts.getD 2 0)
    let ex := (d.gExpertList g).getD [0]
    let upd := (ex.filter fun e => d.optVisit k g ((d.gExpertList g).map fun _ => e)).length
    let u2 := toF32 s.1
    let w2 := toF32 s.2
    let uwr := uwrOf (f64 (code64 s.1)) (f64 (code64 s.2))
    let d := d.optCounters k g
    let d := if switch then d.setGField g 2 1 (fl + 8) else d
    let d := ((((d.setGField g 128 4 u2.toNat).setGField g 132 4 w2.toNat).setGField g 136 4 uwr.toNat).setGField g 140 4 lost).setGField
      g 144 4 iter
    let reps := (d.place.replicas.filter fun r => r.group == g && r.version == cur).map (·.expert)
    let v : Version := { group := g, num := num, slot := nb.slot, count := 1 }
    let d := { d with wells := { d.wells with versions := d.wells.versions ++ [v] } }
    let d := (d.setGField g 64 4 num).setGField g 72 8 (d.handleOf nb).toNat
    let d := (d.dropVersion g cur).resetAcc g
    let d := reps.foldl (fun d e => d.startReplica g e) d
    ({ k with counts := [num, upd, ex.length - upd, lost, u2.toNat, w2.toNat, uwr.toNat, k.counts.getD 1 0, k.clip.toNat, k.heldUs,
        b2n switch] }, d)
  | _, _ => (k, d)

/-- The status of a command whose parts have all ended (R308). -/
def WellCmd.status (k : WellCmd) : Nat :=
  let n := (k.parts.filter (·.failed)).length
  if n = 0 then 0 else if n = k.parts.length then 2 else 1

/-- The first CAUSE in part order (R309). -/
def WellCmd.firstCause (k : WellCmd) : Nat := ((k.parts.find? fun p => p.cause != 0).map (·.cause)).getD 0

/-- Every part of a command has ended: what the command does as a whole, and its completion (R308). -/
def Dev.wellEnd (d : Dev) (id : Nat) : Dev :=
  match d.wcmd id with
  | none => d
  | some k =>
    if !k.started || !k.parts.all (·.done) then d
    else match k.op with
      | .optUpdate g iter grad _ _ =>
        if k.status = 2 then (d.dropNew k).finishWell { k with counts := (d.optIdle g k.heldUs).set 8 k.clip.toNat } 2 k.firstCause
        else
          let r := d.optEnd k g iter grad
          r.2.finishWell (if r.1.counts.getD 7 0 = 0 then { r.1 with nanAt := none } else r.1) k.status k.firstCause
      | .sumsq bs result => let r := d.sumsqEnd k bs result; r.2.finishWell r.1 k.status k.firstCause
      | .scatterRows s i t r q h =>
        let skip (p : WPart) : WPart := if p.cause = 0 && d.scatterSkips i r q h p then { p with cause := wcIndex } else p
        let cause := ({ k with parts := k.parts.map skip } : WellCmd).firstCause
        let e := d.scatterRun k s i t r q h
        e.2.finishWell e.1 k.status cause
      | .fold f =>
        -- counts: tiles tried and torn, then whether it was held
        let bad := k.counts.getD 1 0
        let status := if bad = 0 then k.status else if bad = k.counts.getD 0 0 then 2 else 1
        (d.foldDone f).finishWell { k with counts := [f.rows, 0, k.counts.getD 2 0] } status k.firstCause
      | _ => d.finishWell k k.status k.firstCause

/-- Whether an earlier part stands before a part in its engine's queue (R307): one of its own command, or of a command that came first and
is not held. -/
def Dev.partBehind (d : Dev) (k : WellCmd) (p : WPart) : Bool :=
  let open_ (x : WellCmd) : Bool := x.parts.any fun q => q.well == p.well && !q.done && (x.id != k.id || decide (q.idx < p.idx))
  open_ k || (d.wells.cmds.takeWhile fun x => x.id != k.id).any fun x =>
    x.heldSince.isNone && wellOpCode x.op == wellOpCode k.op && open_ x

/-- R308: a part of a Well command ends, succeeding or tearing its outputs. -/
def Dev.partEnd (d : Dev) (id part : Nat) (engineFault : Bool) (ecc : List (Nat × EccOutcome)) : Dev :=
  match d.wcmd id with
  | none => d
  | some k =>
    match k.parts.find? fun p => p.idx == part && !p.done with
    | none => d
    | some p =>
      if !k.started || d.partHeld k p || d.partBehind k p then d
      else
        let (bad, d) := d.engineCheck p.well (wellOpCode k.op) engineFault
        if bad then
          let tiles := d.partTargets k p
          ((d.tearAll p.well tiles).notePart id p (some Config.wellFaultCause.toNat) tiles.length PartOut.none_).wellEnd id
        else match k.op with
          | .scrub base _ =>
            let r := d.partScrub p base ecc k.counts
            ((r.2.setWcmd id fun k => { k with counts := r.1 }).notePart id p none 0 PartOut.none_).wellEnd id
          | .fold f =>
            let n := d.gTiles f.group
            match d.maskBytes p.well f.group, d.wTiles (d.gHandle f.group 96) .fp32 (f.expert.getD 0 * n * tileTotal .fp32) n true,
                d.wTiles (f.part.getD 0) .fp32 0 n false with
            | (some mask, d), .ok acc, .ok pt =>
              let is := (List.range p.count).map (· + p.first)
              match d.foldGo p.well acc pt f mask f.group n is (0, 0, 0, none) with
              | ((tried, torn, cause, nan), d) =>
                (d.notePart id p (if torn = 0 then none else some cause) torn ⟨[], [tried, torn], nan⟩).wellEnd id
            | (_, d), _, _ =>
              let tiles := d.partTargets k p
              ((d.tearAll p.well tiles).notePart id p (some wcBus) tiles.length ⟨[], [p.count, p.count], none⟩).wellEnd id
          | _ =>
            match d.partRun k p with
            | (.ok o, d) => ((d.putOut o).notePart id p none 0 o).wellEnd id
            | (.error c, d) =>
              let tiles := d.partTargets k p
              ((d.tearAll p.well tiles).notePart id p (some c) tiles.length PartOut.none_).wellEnd id

/-- A part ends; what its Well moved over the TSV path counts for the pass, and an update that has completed retires (R29, R533). -/
def Dev.wellPartEnd (d : Dev) (id part : Nat) (engineFault : Bool) (ecc : List (Nat × EccOutcome)) : Dev :=
  let w := ((d.wcmd id).bind fun k => k.parts.find? fun p => p.idx == part).elim 0 (·.well)
  let d' := (d.partEnd id part engineFault ecc).notePass id w (d.ct.tsvBytes w)
  if (d'.wcmd id).isNone then d'.retireTrack 3 id else d'

/-- R308: WELL_PART_END. -/
def execWellPartEnd (id part : Nat) (engineFault : Bool) (ecc : List (Nat × EccOutcome)) (s : State) :
    Host.Outcome State Fault Refusal := s.onDev fun d => d.wellPartEnd id part engineFault ecc

end Sys2Proof.Machine
end

