-- ==== Sys2Proof/Machine/WellCare.lean ====
section
/-! DEFINITION. The care of the stacks: the fill (R326, R463), tracking and the background fill (R327, R328), the Drone (R330),
and channel repair (R332, R333, R489). -/

namespace Sys2Proof.Machine

open Sys2Proof

/-- Whether a Well is present. -/
def Dev.wellHere (d : Dev) (w : Nat) : Bool := (presentWells d.grade).contains w

/-- The number of a stack's line on the device. -/
def Dev.lineNo (d : Dev) (w l : Nat) : Nat := wellBase d.grade w / lineBytes + l

/-- A stack whose lines are all there: filled, or started tracked (R326, R327). -/
def WellSt.there (w : WellSt) : Bool := w.filled || w.startedTracked

/-- R326, R463: a Well has written every line; or Acwald firmware starts its stack tracked instead of waiting for that (R327). The last
one sets BT_T_FILL and moves the device to SELFTEST (R459). -/
def execWellFillDone (x : StackStart) (s : State) : Host.Outcome State Fault Refusal :=
  s.onDev fun d =>
    if d.boot.st ≠ 1 || d.trust.staggerWait || !d.wellHere x.well || (d.well x.well).there then d
    else
      let fill (w : WellSt) : WellSt := if x.tracked then { w with startedTracked := true, track := ⟨true, [], [], []⟩ } else { w with filled := true }
      let d := d.setWell x.well fun w => { fill w with passStart := d.now }
      if (presentWells d.grade).all fun w => (d.well w).there then
        { d with boot := { d.boot with st := 2, tFill := sat32 ((d.now - d.trust.fillStart) / 1000) } }
      else d

/-- R328: the background fill writes one zero line into a tracked line whose bit is 0. -/
def execBackgroundFillLine (well line : Nat) (s : State) : Host.Outcome State Fault Refusal :=
  s.onDev fun d =>
    if !d.wellHere well || line ≥ stackLines || !(d.well well).track.invalid line || d.heldAt (d.lineNo well line * lineBytes) 1 then d
    else d.writeTsv (d.lineNo well line * lineBytes) (zeros lineBytes)

/-- Lines by which the Drone is behind its period (R330): those due since the pass began, less those read. -/
def WellSt.lagAt (w : WellSt) (now : Nat) : Nat :=
  min stackLines ((now - w.passStart) * stackLines / (1000000000 * max 1 w.dronePeriod.toNat)) - w.dronePos

/-- The Drone's position after a line (R330): ascending, a new pass at once after the last. -/
def WellSt.droneNext (w : WellSt) (now : Nat) : WellSt :=
  let w := if w.dronePos + 1 < stackLines then { w with dronePos := w.dronePos + 1 }
    else { w with dronePos := 0, passStart := now }
  { w with droneLag := w.lagAt now, err := if w.lagAt now > 0 then wset w.err 0x10 else w.err }

/-- A lane repair of a channel (R332): content is kept. -/
def Dev.laneRepair (d : Dev) (w ch : Nat) (inj : Bool) : Dev :=
  let d := d.setWell w fun s => { s with laneRepair := true, channel := ch, laneRepairs := sat32 (s.laneRepairs + 1) }
  d.detect (detId 0x05 w) 0 inj (some 0) ch 1 0

/-- R330: the Drone reads its next line; with the injection point CHANNEL_REPAIR on that line's channel (R576). -/
def execDroneLine (well : Nat) (ecc : EccOutcome) (s : State) : Host.Outcome State Fault Refusal :=
  s.onDev fun d =>
    let w := d.well well
    let l := d.lineNo well (w.dronePos % stackLines)
    if !d.wellHere well || !w.there || !wbit w.droneCtrl 0 || d.heldAt (l * lineBytes) lineBytes || d.pw.state ≥ 3 then d
    else
      let r := d.scrubLine well l ecc
      let read := r.1 != 4
      let d := r.2.setWell well fun w => w.droneNext d.now
      let d := { d with work := if read then d.work.addHbm (dieOfWell well) lineBytes else d.work }
      let (m, d) := d.mimic (detId 0x05 well)
      if m then d.laneRepair well (channelOf (l * lineBytes)) true else d

/-- Whether a repair of a channel may start (R332, R489): Acwald firmware runs it, one at a time in a Well. -/
def Dev.mayRepair (d : Dev) (w ch : Nat) : Bool := d.inService && d.wellHere w && decide (ch < 32) && !d.wellBusy w

/-- R332: a data lane of a channel is replaced by the spare lane. -/
def execLaneRepair (well channel : Nat) (s : State) : Host.Outcome State Fault Refusal :=
  s.onDev fun d => if d.mayRepair well channel then d.laneRepair well channel false else d

/-- A Well's mark that a channel retrains (R332, R334). -/
def WellSt.retrain (w : WellSt) (ch : Nat) : WellSt :=
  { w with retraining := true, channel := ch, retrains := sat32 (w.retrains + 1), err := wset w.err 4 }

/-- R332: a channel is retrained with its DRAM in self-refresh; content is kept. -/
def execRetrainPreserve (well channel : Nat) (s : State) : Host.Outcome State Fault Refusal :=
  s.onDev fun d =>
    if d.mayRepair well channel then
      (d.setWell well fun w => w.retrain channel).detect (detId 0x05 well) 0 false (some 0) channel 2 0
    else d

/-- Whether an address lies in a channel of a Well. -/
def Dev.inChannel (d : Dev) (w ch a : Nat) : Bool := decide (wellOf d.grade a = w) && decide (channelOf a = ch)

/-- Tracking of a channel with every bit 0 (R327, R332). -/
def Tracking.loseChan (t : Tracking) (ch : Nat) : Tracking :=
  { t with chans := insertAsc ch t.chans, valid := t.valid.filter fun l => l % 32 != ch }

/-- R332: a channel that does not answer is retrained; its content is lost and its lines are tracked. Poison stays (R333). The
lost range runs from the channel's first line to its last. -/
def execRetrainReset (well channel : Nat) (s : State) : Host.Outcome State Fault Refusal :=
  s.onDev fun d =>
    if d.mayRepair well channel then
      let d := { d with mem := d.mem.filter fun c => !d.inChannel well channel c.1 }
      let lose (w : WellSt) : WellSt := { w.retrain channel with track := w.track.loseChan channel }
      let d := d.setWell well lose
      d.detect (detId 0x05 well) 1 false (some (wellBase d.grade well + channel * lineBytes)) channel 3
        (wellSize - 31 * lineBytes)
    else d

/-- Tracking after a row was spared (R327, R332): its lines are tracked, those written back valid. -/
def Tracking.spareRow (t : Tracking) (lines good : List Nat) : Tracking :=
  let t := { t with lines := lines.foldl (fun ls l => insertAsc l ls) t.lines,
                    valid := good.foldl (fun ls l => insertAsc l ls) (t.valid.filter fun l => !lines.contains l) }
  t.settle

/-- R332: a row of a channel is copied into a spare row. Lines that are poisoned, or that cannot be read while they are copied
(`unreadable`), are poisoned after it, and their content is lost; a line that was tracked with its bit 0 has nothing to copy and keeps
it. -/
def execRowSpare (well channel : Nat) (row : List SpareLine) (s : State) : Host.Outcome State Fault Refusal :=
  s.onDev fun d =>
    let lines := row.map (·.line)
    if d.mayRepair well channel && !lines.isEmpty && lines.all (fun l => decide (l < stackLines) && decide (l % 32 = channel)) then
      let ue (x : SpareLine) : Bool := x.unreadable && !(d.well well).track.invalid x.line
      let d := (row.filter ue).foldl (fun d x => d.poisonLine (d.lineNo well x.line)) d
      let bad := lines.filter fun l => d.poison.contains (d.lineNo well l)
      let good := lines.filter fun l => !d.poison.contains (d.lineNo well l) && !(d.well well).track.invalid l
      let lo := bad.foldl min (bad.headD 0)
      let hi := bad.foldl max 0
      let spare (w : WellSt) : WellSt :=
        { w with sparing := true, channel := channel, sparedRows := sat32 (w.sparedRows + 1), err := wset w.err 8,
                 track := w.track.spareRow lines good }
      let d := d.setWell well spare
      if bad.isEmpty then d.detect (detId 0x05 well) 0 false (some 0) channel 4 0
      else d.detect (detId 0x05 well) 1 false (some (d.lineNo well lo * lineBytes)) channel 4 ((hi - lo + 1) * lineBytes)
    else d

/-- The count registers of a Well at zero (R334). -/
def WellSt.clearCounts (w : WellSt) : WellSt :=
  { w with corrected := 0, uncorr := 0, retrains := 0, sparedRows := 0, laneRepairs := 0, cmds := 0, partsFailed := 0 }

/-- R334: WL_CLEAR_COUNTS. -/
def execWlClearCounts (s : State) : Host.Outcome State Fault Refusal :=
  s.onBar fun d => { d with wells := { d.wells with wells := d.wells.wells.map WellSt.clearCounts } }

end Sys2Proof.Machine
end

