-- ==== Sys2Proof/Machine/RedWire.lean ====
section
/-! DEFINITION. What the reduction adders work with: the tree of a collective (R276, R287), its messages (R292), tile sums (R279,
R284, R285), the division at the root (R282) and the channels of the device (R273). -/

namespace Sys2Proof.Machine

open Sys2Proof

/-! ## The tree -/

/-- ⌈log₂ n⌉, the depth of the tree (R276). -/
def redDepth (n : Nat) : Nat := if n ≤ 1 then 0 else Nat.log2 (n - 1) + 1

/-- First tile of segment s and the first one after it (R276). -/
def segLo (nTiles n s : Nat) : Nat := s * nTiles / n
def segHi (nTiles n s : Nat) : Nat := (s + 1) * nTiles / n

/-- The relative position of position p in segment s (R276). -/
def relPos (n p s : Nat) : Nat := (p + n - s % n) % n

/-- Whether relative position r receives an edge of level l (R276). -/
def hasChild (n r l : Nat) : Bool := r % 2 ^ (l + 1) == 0 && decide (r + 2 ^ l < n)

/-- Tiles per item, items of a buffer, and the items that a run of tiles touches (R272, R282, R283). -/
def collItems (a : CollArgs) : Nat := ceilDiv a.nTiles (max 1 a.itemTiles)
def collItemsOf (a : CollArgs) (lo hi : Nat) : List Nat :=
  let it := max 1 a.itemTiles
  if hi ≤ lo then [] else (List.range ((hi - 1) / it + 1 - lo / it)).map (· + lo / it)

/-- Bytes of an FP32 tile. -/
def fp32Tile : Nat := tileTotal .fp32

/-! ## Messages (R292) -/

/-- Kinds of reduction messages. -/
def rkUp : Nat := 1
def rkResult : Nat := 2
def rkRefuse : Nat := 3
def rkAbort : Nat := 4
def rkNormUp : Nat := 5
def rkNormResult : Nat := 6

/-- The 32 bytes of a head with a given CRC. -/
def redHead (m : RedMsg) (crc : Nat) : List Byte :=
  leBytes 1 m.version ++ leBytes 1 m.kind ++ leBytes 1 m.channel ++ leBytes 1 m.level ++ leBytes 2 m.src ++ leBytes 2 m.dst ++
    leBytes 4 m.collId ++ leBytes 4 m.epoch ++ leBytes 4 crc ++ leBytes 4 m.body.length ++ leBytes 2 m.segment ++ leBytes 6 m.resv

/-- The CRC of a message. -/
def redCrc (m : RedMsg) : Nat := crc32c (redHead m 0 ++ m.body)

/-- The trailer's fields. -/
structure Trailer where
  present : List Nat
  nanMap : List Nat
  nanCount : Nat
  arisen : Nat
  counts : List Nat
  sumsq : Nat
  deriving DecidableEq, Repr

/-- The bytes of a trailer for n members; SUMSQ in the NORM kinds only. -/
def trailerBytes (n : Nat) (norm : Bool) (t : Trailer) : List Byte :=
  padTo 32 (leBytes (ceilDiv n 8) (maskOf t.present) ++ leBytes (ceilDiv n 8) (maskOf t.nanMap) ++ leBytes 4 (sat32 t.nanCount) ++
    leBytes 4 (sat32 t.arisen) ++ (t.counts.flatMap fun c => leBytes 8 c) ++ if norm then leBytes 8 t.sumsq else [])

/-- The length of a trailer with a number of counts. -/
def trailerLen (n items : Nat) (norm : Bool) : Nat := roundUp (2 * ceilDiv n 8 + 8 + 8 * items + if norm then 8 else 0) 32

/-- A trailer read from its bytes. -/
def readTrailer (n items : Nat) (norm : Bool) (bs : List Byte) : Trailer :=
  let m := ceilDiv n 8
  let set (o : Nat) : List Nat := let v := fieldAt bs o m; (List.range n).filter fun p => v.testBit p
  { present := set 0, nanMap := set m, nanCount := fieldAt bs (2 * m) 4, arisen := fieldAt bs (2 * m + 4) 4,
    counts := (List.range items).map fun i => fieldAt bs (2 * m + 8 + 8 * i) 8,
    sumsq := if norm then fieldAt bs (2 * m + 8 + 8 * items) 8 else 0 }

/-- The tiles and trailer of a message whose CRC holds: all the tiles of the segment, or none for an absent value. -/
def readBody (n items tiles : Nat) (norm : Bool) (m : RedMsg) : Option (List (List Byte) × Trailer) :=
  let tl := trailerLen n items norm
  let bl := m.body.length - tl
  if m.crc ≠ redCrc m || m.body.length < tl || !(bl = 0 || bl = tiles * fp32Tile) then none
  else some ((List.range (bl / fp32Tile)).map fun i => (m.body.drop (i * fp32Tile)).take fp32Tile,
    readTrailer n items norm (m.body.drop bl))

/-- What a collective's messages carry besides their kind: lead port, CHANNEL, COLL_ID, EPOCH. -/
structure CollHead where
  port : Nat
  channel : Nat
  collId : Nat
  epoch : Nat
  deriving DecidableEq, Repr

/-- The heading fields of a collective. -/
def CollSt.head (k : CollSt) : CollHead :=
  match k.coll, k.perm with
  | some a, _ => ⟨a.leadPort, a.channel, a.collId, a.epoch⟩
  | none, some a => ⟨a.leadPort, a.channel, a.collId, a.epoch⟩
  | none, none => ⟨0, 0, 0, 0⟩

/-- Members, own position, and D_C in ns (R287). -/
def CollSt.n (k : CollSt) : Nat := k.members.length
def CollSt.pos (k : CollSt) : Nat := (k.coll.map (·.pos)).getD ((k.perm.map (·.pos)).getD 0)
def Dev.collDc (d : Dev) (k : CollSt) : Nat :=
  let x := (k.coll.map (·.deadline)).getD ((k.perm.map (·.deadline)).getD 0)
  1000 * (if x = 0 then d.rd.deadline.toNat else x)

/-- A reduction message goes to a position, in the stream of its collective and segment (R292, R384). -/
def Dev.sendRed (d : Dev) (k : CollSt) (kind level pos seg : Nat) (body : List Byte) : Dev :=
  let h := k.head
  let dst := k.members.getD pos 0
  let m : RedMsg := { version := 1, kind := kind, channel := h.channel, level := level, src := d.fx.rankSelf, dst := dst,
                      collId := h.collId, epoch := h.epoch, crc := 0, segment := seg, resv := 0, body := body }
  match d.crossPort (dieOfPort h.port) with
  | (false, d) => d
  | (true, d) => d.sendMessage (.adder h.port) (reqAdder h.port) dst [1, h.channel, h.collId, seg] (redHead m (redCrc m) ++ body)

/-! ## Sums -/

/-- A contribution tile as a value of the tree: its words, NaN canonical, with no flag of its producer (R43, R60, R284). -/
def valueTile (epoch : Nat) (t : List Byte) : List Byte :=
  f32Tile (tileRows t) (tileCols t) epoch false false fun r c => toF32 (f32 (word32At t r c))

/-- OVERFLOW and UNDERFLOW of a tile. -/
def tileOvf (t : List Byte) : Bool := (tileHdr t).ovf == 1
def tileUnf (t : List Byte) : Bool := (tileHdr t).unf == 1

/-- A partial sum as a value of the tree: its words, NaN canonical, with the OVERFLOW of its adds (R284). -/
def partialTile (epoch : Nat) (t : List Byte) : List Byte :=
  f32Tile (tileRows t) (tileCols t) epoch (tileOvf t) false fun r c => toF32 (f32 (word32At t r c))

/-- NaN elements of a tile (R293). -/
def nanElems (t : List Byte) : Nat := ((validCells (tileRows t) (tileCols t)).filter fun p => (f32 (word32At t p.1 p.2)).isNan).length

/-- The sum of two value tiles (R279, R284), with the NaNs that arise from operands that are none (R294). -/
def addTile (epoch : Nat) (x y : List Byte) : List Byte × Nat :=
  let cells := validCells (tileRows x) (tileCols x)
  let inf (p : Nat × Nat) : Bool :=
    let a := f32 (word32At x p.1 p.2)
    let b := f32 (word32At y p.1 p.2)
    let s := f32 (add32 (word32At x p.1 p.2) (word32At y p.1 p.2))
    a.isFinite && b.isFinite && !s.isFinite
  let arises (p : Nat × Nat) : Bool :=
    let a := f32 (word32At x p.1 p.2)
    let b := f32 (word32At y p.1 p.2)
    !a.isNan && !b.isNan && (f32 (add32 (word32At x p.1 p.2) (word32At y p.1 p.2))).isNan
  (f32Tile (tileRows x) (tileCols x) epoch (tileOvf x || tileOvf y || cells.any inf) false
      fun r c => add32 (word32At x r c) (word32At y r c),
   (cells.filter arises).length)

/-- A sum divided by an exact integer (R282), with UNDERFLOW where a non-zero value becomes zero (R284). -/
def divTile (epoch : Nat) (x : List Byte) (dv : Nat) : List Byte :=
  let q (r c : Nat) : Word32 := toF32 (Fl.div (f32 (word32At x r c)) (Fl.ofInt dv 0))
  let lost (p : Nat × Nat) : Bool := !(f32 (word32At x p.1 p.2)).isZero && (f32 (q p.1 p.2)).isZero && (f32 (word32At x p.1 p.2)).isFinite
  f32Tile (tileRows x) (tileCols x) epoch (tileOvf x) ((validCells (tileRows x) (tileCols x)).any lost) q

/-- Whether a tile passes its checks as FP32 (R61, R65, R280). -/
def redGood (t : List Byte) : Bool := tileGood (fun f => f == .fp32) t

/-! ## Channels -/

/-- The queue of a channel, its head, and the device with them changed (R273). -/
def Dev.chan (d : Dev) (ch : Nat) : List CollSt := ((d.rd.channels.find? fun x => x.1 == ch).map (·.2)).getD []
def Dev.setChan (d : Dev) (ch : Nat) (q : List CollSt) : Dev :=
  { d with rd := { d.rd with channels :=
      if (d.rd.channels.any fun x => x.1 == ch) then d.rd.channels.map (fun x => if x.1 == ch then (ch, q) else x)
      else d.rd.channels ++ [(ch, q)] } }
def Dev.coll (d : Dev) (ch : Nat) : Option CollSt := (d.chan ch).head?
def Dev.setColl (d : Dev) (ch : Nat) (f : CollSt → CollSt) : Dev :=
  d.setChan ch (match d.chan ch with | [] => [] | k :: ks => f k :: ks)

/-- The running collective of a channel. -/
def Dev.runningColl (d : Dev) (ch : Nat) : Option CollSt := (d.coll ch).bind fun k => if k.started then some k else none

/-- A segment of a collective, and the collective with one changed. -/
def CollSt.segAt (k : CollSt) (s : Nat) : Option SegSt := k.segs[s]?
def CollSt.setSeg (k : CollSt) (s : Nat) (f : SegSt → SegSt) : CollSt := { k with segs := k.segs.modify s f }
def Dev.setSegOf (d : Dev) (ch s : Nat) (f : SegSt → SegSt) : Dev := d.setColl ch fun k => k.setSeg s f

/-- A bit of RD_ERR (R302). -/
def Dev.rdErr (d : Dev) (m : Nat) : Dev := { d with rd := { d.rd with err := wset d.rd.err m } }

/-- A late edge or message counted (R288, R302). -/
def Dev.rdLate (d : Dev) : Dev := ({ d with rd := { d.rd with late := sat32 (d.rd.late + 1) } }).rdErr 0x20

/-- An edge or result of a collective is closed (R288). -/
def Dev.closeKey (d : Dev) (k : CollSt) (kind seg level : Nat) : Dev :=
  let e : ClosedEdge := ⟨k.head.channel, k.head.collId, kind, seg, level⟩
  { d with rd := { d.rd with closed := e :: d.rd.closed } }

/-- A range of a buffer that a collective names (R272, R348, R396), at an operand's position. -/
def Dev.redBuf (d : Dev) (pos : Nat) (h : Word64) (off len align : Nat) (write : Bool) : Except HaltInfo Buf :=
  match d.checkHandle h ⟨off, len, align, write⟩ with
  | .error c => .error (badHandle h c)
  | .ok b =>
    match (b.pieces off len).find? fun p => d.inCoh p.1 p.2 with
      | some p => .error { reason := rBadOperand, unit := 0, kind := 9, address := p.1, d0 := pos }
      | none => .ok b

/-- A range of memory that a collective names by address (R336, R396). -/
def Dev.redAddr (d : Dev) (pos a n : Nat) : Except HaltInfo Unit :=
  if !inJobMem d.grade a n || d.inCoh a n then .error { reason := rBadOperand, unit := 0, kind := 9, address := a, d0 := pos }
  else .ok ()

/-- The spilled part of an operand is read for a collective before it starts (R253). -/
def Dev.fetchRange (d : Dev) (id : Nat) (h : Word64) (off len : Nat) : Dev :=
  match d.checkHandle h ⟨off, len, 1, false⟩ with
  | .ok b => d.fetchPieces id (b.pieces off len)
  | .error _ => d

/-- The buffer of a handle that was checked when the command began, whose reference keeps it live (R352). -/
def Dev.liveBuf (d : Dev) (h : Word64) : Option Buf := d.depot.buf (unpackHandle h).slot.toNat

end Sys2Proof.Machine
end

