-- ==== Sys2Proof/Machine/Reduction.lean ====
section
/-! DEFINITION. The reduction adders: issuing and starting a collective (R271 to R275, R294 to R296), its edges and results (R276
to R289), the norm (R298, R299), its record and retirement (R290, R300), aborts (R291) and the block's commands (R302, R303). -/

namespace Sys2Proof.Machine

open Sys2Proof

/-! ## Output tiles of a segment -/

/-- Whether this device holds a segment (R278, R300). -/
def holdsSeg (a : CollArgs) (s : Nat) : Bool :=
  match a.op with
  | .allReduce => true
  | .reduceScatter => s == a.pos
  | .globalNorm => false

/-- The segments that this device holds. -/
def heldSegs (a : CollArgs) : List Nat := (List.range a.n).filter (holdsSeg a)

/-- The index in DST of a segment's first tile (R272). -/
def dstBase (a : CollArgs) (s : Nat) : Nat := if a.op = .allReduce then segLo a.nTiles a.n s else 0

/-- COUNTS_OUT of the items whose first held tile lies in a segment (R283). -/
def Dev.putCounts (d : Dev) (a : CollArgs) (s : Nat) (counts : List Nat) : Dev :=
  match a.countsOut with
  | none => d
  | some base =>
    let lo := segLo a.nTiles a.n s
    let is := collItemsOf a lo (segHi a.nTiles a.n s)
    let mine := (List.range is.length).filter fun j => a.op == .reduceScatter || decide (lo ≤ is.getD j 0 * max 1 a.itemTiles)
    mine.foldl (fun d j => d.write (base + 8 * is.getD j 0) (leBytes 8 (counts.getD j 0))) d

/-- The result tiles of a held segment are written to DST, and its COUNTS_OUT (R278, R283); the first with NAN_PRESENT is noted
(R294). -/
def Dev.putResult (d : Dev) (ch : Nat) (a : CollArgs) (s : Nat) (tiles : List (List Byte)) (counts : List Nat) : Dev :=
  if !holdsSeg a s then d
  else match d.liveBuf a.dst with
    | none => d
    | some b =>
      let base := dstBase a s
      let at_ (i : Nat) : List (Nat × Nat) := b.pieces ((base + i) * fp32Tile) fp32Tile
      let d := (List.range tiles.length).foldl (fun d i => d.writePieces (at_ i) (tiles.getD i [])) d
      let nan := ((List.range tiles.length).find? fun i => tileNan (tiles.getD i [])).map fun i => ((at_ i).head?.map (·.1)).getD 0
      (d.setColl ch fun k => { k with nanAt := k.nanAt.or nan }).putCounts a s counts

/-- A held segment without a result: its tiles in DST receive the torn mark (R284, R286, R288). No position counts in it (R289), so
its items total 0. -/
def Dev.tearSeg (d : Dev) (ch : Nat) (a : CollArgs) (s : Nat) : Dev :=
  if !holdsSeg a s then d
  else match d.liveBuf a.dst with
    | none => d
    | some b =>
      let n := segHi a.nTiles a.n s - segLo a.nTiles a.n s
      let base := dstBase a s
      let d := (List.range n).foldl (fun d i => d.tearBuf b ((base + i) * fp32Tile) fp32Tile) d
      (d.setColl ch fun k => { k with tornTiles := k.tornTiles + n }).putCounts a s []

/-- A segment ends with no result on this device (R289). -/
def Dev.failSeg (d : Dev) (ch : Nat) (a : CollArgs) (s : Nat) : Dev :=
  (d.tearSeg ch a s).setSegOf ch s fun g =>
    { g with outcome := 2, has := false, tiles := [], present := [], nanMap := [], nanCount := 0, arisen := 0, counts := [] }

/-! ## Adding along the tree -/

/-- The checks of the residue units over a number of adds or divisions (R285): under injection the first check fails and the repeat
passes (R286, R576). -/
def Dev.residueChecks (d : Dev) (ch port collId seg n : Nat) : Dev :=
  let det := detId 0x30 port
  if !d.er.slots.any fun x => x.armedFor det 0 then d
  else (List.range n).foldl (fun d _ =>
    let (m, d) := d.mimic det
    if m then
      let d := ({ d with rd := { d.rd with residueRetry := sat32 (d.rd.residueRetry + 1) } }).rdErr 8
      (d.setColl ch fun k => { k with retries := k.retries + 1 }).detect det 0 true none collId seg 0
    else d) d

/-- A residue failure of its own (R286): the repeat passes, or the value becomes absent. -/
def Dev.residueReal (d : Dev) (ch port collId seg : Nat) (res : EccOutcome) : Dev :=
  match res with
  | .clean => d
  | .corrected =>
    let d := ({ d with rd := { d.rd with residueRetry := sat32 (d.rd.residueRetry + 1) } }).rdErr 8
    (d.setColl ch fun k => { k with retries := k.retries + 1 }).detect (detId 0x30 port) 0 false none collId seg 0
  | .uncorrectable =>
    let d := ({ d with rd := { d.rd with residueFail := sat32 (d.rd.residueFail + 1) } }).rdErr 8
    (d.setSegOf ch seg fun g =>
      { g with has := false, tiles := [], present := [], nanCount := 0, arisen := 0, counts := g.counts.map fun _ => 0 }).detect
      (detId 0x30 port) 1 false none collId seg 0

/-- Whether the tiles of an edge pass (R280): their checks, and the valid counts of this device's own tiles, or of the sum so far
where the own tile is not good. -/
def edgeGood (g : SegSt) (ts : List (List Byte)) : Bool :=
  ts.all redGood && (List.range ts.length).all fun i =>
    let x := (tileRows (ts.getD i []), tileCols (ts.getD i []))
    match g.shape.getD i none with
    | none => !g.has || (tileRows (g.tiles.getD i []), tileCols (g.tiles.getD i [])) == x
    | some y => y == x

/-- Lists of counts added place by place (R283). -/
def sumCounts (a b : List Nat) : List Nat :=
  (List.range (max a.length b.length)).map fun i => (a.getD i 0 + b.getD i 0) % 2 ^ 64

/-- A value with an edge's value added (R279, R281, R289, R293, R294). -/
def mergeSeg (epoch : Nat) (g : SegSt) (ts : List (List Byte)) (t : Trailer) : SegSt :=
  let sums := List.zipWith (addTile epoch) g.tiles ts
  let both := g.has && !ts.isEmpty
  { g with
    has := g.has || !ts.isEmpty,
    tiles := if both then sums.map (·.1) else if g.has then g.tiles else ts.map (partialTile epoch),
    present := t.present.foldl (fun l p => insertAsc p l) g.present,
    nanMap := t.nanMap.foldl (fun l p => insertAsc p l) g.nanMap,
    nanCount := g.nanCount + t.nanCount,
    arisen := g.arisen + t.arisen + (if both then (sums.map (·.2)).sum else 0),
    counts := sumCounts g.counts t.counts }

/-- The sum as the adder forms it in SCRATCH (R281). -/
def Dev.putScratch (d : Dev) (a : CollArgs) (s : Nat) (tiles : List (List Byte)) : Dev :=
  match d.liveBuf a.scratch with
  | none => d
  | some b =>
    let lo := segLo a.nTiles a.n s
    (List.range tiles.length).foldl (fun d i => d.writePieces (b.pieces ((lo + i) * fp32Tile) fp32Tile) (tiles.getD i [])) d

/-- The message held for an edge or result of a collective, and the device without it. -/
def Dev.takeHeld (d : Dev) (h : CollHead) (kind seg level src : Nat) : Option HeldMsg × Dev :=
  let is (x : HeldMsg) : Bool :=
    x.msg.channel == h.channel && x.msg.collId == h.collId && x.msg.kind == kind && x.msg.segment == seg && x.msg.level == level &&
      x.msg.src == src
  match d.rd.held.find? is with
  | none => (none, d)
  | some m => (some m, { d with rd := { d.rd with held := d.rd.held.erase m } })

/-- An edge's trailer has arrived: it is added whole, or discarded whole (R280, R281). -/
def Dev.takeEdge (d : Dev) (ch : Nat) (a : CollArgs) (s l : Nat) (m : HeldMsg) : Dev :=
  match (d.coll ch).bind fun k => k.segAt s with
  | none => d
  | some g =>
    let lo := segLo a.nTiles a.n s
    let hi := segHi a.nTiles a.n s
    let bad (d : Dev) : Dev := (d.setSegOf ch s fun g => { g with failed := g.failed ++ [(l, 2)], level := l + 1 }).rdErr 2
    match readBody a.n (collItemsOf a lo hi).length (hi - lo) false m.msg with
    | none => bad d
    | some (ts, t) =>
      if !edgeGood g ts then bad d
      else
        let g' := mergeSeg a.epoch g ts t
        let both := g.has && !ts.isEmpty
        let d := if ts.isEmpty then d else d.putScratch a s g'.tiles
        let d := d.setSegOf ch s fun _ => { g' with level := l + 1 }
        if both then
          let adds := (ts.map fun t => tileRows t * tileCols t).sum
          let d := (d.residueChecks ch m.port a.collId s adds).residueReal ch m.port a.collId s m.residue
          if m.residue = .uncorrectable && s = a.pos then d.setSegOf ch s fun g => { g with level := redDepth a.n } else d
        else d

/-- The divisor of a result tile (R282): none under SUM. -/
def divisorOf (a : CollArgs) (g : SegSt) (t : Nat) : Option Nat :=
  match a.divMode with
  | .sum => none
  | .meanRanks => some g.present.length
  | .meanCount =>
    let lo := segLo a.nTiles a.n g.seg
    some (g.counts.getD (t / max 1 a.itemTiles - lo / max 1 a.itemTiles) 0)

/-- The result tiles of a segment from its sum (R282, R284), and how many items had no divisor. -/
def resultTiles (a : CollArgs) (g : SegSt) : List (List Byte) × Nat :=
  let lo := segLo a.nTiles a.n g.seg
  let one (i : Nat) : List Byte :=
    let x := g.tiles.getD i []
    match divisorOf a g (lo + i) with
    | none => partialTile a.epoch x
    | some 0 => partialTile a.epoch x
    | some dv => divTile a.epoch x dv
  let zero := (collItemsOf a lo (lo + g.tiles.length)).filter fun it =>
    divisorOf a g (max lo (it * max 1 a.itemTiles)) == some 0
  ((List.range g.tiles.length).map one, zero.length)

/-- Positions other than the own one. -/
def CollSt.others (k : CollSt) : List Nat := (List.range k.n).filter fun p => p != k.pos

/-- The trailer that says what a segment's value holds. -/
def SegSt.trailer (g : SegSt) : Trailer := ⟨g.present, g.nanMap, g.nanCount, g.arisen, g.counts, 0⟩

/-- The root's last edge is resolved (R278, R282, R284, R298): division, the result to every member, the own q. A root that holds no
value has no result. -/
def Dev.rootEnd (d : Dev) (ch : Nat) (k : CollSt) (a : CollArgs) (g : SegSt) : Dev :=
  if !g.has then
    let d := if a.op = .allReduce then k.others.foldl (fun d p => d.sendRed k rkAbort 0xFF p g.seg []) d else d
    (d.failSeg ch a g.seg).setColl ch fun k => { k with normReady := true }
  else
    let r := resultTiles a g
    let d := if a.divMode = .sum then d
      else d.residueChecks ch a.leadPort a.collId g.seg ((g.tiles.map fun t => tileRows t * tileCols t).sum)
    let d := if a.op = .allReduce then
        k.others.foldl (fun d p => d.sendRed k rkResult 0xFF p g.seg (r.1.flatten ++ trailerBytes a.n false g.trailer)) d
      else d
    let d := d.putResult ch a g.seg r.1 g.counts
    let q := code64 (chunkSum .fp32 (r.1.map some))
    let d := d.setColl ch fun k => { k with zeroDiv := k.zeroDiv + r.2, normReady := true, normHas := true, normQ := q,
                                            normPresent := [k.pos] }
    d.setSegOf ch g.seg fun g => { g with outcome := 1, tiles := [] }

/-- One step of a segment at this device (R277): the next level's edge is added or skipped, or the value goes up, or the root ends. -/
def Dev.segStep (d : Dev) (ch s : Nat) : Dev :=
  match d.runningColl ch with
  | none => d
  | some k =>
    match k.coll, k.segAt s with
    | some a, some g =>
      let r := relPos a.n a.pos s
      let l := g.level
      if g.outcome ≠ 0 || g.upSent then d
      else if l ≥ redDepth a.n then (if r = 0 then d.rootEnd ch k a g else d)
      else if r.testBit l then
        let body := (if g.has then g.tiles.flatten else []) ++ trailerBytes a.n false g.trailer
        (d.sendRed k rkUp l ((a.pos + a.n - 2 ^ l) % a.n) s body).setSegOf ch s fun g => { g with upSent := true }
      else if !hasChild a.n r l || g.failed.any fun x => x.1 == l then d.setSegOf ch s fun g => { g with level := l + 1 }
      else match d.takeHeld k.head rkUp s l (k.members.getD ((a.pos + 2 ^ l) % a.n) 0) with
        | (none, _) => d
        | (some m, d) => d.takeEdge ch a s l m
    | _, _ => d

/-- A segment moves on as far as it can. -/
def Dev.segRun (d : Dev) (ch s : Nat) : Dev :=
  let n := ((d.coll ch).map (·.n)).getD 0
  (List.range (redDepth n + 2)).foldl (fun d _ => d.segStep ch s) d

/-! ## The norm (R298, R299) -/

/-- Whether a collective forms a norm. -/
def wantsNorm (a : CollArgs) : Bool := a.norm || a.op == .globalNorm

/-- NORM_OUT is written, and the norm is over. `none` stands for no result. -/
def Dev.normEnd (d : Dev) (ch : Nat) (a : CollArgs) (r : Option (Nat × List Nat)) : Dev :=
  match r with
  | none =>
    (d.write a.normOut (leBytes 8 0 ++ leBytes 4 (canonNan .fp32) ++ zeros 4)).setColl ch fun k =>
      { k with normDone := true, normHas := false, normValid := false, normPresent := [], normQ := 0 }
  | some (q, ps) =>
    let ok := decide (ps.length = a.n)
    (d.write a.normOut (normOut (f64 q) ok)).setColl ch fun k =>
      { k with normDone := true, normHas := true, normValid := ok, normPresent := ps, normQ := q }

/-- One step of the norm tree at this device (R299). The SEGMENT field of its messages holds 0. -/
def Dev.normStep (d : Dev) (ch : Nat) : Dev :=
  match d.runningColl ch with
  | none => d
  | some k =>
    match k.coll with
    | none => d
    | some a =>
      let l := k.normLevel
      if !wantsNorm a || !k.normReady || k.normSent || k.normDone then d
      else
        let t : Trailer := ⟨k.normPresent, [], 0, 0, [], k.normQ⟩
        let body := trailerBytes a.n true t
        if l ≥ redDepth a.n then
          (if a.pos ≠ 0 then d
           else if k.normHas then
             (k.others.foldl (fun d p => d.sendRed k rkNormResult 0xFF p 0 body) d).normEnd ch a (some (k.normQ, k.normPresent))
           else (k.others.foldl (fun d p => d.sendRed k rkAbort 0xFF p a.n []) d).normEnd ch a none)
        else if a.pos.testBit l then
          (d.sendRed k rkNormUp l (a.pos - 2 ^ l) 0 body).setColl ch fun k => { k with normSent := true }
        else if a.pos + 2 ^ l ≥ a.n || k.normFailed.contains l then d.setColl ch fun k => { k with normLevel := l + 1 }
        else match d.takeHeld k.head rkNormUp 0 l (k.members.getD (a.pos + 2 ^ l) 0) with
          | (none, _) => d
          | (some m, d) =>
            match readBody a.n 0 0 true m.msg with
            | none => (d.setColl ch fun k => { k with normFailed := l :: k.normFailed }).rdErr 2
            | some (_, t) =>
              let add (k : CollSt) : CollSt :=
                if t.present.isEmpty then { k with normLevel := l + 1 }
                else { k with normLevel := l + 1, normHas := true,
                              normQ := if k.normHas then code64 (add64 (f64 k.normQ) (f64 t.sumsq)) else t.sumsq,
                              normPresent := t.present.foldl (fun l p => insertAsc p l) k.normPresent }
              d.setColl ch add

/-- The norm moves on as far as it can. -/
def Dev.normRun (d : Dev) (ch : Nat) : Dev :=
  let n := ((d.coll ch).map (·.n)).getD 0
  (List.range (2 * redDepth n + 2)).foldl (fun d _ => d.normStep ch) d

/-! ## Retirement (R273, R290, R300) -/

/-- Whether this device's part in every segment and in the norm is over. -/
def CollSt.finished (k : CollSt) (a : CollArgs) : Bool :=
  (k.segs.all fun g => g.outcome != 0 || (g.upSent && !holdsSeg a g.seg)) && (!wantsNorm a || k.normDone)

/-- CAUSE_MAP of a tree collective (R300): the code of each position. -/
def causesOf (k : CollSt) (a : CollArgs) : List Nat :=
  let held := k.segs.filter fun g => holdsSeg a g.seg
  let code (p : Nat) : Nat :=
    if (p = a.pos && k.skipped) || (a.nanSkip && held.any fun g => g.nanMap.contains p) then 3
    else if (p = a.pos && !k.ownFailed.isEmpty) ||
        (k.segs.any fun g => g.failed.any fun x => x.2 == 2 && (a.pos + 2 ^ x.1) % a.n == p) then 2
    else if a.op = .globalNorm then (if k.normHas && k.normPresent.contains p then 0 else 1)
    else if held.any fun g => (g.outcome == 1 && !g.present.contains p) || (g.outcome != 1 && g.seg == p) then 1
    else 0
  (List.range a.n).map code

/-- STATUS of a tree collective (R290). -/
def statusOf (k : CollSt) (a : CollArgs) : Nat :=
  let held := k.segs.filter fun g => holdsSeg a g.seg
  if a.op = .globalNorm then (if !k.normHas then 2 else if k.normValid then 0 else 1)
  else if held.all fun g => g.outcome != 1 then 2
  else if k.tornTiles = 0 && held.all fun g => g.outcome == 1 && g.present.length == a.n then 0
  else 1

/-- The 96 bytes of a record's head (R300). -/
def Dev.collHead (d : Dev) (k : CollSt) (op status flags segs : Nat) (causes : List Nat) (nan : Nat × Nat × Nat × Nat)
    (sumsq norm : Nat) : List Byte :=
  let h := k.head
  let bad := (List.range causes.length).filter fun p => causes.getD p 0 != 0
  leBytes 1 1 ++ leBytes 1 op ++ leBytes 1 status ++ leBytes 1 flags ++ leBytes 1 h.channel ++ leBytes 1 h.port ++ leBytes 2 k.n ++
    leBytes 2 k.pos ++ leBytes 2 segs ++ leBytes 4 h.collId ++ leBytes 4 h.epoch ++ leBytes 2 bad.length ++
    leBytes 2 ((bad.head?).elim 0xFFFF fun p => k.members.getD p 0xFFFF) ++ leBytes 2 nan.1 ++ leBytes 2 nan.2.1 ++
    leBytes 4 (sat32 nan.2.2.1) ++ leBytes 4 (sat32 nan.2.2.2) ++ leBytes 4 k.tornTiles ++ leBytes 2 (min 0xFFFF k.lateEdges) ++
    leBytes 2 (min 0xFFFF k.staleMsgs) ++ leBytes 2 (min 0xFFFF k.retries) ++ leBytes 2 (min 0xFFFF k.zeroDiv) ++
    leBytes 8 k.tStart ++ leBytes 8 d.timeStamp ++ leBytes 8 sumsq ++ leBytes 4 norm ++ zeros 20

/-- CAUSE_MAP as bytes: 2 bits for each position (R300). -/
def causeBytes (causes : List Nat) : List Byte :=
  padTo 32 ((List.range (ceilDiv causes.length 4)).map fun i =>
    BitVec.ofNat 8 (causes.getD (4 * i) 0 + 4 * causes.getD (4 * i + 1) 0 + 16 * causes.getD (4 * i + 2) 0 + 64 * causes.getD (4 * i + 3) 0))

/-- OP of R300. -/
def collOpCode (k : CollSt) : Nat :=
  match k.coll with
  | none => 4
  | some a => match a.op with | .allReduce => 1 | .reduceScatter => 2 | .globalNorm => 3

/-- The completion record of a tree collective (R300). -/
def Dev.collRecord (d : Dev) (k : CollSt) (a : CollArgs) (status : Nat) (epochAhead : Bool) : List Byte :=
  let held := k.segs.filter fun g => holdsSeg a g.seg
  let res := held.filter fun g => g.outcome == 1
  let nanPos := (List.range a.n).filter fun p => (res.any fun g => g.nanMap.contains p) || (p == a.pos && k.skipped)
  let div := match a.divMode with | .sum => 0 | .meanRanks => 1 | .meanCount => 2
  let flags := b2n a.nanSkip + 2 * div + 8 * b2n a.norm + 16 * b2n epochAhead
  let norm := if wantsNorm a && k.started then
      (if k.normDone && k.normHas then normOut (f64 k.normQ) k.normValid
       else leBytes 8 0 ++ leBytes 4 (canonNan .fp32) ++ zeros 4)
    else zeros 16
  let causes := causesOf k a
  let entry (g : SegSt) : List Byte :=
    let ok := g.outcome == 1
    leBytes 2 g.seg ++ leBytes 2 (if ok then g.present.length else 0) ++
      leBytes 1 (if !ok then 2 else if g.present.length = a.n then 0 else 1) ++ zeros 3
  d.collHead k (collOpCode k) status flags held.length causes
      ((nanPos.head?).elim 0xFFFF fun p => k.members.getD p 0xFFFF, nanPos.length, (res.map (·.nanCount)).sum, (res.map (·.arisen)).sum)
      (fieldAt norm 0 8) (fieldAt norm 8 4) ++
    causeBytes causes ++ padTo 32 (held.flatMap entry)

/-- Bytes of a record for n members and a number of segments held (R300). -/
def collRecordBytes (n segs : Nat) : Nat := 96 + roundUp (ceilDiv n 4) 32 + roundUp (8 * segs) 32

/-- The collective at an index of its channel retires (R273, R274, R290, R294, R300): its record is written, it leaves the channel,
and its signals are raised, or its core halts under NAN_TRAP. -/
def Dev.retire (d : Dev) (ch : Nat) (k : CollSt) (record : Word64) (status : Nat) (bytes : List Byte) (absent : Bool) : Dev :=
  let d := d.writeHandle record 0 bytes
  let d := { d with rd := { d.rd with done := sat32 (d.rd.done + 1),
                                      partialCount := if status = 0 then d.rd.partialCount else sat32 (d.rd.partialCount + 1) } }
  let d := if absent then d.rdErr 1 else d
  let h := k.head
  let d := if status = 0 then d else d.detect (detId 0x31 h.port) 1 false none h.collId (h.channel + status * 256) 0
  let d := d.setChan ch ((d.chan ch).filter fun x => x.acc != k.acc)
  let d := { d with rd := { d.rd with held := d.rd.held.filter fun x => !(x.msg.channel == h.channel && x.msg.collId == h.collId) } }
  match k.nanTrap, k.nanAt with
  | true, some addr => d.haltAcc k.acc { reason := rNanAbort, unit := 4, address := addr, d0 := 0xFF }
  | _, _ => d.completeAcc k.acc

/-- A tree collective retires with a status. -/
def Dev.retireTree (d : Dev) (ch : Nat) (k : CollSt) (a : CollArgs) (status : Nat) (ahead : Bool) : Dev :=
  let nan := k.segs.any fun g => holdsSeg a g.seg && g.outcome == 1 && (!g.nanMap.isEmpty || g.arisen > 0)
  let d := if nan then d.rdErr 0x10 else d
  d.retire ch k a.record status (d.collRecord k a status ahead) ((causesOf k a).any (· != 0))

/-- The running collective of a channel retires once its part is over. -/
def Dev.collSettle (d : Dev) (ch : Nat) : Dev :=
  match d.runningColl ch with
  | none => d
  | some k =>
    match k.coll with
    | none => d
    | some a => if k.finished a then d.retireTree ch k a (statusOf k a) false else d

/-- After an event in a segment: the segment, the norm, and the collective move on. -/
def Dev.afterSeg (d : Dev) (ch s : Nat) : Dev := ((d.segRun ch s).normRun ch).collSettle ch

/-! ## Issuing a collective -/

/-- The limits of R272: the position of an operand outside them. -/
def collLimits (a : CollArgs) : Option Nat :=
  if a.channel > 15 then some 1
  else if a.collId ≥ 2 ^ 32 then some 2
  else if a.epoch ≥ 2 ^ 32 then some 3
  else if a.n = 0 || a.n > 8192 || a.pos ≥ a.n then some 4
  else if a.op ≠ .globalNorm && (a.nTiles = 0 || a.nTiles > 2 ^ 24) then some 5
  else if a.op ≠ .globalNorm && (a.itemTiles = 0 || a.itemTiles > 2 ^ 24 || collItems a > 4096) then some 10
  else if a.divMode = .meanCount && a.countsOut.isNone then some 10
  else if a.op = .globalNorm && (a.buffers.isEmpty || a.buffers.length > 256) then some 12
  else if a.deadline ≠ 0 && (a.deadline < 100 || a.deadline > 10000000) then some 13
  else none

/-- Every operand range of a tree collective, checked in the order of R272 (R336, R348, R396). -/
def Dev.collRanges (d : Dev) (a : CollArgs) : Except HaltInfo (List Nat) := do
  let tree := a.op ≠ .globalNorm
  let own := segHi a.nTiles a.n a.pos - segLo a.nTiles a.n a.pos
  let slots ← (if tree then do
      let src ← d.redBuf 5 a.src 0 (a.nTiles * fp32Tile) 32 false
      let dst ← d.redBuf 6 a.dst 0 ((if a.op = .allReduce then a.nTiles else own) * fp32Tile) 32 true
      let scr ← d.redBuf 7 a.scratch 0 (a.nTiles * fp32Tile) 32 true
      a.counts.elim (.ok ()) fun x => d.redAddr 10 x (4 * collItems a)
      a.countsOut.elim (.ok ()) fun x => d.redAddr 10 x (8 * collItems a)
      .ok [src.slot, dst.slot, scr.slot]
    else
      a.buffers.foldl (fun (e : Except HaltInfo (List Nat)) b => e.bind fun l => do
        let x ← d.redBuf 12 b.1 0 0 32 false
        let y ← d.redBuf 12 b.1 0 (b.2 * tileTotal (x.fmt.getD .fp32)) 32 false
        .ok (l ++ [y.slot])) (.ok []))
  if wantsNorm a then d.redAddr 11 a.normOut 16
  let rec_ ← d.redBuf 14 a.record 0 (collRecordBytes a.n (heldSegs a).length) 8 true
  .ok (slots ++ [rec_.slot])

/-- A segment before its collective has started. -/
def SegSt.fresh (a : CollArgs) (s : Nat) : SegSt :=
  { seg := s, has := false, tiles := [], present := [], nanMap := [], nanCount := 0, arisen := 0,
    counts := (collItemsOf a (segLo a.nTiles a.n s) (segHi a.nTiles a.n s)).map fun _ => 0,
    shape := [], level := 0, failed := [], upSent := false, outcome := 0 }

/-- A collective as it enters its channel. -/
def CollSt.fresh (x : Accepted) (ms : List Nat) : CollSt :=
  { acc := x.id, core := x.core, coll := none, perm := none, members := ms, nanTrap := x.cmd.nanTrap, started := false, ahead := none,
    tStart := 0, t0 := 0, segs := [], skipped := false, ownFailed := [], nanAt := none, normReady := false, normHas := false,
    normQ := 0, normPresent := [], normLevel := 0, normFailed := [], normSent := false, normDone := false, normValid := false,
    sends := [], recv := [], lateEdges := 0, staleMsgs := 0, retries := 0, tornTiles := 0, zeroDiv := 0 }

/-- ENGINE_ABSENT of a disabled reduction block (R302). -/
def rdAbsent (port : Nat) : HaltInfo := { reason := rEngineAbsent, unit := 4, kind := 2, d0 := port }

/-- The oldest collective of a core, a PERMUTE among them, that has not entered its channel: they enter in the order in which the
adders received them (R75, R273). -/
def Dev.oldestColl (d : Dev) (c : Nat) : Option Accepted :=
  d.oldest c fun op => match op with | .collective _ | .permute _ => true | _ => false

/-- The spilled operands of a tree collective are read before it starts (R253). -/
def Dev.fetchColl (d : Dev) (id : Nat) (a : CollArgs) : Dev :=
  if a.op = .globalNorm then
    a.buffers.foldl (fun d b =>
      d.fetchRange id b.1 0 (b.2 * tileTotal (((d.liveBuf b.1).bind (·.fmt)).getD .fp32))) d
  else d.fetchRange id a.src 0 (a.nTiles * fp32Tile)

/-- The oldest accepted collective of a core enters its channel, if it is of an operation (R271 to R273, R302). -/
def Dev.collRow (d : Dev) (c : Nat) (op : CollOp) : Dev :=
  match d.oldestColl c with
  | none => d
  | some x =>
    match x.cmd.op with
    | .collective a =>
      if a.op ≠ op then d
      else if !wbit d.rd.ctrl 0 then d.haltSta x.id (rdAbsent a.leadPort)
      else match collLimits a with
        | some p => d.haltSta x.id (badShape p)
        | none =>
          match d.readRanks (.acc x.id) 4 a.members a.n with
          | (.error h, d) => d.haltSta x.id h
          | (.ok ms, d) =>
            if ms.getD a.pos 0 ≠ d.fx.rankSelf then d.haltSta x.id (badShape 4)
            else match d.collRanges a with
              | .error h => d.haltSta x.id h
              | .ok slots =>
                let segs := if a.op = .globalNorm then [] else (List.range a.n).map (SegSt.fresh a)
                let k : CollSt := { CollSt.fresh x ms with coll := some a, segs := segs }
                ((d.beginAcc x.id slots).setChan a.channel (d.chan a.channel ++ [k])).fetchColl x.id a
    | _ => d

/-- R276: ALL_REDUCE. -/
def execAllReduce (core : Nat) (s : State) : Host.Outcome State Fault Refusal := s.onDev fun d => d.collRow core .allReduce

/-- R278: REDUCE_SCATTER. -/
def execReduceScatter (core : Nat) (s : State) : Host.Outcome State Fault Refusal := s.onDev fun d => d.collRow core .reduceScatter

/-- R298: GLOBAL_NORM. -/
def execGlobalNorm (core : Nat) (s : State) : Host.Outcome State Fault Refusal := s.onDev fun d => d.collRow core .globalNorm

/-! ## The start of a tree collective -/

/-- A tile of a buffer read by the adders: its bytes, or none for a failed read (R545). -/
def Dev.redTile (d : Dev) (port : Nat) (b : Buf) (f : Fmt) (i : Nat) : Option (List Byte) × Dev :=
  d.piecesAcross (dieOfPort port) (reqAdder port) (b.pieces (i * tileTotal f) (tileTotal f))

/-- Tiles `first` to `first + n − 1` read in order. -/
def Dev.redTiles (d : Dev) (port : Nat) (b : Buf) (f : Fmt) (first n : Nat) : List (Option (List Byte)) × Dev :=
  (List.range n).foldl (fun acc i =>
    let r := acc.2.redTile port b f (first + i)
    (acc.1 ++ [r.1], r.2)) ([], d)

/-- The own contribution to a segment (R280, R293, R294). -/
def ownSeg (a : CollArgs) (skip : Bool) (counts : List Nat) (ts : List (Option (List Byte))) (s : Nat) : SegSt × Bool :=
  let lo := segLo a.nTiles a.n s
  let hi := segHi a.nTiles a.n s
  let mine := (ts.drop lo).take (hi - lo)
  let good := mine.all fun t => t.elim false redGood
  let shape := mine.map fun t => match t with
    | some t => if redGood t then some (tileRows t, tileCols t) else none
    | none => none
  let is := collItemsOf a lo hi
  let g := { SegSt.fresh a s with shape := shape, nanMap := if skip then [a.pos] else [] }
  if hi ≤ lo then ({ g with outcome := 1, present := List.range a.n, nanMap := [] }, false)
  else if !good || skip then (g, !good)
  else
    let raw := mine.filterMap id
    let vs := raw.map (valueTile a.epoch)
    ({ g with has := true, tiles := vs, present := [a.pos], nanMap := if raw.any tileNan then [a.pos] else [],
              nanCount := (vs.map nanElems).sum, counts := is.map fun i => counts.getD i 0 }, false)

/-- The segments at the start (R274, R280, R294). -/
def Dev.startSegs (d : Dev) (ch : Nat) (a : CollArgs) (counts : List Nat) : Dev :=
  match d.liveBuf a.src with
  | none => d
  | some b =>
    match d.redTiles a.leadPort b .fp32 0 a.nTiles with
    | (ts, d) =>
      let skip := a.nanSkip && ts.any fun t => t.elim false tileNan
      let gs := (List.range a.n).map (ownSeg a skip counts ts)
      let failed := (gs.filter (·.2)).map fun g => g.1.seg
      let d := if skip then ({ d with rd := { d.rd with nanSkipped := sat32 (d.rd.nanSkipped + 1) } }).rdErr 0x10 else d
      let d := if failed.isEmpty then d else d.rdErr 2
      let empty := segHi a.nTiles a.n a.pos ≤ segLo a.nTiles a.n a.pos
      d.setColl ch fun k => { k with segs := gs.map (·.1), skipped := skip, ownFailed := failed, normReady := empty, normHas := empty,
                                     normQ := 0, normPresent := if empty then [a.pos] else [] }

/-- The own q of a GLOBAL_NORM (R298): the buffers' sums in list order; a tile that fails makes it absent. -/
def Dev.startNorm (d : Dev) (ch : Nat) (a : CollArgs) : Dev :=
  let one (acc : Option Fl × Dev) (x : Word64 × Nat) : Option Fl × Dev :=
    match acc.2.liveBuf x.1 with
    | none => (none, acc.2)
    | some b =>
      let f := b.fmt.getD .fp32
      let r := acc.2.redTiles a.leadPort b f 0 x.2
      let ok := r.1.all fun t => t.elim false (tileGood fun g => g == f)
      (if ok then acc.1.map fun q => add64 q (chunkSum f r.1) else none, r.2)
  match a.buffers.foldl one (some Fl.zero, d) with
  | (some q, d) => d.setColl ch fun k => { k with normReady := true, normHas := true, normQ := code64 q, normPresent := [a.pos] }
  | (none, d) => (d.setColl ch fun k => { k with normReady := true, ownFailed := [0] }).rdErr 2

/-- Every segment, the norm and the collective move on. -/
def Dev.collRun (d : Dev) (ch : Nat) : Dev :=
  let n := ((d.coll ch).map (·.segs.length)).getD 0
  (((List.range n).foldl (fun d s => d.segRun ch s) d).normRun ch).collSettle ch

/-- The order of layout epochs (R295): whether E is older than C. -/
def epochOlder (e c : Nat) : Bool :=
  let x := (c + 2 ^ 32 - e % 2 ^ 32) % 2 ^ 32
  decide (1 ≤ x) && decide (x ≤ 2 ^ 31)

/-- EPOCH_STALE (R107, R296). -/
def epochStale (e c : Nat) : HaltInfo := { reason := rEpochStale, unit := 4, d0 := e, d1 := c }

/-- The head of a channel leaves it with a halt of its core, writing and sending nothing (R296). -/
def Dev.dropColl (d : Dev) (ch : Nat) (k : CollSt) (h : HaltInfo) : Dev :=
  (d.setChan ch ((d.chan ch).filter fun x => x.acc != k.acc)).haltSta k.acc h

/-- A tree collective at the head of its channel starts (R274), waits, or halts its core (R296). -/
def Dev.startTree (d : Dev) (ch : Nat) (k : CollSt) (a : CollArgs) : Dev :=
  let cur := d.rd.epoch.toNat
  if epochOlder a.epoch cur then d.dropColl ch k (epochStale a.epoch cur)
  else if a.epoch ≠ cur then
    (if k.ahead.isSome then d else d.setColl ch fun k => { k with ahead := some d.now })
  else
    let cs := if a.op = .globalNorm then (some [], d)
      else match a.counts with
        | none => (some [], d)
        | some x => d.readAcross (dieOfPort a.leadPort) (reqAdder a.leadPort) x (4 * collItems a)
    match cs with
    | (none, d) => d.dropColl ch k (d.busHalt .st (a.counts.getD 0))
    | (some cb, d) =>
      let d := d.setColl ch fun k => { k with started := true, ahead := none, tStart := d.timeStamp, t0 := d.now }
      let d := if a.op = .globalNorm then d.startNorm ch a
        else d.startSegs ch a ((List.range (collItems a)).map fun i => fieldAt cb (4 * i) 4)
      d.collRun ch

/-! ## Messages -/

/-- A reduction message arrives: the receiving checks, its ACK, its sender (R378, R385, R577), and the CRC of a REFUSE or an ABORT, which
has no body (R292). A message with a body is checked where it is read. -/
def Dev.redIn (d : Dev) (via : Via) (kind : Nat) (m : RedMsg) (act : Dev → Dev) : Dev :=
  match d.msgIn via with
  | (false, d) => d
  | (true, d) =>
    let d := d.ackMsg via 0
    if d.fidRank via.srcId ≠ some m.src || m.version ≠ 1 || m.kind ≠ kind || m.dst ≠ d.fx.rankSelf || m.resv ≠ 0 then d.rdStale
    else if (kind = rkRefuse || kind = rkAbort) && (m.crc ≠ redCrc m || !m.body.isEmpty) then d.rdErr 2
    else act d

/-- A message of an edge or result that was closed is discarded and counted (R288). -/
def Dev.lateMsg (d : Dev) (m : RedMsg) : Dev :=
  let e : ClosedEdge := ⟨m.channel, m.collId, m.kind, m.segment, m.level⟩
  ({ d with rd := { d.rd with closed := d.rd.closed.erase e } }).rdLate

/-- A message of no running collective: of a closed edge it is late, a REFUSE has no more to stop, any other is held unread for want
of credit (R275, R281, R288). -/
def Dev.redHold (d : Dev) (port : Nat) (m : RedMsg) (res : EccOutcome) : Dev :=
  if d.rd.closed.contains ⟨m.channel, m.collId, m.kind, m.segment, m.level⟩ then d.lateMsg m
  else if m.kind = rkRefuse then d
  else { d with rd := { d.rd with held := d.rd.held ++ [⟨port, m, res⟩] } }

/-- A message finds its collective: the running one of its COLL_ID (R275). Of a closed edge it is late (R288); of no running one it
is held unread; under another epoch it is stale (R297). -/
def Dev.redRoute (d : Dev) (port : Nat) (m : RedMsg) (res : EccOutcome) (act : CollSt → CollArgs → Dev → Dev) : Dev :=
  match d.runningColl m.channel with
  | some k =>
    match k.coll with
    | some a =>
      if a.collId ≠ m.collId then d.redHold port m res
      else if m.epoch ≠ a.epoch then (d.setColl m.channel fun k => { k with staleMsgs := k.staleMsgs + 1 }).rdStale
      else act k a d
    | none => d.redHold port m res
  | none => d.redHold port m res

/-- An edge's message reaches the running collective (R277, R281, R288). -/
def Dev.upMsg (d : Dev) (port : Nat) (m : RedMsg) (res : EccOutcome) (k : CollSt) (a : CollArgs) : Dev :=
  let l := m.level
  let hold (d : Dev) : Dev := { d with rd := { d.rd with held := d.rd.held ++ [⟨port, m, res⟩] } }
  match k.segAt m.segment with
  | none => d.rdStale
  | some g =>
    let r := relPos a.n a.pos m.segment
    if l ≥ redDepth a.n || !hasChild a.n r l || k.members.getD ((a.pos + 2 ^ l) % a.n) 0 ≠ m.src then d.rdStale
    else if g.failed.any fun x => x.1 == l then d.lateMsg m
    else if l < g.level || g.upSent || g.outcome ≠ 0 then d
    else (hold d).afterSeg m.channel m.segment

/-- R281: UP. -/
def execUp (via : Via) (m : RedMsg) (residue : EccOutcome) (s : State) : Host.Outcome State Fault Refusal :=
  s.onDev fun d => d.redIn via rkUp m fun d => d.redRoute via.port m residue fun k a d => d.upMsg via.port m residue k a

/-- A segment's result reaches the running collective (R278, R284, R288, R289). -/
def Dev.resultMsg (d : Dev) (m : RedMsg) (k : CollSt) (a : CollArgs) : Dev :=
  match k.segAt m.segment with
  | none => d.rdStale
  | some g =>
    if a.op ≠ .allReduce || m.segment = a.pos || k.members.getD m.segment 0 ≠ m.src || m.level ≠ 0xFF then d.rdStale
    else if g.outcome ≠ 0 then d.lateMsg m
    else
      let lo := segLo a.nTiles a.n m.segment
      let hi := segHi a.nTiles a.n m.segment
      let fail (d : Dev) : Dev := ((d.failSeg m.channel a m.segment).rdErr 2).afterSeg m.channel m.segment
      match readBody a.n (collItemsOf a lo hi).length (hi - lo) false m with
      | none => fail d
      | some (ts, t) =>
        if ts.isEmpty || !ts.all redGood then fail d
        else
          let d := d.putResult m.channel a m.segment ts t.counts
          (d.setSegOf m.channel m.segment fun g =>
            { g with outcome := 1, has := true, tiles := [], present := t.present, nanMap := t.nanMap, nanCount := t.nanCount,
                     arisen := t.arisen, counts := t.counts }).afterSeg m.channel m.segment

/-- R278: RESULT. -/
def execResult (via : Via) (m : RedMsg) (s : State) : Host.Outcome State Fault Refusal :=
  s.onDev fun d => d.redIn via rkResult m fun d => d.redRoute via.port m .clean fun k a d => d.resultMsg m k a

/-- The parent has closed this device's edge (R288): it stops sending there. SEGMENT equal to the member count names the norm tree. -/
def Dev.refuseMsg (d : Dev) (m : RedMsg) (k : CollSt) (a : CollArgs) : Dev :=
  let r := relPos a.n a.pos m.segment
  if m.segment = a.n then
    (if wantsNorm a && m.level < redDepth a.n && a.pos.testBit m.level && a.pos % 2 ^ m.level = 0 &&
        k.members.getD (a.pos - 2 ^ m.level) 0 = m.src then
       (d.setColl m.channel fun k => { k with normSent := true }).collSettle m.channel
     else d)
  else if m.level < redDepth a.n && r.testBit m.level && r % 2 ^ m.level = 0 &&
      k.members.getD ((a.pos + a.n - 2 ^ m.level) % a.n) 0 = m.src then
    (d.setSegOf m.channel m.segment fun g => { g with upSent := true }).afterSeg m.channel m.segment
  else d

/-- R288: REFUSE. -/
def execRefuse (via : Via) (m : RedMsg) (s : State) : Host.Outcome State Fault Refusal :=
  s.onDev fun d => d.redIn via rkRefuse m fun d => d.redRoute via.port m .clean fun k a d => d.refuseMsg m k a

/-- An ABORT (R291): of a child's edge it closes it, of a root it is a missing result, of the parent it is a REFUSE. SEGMENT equal to
the member count names the norm tree. -/
def Dev.abortMsg (d : Dev) (m : RedMsg) (k : CollSt) (a : CollArgs) : Dev :=
  let d := d.rdErr 0x80
  let ch := m.channel
  if m.segment = a.n then
    (if m.level = 0xFF then
       (if k.members.getD 0 0 = m.src && a.pos ≠ 0 && !k.normDone && wantsNorm a then (d.normEnd ch a none).collSettle ch else d)
     else if m.level < redDepth a.n && k.members.getD (a.pos + 2 ^ m.level) 0xFFFF = m.src && k.normLevel ≤ m.level then
       ((d.setColl ch fun k => { k with normFailed := m.level :: k.normFailed }).normRun ch).collSettle ch
     else d.refuseMsg m k a)
  else match k.segAt m.segment with
    | none => d
    | some g =>
      let r := relPos a.n a.pos m.segment
      if m.level = 0xFF then
        (if k.members.getD m.segment 0 = m.src && m.segment ≠ a.pos && a.op = .allReduce && g.outcome = 0 then
           (d.failSeg ch a m.segment).afterSeg ch m.segment
         else d)
      else if m.level < redDepth a.n && hasChild a.n r m.level && k.members.getD ((a.pos + 2 ^ m.level) % a.n) 0 = m.src then
        (if g.level ≤ m.level then
           (d.setSegOf ch m.segment fun g => { g with failed := g.failed ++ [(m.level, 1)] }).afterSeg ch m.segment
         else d)
      else d.refuseMsg m k a

/-- R291: ABORT. -/
def execReductionAbort (via : Via) (m : RedMsg) (s : State) : Host.Outcome State Fault Refusal :=
  s.onDev fun d => d.redIn via rkAbort m fun d => d.redRoute via.port m .clean fun k a d => d.abortMsg m k a

/-- R299: NORM_UP. -/
def Dev.normUpMsg (d : Dev) (port : Nat) (m : RedMsg) (k : CollSt) (a : CollArgs) : Dev :=
  let hold (d : Dev) : Dev := { d with rd := { d.rd with held := d.rd.held ++ [⟨port, m, .clean⟩] } }
  if !wantsNorm a || m.level ≥ redDepth a.n || !hasChild a.n a.pos m.level || m.segment ≠ 0 ||
      k.members.getD (a.pos + 2 ^ m.level) 0 ≠ m.src then d.rdStale
  else if k.normFailed.contains m.level then d.lateMsg m
  else if m.level < k.normLevel || k.normSent || k.normDone then d
  else ((hold d).normRun m.channel).collSettle m.channel

/-- R299: NORM_UP. -/
def execNormUp (via : Via) (m : RedMsg) (s : State) : Host.Outcome State Fault Refusal :=
  s.onDev fun d => d.redIn via rkNormUp m fun d => d.redRoute via.port m .clean fun k a d => d.normUpMsg via.port m k a

/-- The norm's result reaches a member (R299). -/
def Dev.normResultMsg (d : Dev) (m : RedMsg) (k : CollSt) (a : CollArgs) : Dev :=
  if !wantsNorm a || a.pos = 0 || k.members.getD 0 0 ≠ m.src || m.level ≠ 0xFF then d.rdStale
  else if k.normDone then d.lateMsg m
  else match readBody a.n 0 0 true m with
    | none => (d.normEnd m.channel a none).collSettle m.channel
    | some (_, t) => (d.normEnd m.channel a (some (t.sumsq, t.present))).collSettle m.channel

/-- R299: NORM_RESULT. -/
def execNormResult (via : Via) (m : RedMsg) (s : State) : Host.Outcome State Fault Refusal :=
  s.onDev fun d => d.redIn via rkNormResult m fun d => d.redRoute via.port m .clean fun k a d => d.normResultMsg m k a

/-- A message held unread is read once its collective runs (R275). -/
def Dev.readHeld (d : Dev) (x : HeldMsg) : Dev :=
  let m := x.msg
  if m.kind = rkUp then d.redRoute x.port m x.residue fun k a d => d.upMsg x.port m x.residue k a
  else if m.kind = rkResult then d.redRoute x.port m .clean fun k a d => d.resultMsg m k a
  else if m.kind = rkAbort then d.redRoute x.port m .clean fun k a d => d.abortMsg m k a
  else if m.kind = rkNormUp then d.redRoute x.port m .clean fun k a d => d.normUpMsg x.port m k a
  else d.redRoute x.port m .clean fun k a d => d.normResultMsg m k a

/-- The messages held for a collective that has just started are read in order of arrival. -/
def Dev.readAllHeld (d : Dev) (h : CollHead) : Dev :=
  let mine (x : HeldMsg) : Bool := x.msg.channel == h.channel && x.msg.collId == h.collId
  let ms := d.rd.held.filter mine
  ms.foldl (fun d x => d.readHeld x) { d with rd := { d.rd with held := d.rd.held.filter fun x => !mine x } }

/-! ## Deadlines -/

/-- R288: the deadline of an edge of level l passes: it is closed, and its sender told. SEGMENT equal to the member count names the
edge of the norm tree (R299). -/
def execEdgeDeadline (channel segment level : Nat) (s : State) : Host.Outcome State Fault Refusal :=
  s.onDev fun d =>
    match d.runningColl channel with
    | none => d
    | some k =>
      match k.coll with
      | none => d
      | some a =>
        let late (d : Dev) : Dev := (d.setColl channel fun k => { k with lateEdges := k.lateEdges + 1 }).rdLate
        let t := k.t0 + d.collDc k * (level + 1)
        if segment = a.n then
          (if wantsNorm a && level < redDepth a.n && hasChild a.n a.pos level && k.normLevel ≤ level && !k.normFailed.contains level &&
              !k.normSent && !k.normDone then
            let d := d.advanceTo t
            let src := k.members.getD (a.pos + 2 ^ level) 0
            let d := (d.takeHeld k.head rkNormUp 0 level src).2
            let d := d.setColl channel fun k => { k with normFailed := level :: k.normFailed }
            let d := (late (d.sendRed k rkRefuse level (a.pos + 2 ^ level) a.n [])).closeKey k rkNormUp 0 level
            (d.normRun channel).collSettle channel
           else d)
        else match k.segAt segment with
          | none => d
          | some g =>
            let r := relPos a.n a.pos segment
            let child := (a.pos + 2 ^ level) % a.n
            if level < redDepth a.n && hasChild a.n r level && g.level ≤ level && !(g.failed.any fun x => x.1 == level) && !g.upSent &&
                g.outcome = 0 then
              let d := d.advanceTo t
              let d := (d.takeHeld k.head rkUp segment level (k.members.getD child 0)).2
              let d := d.setSegOf channel segment fun g => { g with failed := g.failed ++ [(level, 1)] }
              let d := (late (d.sendRed k rkRefuse level child segment [])).closeKey k rkUp segment level
              d.afterSeg channel segment
            else d

/-- R288: a segment's result misses its deadline: its tiles in DST are torn. -/
def execSegmentDeadline (channel segment : Nat) (s : State) : Host.Outcome State Fault Refusal :=
  s.onDev fun d =>
    match d.runningColl channel with
    | none => d
    | some k =>
      match k.coll, k.segAt segment with
      | some a, some g =>
        if a.op = .allReduce && segment ≠ a.pos && g.outcome = 0 then
          let d := d.advanceTo (k.t0 + d.collDc k * (redDepth a.n + 1))
          ((d.failSeg channel a segment).closeKey k rkResult segment 0xFF).afterSeg channel segment
        else d
      | _, _ => d

/-- R299: the norm's result misses its deadline: NORM_OUT is written invalid. -/
def execNormDeadline (channel : Nat) (s : State) : Host.Outcome State Fault Refusal :=
  s.onDev fun d =>
    match d.runningColl channel with
    | none => d
    | some k =>
      match k.coll with
      | none => d
      | some a =>
        if wantsNorm a && !k.normDone then
          let d := d.advanceTo (k.t0 + d.collDc k * (redDepth a.n + 2))
          ((d.normEnd channel a none).closeKey k rkNormResult 0 0xFF).collSettle channel
        else d

end Sys2Proof.Machine
end

