-- ==== Sys2Proof/Machine/Permute.lean ====
section
/-! DEFINITION. PERMUTE (R416 to R421), the start of the head of a channel (R274, R295, R296, R418), the end of every collective at a
job stop or a disable (R291, R303), and the block's other commands (R302). -/

namespace Sys2Proof.Machine

open Sys2Proof

/-! ## Issuing a PERMUTE -/

/-- The limits of R416: the row of its operand table that holds an operand outside them. -/
def permLimits (a : PermuteArgs) : Option Nat :=
  if a.channel > 15 || a.collId ≥ 2 ^ 32 || a.n = 0 || a.n > 8192 || a.pos ≥ a.n then some 0
  else if a.deadline ≠ 0 && (a.deadline < 100 || a.deadline > 10000000) then some 0
  else if a.epoch ≥ 2 ^ 32 then some 1
  else if a.sendCount > 65536 then some 2
  else if a.recvCount > 65536 then some 3
  else none

/-- The 32-byte entries of a map, read by the adders (R416). -/
def Dev.readMap (d : Dev) (a : PermuteArgs) (pos : Nat) (h : Word64) (count : Nat) : Except HaltInfo (List (List Byte)) × Dev :=
  if count = 0 then (.ok [], d)
  else match d.redBuf pos h 0 (32 * count) 8 false with
    | .error e => (.error e, d)
    | .ok b =>
      match d.piecesAcross (dieOfPort a.leadPort) (reqAdder a.leadPort) (b.pieces 0 (32 * count)) with
      | (none, d) => (.error (d.busHalt .st (((b.pieces 0 32).head?.map (·.1)).getD 0)), d)
      | (some bs, d) => (.ok ((List.range count).map fun i => (bs.drop (32 * i)).take 32), d)

/-- Whether an entry keeps its limits (R416). -/
def entryOk (n : Nat) (e : List Byte) : Bool :=
  decide (1 ≤ fieldAt e 12 4) && decide (fieldAt e 12 4 ≤ 2 ^ 24) && decide (fieldAt e 16 2 < n) && decide (fieldAt e 18 2 = 0) &&
    decide (fieldAt e 24 8 = 0)

/-- A send and a receive entry (R416). -/
def sendOf (e : List Byte) : SendRange :=
  { src := BitVec.ofNat 64 (fieldAt e 0 8), first := fieldAt e 8 4, tiles := fieldAt e 12 4, dest := fieldAt e 16 2, key := fieldAt e 20 4 }
def recvOf (e : List Byte) : RecvRange :=
  { dst := BitVec.ofNat 64 (fieldAt e 0 8), first := fieldAt e 8 4, tiles := fieldAt e 12 4, srcPos := fieldAt e 16 2,
    key := fieldAt e 20 4, got := [], bad := false }

/-- The checks of a range of an entry (R348, R417): its buffer, or the first failing check. A buffer without a format holds no tiles:
check 6. -/
def Dev.entryBuf (d : Dev) (h : Word64) (first tiles : Nat) (write : Bool) : Except Nat Buf :=
  match d.checkHandle h ⟨0, 0, 32, false⟩ with
  | .error c => .error c
  | .ok b =>
    match b.fmt with
    | none => .error 6
    | some f =>
      match d.checkHandle h ⟨first * tileTotal f, tiles * tileTotal f, 32, write⟩ with
      | .error c => .error c
      | .ok b =>
        if write && (b.kind != 0 || (d.pool b.pool).all fun p => p.kind != 1) then .error 13
        else .ok b

/-- The pieces of tiles of a buffer. -/
def tilePieces (b : Buf) (first tiles : Nat) : List (Nat × Nat) :=
  let t := tileTotal (b.fmt.getD .fp32)
  b.pieces (first * t) (tiles * t)

/-- Keys that stand twice for one SRC_POS: the handle of the second entry (R417). -/
def doubleKey : List RecvRange → Option Word64
  | [] => none
  | r :: rs =>
    match rs.find? fun x => x.srcPos == r.srcPos && x.key == r.key with
    | some x => some x.dst
    | none => doubleKey rs

/-- The lowest failing check over both maps, receive entries before send entries, with its handle (R417). -/
def Dev.permChecks (d : Dev) (sends : List SendRange) (recv : List RecvRange) : Option (Word64 × Nat) :=
  let fail (h : Word64) (e : Except Nat Buf) : List (Word64 × Nat) := match e with | .error c => [(h, c)] | .ok _ => []
  let rs := recv.flatMap fun r => fail r.dst (d.entryBuf r.dst r.first r.tiles true)
  let ss := sends.flatMap fun x => fail x.src (d.entryBuf x.src x.first x.tiles false)
  let fs := rs ++ ss
  let low := fs.foldl (fun (m : Option (Word64 × Nat)) x => match m with
    | none => some x
    | some y => if x.2 < y.2 then some x else some y) none
  let meets (r : RecvRange) : Bool := sends.any fun x =>
    match d.entryBuf r.dst r.first r.tiles true, d.entryBuf x.src x.first x.tiles false with
    | .ok a, .ok b => piecesMeet (tilePieces a r.first r.tiles) (tilePieces b x.first x.tiles)
    | _, _ => false
  match low with
  | some x => some x
  | none =>
    match recv.find? meets with
    | some r => some (r.dst, 14)
    | none => (doubleKey recv).map fun h => (h, 15)

/-- A range of an entry that touches the coherent window (R396): its address and the operand's position. -/
def Dev.permCoh (d : Dev) (sends : List SendRange) (recv : List RecvRange) : Option (Nat × Nat) :=
  let hit (pos : Nat) (e : Except Nat Buf) (first tiles : Nat) : Option (Nat × Nat) :=
    match e with
    | .ok b => ((tilePieces b first tiles).find? fun p => d.inCoh p.1 p.2).map fun p => (p.1, pos)
    | .error _ => none
  (recv.findSome? fun r => hit 3 (d.entryBuf r.dst r.first r.tiles true) r.first r.tiles).or
    (sends.findSome? fun x => hit 2 (d.entryBuf x.src x.first x.tiles false) x.first x.tiles)

/-- The maps of a PERMUTE that lie in the spill ring are read first (R253): whether the row may go on. -/
def Dev.mapsIn (d : Dev) (x : Accepted) (a : PermuteArgs) : Bool × Dev :=
  if x.asked then (!d.fetching x.id, d)
  else
    let d := ((d.markAsked (.acc x.id)).fetchRange x.id a.sendMap 0 (32 * a.sendCount)).fetchRange x.id a.recvMap 0 (32 * a.recvCount)
    (!d.fetching x.id, d)

/-- The checked maps of a PERMUTE enter its channel, and the spilled tiles that it sends are read (R253). -/
def Dev.permEnter (d : Dev) (x : Accepted) (a : PermuteArgs) (ms : List Nat) (rb : Buf) (sends : List SendRange)
    (recv : List RecvRange) : Dev :=
  let slots := handleSlots (sends.map (·.src) ++ recv.map (·.dst)) ++ [rb.slot]
  let k : CollSt := { CollSt.fresh x ms with perm := some a, sends := sends, recv := recv }
  let d := (d.beginAcc x.id slots).setChan a.channel (d.chan a.channel ++ [k])
  sends.foldl (fun d s =>
    let t := tileTotal (((d.liveBuf s.src).bind (·.fmt)).getD .fp32)
    d.fetchRange x.id s.src (s.first * t) (s.tiles * t)) d

/-- A PERMUTE enters its channel with its maps (R271, R273, R416, R417). -/
def Dev.permRow (d : Dev) (x : Accepted) (a : PermuteArgs) : Dev :=
  if !wbit d.rd.ctrl 0 then d.haltSta x.id (rdAbsent a.leadPort)
  else match permLimits a with
    | some p => d.haltSta x.id (badShape p)
    | none =>
      match d.readRanks (.acc x.id) 0 a.members a.n with
      | (.error h, d) => d.haltSta x.id h
      | (.ok ms, d) =>
        if ms.getD a.pos 0 ≠ d.fx.rankSelf then d.haltSta x.id (badShape 0)
        else match d.mapsIn x a with
        | (false, d) => d
        | (true, d) =>
          match d.readMap a 2 a.sendMap a.sendCount with
          | (.error h, d) => d.haltSta x.id h
          | (.ok se, d) =>
            match d.readMap a 3 a.recvMap a.recvCount with
            | (.error h, d) => d.haltSta x.id h
            | (.ok re, d) =>
              match d.redBuf 0 a.record 0 (collRecordBytes a.n 0) 8 true with
              | .error h => d.haltSta x.id h
              | .ok rb =>
                if !se.all (entryOk a.n) then d.haltSta x.id (badShape 2)
                else if !re.all (entryOk a.n) then d.haltSta x.id (badShape 3)
                else
                  let sends := se.map sendOf
                  let recv := re.map recvOf
                  match d.permChecks sends recv, d.permCoh sends recv with
                  | some f, _ => d.haltSta x.id (badHandle f.1 f.2)
                  | none, some c =>
                    d.haltSta x.id { reason := rBadOperand, unit := 0, kind := 9, address := c.1, d0 := c.2 }
                  | none, none => d.permEnter x a ms rb sends recv

/-- R416: PERMUTE. -/
def execPermute (core : Nat) (s : State) : Host.Outcome State Fault Refusal :=
  s.onDev fun d =>
    match d.oldestColl core with
    | none => d
    | some x => match x.cmd.op with | .permute a => d.permRow x a | _ => d

/-! ## Moving tiles -/

/-- Every tile of a receive range receives the torn mark (R420). -/
def Dev.tearRange (d : Dev) (ch : Nat) (r : RecvRange) (is : List Nat) : Dev :=
  match d.liveBuf r.dst with
  | none => d
  | some b =>
    let t := tileTotal (b.fmt.getD .fp32)
    let d := is.foldl (fun d i => d.tearBuf b ((r.first + i) * t) t) d
    d.setColl ch fun k => { k with tornTiles := k.tornTiles + is.length }

/-- A range of the running PERMUTE changed. -/
def Dev.setRange (d : Dev) (ch srcPos key : Nat) (f : RecvRange → RecvRange) : Dev :=
  d.setColl ch fun k => { k with recv := k.recv.map fun r => if r.srcPos == srcPos && r.key == key then f r else r }

/-- A tile under its new epoch, with its checksum computed anew (R419). -/
def newEpoch (epoch : Nat) (t : List Byte) : List Byte :=
  sealTile (if (tileHdr t).tagValid == 0 then t.take 8 ++ leBytes 4 epoch ++ t.drop 12 else t)

/-- A re-sharded tile reaches its range (R419, R420). -/
def Dev.permPut (d : Dev) (ch : Nat) (a : PermuteArgs) (t : PermTile) : Dev :=
  match ((d.coll ch).map (·.recv)).getD [] |>.find? fun r => r.srcPos == t.srcPos && r.key == t.key with
  | none => d.rdStale
  | some r =>
    match d.liveBuf r.dst with
    | none => d
    | some b =>
      let f := b.fmt.getD .fp32
      let wrong := t.tile.length ≠ tileTotal f || (!t.failed && (tileHdr t.tile).format.toNat ≠ fmtCode f)
      if r.bad || r.got.contains t.index then d
      else if t.tiles ≠ r.tiles || t.index ≥ r.tiles || wrong then
        (d.tearRange ch r (List.range r.tiles)).setRange ch r.srcPos r.key fun r => { r with bad := true }
      else
        let off := (r.first + t.index) * tileTotal f
        let d := d.setRange ch r.srcPos r.key fun r => { r with got := t.index :: r.got }
        let tile := newEpoch a.epoch t.tile
        if t.failed then
          (d.storeTorn b off tile).setColl ch fun k => { k with tornTiles := k.tornTiles + 1 }
        else
          let addr := ((b.pieces off 32).head?.map (·.1)).getD 0
          let d := d.storeBuf b off tile
          if tileNan tile then d.setColl ch fun k => { k with nanAt := k.nanAt.or (some addr) } else d

/-- Whether a range has ended. -/
def RecvRange.full (r : RecvRange) : Bool := r.bad || r.got.length == r.tiles

/-- STATUS of a PERMUTE (R421). -/
def permStatus (k : CollSt) : Nat :=
  if !k.recv.isEmpty && k.recv.all fun r => r.got.isEmpty then 2
  else if k.tornTiles = 0 && k.recv.all fun r => !r.bad && r.full then 0
  else 1

/-- CAUSE_MAP of a PERMUTE (R420). -/
def permCauses (k : CollSt) : List Nat :=
  (List.range k.n).map fun p => b2n (k.recv.any fun r => r.srcPos == p && (r.bad || !r.full))

/-- A PERMUTE retires with a status (R421). -/
def Dev.retirePerm (d : Dev) (ch : Nat) (k : CollSt) (a : PermuteArgs) (status : Nat) : Dev :=
  let cs := permCauses k
  let bytes := d.collHead k 4 status 0 0 cs (0xFFFF, 0, 0, 0) 0 0 ++ causeBytes cs
  d.retire ch k a.record status bytes (cs.any (· != 0))

/-- The running PERMUTE of a channel retires once every range has ended. -/
def Dev.permSettle (d : Dev) (ch : Nat) : Dev :=
  match d.runningColl ch with
  | none => d
  | some k =>
    match k.perm with
    | none => d
    | some a => if k.recv.all RecvRange.full then d.retirePerm ch k a (permStatus k) else d

/-- A tile that could not be read: its bytes are free. -/
def freeTile (ps : List (Nat × Nat)) : List Byte := ps.flatMap fun p => (List.range p.2).map fun i => Config.unreadByte (p.1 + i)

/-- One tile of a send entry (R419): read, checked, and put in place here or sent. -/
def Dev.permSend (d : Dev) (ch : Nat) (k : CollSt) (a : PermuteArgs) (x : SendRange) (i : Nat) : Dev :=
  match d.liveBuf x.src with
  | none => d
  | some b =>
    let f := b.fmt.getD .fp32
    let ps := b.pieces ((x.first + i) * tileTotal f) (tileTotal f)
    let r := d.piecesAcross (dieOfPort a.leadPort) (reqAdder a.leadPort) ps
    let failed := !(r.1.elim false (tileGood fun _ => true))
    let t : PermTile :=
      { channel := a.channel, collId := a.collId, epoch := a.epoch, srcPos := a.pos, key := x.key, index := i, tiles := x.tiles,
        failed := failed, tile := r.1.getD (freeTile ps) }
    if x.dest = a.pos then r.2.permPut ch a t
    else
      let head := Config.permHead [a.channel, a.collId, a.epoch, a.pos, x.key, i, x.tiles, b2n failed]
      match r.2.crossPort (dieOfPort a.leadPort) with
      | (false, d) => d
      | (true, d) => d.sendMessage (.adder a.leadPort) (reqAdder a.leadPort) (k.members.getD x.dest 0) [3, a.channel, a.collId]
          (leBytes 32 head.toNat ++ t.tile)

/-- The PERMUTE's tiles held unread are read once it has started (R275, R419). -/
def Dev.readHeldTiles (d : Dev) (ch : Nat) (a : PermuteArgs) : Dev :=
  let mine (t : PermTile) : Bool := t.channel == a.channel && t.collId == a.collId
  let ts := d.rd.heldTiles.filter mine
  let take (d : Dev) (t : PermTile) : Dev :=
    if t.epoch ≠ a.epoch then (d.setColl ch fun k => { k with staleMsgs := k.staleMsgs + 1 }).rdStale else d.permPut ch a t
  ts.foldl take { d with rd := { d.rd with heldTiles := d.rd.heldTiles.filter fun t => !mine t } }

/-- A PERMUTE at the head of its channel starts (R295, R418), halts its core, or waits. -/
def Dev.startPerm (d : Dev) (ch : Nat) (k : CollSt) (a : PermuteArgs) : Dev :=
  let cur := d.rd.epoch.toNat
  let older (x : CollSt) : Bool := x.acc != k.acc && epochOlder x.head.epoch a.epoch
  if epochOlder a.epoch cur || a.epoch = cur then d.dropColl ch k (epochStale a.epoch cur)
  else if (d.rd.channels.any fun c => c.2.any older) || d.bz.rounds.any (fun r => epochOlder r.epoch a.epoch) then d
  else
    let d := { d with rd := { d.rd with epoch := BitVec.ofNat 32 a.epoch } }
    let d := d.setColl ch fun k => { k with started := true, tStart := d.timeStamp, t0 := d.now }
    let d := k.sends.foldl (fun d x => (List.range x.tiles).foldl (fun d i => d.permSend ch k a x i) d) d
    (d.readHeldTiles ch a).permSettle ch

/-- R274: the head of a channel starts, once its spilled operands have been read (R253). -/
def execCollectiveStart (channel : Nat) (s : State) : Host.Outcome State Fault Refusal :=
  s.onDev fun d =>
    match d.coll channel with
    | none => d
    | some k =>
      if k.started || !wbit d.rd.ctrl 0 || d.fetching k.acc then d
      else match k.coll, k.perm with
        | some a, _ =>
          let d := d.startTree channel k a
          if (d.runningColl channel).any fun x => x.acc == k.acc then d.readAllHeld k.head else d
        | none, some a => d.startPerm channel k a
        | none, none => d

/-- R296: a collective of a newer epoch has waited D_C at its channel's head. -/
def execEpochAheadTimeout (channel : Nat) (s : State) : Host.Outcome State Fault Refusal :=
  s.onDev fun d =>
    match d.coll channel with
    | none => d
    | some k =>
      match k.coll, k.ahead with
      | some a, some t =>
        if k.started || d.rd.epoch.toNat = a.epoch then d
        else ((d.advanceTo (t + d.collDc k)).rdErr 0x40).retireTree channel k a 2 true
      | _, _ => d

/-- A tile of a PERMUTE arrives (R275, R297, R419, R577). -/
def Dev.permTile (d : Dev) (via : Via) (t : PermTile) : Dev :=
  match d.msgIn via with
  | (false, d) => d
  | (true, d) =>
    let d := d.ackMsg via 0
    match d.fidRank via.srcId with
    | none => d.rdStale
    | some rank =>
      let hold : Dev := { d with rd := { d.rd with heldTiles := d.rd.heldTiles ++ [t] } }
      match d.runningColl t.channel with
      | none => hold
      | some k =>
        match k.perm with
        | none => hold
        | some a =>
          if a.collId ≠ t.collId then hold
          else if k.members.getD t.srcPos 0xFFFF ≠ rank then d.rdStale
          else if a.epoch ≠ t.epoch then (d.setColl t.channel fun k => { k with staleMsgs := k.staleMsgs + 1 }).rdStale
          else (d.permPut t.channel a t).permSettle t.channel

/-- R419: PERMUTE_TILE. -/
def execPermuteTile (via : Via) (t : PermTile) (s : State) : Host.Outcome State Fault Refusal := s.onDev fun d => d.permTile via t

/-- The tiles of a range that never came receive the torn mark (R420). -/
def Dev.tearMissing (d : Dev) (ch : Nat) (k : CollSt) : Dev :=
  (k.recv.filter fun r => !r.full).foldl (fun d r =>
    d.tearRange ch r ((List.range r.tiles).filter fun i => !r.got.contains i)) d

/-- R420: the receive ranges of a PERMUTE are not whole in time. -/
def execPermuteDeadline (channel : Nat) (s : State) : Host.Outcome State Fault Refusal :=
  s.onDev fun d =>
    match d.runningColl channel with
    | none => d
    | some k =>
      match k.perm with
      | none => d
      | some a =>
        let d := (d.advanceTo (k.t0 + 2 * d.collDc k)).tearMissing channel k
        match d.coll channel with
        | none => d
        | some k => d.retirePerm channel k a (permStatus k)

/-! ## The end of every collective (R291, R303) -/

/-- The lowest set bit of a number that is not 0: the level at which a relative position sends up. -/
def upLevel (r : Nat) : Nat := ((List.range 14).find? fun l => r.testBit l).getD 0

/-- The ABORTs of a collective that ends (R291): on every edge not served, to the roots whose result is still due, and as a root to the
members not served. -/
def Dev.sendAborts (d : Dev) (k : CollSt) (a : CollArgs) : Dev :=
  let seg (d : Dev) (g : SegSt) : Dev :=
    let r := relPos a.n a.pos g.seg
    if g.outcome ≠ 0 then d
    else
      let d := if r ≠ 0 && !g.upSent then d.sendRed k rkAbort (upLevel r) ((a.pos + a.n - 2 ^ upLevel r) % a.n) g.seg [] else d
      if a.op ≠ .allReduce then d
      else if r = 0 then k.others.foldl (fun d p => d.sendRed k rkAbort 0xFF p g.seg []) d
      else d.sendRed k rkAbort 0xFF g.seg g.seg []
  let d := k.segs.foldl seg d
  if !wantsNorm a || k.normDone then d
  else if a.pos = 0 then k.others.foldl (fun d p => d.sendRed k rkAbort 0xFF p a.n []) d
  else if k.normSent then d
  else d.sendRed k rkAbort (upLevel a.pos) (a.pos - 2 ^ upLevel a.pos) a.n []

/-- The collective at the head of a channel completes FAILED at once (R291, R421). -/
def Dev.stopColl (d : Dev) (ch : Nat) : Dev :=
  match d.coll ch with
  | none => d
  | some k =>
    match k.coll, k.perm with
    | some a, _ =>
      let d := (d.sendAborts k a).rdErr 0x80
      let d := if k.started then
          let d := (k.segs.filter fun g => g.outcome == 0).foldl (fun d g => d.failSeg ch a g.seg) d
          if wantsNorm a && !k.normDone then d.normEnd ch a none else d
        else d
      (match d.coll ch with
       | none => d
       | some k => d.retireTree ch k a 2 false)
    | none, some a =>
      let d := if k.started then d.tearMissing ch k else d
      (match d.coll ch with
       | none => d
       | some k => d.retirePerm ch k a 2)
    | none, none => d.setChan ch ((d.chan ch).drop 1)

/-- Every collective of the job that has not retired ends (R291). -/
def Dev.endCollectives (d : Dev) : Dev :=
  d.rd.channels.foldl (fun d c => c.2.foldl (fun d _ => d.stopColl c.1) d) d

/-- The count registers of the block at zero (R302). -/
def Reduction.clearCounts (r : Reduction) : Reduction :=
  { r with done := 0, partialCount := 0, late := 0, stale := 0, residueRetry := 0, residueFail := 0, nanSkipped := 0 }

/-- R302: RD_CLEAR_COUNTS. -/
def execRdClearCounts (s : State) : Host.Outcome State Fault Refusal := s.onBar fun d => { d with rd := d.rd.clearCounts }

/-- Clearing RD_CTRL.ENABLE (R303). -/
def Dev.rdDisable (d : Dev) : Dev := ({ d with rd := { d.rd with ctrl := wclr d.rd.ctrl 1 } }).endCollectives

/-- R303: RD_DISABLE. -/
def execRdDisable (s : State) : Host.Outcome State Fault Refusal := s.onBar fun d => d.rdDisable

end Sys2Proof.Machine
end

