-- ==== Sys2Proof/Machine/JobStop.lean ====
section
/-! DEFINITION. The job stop (R108), the end of a job (R354, R377, R380, R444) and what resets at unload (R169, R365, R366, R405). -/

namespace Sys2Proof.Machine

open Sys2Proof

/-- The halt that a job stop gives the cores that have not halted (R105, R108). -/
def stopHalt (primary : Nat) : HaltInfo := { reason := rHostHalt, source := 1, unit := 5, d0 := primary }

/-- The halt that a host descriptor gives (R105). -/
def hostHaltInfo : HaltInfo := { reason := rHostHalt, source := 2, unit := 5 }

/-- The job is marked as stopped (R108). -/
def Dev.markStopped (d : Dev) : Dev :=
  let stop (j : Job) : Job := { j with stopped := true }
  { d with job := d.job.map stop }

/-- The job stop (R108): every other core halts, and the collectives of the job end (R291). After a DEVICE_FATAL detection, which has halted
the cores (R548), the collectives still have to end. -/
def Dev.jobStop (d : Dev) : Dev :=
  match d.job with
  | none => d
  | some j =>
    match j.primary with
    | none => if d.er.fatal then d.endCollectives else d
    | some p =>
      if j.stopped then d
      else (((d.haltAll (stopHalt p)).stopSwaps.markStopped).endCollectives).jobCheck

/-- R108: JOB_STOP. -/
def execJobStop (s : State) : Host.Outcome State Fault Refusal := s.onDev fun d => d.jobStop

/-- A DEVICE_FATAL detection of the firmware, with the job stop that it is (R105, R291, R548). -/
def Dev.fatalStop (d : Dev) (det : Nat) (inj : Bool) (d0 : Nat) : Dev := (d.deviceFatal det inj d0).endCollectives

/-- A JOB_HALT of the running job (R445): cores that have not halted halt with SOURCE 2. After a primary halt the job stops
under R106 all the same. -/
def Dev.hostStop (d : Dev) (primary : Bool) : Dev :=
  let d := (d.haltAll hostHaltInfo).stopSwaps
  let stop (j : Job) : Job := { j with hostHalt := !primary, stopped := j.stopped || primary }
  let d := { d with job := d.job.map stop }
  if primary then d.endCollectives else d

/-- Whether a descriptor waits for an UPDATE: one runs that does not itself wait for that descriptor (R483). -/
def Dev.updateBlocks (d : Dev) (n slot : Nat) : Bool := d.trust.update.elim false fun u => !u.waiting.contains (n, slot)

/-- The steps of an UPDATE begin once it waits for no descriptor (R483). -/
def UpdateSt.start (u : UpdateSt) (now : Nat) : UpdateSt :=
  if u.waiting.isEmpty then { u with begun := some (u.begun.getD now) } else u

/-- An UPDATE waits no longer for a JOB_LOAD or JOB_UNLOAD that has completed (R483). -/
def Dev.updateGoesOn (d : Dev) : Dev :=
  let live (x : Nat × Nat) : Bool :=
    (d.ring x.1).descs.any fun y => y.started && y.slot == x.2 && (y.opcode == 1 || y.opcode == 4)
  let keep (u : UpdateSt) : UpdateSt := { u with waiting := u.waiting.filter live }
  { d with trust := { d.trust with update := d.trust.update.map fun u => (keep u).start d.now } }

/-- Whether the job still runs: started, with its JOB_START outstanding (R444, R445). -/
def Job.runs (j : Job) : Bool := j.started && j.start.isSome

/-- The outstanding descriptors of a ring that an unload ends: a host ALLOC that waits, and a WELL_CMD under way. -/
def Dev.jobDescs (d : Dev) : List (Nat × Nat) :=
  d.depot.waits.filterMap (·.host) ++
    d.wells.cmds.filterMap fun k => match k.origin with | .host r s => some (r, s) | .core .. => none

/-- A core as the next job finds it; a swap under way goes on. -/
def CoreSt.unloaded (s : CoreSt) : CoreSt := { CoreSt.reset with frozen := s.frozen }

/-- The fabric block after an unload (R377, R380, R405). Outstanding requests answer to nobody. -/
def Fabric.unload (f : Fabric) : Fabric :=
  let dead (o : OutReq) : OutReq := { o with use := .dead }
  { f with ctrl := wclr f.ctrl 1, jobId := 0, ranks := [], windows := [], outs := f.outs.map dead, stalled := [], streams := [],
           dir := [], recalls := [], lostLines := [], cohPeers := [], probes := [] }

/-- The Depot after an unload: reset, but for the generations of its slots (R346, R354, R365). Every live buffer is freed. -/
def Dev.depotUnload (d : Dev) : Dev :=
  let d := (d.depot.bufs.map (·.slot)).foldl (fun d s => d.freeSlotNow s) d
  { d with depot := { Depot.reset with gens := d.depot.gens } }

/-- Everything of the job is gone (R354, R377, R380, R444). Host descriptors that belong to it complete ABORTED first, and the rounds
still open end as BZ_CTRL.ENABLE clears (R233, R238). -/
def Dev.unloadJob (d : Dev) : Dev :=
  match d.job with
  | none => d
  | some _ =>
    let d := d.jobDescs.foldl (fun d x => d.putRecord x.1 x.2 stAborted 0 0 0 0) d
    let d := d.bz.rounds.foldl (fun d r => d.endRound r) d
    let d := d.endCollectives
    let d := d.depotUnload
    let forJob (h : HostUse) : Bool := match h with | .spill .. | .fetch _ | .tear .. => true | _ => false
    { d with
      job := none, cores := d.cores.map CoreSt.unloaded, queues := [], inflight := [],
      lists := [⟨[], [], []⟩, ⟨[], [], []⟩], accepted := [], place := Placement.reset,
      wells := { d.wells with ctrl := wclr d.wells.ctrl 1, cmds := [], versions := [], holds := [], folds := [], zeroed := [] },
      bz := { d.bz with ctrl := wclr d.bz.ctrl 1, rounds := [], waits := [] },
      rd := { d.rd with ctrl := wclr d.rd.ctrl 1, channels := [], held := [], heldTiles := [], closed := [] },
      fx := d.fx.unload, scale := ScaleRegs.reset,
      host := { d.host with reads := d.host.reads.filter fun r => !forJob r.use,
                            queued := d.host.queued.filter fun q => !forJob q.2.2, fetched := [], fetchBad := [] },
      boot := { d.boot with st := if d.boot.st = 5 then 4 else d.boot.st } }

end Sys2Proof.Machine
end

