-- ==== Sys2Proof/Machine/HostCmds.lean ====
section
/-! DEFINITION. The meanings of the host interface's commands: doorbells and rings (R435 to R441), the descriptors (R444, R445,
R447), interrupts (R455), Function Level Reset (R428), BAR2 (R430), and completions of host reads (R426). -/

namespace Sys2Proof.Machine

open Sys2Proof

/-! ## Doorbells and rings -/

/-- A ring faults; the first fault stays (R437, R439, R440). -/
def Ring.fault (r : Ring) (code : Nat) : Ring := { r with faultCode := if r.faultCode = 0 then code else r.faultCode }

/-- A doorbell of a disabled ring (R436). -/
def Dev.dropDoorbell (d : Dev) : Dev := { d with host := { d.host with dbDrops := sat32 (d.host.dbDrops + 1) } }

/-- A write of SQ_TAIL (R436, R437). -/
def Dev.sqTail (d : Dev) (n value : Nat) : Dev :=
  if n ≥ 512 then d
  else
    let r := d.ring n
    let v := value % 65536
    if !r.enabled then d.dropDoorbell
    else if v ≥ r.sqSize then d.setRing ({ r with sqTail := v }.fault 2)
    else (d.setRing { r with sqTail := v }).pumpRings

/-- R437: SQ_TAIL. -/
def execSqTail (ring value : Nat) (s : State) : Host.Outcome State Fault Refusal := s.onBar fun d => d.sqTail ring value

/-- A write of CQ_HEAD frees the slots that it passes (R439, R453). -/
def Dev.cqHead (d : Dev) (n value : Nat) : Dev :=
  if n ≥ 512 then d
  else
    let r := d.ring n
    let v := value % 65536
    if !r.enabled then d.dropDoorbell
    else if v ≥ r.cqSize then d.setRing ({ r with cqHead := v }.fault 3)
    else
      let passed := (v + r.cqSize - r.cqHead % r.cqSize) % r.cqSize
      (d.setRing { r with cqHead := v, cqUsed := r.cqUsed - passed }).pumpRings

/-- R439: CQ_HEAD. -/
def execCqHead (ring value : Nat) (s : State) : Host.Outcome State Fault Refusal := s.onBar fun d => d.cqHead ring value

/-- Whether a ring's set-up keeps the limits of R435. -/
def Ring.setUpOk (r : Ring) : Bool :=
  decide (6 ≤ r.sqLog) && decide (r.sqLog ≤ 16) && decide (6 ≤ r.cqLog) && decide (r.cqLog ≤ 16) && decide (r.sqLog ≤ r.cqLog) &&
    decide (r.sqBase % 4096 = 0) && decide (r.cqBase % 4096 = 0)

/-- The fields of RINGn_CTRL (R457). -/
def ringCtrlMask : Word32 := 0x07FF0003#32

/-- A write of RINGn_CTRL with ENABLE = 1 (R435, R440, R451, R457). -/
def Dev.ringEnable (d : Dev) (n : Nat) (ctrl : Word32) : Dev :=
  if n ≥ 512 || d.boot.st < 4 then d
  else
    let r := { d.ring n with ctrl := (ctrl ||| 1#32) &&& ringCtrlMask }
    if r.enabled then d.setRing r
    else if !r.setUpOk then d.setRing { r with faultCode := 1 }
    else
      let stale (x : HostRead) : Bool := match x.use with | .desc m _ => m == n | .args m _ => m == n | _ => false
      let r := { r with enabled := true, draining := false, faultCode := 0, sqHead := 0, cqTail := 0, phase := true, sqTail := 0,
                        cqHead := 0, cqUsed := 0, fetch := 0, descs := [] }
      { d with host := { d.host with reads := d.host.reads.filter fun x => !stale x } }.setRing r

/-- R435: RING_ENABLE. -/
def execRingEnable (ring : Nat) (ctrl : Word32) (s : State) : Host.Outcome State Fault Refusal :=
  s.onBar fun d => d.ringEnable ring ctrl

/-- A write of RINGn_CTRL with ENABLE = 0 (R441). -/
def Dev.ringDisable (d : Dev) (n : Nat) (ctrl : Word32) : Dev :=
  if n ≥ 512 then d
  else
    let r := { d.ring n with ctrl := ctrl &&& ringCtrlMask &&& ~~~1#32 }
    d.setRing (if r.enabled then ({ r with draining := true } : Ring).settleDrain else r)

/-- R441: RING_DISABLE. -/
def execRingDisable (ring : Nat) (ctrl : Word32) (s : State) : Host.Outcome State Fault Refusal :=
  s.onBar fun d => d.ringDisable ring ctrl

/-! ## Descriptors -/

/-- Whether the work of a started descriptor is under way. -/
def Dev.descBusy (d : Dev) (n slot : Nat) : Bool :=
  (d.job.elim false fun j => j.start == some (n, slot) || j.halters.any fun h => h.1 == n && h.2.1 == slot) ||
    (d.jobDescs.contains (n, slot)) ||
    (d.host.reads.any fun r => r.use == .copy n slot) || d.host.queued.any fun q => q.2.2 == .copy n slot

/-- The oldest started descriptor of a ring with an opcode whose argument block is in and whose work has not begun. -/
def Dev.nextDesc (d : Dev) (n opcode : Nat) : Option Desc :=
  (d.ring n).descs.find? fun x =>
    x.started && x.opcode == opcode && (x.argLen == 0 || x.args.isSome) && !d.descBusy n x.slot

/-- A descriptor completes REJECTED (R449, R450). -/
def Dev.rejectDesc (d : Dev) (n slot reason detail : Nat) : Dev := d.finishDesc n slot stRejected reason 0 detail 0

/-- R444: NOP. -/
def execNop (ring : Nat) (s : State) : Host.Outcome State Fault Refusal :=
  s.onDev fun d => match d.nextDesc ring 0 with
    | none => d
    | some x => d.finishDesc ring x.slot stOk 0 0 0 0

/-- The cores with a control routine start it (R71, R445). -/
def Dev.startCores (d : Dev) (cs : List Nat) : Dev :=
  let run (s : CoreSt) : CoreSt := { s with cc := .running }
  cs.foldl (fun d c => d.setCore c run) d

/-- JOB_START (R445). A job without a control routine ends at once. -/
def Dev.jobStart (d : Dev) (n : Nat) : Dev :=
  match d.nextDesc n 2 with
  | none => d
  | some x =>
    match d.job with
    | none => d.rejectDesc n x.slot 0x03 0
    | some j =>
      if j.started then d.rejectDesc n x.slot 0x14 0
      else
        let j : Job := { j with started := true, start := some (n, x.slot) }
        let cs : List Nat := j.prog.cores.map fun p => p.core
        let d : Dev := { d with job := some j }
        (d.startCores cs).jobCheck

/-- R445: JOB_START. -/
def execJobStart (ring : Nat) (s : State) : Host.Outcome State Fault Refusal := s.onDev fun d => d.jobStart ring

/-- JOB_HALT (R445): it completes once every core has halted, with the cores that it halted. -/
def Dev.jobHalt (d : Dev) (n : Nat) : Dev :=
  match d.nextDesc n 3 with
  | none => d
  | some x =>
    match d.job with
    | none => d.rejectDesc n x.slot 0x03 0
    | some j =>
      if !j.runs then d.finishDesc n x.slot stOk 0 0 0 0
      else
        let first := !(j.hostHalt || j.stopped)
        let count := if first then d.liveCores else 0
        let d := if first then d.hostStop j.primary.isSome else d
        let wait (j : Job) : Job := { j with halters := j.halters ++ [(n, x.slot, count)] }
        ({ d with job := d.job.map wait }).jobCheck

/-- R445: JOB_HALT. -/
def execJobHalt (ring : Nat) (s : State) : Host.Outcome State Fault Refusal := s.onDev fun d => d.jobHalt ring

/-- JOB_UNLOAD (R444, R483): a running job is stopped first; a core frozen by a swap is waited for, and so is an UPDATE. -/
def Dev.jobUnload (d : Dev) (n : Nat) : Dev :=
  match d.nextDesc n 4 with
  | none => d
  | some x =>
    if d.updateBlocks n x.slot then d
    else match d.job with
    | none => d.rejectDesc n x.slot 0x03 0
    | some j =>
      let d := if j.runs && !(j.hostHalt || j.stopped) then (d.hostStop j.primary.isSome).jobCheck else d
      if d.job.elim false (·.runs) then d
      else (d.unloadJob).finishDesc n x.slot stOk 0 0 0 0

/-- R444: JOB_UNLOAD. -/
def execJobUnload (ring : Nat) (s : State) : Host.Outcome State Fault Refusal :=
  s.onDev fun d => (d.jobUnload ring).updateGoesOn

/-! ### COPY -/

/-- The operands of COPY (R444): host address, device address, length, direction. -/
def Desc.copyHost (x : Desc) : Nat := fieldAt x.bytes 24 8
def Desc.copyDev (x : Desc) : Nat := fieldAt x.bytes 32 8
def Desc.copyLen (x : Desc) : Nat := fieldAt x.bytes 40 8
def Desc.copyDir (x : Desc) : Nat := fieldAt x.bytes 48 1

/-- The byte offset of the first operand of COPY outside its limits, if any (R444, R450). -/
def copyBad (g : Grade) (x : Desc) : Option Nat :=
  if !inJobMem g x.copyDev x.copyLen then some 32
  else if x.copyLen % 32 ≠ 0 || x.copyLen > 2 ^ 36 then some 40
  else if x.copyDir > 1 then some 48
  else none

/-- The bytes of a COPY that lie in one device line from an offset on. -/
def Desc.copyPiece (x : Desc) : Nat := min (2048 - (x.copyDev + x.off) % 2048) (x.copyLen - x.off)

/-- The index of the device line at the offset that a COPY has reached (R444). -/
def Desc.copyLine (x : Desc) : Nat := (x.copyDev + x.off) / 2048 - x.copyDev / 2048

/-- The end of a COPY (R444, R545). -/
def Dev.endCopy (d : Dev) (n : Nat) (x : Desc) : Dev :=
  match x.failLine with
  | none => d.finishDesc n x.slot stOk 0 x.good 0xFFFFFFFF 0
  | some l => d.finishDesc n x.slot (if x.good = 0 then stFailed else stPartial) 0x21 x.good l x.errSeq

/-- A piece of a COPY is done; a failed one is noted with its line and its error record. -/
def Desc.copied (x : Desc) (ok : Bool) (seq : Nat) : Desc :=
  if ok then { x with off := x.off + x.copyPiece, good := x.good + x.copyPiece }
  else { x with off := x.off + x.copyPiece, failLine := some (x.failLine.getD x.copyLine),
                errSeq := if x.errSeq = 0 then seq % 65536 else x.errSeq }

/-- The next host read of a COPY to the device, or its end. -/
def Dev.copyNext (d : Dev) (n slot : Nat) : Dev :=
  match (d.ring n).descs.find? fun x => x.started && x.slot == slot with
  | none => d
  | some x => if x.off ≥ x.copyLen then d.endCopy n x
    else d.askOrQueue (x.copyHost + x.off) x.copyPiece (.copy n slot)

/-- The lines of a COPY from the device (R545): an unreadable one goes out as poisoned TLPs. -/
def Dev.copyOut (d : Dev) (n : Nat) (x : Desc) : Nat → Dev × Desc
  | 0 => (d, x)
  | fuel + 1 =>
    if x.off ≥ x.copyLen then (d, x)
    else match d.readAcross 0 (reqCopy n) (x.copyDev + x.off) x.copyPiece with
      | (some bs, d) => (d.emit (.hostWrite (x.copyHost + x.off) bs)).copyOut n (x.copied true 0) fuel
      | (none, d) => (d.emit (.poisonedWrite (x.copyHost + x.off) x.copyPiece)).copyOut n (x.copied false d.er.seq) fuel

/-- COPY (R444). -/
def Dev.copyOp (d : Dev) (n : Nat) : Dev :=
  match d.nextDesc n 5 with
  | none => d
  | some x =>
    match copyBad d.grade x with
    | some off => d.rejectDesc n x.slot 0x02 off
    | none =>
      if x.copyDir = 0 then d.copyNext n x.slot
      else
        let r := d.copyOut n x (x.copyLen / 32 + 1)
        r.1.endCopy n r.2

/-- R444: COPY. -/
def execCopy (ring : Nat) (s : State) : Host.Outcome State Fault Refusal := s.onDev fun d => d.copyOp ring

/-! ### ALLOC and RELEASE -/

/-- The operands of a host ALLOC (R444). -/
def hostAllocArgs (x : Desc) : AllocArgs :=
  { pool := fieldAt x.bytes 24 1, bytes := fieldAt x.bytes 32 8, fmt := fmtOf (fieldAt x.bytes 25 1), well := fieldAt x.bytes 26 1,
    alignWith := BitVec.ofNat 64 (fieldAt x.bytes 40 8), result := none }

/-- A host ALLOC (R349, R350, R444). -/
def Dev.hostAlloc (d : Dev) (n : Nat) : Dev :=
  match d.nextDesc n 6 with
  | none => d
  | some x =>
    let a := hostAllocArgs x
    if d.job.isNone then d.rejectDesc n x.slot 0x03 0
    else if fieldAt x.bytes 25 1 ≠ 0 && a.fmt.isNone then d.rejectDesc n x.slot 0x02 25
    else match d.allocCheck a with
      | .error (_, k) => d.countInvalid.rejectDesc n x.slot 0x0F k
      | .ok _ =>
        let wait (d : Dev) : Dev := let (id, d) := d.fresh; d.waitAlloc id a (some (n, x.slot))
        if d.behind d.depot.waits a.pool then wait d
        else match d.allocTry a with
          | none => wait d
          | some (b, d) => d.finishDesc n x.slot stOk 0 (d.handleOf b).toNat 0 0

/-- R444: HOST_ALLOC. -/
def execHostAlloc (ring : Nat) (s : State) : Host.Outcome State Fault Refusal := s.onDev fun d => d.hostAlloc ring

/-- The handles of a host RELEASE (R444); ZERO marks unused slots. -/
def releaseHandles (x : Desc) : List Word64 :=
  ((List.range 5).map fun i => BitVec.ofNat 64 (fieldAt x.bytes (24 + 8 * i) 8)).filter (· != 0)

/-- The first check that a list of releases fails (R348, R351): a handle named more often than it has references fails check 4. -/
def Dev.releaseCheck (d : Dev) (hs : List Word64) : Option Nat :=
  hs.findSome? fun h => match d.countCheck h false with
    | .error k => some k
    | .ok b => if hs.count h > b.refs then some 4 else none

/-- A host RELEASE (R351, R444, R454). -/
def Dev.hostRelease (d : Dev) (n : Nat) : Dev :=
  match d.nextDesc n 7 with
  | none => d
  | some x =>
    let hs := releaseHandles x
    if d.job.isNone then d.rejectDesc n x.slot 0x03 0
    else match d.releaseCheck hs with
      | some k => d.countInvalid.rejectDesc n x.slot 0x0F k
      | none =>
        let d := hs.foldl (fun d h => d.release (unpackHandle h).slot.toNat) d
        d.finishDesc n x.slot stOk 0 0 hs.length 0

/-- R444: HOST_RELEASE. -/
def execHostRelease (ring : Nat) (s : State) : Host.Outcome State Fault Refusal := s.onDev fun d => d.hostRelease ring

/-! ### WELL_CMD -/

/-- Slot i of an argument block (R447). -/
def argSlot (args : List Byte) (i : Nat) : Nat := fieldAt args (32 + 8 * i) 8

/-- The format of a buffer as its record has it, FP32 when it has none (R347). -/
def Dev.bufFmt (d : Dev) (h : Word64) : Fmt := (((d.depot.buf (unpackHandle h).slot.toNat).bind (·.fmt))).getD .fp32

/-- The bytes of the buffer that a handle names; 0 when it names none. -/
def Dev.bufBytes (d : Dev) (h : Word64) : Nat := ((d.depot.buf (unpackHandle h).slot.toNat).map (·.bytes)).getD 0

/-- A REQUANT layout from slot i on, and the next slot; or the slot of a code that has no meaning. -/
def layoutArg (args : List Byte) (i : Nat) : Except Nat (TensorLayout × Nat) :=
  let w (j : Nat) : Word64 := BitVec.ofNat 64 (argSlot args j)
  match argSlot args i with
  | 0 => match fmtOf (argSlot args (i + 2)) with
    | some f => .ok (.tiled (w (i + 1)) f, i + 3)
    | none => .error (i + 2)
  | 1 => match fmtOf (argSlot args (i + 4)) with
    | some f => .ok (.raw (w (i + 1)) (argSlot args (i + 2)) (argSlot args (i + 3)) f, i + 5)
    | none => .error (i + 4)
  | 2 =>
    let fs : List MxFmt := [.mxfp8e4m3, .mxfp8e5m2, .mxfp4, .mxint8, .mxfp6e2m3, .mxfp6e3m2]
    match fs[argSlot args (i + 5)]?, argSlot args (i + 6) with
    | none, _ => .error (i + 5)
    | some f, 0 => .ok (.mx (w (i + 1)) (w (i + 2)) (argSlot args (i + 3)) (argSlot args (i + 4)) f false, i + 7)
    | some f, 1 => .ok (.mx (w (i + 1)) (w (i + 2)) (argSlot args (i + 3)) (argSlot args (i + 4)) f true, i + 7)
    | some _, _ => .error (i + 6)
  | _ => .error i

/-- The operands of REQUANT from its slots (R322, R447), with RECORD. -/
def Dev.requantArg (d : Dev) (args : List Byte) : Except Nat (WellOp × Nat) :=
  match layoutArg args 0 with
  | .error i => .error i
  | .ok (src, i) => match layoutArg args i with
    | .error i => .error i
    | .ok (dst, j) => match fmtOf (argSlot args j) with
      | none => .error j
      | some t =>
        let e := argSlot args (j + 1)
        let entry : Option ScaleRef := if fmtScaled t then some ⟨e % 65536, e / 65536 % 65536⟩ else none
        let tiles := match src with | .tiled h f => d.bufBytes h / tileTotal f | _ => 0
        if argSlot args (j + 2) > 1 then .error (j + 2)
        else .ok (.requant src dst t entry (argSlot args (j + 2) == 1) (argSlot args (j + 3) % 2 ^ 32) tiles tiles, j + 4)

/-- The operation of a WELL_CMD with the slot of its RECORD (R309, R447); or the slot of a code that has no meaning. The slots
of SUMSQ begin with the number of buffers, and each buffer takes its handle and its tiles, as in R272. -/
def Dev.wellArg (d : Dev) (code : Nat) (args : List Byte) : Except Nat (WellOp × Nat) :=
  let a (i : Nat) : Nat := argSlot args i
  let w (i : Nat) : Word64 := BitVec.ofNat 64 (a i)
  let opt (i : Nat) : Option Nat := if a i = 0 then none else some (a i)
  match code with
  | 1 => .ok (.optUpdate (a 0) (a 1 % 2 ^ 32) (w 2) (opt 3) (opt 4), 5)
  | 2 =>
    let k := min (a 0) 257
    .ok (.sumsq ((List.range k).map fun i => (w (1 + 2 * i), d.bufFmt (w (1 + 2 * i)), a (2 + 2 * i))) (a (1 + 2 * k)), 2 + 2 * k)
  | 3 => d.requantArg args
  | 4 => match a 0 with
    | 0 =>
      let rows := a 2
      .ok (.scatterRows (w 1) (w 3) (w 4) rows (a 5) (d.bufBytes (w 1) / tileTotal .fp32 / max 1 (ceilDiv rows 32)), 6)
    | 1 =>
      let f : FoldArgs :=
        { group := a 1, expert := if a 2 = 2 ^ 64 - 1 then none else some (a 2), iter := a 3, microBatch := a 4, use := a 5,
          chunk := a 6, last := a 7 == 1, rows := a 8, part := if a 9 = 0 then none else some (w 9) }
      if a 7 > 1 then .error 7 else .ok (.fold f, 10)
    | _ => .error 0
  | 5 =>
    let b := d.bufBytes (w 0)
    match a 1 with
    | 0 => .ok (.fill (w 0) 0 b .zero, 2)
    | 1 => .ok (.fill (w 0) 0 b (.word (a 2 % 2 ^ 32)), 3)
    | 2 => match fmtOf (a 2) with
      | some f => .ok (.fill (w 0) 0 b (.tiles f (a 3) (a 4)), 5)
      | none => .error 2
    | _ => .error 1
  | _ => .ok (.scrub (a 0) (a 1), 2)

/-- The byte offset of the first field of an argument block of WELL_CMD outside its limits, if any (R447, R450). -/
def wellArgBad (g : Grade) (args : List Byte) : Option Nat :=
  let code := fieldAt args 1 1
  if !(presentWells g).contains (fieldAt args 0 1) then some 0x100
  else if code = 0 || code > 6 then some 0x101
  else (((List.range 30).map (· + 2)).find? fun i => fieldAt args i 1 != 0).map (· + 0x100)

/-- WELL_CMD (R304, R444, R447). -/
def Dev.wellCmdOp (d : Dev) (n : Nat) : Dev :=
  match d.nextDesc n 8 with
  | none => d
  | some x =>
    let args := x.args.getD []
    if d.job.isNone then d.rejectDesc n x.slot 0x03 0
    else match wellArgBad d.grade args with
      | some off => d.rejectDesc n x.slot 0x02 off
      | none => match d.wellArg (fieldAt args 1 1) args with
        | .error i => d.rejectDesc n x.slot 0x02 (0x100 + 32 + 8 * i)
        | .ok (op, i) =>
          if 32 + 8 * (i + 1) > args.length then d.rejectDesc n x.slot 0x02 2
          else d.acceptWell (.host n x.slot) (fieldAt args 0 1) (BitVec.ofNat 64 (argSlot args i)) op false

/-- R447: WELL_CMD. -/
def execWellCmd (ring : Nat) (s : State) : Host.Outcome State Fault Refusal := s.onDev fun d => d.wellCmdOp ring

/-! ## Interrupts -/

/-- The rings that name a vector and have records that it has not signalled (R455). -/
def Dev.unsignalled (d : Dev) (v : Nat) : List Ring := d.host.rings.filter fun r => r.vector == v && decide (r.unsignalled > 0)

/-- INT_TIMER of a ring passes after the first unsignalled record of its vector (R455). -/
def Dev.intTimer (d : Dev) (n : Nat) : Dev :=
  let r := d.ring n
  match (d.unsignalled r.vector).map (·.firstAt) with
  | [] => d
  | t :: ts =>
    let us := r.intMod.toNat / 65536
    if us = 0 then d
    else
      let first := ts.foldl min t
      (d.advanceTo (first + 1000 * us)).fireRing r.vector

/-- R455: INT_TIMER. -/
def execIntTimer (ring : Nat) (s : State) : Host.Outcome State Fault Refusal := s.onDev fun d => d.intTimer ring

/-- A vector is unmasked; one that was pending fires (R455). -/
def Dev.unmask (d : Dev) (v : Nat) : Dev :=
  let e := d.msixEntry v
  let d := d.setMsix { e with mask := false, pend := false }
  if e.pend then d.emit (.msix v) else d

/-- R455: MSIX_UNMASK. -/
def execMsixUnmask (vector : Nat) (s : State) : Host.Outcome State Fault Refusal :=
  s.onBar fun d => if vector < 2048 then d.unmask vector else d

/-! ## Function Level Reset -/

/-- The error ring after a Function Level Reset (R542, R553): pending records are dropped and counted. -/
def Errors.flr (e : Errors) : Errors :=
  { e with ringLo := 0, ringHi := 0, ringCtrl := 6, head := 0, tail := 0, used := 0, phase := false, overflow := false,
           lost := sat32 (e.lost + e.pending.length), pending := [] }

/-- The host interface after a Function Level Reset (R428): reads for rings are forgotten. -/
def Dev.resetHost (d : Dev) : Dev := { d with host := HostIf.reset, er := d.er.flr }

/-- A Function Level Reset (R428). -/
def Dev.flr (d : Dev) : Dev :=
  let d := { d with host := { d.host with rings := [] } }
  let d := if d.job.elim false (fun j => j.runs && !(j.hostHalt || j.stopped)) then d.hostStop false else d
  (d.unloadJob).resetHost

/-- R428: FLR. -/
def execFlr (s : State) : Host.Outcome State Fault Refusal := s.onHost fun d => d.flr.updateGoesOn

/-! ## BAR2 -/

/-- The device address at a BAR2 offset (R430). -/
def Dev.bar2Addr (d : Dev) (off : Nat) : Nat := d.host.bar2Lo.toNat + d.host.bar2Hi.toNat * 2 ^ 32 + off

/-- AER entries of the host's accesses: an uncorrectable error under a read, a Completer Abort of a write (R427, R430). -/
def aerPoisoned : Nat := 1
def aerAbort : Nat := 2

/-- An access waits for held lines, behind those that came before it (R332, R484). -/
def Dev.holdIo (d : Dev) (x : HeldIo) : Dev := { d with wells := { d.wells with heldIo := d.wells.heldIo ++ [x] } }

/-- A read through BAR2 (R427, R430, R465, R545). Copies of coherent lines held for writing are recalled first (R395). -/
def Dev.bar2Read (d : Dev) (off len : Nat) : Dev :=
  let a := d.bar2Addr off
  if !d.boot.served || !inJobMem d.grade a len then d.emit (.bar2 .abort [])
  else if d.heldAt a len then d.holdIo (.bar2Read off len)
  else match d.localConflicts false (.mem [(a, len)]) with
    | x :: xs => (x :: xs).foldl (fun d x => d.sendInvalidate x.1 x.2) d
    | [] =>
      if d.inCoh a len && d.lostIn a len then (d.emit (.bar2 .poisoned [])).emit (.aer aerPoisoned)
      else match d.readAcross 0 reqHost a len with
        | (some bs, d) => d.emit (.bar2 .ok bs)
        | (none, d) => (d.emit (.bar2 .poisoned [])).emit (.aer aerPoisoned)

/-- R430: BAR2_READ. -/
def execBar2Read (off len : Nat) (s : State) : Host.Outcome State Fault Refusal := s.onHost fun d => d.bar2Read off len

/-- A write through BAR2 (R430). -/
def Dev.bar2Write (d : Dev) (off : Nat) (data : List Byte) : Dev :=
  let a := d.bar2Addr off
  if !d.boot.served || !inJobMem d.grade a data.length then d.emit (.aer aerAbort)
  else if d.heldAt a data.length then d.holdIo (.bar2Write off data)
  else match d.localConflicts true (.mem [(a, data.length)]) with
    | x :: xs => (x :: xs).foldl (fun d x => d.sendInvalidate x.1 x.2) d
    | [] => d.writeAcross 0 a data

/-- R430: BAR2_WRITE. -/
def execBar2Write (off : Nat) (data : List Byte) (s : State) : Host.Outcome State Fault Refusal :=
  s.onHost fun d => d.bar2Write off data

/-- The accesses that waited for held lines are served in their order; those that still meet one wait on (R332, R484). -/
def Dev.serveHeld (d : Dev) : Dev :=
  let one (d : Dev) (x : HeldIo) : Dev := match x with
    | .bar2Read off len => d.bar2Read off len
    | .bar2Write off data => d.bar2Write off data
    | .request port p => d.serveRequest port p
  d.wells.heldIo.foldl one { d with wells := { d.wells with heldIo := [] } }

/-- What the block does with no command waiting: a nanosecond passes, and accesses whose lines are no longer held are served. -/
def Dev.tick (d : Dev) : Dev := d.idle.serveHeld

/-- R332: a repair ends, and the traffic that waited is served (R310). -/
def execChannelRepairEnd (well : Nat) (s : State) : Host.Outcome State Fault Refusal :=
  s.onDev fun d => (d.setWell well fun w => { w with retraining := false, sparing := false, laneRepair := false }).serveHeld

/-! ## Completions of host reads -/

/-- DETAIL0 of PCIE_READ (R537). -/
def pcieCode : PcieStatus → Nat
  | .ok => 0 | .unsupported => 1 | .abort => 2 | .poisoned => 3 | .timeout => 4

/-- Reads that waited for a tag go out while tags are free (R424). -/
def Dev.askQueued (d : Dev) : Dev :=
  let qs := d.host.queued
  qs.foldl (fun d q => d.askOrQueue q.1 q.2.1 q.2.2) { d with host := { d.host with queued := [] } }

/-- The data of a host read reaches what asked for it (R438, R443, R444, R253). -/
def Dev.hostData (d : Dev) (r : HostRead) (data : List Byte) : Dev :=
  match r.use with
  | .desc n slot => (d.setDesc n slot fun x => if x.bytes.isEmpty then { x with bytes := data } else x).pumpRings
  | .args n slot => (d.setDesc n slot fun x => { x with args := some data }).pumpRings
  | .copy n slot =>
    match (d.ring n).descs.find? fun x => x.started && x.slot == slot with
    | none => d
    | some x => ((d.writeAcross 0 (x.copyDev + x.off) data).setDesc n slot fun x => x.copied true 0).copyNext n slot
  | .spill rd place => d.giveInput rd place data
  | .fetch _ => { d with host := d.host.arrive r.addr data }
  | .tear a n => ({ d with host := d.host.arrive r.addr data } : Dev).tearSpilled a n

/-- A host read failed: what that means for the requester (R253, R440, R443, R444). -/
def Dev.hostFailed (d : Dev) (r : HostRead) : Dev :=
  let seq := d.er.seq
  match r.use with
  | .desc n _ => d.setRing ((d.ring n).fault 4)
  | .args n slot => d.finishDesc n slot stRejected 0x10 0 0 (seq % 65536)
  | .copy n slot => (d.setDesc n slot fun x => x.copied false seq).copyNext n slot
  | .spill (.eng c u) _ => d.haltCmd c u (d.busHalt u r.addr)
  | .spill (.acc id) place => d.failInput (.acc id) place r.len
  | .fetch _ | .tear .. => { d with host := d.host.miss r.addr r.len }

/-- A host read ends: its tag is free again; a failure is recorded as PCIE_READ (R426, R537). -/
def Dev.endHostRead (d : Dev) (r : HostRead) (st : PcieStatus) (inj : Bool) (data : List Byte) : Dev :=
  let d := { d with host := { d.host with reads := d.host.reads.filter fun x => x.tag != r.tag } }.askQueued
  if st = .ok then d.hostData r data
  else (d.detect (detId 0x38 0) 1 inj (some r.addr) (pcieCode st) 0 0).hostFailed r

/-- A completion with a tag (R426); data of another length than was asked for belongs to no request. -/
def Dev.pcieCompletion (d : Dev) (tag : Nat) (st : PcieStatus) (data : List Byte) : Dev :=
  match d.host.reads.find? fun r => r.tag == tag with
  | none => d
  | some r =>
    if st = .ok then
      if data.length ≠ r.len then d
      else
        let (m, d) := d.mimic (detId 0x38 0)
        if m then d.endHostRead r .timeout true [] else d.endHostRead r .ok false data
    else d.endHostRead r st false []

/-- R426: PCIE_COMPLETION. -/
def execPcieCompletion (tag : Nat) (st : PcieStatus) (data : List Byte) (s : State) : Host.Outcome State Fault Refusal :=
  s.onDev fun d => d.pcieCompletion tag st data

/-- R426: HOST_READ_TIMEOUT: 50 ms after the read went out. -/
def execHostReadTimeout (tag : Nat) (s : State) : Host.Outcome State Fault Refusal :=
  s.onDev fun d => match d.host.reads.find? fun r => r.tag == tag with
    | none => d
    | some r => (d.advanceTo (r.issued + 50000000)).endHostRead r .timeout false []

end Sys2Proof.Machine
end

