-- ==== Sys2Proof/Machine/JobLoad.lean ====
section
/-! DEFINITION. JOB_LOAD (R446, R575): its checks in order, and what a load that passes them all sets up. -/

namespace Sys2Proof.Machine

open Sys2Proof

/-- Why a load is REJECTED: reason and DETAIL (R450), and whether its newest error record belongs to it. -/
structure LoadErr where
  reason : Nat
  detail : Nat
  recorded : Bool := false
  deriving DecidableEq, Repr

/-- Reasons of R450. -/
def lrField : Nat := 0x02
def lrAbsent : Nat := 0x05
def lrQueue : Nat := 0x06
def lrRoutine : Nat := 0x07
def lrFlag : Nat := 0x08
def lrMgi : Nat := 0x09
def lrMemory : Nat := 0x0A
def lrPool : Nat := 0x0B
def lrOverride : Nat := 0x0C
def lrExport : Nat := 0x0D
def lrRank : Nat := 0x0E
def lrImage : Nat := 0x11
def lrGroup : Nat := 0x13
def lrProgram : Nat := 0x15
def lrImageRead : Nat := 0x16
def lrScale : Nat := 0x17

/-- DETAIL of the table reasons (R450): index and cause. -/
def tableErr (reason idx cause : Nat) (recorded : Bool := false) : LoadErr :=
  { reason := reason, detail := idx % 65536 + cause * 65536, recorded := recorded }

/-! ## The load block (R446, R247) -/

def lbJob (b : List Byte) : Nat := fieldAt b 0 3
def lbEpoch (b : List Byte) : Nat := fieldAt b 4 4
def lbProg (b : List Byte) : Nat := fieldAt b 8 8
def lbLen (b : List Byte) : Nat := fieldAt b 16 4
def lbCrc (b : List Byte) : Nat := fieldAt b 20 4
def lbMgi (b : List Byte) : Nat := fieldAt b 24 2
def lbStash (b : List Byte) : StashDecl :=
  { perMb := fieldAt b 32 8, inFlight := fieldAt b 28 2, spill := (fieldAt b 26 1).testBit 0, ringBase := fieldAt b 40 8,
    ringSize := fieldAt b 48 8 }

/-- The spill ring's size keeps its limits (R247). -/
def ringSizeOk (s : StashDecl) : Bool :=
  if s.spill then decide (s.ringSize % 2 ^ 21 = 0) && decide (2 ^ 21 ≤ s.ringSize) && decide (s.ringSize ≤ 2 ^ 40)
  else s.ringSize == 0

/-- The first field of the load block outside its limits (R446, R247, R377), by its offset. -/
def loadBlockBad (g : Grade) (b : List Byte) : Option Nat :=
  let s := lbStash b
  let bad : List (Nat × Bool) :=
    [(0, lbJob b == 0 || fieldAt b 3 1 != 0), (8, lbProg b % 2048 != 0 || !inJobMem g (lbProg b) (max 1 (lbLen b))),
     (16, decide (lbLen b < 32) || decide (lbLen b > 2 ^ 28)), (26, decide (fieldAt b 26 1 > 1)), (27, fieldAt b 27 1 != 0),
     (28, decide (s.inFlight > 256) || (s.inFlight == 0 && (s.perMb != 0 || s.spill))), (30, fieldAt b 30 2 != 0),
     (32, s.perMb % 2048 != 0 || decide (s.perMb > 2 ^ 38)), (40, s.ringBase % 4096 != 0), (48, !ringSizeOk s),
     (56, fieldAt b 56 8 != 0)]
  (bad.find? (·.2)).map (·.1)

/-! ## Tables in device memory -/

/-- The lines of a range as pieces: (address, bytes). -/
def linePieces (a n : Nat) : List (Nat × Nat) :=
  (linesOf a n).map fun l => (max a (l * 2048), min (a + n) ((l + 1) * 2048) - max a (l * 2048))

/-- A table read line by line for Acwald firmware: the bytes before the first line that cannot be read, and its address. -/
def Dev.readLines (d : Dev) : List (Nat × Nat) → List Byte → (List Byte × Option Nat) × Dev
  | [], acc => ((acc, none), d)
  | (a, n) :: ps, acc =>
    match d.readFor reqFirmware a n with
    | (none, d) => ((acc, some a), d)
    | (some bs, d) => d.readLines ps (acc ++ bs)

/-- A table of `n` records of `size` bytes read whole. The error is that of the first record of an unreadable line (cause 1), or
of record 0 of a table outside job memory; with what could be read before it. -/
def Dev.readTable (d : Dev) (reason base n size : Nat) : (List Byte × Option LoadErr) × Dev :=
  if n = 0 then (([], none), d)
  else if !inJobMem d.grade base (n * size) then (([], some (tableErr reason 0 0)), d)
  else match d.readLines (linePieces base (n * size)) [] with
    | ((bs, none), d) => ((bs, none), d)
    | ((bs, some a), d) => ((bs, some (tableErr reason ((a - base) / size) 1 true)), d)

/-- The first `n` records of a table. -/
def tableRows (size : Nat) : Nat → List Byte → List (List Byte)
  | 0, _ => []
  | n + 1, bs => bs.take size :: tableRows size n (bs.drop size)

/-- The first record of a table that a test names, or the table's own error. -/
def firstBad (bs : List Byte) (size : Nat) (whole : Option LoadErr) (bad : Nat → List Byte → Option LoadErr) : Option LoadErr :=
  ((tableRows size (bs.length / max 1 size) bs).zipIdx.findSome? fun x => bad x.2 x.1).or whole

/-! ## Ranks and windows -/

/-- An entry of the rank table: the fabric ID of a VALID one (R372). -/
def rankEntry (r : List Byte) : Option Nat :=
  let w := leNat r
  if w.testBit 15 then some (w % 8192) else none

/-- The rank table (R372, R373): its entries and the own rank. -/
def Dev.loadRanks (d : Dev) : Except LoadErr (List (Option Nat) × Nat) × Dev :=
  let n := d.fx.rankCount.toNat
  if n = 0 then (.ok ([], 0), d)
  else if n > 8192 then (.error (tableErr lrRank 8192 0), d)
  else
    let base := d.fx.rankLo.toNat + d.fx.rankHi.toNat * 2 ^ 32
    let ((bs, e), d) := d.readTable lrRank base n 2
    let ent (i : Nat) : Option Nat := rankEntry (slice bs (2 * i) 2)
    let bad (i : Nat) (r : List Byte) : Option LoadErr :=
      match rankEntry r with
      | none => none
      | some f =>
        if bits (leNat r) 14 13 ≠ 0 || (List.range i).any fun j => ent j == some f then some (tableErr lrRank i 0) else none
    match firstBad bs 2 e bad with
    | some x => (.error x, d)
    | none =>
      let es := (List.range n).map ent
      match d.fx.fid with
      | none => (.error (tableErr lrRank 0xFFFF 2), d)
      | some f => match es.findIdx? fun x => x == some f with
        | none => (.error (tableErr lrRank 0xFFFF 2), d)
        | some i => (.ok (es, i), d)

/-- A window of the export table (R379). -/
def windowOf (r : List Byte) : Window :=
  { remote := fieldAt r 0 8, size := fieldAt r 8 8, localBase := fieldAt r 16 8, perm := fieldAt r 24 1 % 8 }

/-- The export table (R379): the windows in force. -/
def Dev.loadExports (d : Dev) : Except LoadErr (List Window) × Dev :=
  let n := d.fx.expCount.toNat
  if n = 0 then (.ok [⟨0, memEnd d.grade, 0, 7⟩], d)
  else
    let base := d.fx.expLo.toNat + d.fx.expHi.toNat * 2 ^ 32
    let ((bs, e), d) := d.readTable lrExport base n 32
    let valid (i : Nat) : Bool := (fieldAt bs (32 * i + 24) 1).testBit 7
    let win (i : Nat) : Window := windowOf (slice bs (32 * i) 32)
    let bad (i : Nat) (r : List Byte) : Option LoadErr :=
      let w := windowOf r
      if !valid i then none
      else if w.remote % 2048 ≠ 0 || w.size % 2048 ≠ 0 || w.size < 2048 || w.localBase % 2048 ≠ 0 ||
          bits (fieldAt r 24 1) 6 3 ≠ 0 || fieldAt r 25 7 ≠ 0 || !inJobMem d.grade w.localBase w.size ||
          (List.range i).any fun j => valid j && decide (w.remote < (win j).remote + (win j).size) &&
            decide ((win j).remote < w.remote + w.size) then
        some (tableErr lrExport i 0)
      else none
    match (if n > 32 then some (tableErr lrExport 32 0) else firstBad bs 32 e bad) with
    | some x => (.error x, d)
    | none => (.ok (((List.range n).filter valid).map win), d)

/-! ## The program (R77, R90, R94, R99, R101, R409) -/

/-- Every MGI operation of a program: those of its control routines, then those of its routines. -/
def progOps (p : Program) : List CodeOp := (p.cores.flatMap fun c => c.code) ++ p.routines.flatMap fun r => r.code

/-- The first routine whose index lies outside 0 to 4,095 or is declared already (R91, R94). -/
def routineIndexBad (rs : List RoutineDecl) : Option Nat :=
  (List.range rs.length).find? fun i =>
    (rs[i]?).elim false fun r => decide (r.index > 4095) || (rs.take i).any fun x => x.index == r.index

/-- A field of the program outside its limits, by the part's kind and number (R99): queues, cores, reservations, routines. -/
def programBad (p : Program) : Option (Nat × Nat) :=
  let q := p.queues.findIdx? fun x => decide (x.remoteWaitMs < 1) || decide (x.remoteWaitMs > 60000)
  let c := p.cores.findIdx? fun x =>
    decide (x.waitWindowUs < 100) || decide (x.waitWindowUs > 1000000) || decide (x.ccDataBytes > 2 ^ 22)
  let r := p.reservations.findIdx? fun x =>
    decide (x.slotSteps < 1) || decide (x.slotSteps ≥ 2 ^ 24) || x.caps.any fun n => n % 32 != 0
  (((q.map fun i => (0, i)).or (c.map fun i => (1, i))).or (r.map fun i => (2, i))).or ((routineIndexBad p.routines).map fun i => (3, i))

/-- A unit that a program names is absent (R99): DETAIL of ABSENT_UNIT. -/
def unitAbsent (g : Grade) : UnitRef → Option Nat
  | .well n => if (presentWells g).contains n then none else some (0x10000 + n)
  | .port n => if (presentPorts g).contains n then none else some (0x20000 + n)
  | .core n => if n < coreCount g then none else some (0x30000 + n)
  | .mgmt n => if n < 8 then none else some (0x40000 + n)

/-- The units and constant logical cores that a program names on this device (R99). -/
def programUnits (self : Nat) (p : Program) : List UnitRef :=
  let here (e : QEndpoint) : Bool := e.rank.isNone || e.rank == some self
  let ends := p.queues.flatMap fun q => [q.prod, q.cons]
  ((ends.filter here).map fun e => .core e.core) ++
    ((p.cores.filter fun c => c.placed.isNone).map fun c => .core c.core) ++
    (p.reservations.flatMap fun r => r.slots.map fun s => .core s.core) ++
    (progOps p).flatMap fun o => o.units ++ o.signals.filterMap fun s =>
      if s.rank.isNone || s.rank == some self then s.core.map UnitRef.core else none

/-- The engines that may be a queue's end. -/
def isEngine : EngUnit → Bool
  | .mx | .vx | .ls => true
  | _ => false

/-- Bytes of the rings on a core and of its control core's data (R77), for a program whose routines have their cores. -/
def sramBytes (here : QEndpoint → Bool) (p : Program) (qs : List QueueDecl) (c : Nat) : Nat :=
  ((qs.filter fun q => here q.cons && q.cons.core == c).map fun q => q.cap * tileTotal q.fmt).sum +
    ((p.cores.filter fun x => x.core == c).map (·.ccDataBytes)).sum

/-- The cores of this device that use a declaration's number (R77). -/
def declCores (here : QEndpoint → Bool) (q : QueueDecl) : List Nat :=
  (if here q.prod then [q.prod.core] else []) ++ if here q.cons then [q.cons.core] else []

/-- The first queue declaration that breaks R77 or R409. -/
def queuesBad (self : Nat) (valid : Nat → Bool) (p : Program) : Option LoadErr :=
  let here (e : QEndpoint) : Bool := e.rank.isNone || e.rank == some self
  let qs := p.queues
  (List.range qs.length).findSome? fun i =>
    match qs[i]? with
    | none => none
    | some q =>
      let cs := declCores here q
      let core := if here q.cons then q.cons.core else q.prod.core
      let fail (c : Nat) : Option LoadErr := some { reason := lrQueue, detail := c % 65536 + (q.num % 256) * 65536 }
      let far := [q.prod, q.cons].filterMap fun e => if here e then none else e.rank
      match far.find? fun r => !valid r with
      | some r => some (tableErr lrRank r 3)
      | none =>
        if cs.isEmpty || q.num > 63 || q.cap < 1 || q.cap > 1024 || !isEngine q.prod.unit || !isEngine q.cons.unit then fail core
        else match cs.find? fun c => (qs.take i).any fun o => o.num == q.num && (declCores here o).contains c with
          | some c => fail c
          | none => if here q.cons && sramBytes here p (qs.take (i + 1)) q.cons.core > 2 ^ 22 then fail q.cons.core else none

/-- Whether a routine of a work item keeps R94. -/
def routineOk (p : Program) (r : RoutineDecl) : Bool :=
  let crosses (q : Nat) : Bool := p.queues.any fun x =>
    x.num == q && (x.prod.core != x.cons.core || x.prod.rank.isSome || x.cons.rank.isSome)
  r.code.all fun o =>
    (o.signals.all fun s => s.core.isNone && s.rank.isNone && (match s.obj with | .flag _ => true | .counter _ => false)) &&
      !o.pushes.any crosses

/-- Whether code ends with END (R114). -/
def endsWell (code : List CodeOp) : Bool := code.getLast?.elim false fun o => o.isEnd

/-- The first routine that breaks R94 or lacks its END (R99): DETAIL of ROUTINE. -/
def routineBad (p : Program) : Option Nat :=
  ((p.routines.find? fun r => !routineOk p r || !endsWell r.code).map (·.index)).or
    ((p.cores.find? fun c => !endsWell c.code).map fun c => 0x10000 + c.core)

/-- Whether a constant of a wait or signal breaks R90. -/
def constBad (o : CodeOp) : Bool :=
  (o.waits.any fun w => match w.obj with
    | .flag i => decide (i > 255)
    | .counter i => decide (i > 63) || w.value == 0 || decide (w.value ≥ 2 ^ 32)) ||
  o.signals.any fun s =>
    (match s.obj with | .flag i => decide (i > 255) | .counter i => decide (i > 63)) ||
      match s.op with | .add v => v == 0 || decide (v > 65535) | _ => false

/-! ## Gate routines (R357) -/

/-- The lowest core of a group that no control routine takes. -/
def freeCoreOf (taken : List Nat) (g : Nat) : Option Nat := ((List.range 8).map fun i => 8 * g + i).find? fun c => !taken.contains c

/-- The core of the k-th gate routine: its turn's core group, or the next one with a free core. -/
def placeGate (groups : Nat) (taken : List Nat) (k : Nat) : Option Nat :=
  ((List.range groups).map fun i => (k + i) % max 1 groups).findSome? (freeCoreOf taken)

/-- Insertion of a placed routine by LAYER. -/
def insertGate (x : CoreProg) : List CoreProg → List CoreProg
  | [] => [x]
  | y :: ys => if x.placed.getD 0 < y.placed.getD 0 then x :: y :: ys else y :: insertGate x ys

/-- The control routines with their cores (R357). -/
def bindCores (groups : Nat) (cs : List CoreProg) : List CoreProg :=
  let fixed := cs.filter fun c => c.placed.isNone
  let gates := (cs.filter fun c => c.placed.isSome).foldl (fun l c => insertGate c l) []
  (gates.zipIdx).foldl (fun l x =>
    match placeGate groups (l.map fun (c : CoreProg) => c.core) x.2 with
    | some c => l ++ [({ x.1 with core := c } : CoreProg)]
    | none => l) fixed

/-- The program's checks, in the order of R575: 6, 9 to 13. `valid` says which ranks are in the job. -/
def Dev.programBad (d : Dev) (self : Nat) (valid : Nat → Bool) (p : Program) : Option LoadErr :=
  let absent := (programUnits self p).findSome? (unitAbsent d.grade)
  let rank := (progOps p).findSome? fun o => o.signals.findSome? fun s => s.rank.bind fun r => if valid r then none else some r
  ((((absent.map fun x => (⟨lrAbsent, x, false⟩ : LoadErr)).or
    (queuesBad self valid { p with cores := bindCores (d.n / 8) p.cores })).or
    ((routineBad p).map fun x => ⟨lrRoutine, x, false⟩)).or
    (((progOps p).find? constBad).map fun o => ⟨lrFlag, o.index, false⟩)).or (rank.map fun r => tableErr lrRank r 4)

/-! ## Groups, pools, the scale table, overrides -/

/-- Whether an FP32 code is a number from 0 to below 1. -/
def inUnit (v : Nat) : Bool := decide (v < 0x3F800000)

/-- Whether a group record keeps its limits (R311). -/
def groupOk (r : List Byte) : Bool :=
  let f (o n : Nat) : Nat := fieldAt r o n
  let fl := f 2 1
  let adamw := f 1 1 == 2
  f 0 1 == 1 && (f 1 1 == 1 || adamw) && bits fl 2 1 != 3 && bits fl 5 4 != 3 && !fl.testBit 7 &&
    (f 3 1 == 0x0C || f 3 1 == 0x08) && [1, 2, 3, 4, 8, 9].contains (f 4 1) && decide (2 ≤ f 5 1) && decide (f 5 1 ≤ 4) && decide (f 7 1 ≤ 15) &&
    (f 12 1 == 0 || decide (192 ≤ f 12 1)) && f 13 3 == 0 && inUnit (f 16 4) && (!adamw || inUnit (f 20 4)) &&
    (!fl.testBit 6 || (decide (0 < f 32 4) && decide (f 32 4 < 0x7F800000))) && decide (1000 ≤ f 36 4) &&
    decide (f 36 4 ≤ 10000000) && decide (f 40 4 ≤ 4096) && f 50 2 == 0 && f 68 4 == 0 && f 121 7 == 0 &&
    allZero (slice r 148 108)

/-- The group table's check (R312). -/
def Dev.loadGroups (d : Dev) : Option LoadErr × Dev :=
  if d.groupCount > 16384 then (some (tableErr lrGroup 16384 0), d)
  else
  let ((bs, e), d) := d.readTable lrGroup (d.groupAddr 0) d.groupCount 256
  (firstBad bs 256 e fun i r => if groupOk r then none else some (tableErr lrGroup i 0), d)

/-- A pool record (R342). -/
def poolOf (n : Nat) (r : List Byte) : Pool :=
  { num := n, kind := fieldAt r 1 1, spread := fieldAt r 2 1, pageLog2 := fieldAt r 3 1, mask := fieldAt r 4 1,
    tilesPerExtent := fieldAt r 6 2, capacity := fieldAt r 8 8, waitMax := fieldAt r 16 4, regions := [] }

/-- Whether a pool record that is in use keeps its limits (R342, R343). -/
def poolOk (g : Grade) (r : List Byte) : Bool :=
  let p := poolOf 0 r
  let present := maskOf (presentWells g)
  fieldAt r 0 1 == 1 && (p.kind == 1 || p.kind == 2) && decide (p.spread ≤ 2) && decide (11 ≤ p.pageLog2) &&
    decide (p.pageLog2 ≤ 30) && p.mask != 0 && (p.mask ||| present) == present && fieldAt r 5 1 == 0 &&
    (p.kind == 2 || p.capacity % 2 ^ p.pageLog2 == 0) && decide (p.waitMax ≤ 1000000) && allZero (slice r 20 44)

/-- The pool table's check (R342, R343): the host's pools. A group's POOL must name a VERSION pool. -/
def Dev.loadPools (d : Dev) : Except LoadErr (List Pool) × Dev :=
  let base := d.depot.poolBaseLo.toNat + d.depot.poolBaseHi.toNat * 2 ^ 32
  let ((bs, e), d) := d.readTable lrPool base 254 64
  let used (r : List Byte) : Bool := fieldAt r 1 1 != 0
  let bad (i : Nat) (r : List Byte) : Option LoadErr := if used r && !poolOk d.grade r then some (tableErr lrPool i 0) else none
  match firstBad bs 64 e bad with
  | some x => (.error x, d)
  | none =>
    let ps := (tableRows 64 254 bs).zipIdx.filterMap fun x => if used x.1 then some (poolOf x.2 x.1) else none
    let want := (List.range d.groupCount).map fun g => d.gField g 120 1
    match want.find? fun n => !ps.any fun p => p.num == n && p.kind == 2 with
    | some n => (.error (tableErr lrPool n 0), d)
    | none => (.ok ps, d)

/-- The scale table's check (R573): of an unreadable line and an entry with a bad source the one of lower index is reported. Sources
that lie behind an unreadable line are not judged. A table of no entries is looked at only for a restored image (R168). -/
def Dev.loadScale (d : Dev) : Option LoadErr × Dev :=
  let n := d.scale.count.toNat
  if n = 0 && !wbit d.scale.ctrl 1 then (none, d)
  else if n > 65536 then (some (tableErr lrScale 65536 0), d)
  else if !inJobMem d.grade d.scaleBase (32 + 64 * n) then (some (tableErr lrScale 0 2), d)
  else
    let ((bs, hole), d) := d.readLines (linePieces d.scaleBase (32 + 64 * n)) []
    let whole := (bs.length - 32) / 64
    let ent (i : Nat) : ScaleEntry := entryOf (slice bs (32 + 64 * i) 64)
    let srcOk (j : Nat) : Bool := j == 0xFFFF || (decide (j < n) && (decide (whole ≤ j) || (ent j).valid == 1))
    let bad := (List.range whole).find? fun i =>
      let e := ent i
      e.valid == 1 && !(srcOk e.srcA.toNat && srcOk e.srcB.toNat)
    match bad, hole with
    | some i, _ => (some (tableErr lrScale i 0), d)
    | none, some a =>
      (some (if a < d.scaleBase + 32 then tableErr lrScale 0 2 true else tableErr lrScale ((a - d.scaleBase - 32) / 64) 1 true), d)
    | none, none => (none, d)

/-- An override entry (R358): GROUP, EXPERT, WELL, CORE_GROUP, NO_HOT. -/
def overrideEntry (r : List Byte) : Nat × Nat × Nat × Nat × Bool :=
  let w := leNat r
  (bits w 15 0, bits w 31 16, bits w 35 32, bits w 47 40, w.testBit 48)

/-- The override table's check (R356, R358): its entries. -/
def Dev.loadOverrides (d : Dev) (ps : List Pool) : Except LoadErr (List (Nat × Nat × Nat × Nat × Bool)) × Dev :=
  let n := d.place.ovrCount.toNat
  let base := d.place.ovrLo.toNat + d.place.ovrHi.toNat * 2 ^ 32
  if n > 65536 then (.error (tableErr lrOverride 65536 0), d)
  else
  let ((bs, e), d) := d.readTable lrOverride base n 8
  let per := coresPerDie d.grade / 8
  let bad (i : Nat) (r : List Byte) : Option LoadErr :=
    let w := leNat r
    let o := overrideEntry r
    let mask := ((ps.find? fun p => p.num == d.gField o.1 120 1).map (·.mask)).getD 0
    if bits w 39 36 ≠ 0 || bits w 63 49 ≠ 0 || o.1 ≥ d.groupCount || (o.2.1 ≠ 0xFFFF && o.2.1 ≥ d.gUnits o.1) ||
        !(presentWells d.grade).contains o.2.2.1 || !mask.testBit o.2.2.1 ||
        (o.2.2.2.1 ≠ 0xFF && (o.2.2.2.1 ≥ d.n / 8 || o.2.2.2.1 / per ≠ dieOfWell o.2.2.1)) then
      some (tableErr lrOverride i 0)
    else none
  match firstBad bs 8 e bad with
  | some x => (.error x, d)
  | none => (.ok ((List.range n).map fun i => overrideEntry (slice bs (8 * i) 8)), d)

/-! ## Placement of pools and experts (R248, R343, R355, R574) -/

/-- The Well of each local expert of a group, in ascending index (R355, R358). -/
def Dev.placeExperts (d : Dev) (g : Nat) (p : Pool) : List (Nat × Nat × Nat) :=
  let ms := p.wells d.grade
  (List.range (d.gExperts g)).foldl (fun l e =>
    let load (w : Nat) : Nat := (l.filter fun x => x.2.2 == w).length
    let least := ms.foldl (fun best w => if load w < load best then w else best) (ms.headD 0)
    let w := ((d.overrideOf g e fun _ => true).map (·.2.2.1)).getD least
    l ++ [(g, e, w)]) []

/-- Pages of a Well that the version buffers of a group take (R343). -/
def Dev.versionPages (d : Dev) (g : Nat) (p : Pool) (w : Nat) : Nat :=
  d.gField g 5 1 * ((d.versionFirsts g p).filter fun t => d.versionWell g p t == w).length

/-- Pages of a Well that a pool takes (R343). -/
def Dev.poolPages (d : Dev) (p : Pool) (w : Nat) : Nat :=
  if p.kind = 2 then (((List.range d.groupCount).filter fun g => d.gField g 120 1 == p.num).map fun g => d.versionPages g p w).sum
  else
    let ms := p.wells d.grade
    let pages := p.capacity / 2 ^ p.pageLog2
    let i := ms.idxOf w
    if ms.contains w then pages / max 1 ms.length + b2n (decide (i < pages % max 1 ms.length)) else 0

/-- The end of what pools may take in each present Well, from the top down (R338, R574). -/
def Dev.jobTops (d : Dev) : List (Nat × Nat) :=
  (presentWells d.grade).map fun w => (w, if w = 0 then haltArea d.grade 0 else wellBase d.grade w + wellSize - reserveBytes)

/-- The space left in a Well. -/
def topOf (tops : List (Nat × Nat)) (w : Nat) : Nat := ((tops.find? fun x => x.1 == w).map (·.2)).getD 0

/-- Insertion of a pool by its page size, larger pages first. -/
def insertPages (p : Pool) : List Pool → List Pool
  | [] => [p]
  | q :: qs => if q.pageLog2 < p.pageLog2 then p :: q :: qs else q :: insertPages p qs

/-- The regions of a Well at rising addresses: pool number, base and pages. -/
def layRegions : Nat → List (Pool × Nat) → List (Nat × Nat × Nat)
  | _, [] => []
  | a, (p, n) :: ps => (p.num, a, n) :: layRegions (a + n * 2 ^ p.pageLog2) ps

/-- Where the pools of a job lie in one Well (R343): together at the top of what is left, pools of larger pages at lower addresses, so
that each region keeps its alignment and none is lost between them. Also the bytes that the Well lacks, and what is left. -/
def Dev.layWell (d : Dev) (ps : List Pool) (w top : Nat) : List (Nat × Nat × Nat) × Nat × Nat :=
  let mine := (ps.foldl (fun l p => insertPages p l) []).filterMap fun p =>
    let n := if (p.wells d.grade).contains w then d.poolPages p w else 0
    if n = 0 then none else some (p, n)
  let total := (mine.map fun x => x.2 * 2 ^ x.1.pageLog2).sum
  let page := 2 ^ ((mine.head?.map (·.1.pageLog2)).getD 11)
  let low := wellBase d.grade w
  if low + total ≤ top then
    let base := (top - total) / page * page
    (layRegions base mine, 0, base)
  else (layRegions low mine, low + total - top, low)

/-- Every pool reserved (R343): the pools with their regions, the bytes lacking, and what is left in each Well. -/
def Dev.reservePools (d : Dev) (ps : List Pool) : List Pool × Nat × List (Nat × Nat) :=
  let laid := d.jobTops.map fun t => (t.1, d.layWell ps t.1 t.2)
  let regions (p : Pool) : List (Nat × Nat × Nat) := laid.filterMap fun x =>
    (x.2.1.find? fun r => r.1 == p.num).map fun r => (x.1, r.2.1, r.2.2)
  let put (p : Pool) : Pool := { p with regions := regions p }
  (ps.map put, (laid.map fun x => x.2.2.1).sum, laid.map fun x => (x.1, x.2.2.2))

/-- Pools 255 and 254 (R248, R342): the stash takes lines of every present Well; the replica pool what PL_HOT_MAX copies of the
largest expert need, as far as there is room. -/
def Dev.stashPool (d : Dev) (s : StashDecl) : Pool :=
  { num := 255, kind := 3, spread := 1, pageLog2 := 11, mask := maskOf (presentWells d.grade), tilesPerExtent := 0,
    capacity := s.perMb * s.inFlight, waitMax := 0, regions := [] }

/-- Bytes that a pool of replicas would take in one Well (R359). -/
def Dev.replicaWant (d : Dev) : Nat :=
  let big := ((List.range d.groupCount).map fun g => if d.gExperts g = 0 then 0 else roundUp (d.replicaRange g 0).2 2048).foldl max 0
  ceilDiv d.place.hotMax.toNat (max 1 (presentWells d.grade).length) * big

/-- The replica pool in what is left. -/
def Dev.replicaPool (d : Dev) (tops : List (Nat × Nat)) : Pool :=
  let regions := (presentWells d.grade).filterMap fun w =>
    let have_ := (topOf tops w - wellBase d.grade w) / 2048
    let pages := min have_ (d.replicaWant / 2048)
    if pages = 0 then none else some (w, topOf tops w / 2048 * 2048 - 2048 * pages, pages)
  { num := 254, kind := 4, spread := 2, pageLog2 := 11, mask := maskOf (presentWells d.grade), tilesPerExtent := 0,
    capacity := 2048 * (regions.map (·.2.2)).sum, waitMax := 0, regions := regions }

/-- A pool's record as Acwald firmware writes it (R342). -/
def poolRecord (p : Pool) : List Byte :=
  leBytes 1 1 ++ leBytes 1 p.kind ++ leBytes 1 p.spread ++ leBytes 1 p.pageLog2 ++ leBytes 1 p.mask ++ zeros 1 ++
    leBytes 2 p.tilesPerExtent ++ leBytes 8 p.capacity ++ leBytes 4 p.waitMax ++ zeros 44

/-- The records of pools 254 and 255 go into the pool table (R342), which lies in job memory or is left alone (R17). -/
def Dev.writePools (d : Dev) (ps : List Pool) : Dev :=
  let base := d.depot.poolBaseLo.toNat + d.depot.poolBaseHi.toNat * 2 ^ 32
  if !inJobMem d.grade base (64 * 256) then d
  else (ps.filter fun p => decide (254 ≤ p.num)).foldl (fun d p => d.write (base + 64 * p.num) (poolRecord p)) d

/-! ## Version 0 (R264, R311, R355) -/

/-- The initial tiles of a group copied into its first version buffer, a line at a time; what cannot be read is poisoned there. -/
def Dev.copyVersion (d : Dev) (b : Buf) (src bytes : Nat) : Dev :=
  (List.range (ceilDiv bytes 2048)).foldl (fun d i =>
    let n := min 2048 (bytes - 2048 * i)
    match d.readFor reqFirmware (src + 2048 * i) n with
    | (some bs, d) => d.storeBuf b (2048 * i) bs
    | (none, d) => (b.pieces (2048 * i) n).foldl (fun d p => (linesOf p.1 p.2).foldl (fun d l => d.poisonLine l) d) d) d

/-- The first version of a group: its buffer, its content, its count and CUR_HANDLE (R264, R270). -/
def Dev.firstVersion (d : Dev) (g : Nat) : Dev :=
  match d.allocVersion g with
  | none => d
  | some (b, d) =>
    let src := d.gField g 72 8
    let d := if inJobMem d.grade src (d.versionBytes g) then d.copyVersion b src (d.versionBytes g) else d
    let v : Version := { group := g, num := d.curNum g, slot := b.slot, count := 1 }
    ({ d with wells := { d.wells with versions := d.wells.versions ++ [v] } }).setGField g 72 8 (d.handleOf b).toNat

/-! ## The load -/

/-- What the checks of a load find out. -/
structure LoadPlan where
  prog : Program
  ranks : List (Option Nat)
  self : Nat
  windows : List Window
  pools : List Pool
  overrides : List (Nat × Nat × Nat × Nat × Bool)
  deriving DecidableEq, Repr

/-- Checks 3 to 6 of R575: the MGI version, the image, the program's own limits. -/
def Dev.loadImage (d : Dev) (b : List Byte) (image : ImageBody) : Except LoadErr Program × Dev :=
  if lbMgi b ≠ 0x0100 then (.error { reason := lrMgi, detail := lbMgi b }, d)
  else match d.readFor reqFirmware (lbProg b) (lbLen b) with
    | (none, d) =>
      let a := (d.er.log.head?.map (·.addr)).getD (lbProg b)
      (.error { reason := lrImageRead, detail := a - lbProg b, recorded := true }, d)
    | (some bs, d) =>
      if crc32c bs ≠ lbCrc b then (.error { reason := lrImage, detail := crc32c bs }, d)
      else match image with
        | .malformed off => (.error { reason := lrProgram, detail := off }, d)
        | .program p => match Sys2Proof.Machine.programBad p with
          | some (k, i) => (.error { reason := lrProgram, detail := (Config.imageOffset k i).toNat }, d)
          | none => (.ok p, d)

/-- Checks 14 to 17 of R575: the tables. -/
def Dev.loadTables (d : Dev) : Except LoadErr (List Pool × List (Nat × Nat × Nat × Nat × Bool)) × Dev :=
  match d.loadGroups with
  | (some e, d) => (.error e, d)
  | (none, d) => match d.loadPools with
    | (.error e, d) => (.error e, d)
    | (.ok ps, d) => match d.loadScale with
      | (some e, d) => (.error e, d)
      | (none, d) => match d.loadOverrides ps with
        | (.error e, d) => (.error e, d)
        | (.ok os, d) => (.ok (ps, os), d)

/-- The checks of R575 in order, from the third on. -/
def Dev.loadChecks (d : Dev) (b : List Byte) (image : ImageBody) : Except LoadErr LoadPlan × Dev :=
  match d.loadImage b image with
  | (.error e, d) => (.error e, d)
  | (.ok p, d) => match d.loadRanks with
    | (.error e, d) => (.error e, d)
    | (.ok (rs, self), d) => match d.loadExports with
      | (.error e, d) => (.error e, d)
      | (.ok ws, d) =>
        match d.programBad self (fun r => r == self || (rs.getD r none).isSome) p with
        | some e => (.error e, d)
        | none => match d.loadTables with
          | (.error e, d) => (.error e, d)
          | (.ok (ps, os), d) =>
            (.ok { prog := p, ranks := rs, self := self, windows := ws, pools := ps, overrides := os }, d)

/-- The device with the experts of every group placed (R355, R358). -/
def Dev.withPlacement (d : Dev) (os : List (Nat × Nat × Nat × Nat × Bool)) (ps : List Pool) : Dev :=
  let d := { d with place := { d.place with overrides := os, expertWell := [], replicas := [], history := [], visits := [] } }
  let wells := (List.range d.groupCount).flatMap fun g =>
    match ps.find? fun p => p.num == d.gField g 120 1 with
    | none => []
    | some p => d.placeExperts g p
  { d with place := { d.place with expertWell := wells } }

/-- A declared queue before anything crossed it (R77, R81, R409). -/
def QState.fresh (q : QueueDecl) (now : Nat) : QState :=
  { decl := q, ring := [], transit := [], back := 0, credits := q.cap, closed := false, pushed := 0, creditSeen := 0, popped := 0,
    creditSent := 0, received := 0, firstPop := now, closeAt := none, crossed := now, quiet := false, compared := false,
    resend := none }

/-- The table that the program declares, with the image's checks (R165, R167, R168, R573): the entries that enter warm-up. -/
def Dev.startScale (d : Dev) (decl : List (Nat × Fmt)) : Nat × Dev :=
  let n := d.scale.count.toNat
  let head := d.peek d.scaleBase 32
  let restore := wbit d.scale.ctrl 1
  let good := fieldAt head 0 4 == 0x5453585A && fieldAt head 4 2 == 1 && fieldAt head 8 4 == n &&
    fieldAt head 12 4 == crc32c (d.peek (d.scaleBase + 32) (64 * n))
  let st := wclr d.scale.status 0x13
  let st := if restore then wset st (if good then 1 else 2) else st
  let d := { d with scale := { d.scale with ctrl := wset d.scale.ctrl 1, status := st } }
  let warm (i : Nat) : Bool :=
    let e := d.entry i
    (restore && !good) || (e.valid == 1 && e.history == 0) ||
      (decl.find? fun x => x.1 == i).elim false fun x => fmtCode x.2 != e.format.toNat
  let is := (List.range n).filter warm
  let enter (d : Dev) (i : Nat) : Dev :=
    let e : ScaleEntry := { (d.entry i).enterWarm with iter := BitVec.ofNat 16 (fieldAt head 16 4) }
    d.setEntry i e
  (is.length, is.foldl enter d)

/-- The device's blocks set up for a job (R237, R295, R302, R325, R334, R365, R377, R405, R531, R574). -/
def Dev.startBlocks (d : Dev) (b : List Byte) (l : LoadPlan) (ps : List Pool) : Dev :=
  let s := lbStash b
  let core (c : Nat) : CoreSt :=
    { CoreSt.reset with frozen := (d.core c).frozen,
                        waitWindowUs := ((l.prog.cores.find? fun x => x.core == c).map (·.waitWindowUs)).getD 100 }
  let job : Job :=
    { prog := l.prog, stash := s, mgi := lbMgi b, start := none, started := false, primary := none, fatalSeq := 0,
      stopped := false, hostHalt := false, errSeq := 0, halters := [] }
  let stash := (ps.find? fun p => p.num == 255).elim [] fun p => p.regions
  { d with
    job := some job, cores := (List.range d.n).map core, queues := l.prog.queues.map fun q => QState.fresh q d.now, inflight := [],
    lists := [⟨[], [], []⟩, ⟨[], [], []⟩], accepted := [],
    depot := { d.depot with ctrl := wset d.depot.ctrl 1, pools := ps, stash := stash },
    wells := { d.wells with ctrl := wset d.wells.ctrl 1, cmds := [], versions := [], holds := [], folds := [], zeroed := [] },
    bz := { d.bz with ctrl := wset d.bz.ctrl 1, tagsPeak := 0, stale := 0, late := 0, dup := 0, overrun := 0, reexpr := 0,
                      missing := 0, msgFail := 0, rounds := [], waits := [] },
    rd := { d.rd.clearCounts with ctrl := wset d.rd.ctrl 1, epoch := BitVec.ofNat 32 (lbEpoch b), channels := [], held := [],
                                  heldTiles := [], closed := [] },
    fx := { d.fx.clearCounts with ctrl := wset d.fx.ctrl 1, jobId := lbJob b, ranks := l.ranks, rankSelf := l.self,
                                  windows := l.windows, streams := [], dir := [], recalls := [], lostLines := [], cohPeers := [] },
    ct := { d.ct with live := [], bounds := List.replicate 4 BoundRow.zero, tracks := [] },
    boot := { d.boot with st := 5 } }

/-- A load that passed every check (R444, R575). -/
def Dev.commitLoad (d : Dev) (b : List Byte) (l : LoadPlan) (ps : List Pool) : Nat × Dev :=
  let l := { l with prog := { l.prog with cores := bindCores (d.n / 8) l.prog.cores } }
  let d := d.startBlocks b l ps
  let d := (d.write (haltArea d.grade 0) (zeros (1024 * d.n))).writePools ps
  let d := (List.range d.groupCount).foldl (fun d g => (d.firstVersion g).readyAcc g) d
  let (warm, d) := d.startScale l.prog.entryFmts
  (warm, if wbit d.fx.ctrl 2 then d.sendProbes else d)

/-- JOB_LOAD (R575). It waits while an UPDATE runs (R483). -/
def Dev.jobLoad (d : Dev) (n : Nat) (image : ImageBody) : Dev :=
  match d.nextDesc n 1 with
  | none => d
  | some x =>
    if d.updateBlocks n x.slot then d
    else
      let b := x.args.getD []
      if d.job.isSome then d.rejectDesc n x.slot 0x04 0
      else match loadBlockBad d.grade b with
        | some off => d.rejectDesc n x.slot lrField (0x100 + off)
        | none =>
          match d.loadChecks b image with
          | (.error e, d) =>
            d.finishDesc n x.slot stRejected e.reason 0 e.detail (if e.recorded then d.er.seq % 65536 else 0)
          | (.ok l, d) =>
            let dp := d.withPlacement l.overrides l.pools
            let all := l.pools ++ [dp.stashPool (lbStash b)]
            let r := dp.reservePools all
            if r.2.1 > 0 then
              d.finishDesc n x.slot stRejected lrMemory 0 (min 0xFFFFFFFF (ceilDiv r.2.1 (2 ^ 20))) 0
            else
              let (warm, d) := dp.commitLoad b l (r.1 ++ [dp.replicaPool r.2.2])
              d.finishDesc n x.slot stOk 0 (haltArea d.grade 0) warm 0

/-- R575: JOB_LOAD. -/
def execJobLoad (ring : Nat) (image : ImageBody) (s : State) : Host.Outcome State Fault Refusal :=
  s.onDev fun d => (d.jobLoad ring image).updateGoesOn

end Sys2Proof.Machine
end

