-- ==== Sys2Proof/Machine/ErrCmds.lean ====
section
/-! DEFINITION. The commands of the errors and injection block: delivery and coalescing (R540 to R542), the error ring (R542, R553),
arming of injection slots (R549, R550), and the supply, thermal and management-core detectors (R537, R548, R569). -/

namespace Sys2Proof.Machine

open Sys2Proof

/-! ## Delivery -/

/-- R542: ERROR_RECORD_DELIVER. -/
def execErrorRecordDeliver (s : State) : Host.Outcome State Fault Refusal := s.onDev Dev.deliverOne

/-- The coalesced record of a detector is written when its 1 ms ends (R541). -/
def Dev.ceCoalesceEnd (d : Dev) (det : Nat) (inj : Bool) : Dev :=
  match d.er.coalesce.find? fun r => r.det == det && r.injected == inj with
  | none => d
  | some r =>
    let d := d.advanceTo (r.now + 1000000)
    ({ d with er := { d.er with coalesce := d.er.coalesce.filter fun x => !(x.det == det && x.injected == inj) } }).record r

/-- R541: CE_COALESCE_END. -/
def execCeCoalesceEnd (detector : Nat) (injected : Bool) (s : State) : Host.Outcome State Fault Refusal :=
  s.onDev fun d => d.ceCoalesceEnd detector injected

/-- A write of ER_RING_HEAD frees the slots that it passes (R542). A slot number past the ring is outside the range. -/
def Errors.headWrite (e : Errors) (v : Nat) : Errors :=
  if v ≥ e.ringSize then e
  else { e with head := v, used := e.used - (v + e.ringSize - e.head % e.ringSize) % e.ringSize }

/-- R542: ER_RING_HEAD_WRITE. -/
def execErRingHeadWrite (value : Word32) (s : State) : Host.Outcome State Fault Refusal :=
  s.onBar fun d => { d with er := d.er.headWrite (value.toNat % 65536) }

/-- A write of ER_RING_CTRL (R542, R553): ER_LOG2 counts only while ENABLE is 0, ENABLE = 1 only from READY on; the ring begins at
slot 0 with PHASE 1 each time it is enabled. -/
def Errors.ringCtrlWrite (e : Errors) (ready : Bool) (v : Word32) : Errors :=
  let log := if e.ringOn || v.toNat % 32 < 6 || v.toNat % 32 > 16 then e.ringCtrl.toNat % 32 else v.toNat % 32
  if wbit v 8 then
    if !ready then e
    else
      let c : Word32 := BitVec.ofNat 32 (log + 256)
      if e.ringOn then { e with ringCtrl := c }
      else { e with ringCtrl := c, head := 0, tail := 0, used := 0, phase := true }
  else { e with ringCtrl := BitVec.ofNat 32 log }

/-- R553: ER_RING_ENABLE. -/
def execErRingEnable (value : Word32) (s : State) : Host.Outcome State Fault Refusal :=
  s.onBar fun d => { d with er := d.er.ringCtrlWrite (decide (d.boot.st ≥ 4)) value }

/-! ## Arming -/

/-- The instance classes of detector types (R536, R537). -/
inductive InstClass where
  | core | well | port | die | mgmt | group | row | device
  deriving DecidableEq, Repr

/-- The class of a detector type with its severity as listed (R537); `none` when the type is not listed. -/
def detClass : Nat → Option (InstClass × Nat)
  | 0x01 => some (.well, 0) | 0x02 => some (.well, 1) | 0x03 => some (.well, 0) | 0x04 => some (.well, 1)
  | 0x05 => some (.well, 0) | 0x06 => some (.well, 1) | 0x07 => some (.well, 0) | 0x0C => some (.well, 0)
  | 0x10 => some (.core, 0) | 0x11 => some (.core, 2) | 0x12 => some (.core, 2) | 0x13 => some (.core, 2)
  | 0x14 => some (.core, 2) | 0x18 => some (.core, 2)
  | 0x20 => some (.die, 0) | 0x21 => some (.die, 0) | 0x22 => some (.die, 3) | 0x23 => some (.die, 0)
  | 0x24 => some (.die, 3) | 0x25 => some (.die, 1) | 0x26 => some (.die, 1)
  | 0x28 => some (.port, 0) | 0x29 => some (.port, 0) | 0x2A => some (.port, 1) | 0x2B => some (.port, 1)
  | 0x2C => some (.port, 1) | 0x2D => some (.device, 1)
  | 0x30 => some (.port, 0) | 0x31 => some (.port, 1) | 0x38 => some (.device, 1)
  | 0x40 => some (.mgmt, 1) | 0x41 => some (.mgmt, 3)
  | 0x48 => some (.device, 1) | 0x49 => some (.device, 0) | 0x4A => some (.row, 0)
  | 0x50 => some (.group, 0) | 0x51 => some (.group, 3)
  | _ => none

/-- Whether a sensor group is present (R518). -/
def groupPresent (g : Grade) (n : Nat) : Bool := decide (n < 20) || ((presentWells g).contains (n - 20) && decide (n < 28))

/-- Whether an instance lies in its class and names a present unit (R536). -/
def instOk (g : Grade) (c : InstClass) (i : Nat) : Bool :=
  match c with
  | .core => (fusedMap g).contains i || (fusedSpares g).contains i
  | .well => (presentWells g).contains i
  | .port => (presentPorts g).contains i || i == 0xFF
  | .die => decide (i < 2)
  | .mgmt => decide (i < 8)
  | .group => groupPresent g i
  | .row => decide (i < 4)
  | .device => i == 0

/-- The severity of the detector with an ID, when it is one (R536, R537). -/
def detSeverity (g : Grade) (id : Nat) : Option Nat :=
  match detClass (id / 256) with
  | none => none
  | some (c, sev) => if instOk g c (id % 256) then some sev else none

/-- Whether an action is allowed for a detector (R550). -/
def Dev.actionOk (d : Dev) (id action : Nat) : Bool :=
  (detSeverity d.grade id).isSome &&
    (match action with
     | 0 => mimicTypes.contains (id / 256)
     | 1 => (detClass (id / 256)).elim false (fun c => c.1 == .core) && d.trust.lmap.contains (id % 256)
     | 2 => true
     | _ => false)

/-- The fields of ER_INJs_CTRL (R553). -/
def injCtrlMask : Word32 := 0x8007FFFF#32

/-- A write of ER_INJs_CTRL (R549, R550). -/
def Dev.injArm (d : Dev) (slot : Nat) (v : Word32) : Dev :=
  let v := v &&& injCtrlMask
  let id := v.toNat % 65536
  let action := (v.toNat >>> 16) % 4
  let put (d : Dev) (f : InjSlot → InjSlot) : Dev := { d with er := { d.er with slots := d.er.slots.modify slot f } }
  if slot ≥ 8 then d
  else if !wbit v 31 then put d fun s => { s with ctrl := v, left := 0 }
  else if !d.boot.latched || !(d.boot.st == 4 || d.boot.st == 5) || !d.actionOk id action then
    { d with er := { d.er with refused := sat32 (d.er.refused + 1) } }
  else if action = 2 then
    let d := put d fun s => { s with ctrl := wclr v 0x80000000, left := 0, fired := 1 }
    d.record { seq := 0, time := d.timeStamp, det := id, sev := (detSeverity d.grade id).getD 0, injected := true,
               jobValid := d.job.isSome, addrValid := false, jobId := d.fx.jobId, addr := 0, count := 1, d0 := 0, d1 := 0, d2 := 0,
               now := d.now }
  else put d fun s => { s with ctrl := v, left := s.count.toNat % 65536, fired := 0 }

/-- R549: ER_INJ_ARM. -/
def execErInjArm (slot : Nat) (value : Word32) (s : State) : Host.Outcome State Fault Refusal :=
  s.onBar fun d => d.injArm slot value

/-! ## Sensors and management cores -/

/-- The operating minimum of VDD_CORE in mV (R559). -/
def supplyMinMv : Nat := 680

/-- A check of SUPPLY at a sensor group (R537). No detector runs in RESET (R548). -/
def Dev.supplyLow (d : Dev) (g mv : Nat) : Dev :=
  if d.boot.st = 0 || !groupPresent d.grade g then d
  else if mv < supplyMinMv then d.detect (detId 0x50 g) 0 false none mv 0 0
  else
    let (m, d) := d.mimic (detId 0x50 g)
    if m then d.detect (detId 0x50 g) 0 true none mv 0 0 else d

/-- R537: SUPPLY_LOW. -/
def execSupplyLow (sensor lowestMv : Nat) (s : State) : Host.Outcome State Fault Refusal :=
  s.onDev fun d => d.supplyLow sensor lowestMv

/-- Every unit stops and THERMTRIP_N goes low (R569): commands, collectives and rounds under way are over. -/
def Dev.stopUnits (d : Dev) : Dev :=
  { d with accepted := [], inflight := [], wells := { d.wells with cmds := [] }, bz := { d.bz with rounds := [], waits := [] },
           rd := { d.rd with channels := [], held := [], heldTiles := [] },
           fx := { d.fx with outs := [], stalled := [], recalls := [] },
           host := { d.host with rings := d.host.rings.map fun r => { r with enabled := false, descs := [] }, reads := [], queued := [] },
           trust := { d.trust with thermtrip := true } }

/-- The trip temperature in °C (R569). -/
def tripCelsius : Nat := 115

/-- A check of THERMAL at a sensor group (R537, R548, R569). -/
def Dev.thermalTrip (d : Dev) (g celsius : Nat) : Dev :=
  if !groupPresent d.grade g then d
  else if celsius ≥ tripCelsius then
    (if d.boot.st = 0 then d else d.fatalStop (detId 0x51 g) false celsius).stopUnits
  else if d.boot.st = 0 then d
  else
    let (m, d) := d.mimic (detId 0x51 g)
    if m then (d.fatalStop (detId 0x51 g) true celsius).stopUnits else d

/-- R569: THERMAL_TRIP. -/
def execThermalTrip (sensor celsius : Nat) (s : State) : Host.Outcome State Fault Refusal :=
  s.onDev fun d => d.thermalTrip sensor celsius

/-- The partner of a management core: m xor 1 (R537). -/
def mgmtPartner (m : Nat) : Nat := if m % 2 = 0 then m + 1 else m - 1

/-- A management core fails its self-check in service (R537, R548). -/
def Dev.mgmtFail (d : Dev) (m : Nat) (partnerTakes : Bool) : Dev :=
  if m ≥ 8 || !(d.boot.st == 4 || d.boot.st == 5) || d.trust.mgmtFailed.contains m then d
  else
    let d := { d with trust := { d.trust with mgmtFailed := m :: d.trust.mgmtFailed } }
    let d := d.detect (detId 0x40 m) 1 false none 0 0 0
    if d.trust.mgmtFailed.contains (mgmtPartner m) || !partnerTakes then d.fatalStop (detId 0x41 m) false 0 else d

/-- R537: MGMT_CORE_SELF_CHECK_FAIL. -/
def execMgmtCoreSelfCheckFail (core : Nat) (partnerTakes : Bool) (s : State) : Host.Outcome State Fault Refusal :=
  s.onDev fun d => d.mgmtFail core partnerTakes

end Sys2Proof.Machine
end

