-- ==== Sys2Proof/Machine/PowerTime.lean ====
section
/-! DEFINITION. The commands of the power and time block and of the counter block: pacing (R519 to R521), power states (R522 to
R525), the discipline of the time counter (R527 to R529), snapshots and clears (R531 to R535), and bound counters (R533). -/

namespace Sys2Proof.Machine

open Sys2Proof

/-! ## Pacing -/

/-- A sag at a paced group (R520): its f falls to PW_SAG_FRAC. -/
def Power.sag (p : Power) (g : Nat) : Power :=
  { p with f := p.f.set g p.sagFrac.toNat, sagEvents := sat32 (p.sagEvents + 1) }

/-- R520: DROVER_SAG. Only groups 0 to 19 are paced (R518). -/
def execDroverSag (sensor : Nat) (s : State) : Host.Outcome State Fault Refusal :=
  s.onDev fun d => if sensor < 20 && d.boot.st ≠ 0 then { d with pw := d.pw.sag sensor } else d

/-- One step of a group's f back to 16 (R520). -/
def Power.raise (p : Power) (g : Nat) : Power := { p with f := p.f.modify g fun f => min 16 (f + 1) }

/-- R520: DROVER_RAISE. -/
def execDroverRaise (sensor : Nat) (s : State) : Host.Outcome State Fault Refusal :=
  s.onDev fun d => if sensor < 20 then { d with pw := d.pw.raise sensor } else d

/-- One step of the limiter's common f, within 1 to 16, and the time that it paced (R519, R521). -/
def Power.limit1 (p : Power) (up : Bool) (us : Nat) : Power :=
  { p with fLimit := if up then min 16 (p.fLimit + 1) else max 1 (p.fLimit - 1), limitPaced := sat32 (p.limitPaced + us) }

/-- PWR_ALERT_N is low while the limiter paces (R556). -/
def Power.alert (p : Power) : Bool := decide (p.fLimit < 16)

/-- R521: LIMITER_ADJUST. -/
def execLimiterAdjust (raise : Bool) (pacedUs : Nat) (s : State) : Host.Outcome State Fault Refusal :=
  s.onDev fun d => if d.boot.st = 0 then d else { d with pw := d.pw.limit1 raise pacedUs }

/-! ## Power states -/

/-- The exit latency of a power state in µs (R522). -/
def exitLatency : Nat → Nat
  | 0 => 0 | 1 => 2 | 2 => 60 | 3 => 2000 | _ => 50000

/-- The deepest state whose exit latency HOST_LATENCY_TOL allows; A0 with AUTO = 0 (R523). -/
def Power.deepest (p : Power) : Nat :=
  if !wbit p.ctrl 0 then 0
  else (([1, 2, 3, 4].filter fun k => decide (exitLatency k ≤ p.latencyTol.toNat)).getLast?).getD 0

/-- How long the state before must have held, in ns (R522). -/
def holdTime : Nat → Nat
  | 1 => 10000 | 2 => 1000000 | 3 => 100000000 | _ => 1000000000

/-- Whether every unit of every enabled core records NO_WORK (R522, R530). -/
def Dev.coresIdle (d : Dev) : Bool :=
  d.job.isNone || (List.range d.n).all fun c =>
    d.controlCause c == 12 && d.engineCause c .mx == 12 && d.engineCause c .vx == 12 && d.engineCause c .ls == 12

/-- Whether an operation is one of the Bazaar, the adders or a Well (R522). -/
def isStationWork : Op → Bool
  | .dispatch _ | .combine _ | .collective _ | .permute _ | .well .. => true
  | _ => false

/-- Whether a ring holds a submitted descriptor that has not started (R522). -/
def Ring.unstarted (r : Ring) : Bool := r.enabled && (r.fetch != r.sqTail || r.descs.any fun x => !x.started)

/-- The condition to enter a power state from the one before, but for the time that it must hold (R522). -/
def Dev.mayEnter (d : Dev) : Nat → Bool
  | 1 => d.coresIdle && d.wells.cmds.isEmpty && !d.accepted.any fun a => isStationWork a.cmd.op
  | 2 => (d.job.elim true fun j => j.start.isNone) && !d.host.rings.any Ring.unstarted
  | 3 => true
  | 4 => d.job.isNone
  | _ => false

/-- The next deeper state is entered once its condition has held (R522, R523). In A4 the stream caches lose power. -/
def Dev.powerEnter (d : Dev) : Dev :=
  let k := d.pw.state + 1
  if k > d.pw.deepest || d.boot.st < 3 || !d.mayEnter k then d
  else
    let d := d.advanceTo ((if k = 1 then d.now else d.pw.since) + holdTime k)
    let d := d.dronePause
    { d with pw := { d.pw with state := k, since := d.now },
             depot := if k = 4 then { d.depot with cached := [] } else d.depot }

/-- R522: POWER_STATE_ENTER. -/
def execPowerStateEnter (s : State) : Host.Outcome State Fault Refusal := s.onDev Dev.powerEnter

/-- R524: WAKE; each of the events has the same effect. -/
def execWake (ev : WakeEvent) (s : State) : Host.Outcome State Fault Refusal :=
  s.onDev fun d => match ev with
    | .barAccess | .doorbell | .configWrite | .fabricPacket | .doeRequest | .mgmtPacket | .routedError => d.awake

/-- A write of HOST_LATENCY_TOL (R523): a value out of range is ignored, and a state that it no longer allows is left for the
deepest that it does. -/
def Dev.latencyTol (d : Dev) (v : Word32) : Dev :=
  if v.toNat > 1000000 then d
  else
    let d := { d with pw := { d.pw with latencyTol := v } }
    if d.pw.state ≤ d.pw.deepest then d
    else
      let d := d.dronePause
      { d with pw := { d.pw with state := d.pw.deepest, since := d.now } }

/-- R523: HOST_LATENCY_TOL_WRITE. -/
def execHostLatencyTolWrite (value : Word32) (s : State) : Host.Outcome State Fault Refusal :=
  s.onDev fun d => if d.boot.served then d.latencyTol value else d

/-! ## The discipline of the time counter -/

/-- An offset as TM_OFFSET keeps it: signed 32 bits, saturating (R534). -/
def satOffset (o : Int) : Int := max (-2147483648) (min 2147483647 o)

/-- A source's time of an edge: TM_TOD_SEC (R527). -/
def TimeCtr.tod (t : TimeCtr) : Nat := t.todLo.toNat + (t.todHi.toNat % 4) * 2 ^ 32

/-- A correction within the limits of R528: the last offset is slewed away. -/
def TimeCtr.correct (t : TimeCtr) (o : Int) : TimeCtr :=
  { t with slew := -o, freqAdj := max (-500000) (min 500000 (Config.freqAdj o t.freqAdj)) }

/-- First lock: the counter steps once to the source's time (R528). -/
def TimeCtr.lock (t : TimeCtr) (now source : Nat) : TimeCtr :=
  { t with st := .locked, ns := source, slew := 0, steps := sat32 (t.steps + 1), everLocked := true, good := 0, bad := 0,
           lockTime := sat32 ((now - t.since) / 1000) }

/-- The counter leaves LOCKED (R529). -/
def TimeCtr.hold (t : TimeCtr) : TimeCtr := { t with st := .holdover, good := 0, bad := 0, err := wset t.err 1 }

/-- An offset estimate before first lock: `need` consecutive ones within 50 ns lock (R527). -/
def TimeCtr.acquire (t : TimeCtr) (need : Nat) (o : Int) (now source : Nat) : TimeCtr :=
  let good := if o.natAbs ≤ 50 then t.good + 1 else 0
  let t := { t with st := .acquiring, good := good }
  if good ≥ need then t.lock now source else t.correct o

/-- An offset estimate while locked (R528, R529). -/
def TimeCtr.track (t : TimeCtr) (o : Int) : TimeCtr :=
  let bad := if o.natAbs > 200 then t.bad + 1 else 0
  let t := ({ t with bad := bad } : TimeCtr).correct o
  if bad ≥ 4 then t.hold else t

/-- A step in holdover (R529). -/
def TimeCtr.step (t : TimeCtr) (o : Int) : TimeCtr :=
  { t with st := .locked, ns := ((t.ns : Int) - o).toNat, slew := 0, steps := sat32 (t.steps + 1), good := 0, bad := 0,
           err := wset t.err 2 }

/-- An offset estimate from the selected source (R527 to R529). -/
def Dev.estimate (d : Dev) (need : Nat) (o : Int) (source : Nat) : Dev :=
  let t := { d.tm with offset := satOffset o }
  match t.st with
  | .free | .acquiring => { d with tm := t.acquire need o d.now source }
  | .locked => { d with tm := t.track o }
  | .holdover =>
    if o.natAbs ≤ 50 then { d with tm := { t.correct o with st := .locked, good := 0, bad := 0 } }
    else if o.natAbs ≤ 1000000 then { d with tm := t.correct o }
    else ({ d with tm := t.step o }).detect (detId 0x49 0) 0 false none ((-o).emod (2 ^ 64)).toNat 0 0

/-- An edge or message of the source that is not selected (R527). -/
def Dev.tmIgnore (d : Dev) : Dev := { d with tm := { d.tm with ignored := sat32 (d.tm.ignored + 1) } }

/-- The selected source was heard (R526, R529). -/
def TimeCtr.heard (t : TimeCtr) (now : Nat) : TimeCtr :=
  { t with lastSrc := now, st := if t.st = .free then .acquiring else t.st }

/-- An IEEE 1588 message (R404, R527). -/
def Dev.ptp (d : Dev) (fromSwitch : Bool) (src port : Nat) (kind : PtpKind) (o : Option Int) (source : Nat) : Dev :=
  if d.boot.st < 3 then d
  else
    let d := d.awake
    if !d.mgmtFrom fromSwitch src then d.rejMgmt
    else if wbit d.tm.ctrl 0 then d.tmIgnore
    else if !wbit d.tm.ctrl 1 || port ≠ d.fx.ptpPort.toNat then d
    else match kind with
      | .other => d
      | .sync | .followUp | .delayResp =>
        let d := if kind = .sync then { d with tm := d.tm.heard d.now } else d
        match o with
        | none => d
        | some o => d.estimate 8 o source

/-- R527: PTP_MESSAGE. -/
def execPtpMessage (fromSwitch : Bool) (src port : Nat) (kind : PtpKind) (offsetNs : Option Int) (sourceNs : Nat) (s : State) :
    Host.Outcome State Fault Refusal :=
  s.onDev fun d => d.ptp fromSwitch src port kind offsetNs sourceNs

/-- A rising edge of PPS_IN (R527). -/
def Dev.pps (d : Dev) (o : Int) : Dev :=
  if d.boot.st = 0 then d
  else if !wbit d.tm.ctrl 0 then d.tmIgnore
  else if !wbit d.tm.ctrl 1 then d
  else ({ d with tm := d.tm.heard d.now }).estimate 4 o (d.tm.tod * 1000000000)

/-- R527: PPS_EDGE. -/
def execPpsEdge (offsetNs : Int) (s : State) : Host.Outcome State Fault Refusal := s.onDev fun d => d.pps offsetNs

/-- The source is silent for 3 s (PTP) or 2 s (PPS) while the counter is locked (R529). -/
def Dev.sourceLoss (d : Dev) : Dev :=
  if d.tm.st ≠ .locked then d
  else
    let pps := wbit d.tm.ctrl 0
    let d := d.advanceTo (d.tm.lastSrc + if pps then 2000000000 else 3000000000)
    let t := d.tm.hold
    { d with tm := if pps then { t with err := wset t.err 4 } else t }

/-- R529: SOURCE_LOSS. -/
def execSourceLoss (s : State) : Host.Outcome State Fault Refusal := s.onDev Dev.sourceLoss

/-- R534: CAPTURE. -/
def execCapture (s : State) : Host.Outcome State Fault Refusal :=
  s.onBar fun d => { d with tm := { d.tm with capture := d.timeStamp, capDone := true } }

/-- The power and time counts at zero (R534); the junction's peak begins again at its present value. -/
def Dev.pwClear (d : Dev) : Dev :=
  { d with pw := { d.pw with sagEvents := 0, limitPaced := 0, wakes := 0, res := [0, 0, 0, 0, 0], tjPeak := d.pw.tj },
           tm := { d.tm with steps := 0, ignored := 0 } }

/-- R534: PW_CLEAR_COUNTS. -/
def execPwClearCounts (s : State) : Host.Outcome State Fault Refusal := s.onBar Dev.pwClear

/-! ## Counters -/

/-- Every counter and bound register at zero (R531, R535). -/
def Counters.clear (c : Counters) : Counters := { c with live := [], bounds := List.replicate 4 BoundRow.zero }

/-- A snapshot at an instant (R532). -/
def Counters.snapshot (c : Counters) (t : Nat) : Counters :=
  { c with snap := c.live, boundsSnap := c.bounds, snapDone := true, snapTime := t }

/-- R532, R535: CT_SNAPSHOT; a CLEAR in the same write comes first. -/
def execCtSnapshot (clear : Bool) (s : State) : Host.Outcome State Fault Refusal :=
  s.onBar fun d => { d with ct := (if clear then d.ct.clear else d.ct).snapshot d.timeStamp }

/-- R535: CT_CLEAR. -/
def execCtClear (s : State) : Host.Outcome State Fault Refusal := s.onBar fun d => { d with ct := d.ct.clear }

/-- R533: BOUND_UPDATE: `after` ns from now, no more than 10 µs, the running ratios of the rows named are brought up to date. -/
def execBoundUpdate (dense streaming exchange pass : Bool) (after : Nat) (s : State) : Host.Outcome State Fault Refusal :=
  s.onDev fun d =>
    let d := d.advance (min after 10000)
    ({ d with ct := { d.ct with tracks := d.ct.tracks.filter d.inProgress } } : Dev).boundUpdate [dense, streaming, exchange, pass]

end Sys2Proof.Machine
end

