-- ==== Sys2Proof/Machine/Startup.lean ====
section
/-! DEFINITION. Start-up (R459 to R464, R557, R563): power-good inputs, PERST#, the stagger wait, self-test and link training. -/

namespace Sys2Proof.Machine

open Sys2Proof

/-! ## Device resets -/

/-- VDD_CORE set point in mV by the CORE_SET straps (R563). -/
def coreSetMv : Nat → Nat
  | 0 => 720 | 1 => 700 | 2 => 760 | _ => 800

/-- The device right after a device reset (R460): every register at its reset value. The fuses, the levels of the pins, the SMBus
side of the Tollhouse mailbox and THERMTRIP_N keep. -/
def Dev.cleared (d : Dev) (st : Straps) : Dev :=
  let r := Dev.reset d.grade
  let t : Trust :=
    { r.trust with minSvn := d.trust.minSvn, straps := st, perstLow := d.trust.perstLow, thermtrip := d.trust.thermtrip,
                   smbAlert := d.trust.smbAlert, tollOffset := d.trust.tollOffset }
  { r with now := d.now, out := d.out, draws := d.draws, trust := t, tm := { r.tm with since := d.now },
           pw := { r.pw with setPoint := coreSetMv st.coreSet, since := d.now } }

/-- A device reset with the start-up sequence that follows (R459, R462, R473, R513): FILL, or RESET still with TEST_EN high (R557).
`toll` is the Tollhouse's firmware digest, which the boot ROM reads into block 6. -/
def Dev.restart (d : Dev) (st : Straps) (toll : List Byte) : Dev :=
  let c := d.cleared st
  let t : Trust := { c.trust with powerGood := true, fillStart := d.now, staggerWait := st.stagger, m6 := toll }
  let b : Boot := { c.boot with st := if st.testEn then 0 else 1, chainOk := Config.chainOk, calOk := Config.calOk }
  { c with trust := t, boot := b }

/-- Every power-good input is asserted (R461): a power-on reset. PCIe link training begins where PERST# is not held low. -/
def Dev.powerUp (d : Dev) (st : Straps) (toll : List Byte) : Dev :=
  if d.trust.powerGood then d
  else
    let c := d.restart st toll
    let t : Trust := { c.trust with thermtrip := false, linkUp := !d.trust.perstLow, releaseTime := d.now }
    { c with trust := t }

/-- R461: POWER_GOOD. -/
def execPowerGood (straps : Straps) (s : State) : Host.Outcome State Fault Refusal :=
  s.onDev fun d => d.powerUp straps s.toll.nv.fwDigest

/-- R461, R561: POWER_GOOD_LOSS: every unit stops, memory content is lost, and the device is in RESET (R459, R460). -/
def execPowerGoodLoss (s : State) : Host.Outcome State Fault Refusal :=
  s.onDev fun d => if d.trust.powerGood then d.cleared d.trust.straps else d

/-- A falling edge of PERST# (R460, R461, R563): a device reset once IDC_STATE has left RESET. -/
def Dev.perstFall (d : Dev) (st : Straps) (toll : List Byte) : Dev :=
  if d.trust.perstLow then d
  else
    let low (d : Dev) : Dev := { d with trust := { d.trust with perstLow := true, linkUp := false, straps := st } }
    if d.boot.st = 0 then low d else low (d.restart st toll)

/-- R460: PERST_FALL. -/
def execPerstFall (straps : Straps) (s : State) : Host.Outcome State Fault Refusal :=
  s.onDev fun d => d.perstFall straps s.toll.nv.fwDigest

/-- R461: PERST_RELEASE: PCIe link training begins. -/
def execPerstRelease (s : State) : Host.Outcome State Fault Refusal :=
  s.onDev fun d =>
    if d.trust.perstLow then
      { d with trust := { d.trust with perstLow := false, linkUp := d.trust.powerGood, releaseTime := d.now } }
    else d

/-- R462: STAGGER_END: 40 ms × SLOT_ID after the reset. -/
def execStaggerEnd (s : State) : Host.Outcome State Fault Refusal :=
  s.onDev fun d =>
    if d.boot.st = 1 && d.trust.staggerWait then
      let d := d.advanceTo (d.trust.fillStart + 40000000 * (d.trust.straps.slotId % 8))
      { d with trust := { d.trust with staggerWait := false, fillStart := d.now } }
    else d

/-! ## Self-test -/

/-- The physical cores that a self-test covers on a die (R2, R464): the enabled ones and the spares. -/
def testedCores (g : Grade) (die : Nat) : List Nat :=
  (fusedMap g ++ fusedSpares g).filter fun p => dieOfPhys p == die

/-- The cores of a die that fail. -/
def failedCores (g : Grade) (r : SelfTest) (die : Nat) : List Nat := (testedCores g die).filter fun p => r.cores.contains p

/-- Whether self-test passes (R464). -/
def selfTestOk (g : Grade) (r : SelfTest) : Bool :=
  ([0, 1].all fun die => decide ((testedCores g die).length - (failedCores g r die).length ≥ coresPerDie g)) &&
    (!(presentWells g).any fun w => r.wells.contains w) && !r.bridge

/-- The physical core of each logical core and the spares left, once every failing core has given its number to the lowest passing
spare of its die (R464). -/
def remap (bad : List Nat) (lmap spares : List Nat) : List Nat × List Nat :=
  lmap.foldl (fun (a : List Nat × List Nat) p =>
    if bad.contains p then
      match a.2.find? fun q => dieOfPhys q == dieOfPhys p with
      | some q => (a.1 ++ [q], a.2.erase q)
      | none => (a.1 ++ [p], a.2)
    else (a.1 ++ [p], a.2)) ([], spares.filter fun p => !bad.contains p)

/-- BT_SELFTEST (R491). -/
def selfTestWord (g : Grade) (r : SelfTest) : Word32 :=
  let wells := (presentWells g).filter fun w => r.wells.contains w
  BitVec.ofNat 32 ((failedCores g r 0).length % 256 + (failedCores g r 1).length % 256 * 2 ^ 8 + maskOf wells * 2 ^ 16 +
    b2n r.bridge * 2 ^ 24 + 2 ^ 25 + b2n (selfTestOk g r) * 2 ^ 26)

/-- A port after self-test (R464): one that passed begins link training. -/
def PortSt.tested (s : PortSt) (present failed : Bool) : PortSt :=
  if present then { s with failedTest := failed, training := !failed && wbit s.ctrl 0 } else s

/-- Self-test ends (R459, R464): WAIT_FW or FAULT. -/
def Dev.selfTested (d : Dev) (r : SelfTest) : Dev :=
  if d.boot.st ≠ 2 then d
  else
    let d := d.advance (1000 * r.micros)
    let ok := selfTestOk d.grade r
    let bad := r.cores.filter fun p => (fusedMap d.grade ++ fusedSpares d.grade).contains p
    let m := remap bad d.trust.lmap d.trust.spares
    let fails := (presentPorts d.grade).filter fun p => r.ports.contains p
    let ports := d.fx.ports.mapIdx fun p s => s.tested ((presentPorts d.grade).contains p) (fails.contains p)
    let waitFw := if d.trust.linkUp then sat32 ((d.now - d.trust.releaseTime) / 1000) else 0
    { d with
      trust := { d.trust with lmap := m.1, spares := m.2, out := bad },
      fx := { d.fx with ports := ports },
      boot := { d.boot with st := if ok then 3 else 6, selftest := selfTestWord d.grade r,
                            selftestPorts := BitVec.ofNat 32 (maskOf fails), tSelftest := sat32 r.micros,
                            tWaitFw := if ok then waitFw else 0 } }

/-- R464: SELFTEST_DONE. -/
def execSelftestDone (r : SelfTest) (s : State) : Host.Outcome State Fault Refusal := s.onDev fun d => d.selfTested r

/-! ## Link training -/

/-- A port that trains comes up (R367): at HALF_RATE only where ALLOW_HALF_RATE is set; a port that firmware retrains at HALF_WIDTH
keeps its lane pair (R488). -/
def PortSt.trained (s : PortSt) (half : Nat) (rate : Bool) : PortSt :=
  if !s.training || s.up || (rate && !wbit s.ctrl 1) || half > 2 then s
  else { s with up := true, training := false, halfRate := rate, width := if s.width = 0 then half else s.width }

/-- R367: LINK_TRAINED. An absent port never trains (R370), and none does during a microcode stall of a Well on its die (R488). -/
def execLinkTrained (port halfWidth : Nat) (halfRate : Bool) (s : State) : Host.Outcome State Fault Refusal :=
  s.onDev fun d =>
    if d.boot.st ≥ 3 && (presentPorts d.grade).contains port then
      (if (d.port port).training then d.awaitStall (dieOfPort port) else d).setPort port fun x => x.trained halfWidth halfRate
    else d

end Sys2Proof.Machine
end

