-- ==== Sys2Proof/Machine/Live.lean ====
section
/-! DEFINITION. The boot and trust mailbox (R479, R480): LOAD (R469 to R471), UPDATE (R481 to R484), spare-core swaps (R485 to R487,
R547), port retraining (R488), RECAL (R490), SVN_COMMIT (R472) and INJECT_ENABLE (R477). -/

namespace Sys2Proof.Machine

open Sys2Proof

/-! ## The mailbox -/

/-- RESULT codes (R480). -/
def resOk : Nat := 0x00
def resBadState : Nat := 0x01
def resBadArg : Nat := 0x02
def resReadFail : Nat := 0x03
def resBadFormat : Nat := 0x04
def resGrade : Nat := 0x05
def resSvnLow : Nat := 0x06
def resBadSignature : Nat := 0x07
def resStartFail : Nat := 0x08
def resReverted : Nat := 0x09
def resNoSpare : Nat := 0x0A
def resSwapFail : Nat := 0x0B
def resPartner : Nat := 0x0C

/-- BUSY clears with an outcome, and the mailbox vector fires (R456, R479). -/
def Dev.mailDone (d : Dev) (code result : Nat) : Dev :=
  let b : Boot := { d.boot with busy := false, lastCmd := code, result := result, live := 0 }
  ({ d with boot := b }).fire d.mailVector

/-- A write of BT_CMD (R479): ignored while BUSY, BAD_STATE in a state that does not allow it, else the command's action. -/
def Dev.mailCmd (d : Dev) (code : Nat) (allowed : Nat → Bool) (act : Dev → Dev) : Dev :=
  if d.boot.busy then d
  else if !allowed d.boot.st then d.mailDone code resBadState
  else act d

/-- The states of the live-service commands (R479). -/
def liveStates (st : Nat) : Bool := st == 4 || st == 5

/-- BT_LIVE: the step and the unit concerned (R491). -/
def liveWord (step unit : Nat) : Word32 := BitVec.ofNat 32 (step + 16 * (unit % 256))

/-! ## The image -/

/-- A section of an image, by the offset of its fields in the header: offset, length (R469). -/
def imgSection (img : List Byte) (o : Nat) : Nat × Nat := (fieldAt img o 4, fieldAt img (o + 4) 4)

/-- The bytes of a section. -/
def imgBytes (img : List Byte) (o : Nat) : List Byte := slice img (imgSection img o).1 (imgSection img o).2

/-- Whether two sections share a byte. -/
def overlaps (a b : Nat × Nat) : Bool := decide (0 < a.2) && decide (0 < b.2) && decide (a.1 < b.1 + b.2) && decide (b.1 < a.1 + a.2)

/-- The checks of step 2 of R470 but GRADES and SVN; `len` is BT_IMG_LEN. -/
def imgFormOk (img : List Byte) (len : Nat) : Bool :=
  let a := imgSection img 24
  let u := imgSection img 32
  let c := imgSection img 40
  let inside (x : Nat × Nat) : Bool := decide (x.1 + x.2 + 64 ≤ len)
  decide (fieldAt img 0 4 = 0x41574658) && decide (fieldAt img 4 2 = 1) && decide (fieldAt img 16 4 < 8) &&
    decide (fieldAt img 20 4 = len) && decide (len % 32 = 0) && decide (len ≤ 67108864) && decide (288 ≤ len) &&
    allZero (slice img 48 208) && inside a && inside u && inside c && !overlaps a u && !overlaps a c && !overlaps u c

/-- The bit of GRADES of a grade (R469). -/
def gradeBit : Grade → Nat
  | .zx9480 => 0 | .zx9460 => 1 | .zx9440 => 2

/-- SVN of an image. -/
def imgSvn (img : List Byte) : Nat := fieldAt img 12 4

/-- Step 3 of R470: the certificate, then SIG with the certificate's key. -/
def imgSigned (img : List Byte) (len : Nat) : Bool :=
  let cert := imgBytes img 40
  Config.certIssuedByRoot cert &&
    Config.ecdsaVerify (Config.certKey cert) (sha256 (slice img 0 (len - 64))) (slice img (len - 64) 64)

/-- Steps 2 and 3 of R470: the result code of the first check that fails. `handover` is what an UPDATE asks for (R481). -/
def Dev.imgCheck (d : Dev) (img : List Byte) (len : Nat) (handover : Option Nat) : Option Nat :=
  if !imgFormOk img len || !handover.all (fun h => h == fieldAt img 6 2) then some resBadFormat
  else if !(fieldAt img 16 4).testBit (gradeBit d.grade) then some resGrade
  else if imgSvn img < d.trust.minSvn then some resSvnLow
  else if !imgSigned img len then some resBadSignature
  else none

/-- The image's host address. -/
def Boot.imgAddr (b : Boot) : Nat := b.imgLo.toNat + b.imgHi.toNat * 2 ^ 32

/-- Step 1 of R470: the image as read, or none; a read that fails is recorded under R426 and R537. -/
def Dev.readImage (d : Dev) (run : FwRun) : Option (List Byte) × Dev :=
  let fail (st : PcieStatus) (inj : Bool) (d : Dev) : Dev := d.detect (detId 0x38 0) 1 inj (some d.boot.imgAddr) (pcieCode st) 0 0
  if run.read ≠ .ok then (none, fail run.read false d)
  else
    let (m, d) := d.mimic (detId 0x38 0)
    if m then (none, fail .timeout true d) else (some (slice run.image 0 d.boot.imgLen.toNat), d)

/-- Measurement block 4 (R476). -/
def Dev.block4 (d : Dev) : List Byte :=
  leBytes 4 (gradeWord d.grade) ++ leBytes 2 d.trust.minSvn ++ leBytes 2 d.boot.svn ++ leBytes 1 (b2n d.boot.latched) ++
    leBytes 1 (maskOf (presentWells d.grade)) ++ leBytes 3 (maskOf (presentPorts d.grade)) ++ zeros 3

/-- Block 4 measured anew. -/
def Dev.measure4 (d : Dev) : Dev := { d with trust := { d.trust with m4 := d.block4 } }

/-- Step 4 of R470: blocks 2 to 5 (R476), the running SVN, and the latch of INJECT_ENABLE at the first LOAD that gets here (R477). -/
def Dev.measureImage (d : Dev) (img : List Byte) : Dev :=
  let b : Boot :=
    { d.boot with svn := imgSvn img % 65536, latched := if d.boot.latchDone then d.boot.latched else d.boot.injectEnable,
                  latchDone := true }
  let t : Trust :=
    { d.trust with m2 := sha256 (imgBytes img 24), m3 := sha256 (imgBytes img 32), m5 := sha256 (d.trust.m5 ++ sha256 img) }
  ({ d with boot := b, trust := t }).measure4

/-! ## LOAD -/

/-- A LOAD that fails at step 5 (R471): blocks 2 and 3 and the running SVN of block 4 are zero again. -/
def Dev.unstart (d : Dev) : Dev :=
  let t : Trust := { d.trust with m2 := zeros 32, m3 := zeros 32 }
  ({ d with boot := { d.boot with svn := 0 }, trust := t }).measure4

/-- The image's version, with which service begins (R470 step 6). -/
def Dev.start (d : Dev) (img : List Byte) : Dev :=
  { d with boot := { d.boot with st := 4, served := true, fwVersion := fieldAt img 8 4, handover := fieldAt img 6 2 },
           trust := { d.trust with mgmtFailed := [] } }

/-- The steps of LOAD with their result (R470, R471). -/
def Dev.loadSteps (d : Dev) (run : FwRun) : Nat × Dev :=
  match d.readImage run with
  | (none, d) => (resReadFail, d)
  | (some img, d) =>
    match d.imgCheck img d.boot.imgLen.toNat none with
    | some code => (code, d)
    | none =>
      let d := d.measureImage img
      if run.startOk then (resOk, d.start img) else (resStartFail, d.unstart)

/-- BT_T_LOAD (R491). -/
def Dev.loadTime (d : Dev) (us : Nat) : Dev := { d with boot := { d.boot with tLoad := sat32 us } }

/-- A LOAD has taken its time. -/
def Dev.tookLoad (d : Dev) (us : Nat) : Dev := (d.advance (1000 * us)).loadTime us

/-- LOAD (R470). -/
def Dev.fwLoad (d : Dev) (run : FwRun) : Dev :=
  let r := d.loadSteps run
  (r.2.tookLoad run.micros).mailDone 1 r.1

/-- R470: FW_LOAD. -/
def execFwLoad (run : FwRun) (s : State) : Host.Outcome State Fault Refusal :=
  s.onHost fun d => d.mailCmd 1 (fun st => st == 3) fun d => d.fwLoad run

/-! ## UPDATE -/

/-- JOB_LOADs and JOB_UNLOADs that have started and not completed (R483). -/
def Dev.jobDescsRunning (d : Dev) : List (Nat × Nat) :=
  d.host.rings.flatMap fun r =>
    (r.descs.filter fun x => x.started && (x.opcode == 1 || x.opcode == 4)).map fun x => (r.num, x.slot)

/-- UPDATE begins (R481, R483). -/
def Dev.fwUpdate (d : Dev) (run : FwRun) : Dev :=
  let u : UpdateSt := { run := run, waiting := d.jobDescsRunning, begun := none }
  ({ d with boot := { d.boot with busy := true, lastCmd := 2, live := liveWord 1 0 },
            trust := { d.trust with update := some (u.start d.now) } } : Dev).noteStalls

/-- R481: FW_UPDATE. -/
def execFwUpdate (run : FwRun) (s : State) : Host.Outcome State Fault Refusal :=
  s.onHost fun d => d.mailCmd 2 liveStates fun d => d.fwUpdate run

/-- The steps of UPDATE with their result (R481, R482); a core or Well that cannot restart on the old image is fatal. -/
def Dev.updateSteps (d : Dev) (run : FwRun) : Nat × Dev :=
  match d.readImage run with
  | (none, d) => (resReadFail, d)
  | (some img, d) =>
    match d.imgCheck img d.boot.imgLen.toNat (some d.boot.handover) with
    | some code => (code, d)
    | none =>
      if run.startOk then
        let d := d.measureImage img
        (resOk, { d with boot := { d.boot with fwVersion := fieldAt img 8 4, updates := d.boot.updates + 1 } })
      else if run.oldRestarts then (resReverted, d)
      else (resStartFail, d.fatalStop (detId 0x41 0) false 0)

/-- UPDATE ends (R481, R483): not before the descriptors that it waits for have completed, and when its steps have taken their time; what
waited for a microcode stall is served (R484). In FAULT the running image stays. -/
def Dev.updateEnd (d : Dev) : Dev :=
  match d.trust.update with
  | none => d
  | some u =>
    match u.begun with
    | none => d
    | some b =>
      let d := d.advanceTo (b + 1000 * u.run.micros)
      let d := ({ d with trust := { d.trust with update := none } } : Dev).noteStalls.serveHeld
      let r := if liveStates d.boot.st then d.updateSteps u.run else (resReverted, d)
      (r.2.loadTime u.run.micros).mailDone 2 r.1

/-- R481: FW_UPDATE_END. -/
def execFwUpdateEnd (s : State) : Host.Outcome State Fault Refusal := s.onDev Dev.updateEnd

/-! ## Spare-core swaps -/

/-- The work item in progress is withdrawn (R95, R485 step 3): back to the head of its class, or to its slot of a reservation. What the
abandoned run waits at, and its commands that have not started or are stalled on a push, are gone with it (R485 step 2); the core
takes anew when it resumes. -/
def Dev.withdraw (d : Dev) (c : Nat) : Dev :=
  let s := d.core c
  if s.items.isEmpty then d
  else
    let reopen (m : SlotMark) : SlotMark := { m with runs := none }
    let left (q : QCmd) : Bool := q.item.isNone || (q.started && q.hold.isEmpty)
    let clear (s : CoreSt) : CoreSt :=
      { s with items := [], ending := none, taking := true, acc := s.acc.fresh, span := none, slots := s.slots.map reopen, waiting := none, pushStall := none,
               mx := s.mx.filter left, pipe := s.pipe.filter (fun j => left j.cmd), vx := s.vx.filter left, ls := s.ls.filter left, st := s.st.filter left }
    let d := (d.setCore c clear).mxIdle c s
    let listed := s.items.filter fun x => !s.slots.any fun m => m.runs == some x.1
    listed.foldl (fun d x =>
      let e : WorkEntry := { id := x.1, item := x.2, since := d.now }
      d.setList (dieOfCore d.grade c) fun l => l.putBack e) d

/-- The spare that a swap picks: the lowest of the die (R485 step 1). -/
def Dev.pickSpare (d : Dev) (die : Nat) : Option Nat :=
  (d.trust.spares.filter fun p => dieOfPhys p == die).foldl (fun a p => some (min p (a.getD p))) none

/-- A core frozen (R485 step 2). -/
def CoreSt.freeze (s : CoreSt) : CoreSt := { s with frozen := true }

/-- A swap begins: steps 1 to 3 of R485. A swap of a die on which another runs waits for it (R487). -/
def Dev.startSwap (d : Dev) (c : Nat) (mailbox : Bool) : Dev :=
  let die := dieOfCore d.grade c
  let x : Swap := { die := die, core := c, spare := none, mailbox := mailbox, wasHalted := (d.core c).halted, stopWaits := false }
  let add (d : Dev) (x : Swap) : Dev := { d with trust := { d.trust with swaps := d.trust.swaps ++ [x] } }
  let live (d : Dev) : Dev := { d with boot := { d.boot with live := liveWord 5 c } }
  if d.trust.swaps.any fun y => y.die == die then add d x
  else match d.pickSpare die with
    | none => if mailbox then d.mailDone 3 resNoSpare else d
    | some p => (live (add d { x with spare := some p })).setCore c CoreSt.freeze |>.withdraw c

/-- SPARE_SWAP (R479, R485). -/
def Dev.spareSwap (d : Dev) (c : Nat) : Dev :=
  if c ≥ d.n then d.mailDone 3 resBadArg
  else
    let b : Boot := { d.boot with busy := true, lastCmd := 3 }
    ({ d with boot := b }).startSwap c true

/-- R485: SPARE_SWAP. -/
def execSpareSwap (core : Nat) (s : State) : Host.Outcome State Fault Refusal :=
  s.onHost fun d => d.mailCmd 3 liveStates fun d => d.spareSwap core

/-- R547: AUTO_SPARE_SWAP. It sets BT_LIVE but not BUSY (R479). -/
def execAutoSpareSwap (core : Nat) (s : State) : Host.Outcome State Fault Refusal :=
  s.onDev fun d =>
    if !liveStates d.boot.st || core ≥ d.n || d.trust.swaps.any fun x => x.core == core then d else d.startSwap core false

/-- The instance class C of a slot's detector, on a physical core (R552). -/
def InjSlot.onCore (s : InjSlot) (p : Nat) : Bool :=
  (detClass (s.ctrl.toNat % 65536 / 256)).elim false (fun c => c.1 == .core) && decide (s.ctrl.toNat % 256 = p)

/-- A slot whose core is swapped out disarms (R552). -/
def InjSlot.swappedOut (s : InjSlot) (p : Nat) : InjSlot :=
  if s.onCore p then { s with ctrl := wclr s.ctrl 0x80000000, left := 0 } else s

/-- Step 5 of R485: the maps change, and the old core is fused out. -/
def Dev.remapCore (d : Dev) (c old new : Nat) : Dev :=
  { d with trust := { d.trust with lmap := d.trust.lmap.set c new, spares := d.trust.spares.erase new, out := d.trust.out ++ [old] },
           er := { d.er with slots := d.er.slots.map fun s => s.swappedOut old } }

/-- A core that resumes; one whose item was withdrawn takes anew. -/
def Dev.resume (d : Dev) (c : Nat) : Dev :=
  let thaw (s : CoreSt) : CoreSt := { s with frozen := false }
  let d := d.setCore c thaw
  let s := d.core c
  let d := if s.taking && s.items.isEmpty && !s.halted && !(d.list (dieOfCore d.grade c)).takes.contains c then d.takeNow c else d
  (d.reevaluate c).finishEnd c

/-- The halt that a stop gives a core whose swap it waited for (R105, R487). -/
def Dev.lateHalt (d : Dev) : HaltInfo :=
  match d.job with
  | none => hostHaltInfo
  | some j =>
    if j.hostHalt then hostHaltInfo
    else match j.primary with
      | some p => stopHalt p
      | none => { reason := rHostHalt, source := 1, unit := 5, d0 := 0xFFFF, d1 := j.fatalSeq }

/-- The next swap that waits on a die begins (R487). -/
def Dev.nextSwap (d : Dev) (die : Nat) : Dev :=
  match d.trust.swaps.find? fun x => x.die == die with
  | none => d
  | some x => ({ d with trust := { d.trust with swaps := d.trust.swaps.erase x } }).startSwap x.core x.mailbox

/-- A swap ends with a result: its record goes, a stop that waited halts the core, and the next swap of the die begins. -/
def Dev.closeSwap (d : Dev) (x : Swap) (result : Nat) : Dev :=
  let d := { d with trust := { d.trust with swaps := d.trust.swaps.erase x }, boot := { d.boot with live := 0 } }
  let d := if x.stopWaits then (d.haltCore x.core d.lateHalt).jobCheck else d
  (if x.mailbox then d.mailDone 3 result else d).nextSwap x.die

/-- The copy to the spare has ended (R485 to R487): step 5; or the copy met an uncorrectable error, and the core halts in place; or a
halt of the frozen core ended the swap. -/
def Dev.swapEnd (d : Dev) (die : Nat) (copyOk : Bool) : Dev :=
  match d.trust.swaps.find? fun x => x.die == die && x.spare.isSome with
  | none => d
  | some x =>
    let c := x.core
    let old := d.trust.lmap.getD c 0
    let thaw (s : CoreSt) : CoreSt := { s with frozen := false }
    if (d.core c).halted && !x.wasHalted then (d.setCore c thaw).closeSwap x resSwapFail
    else if !copyOk then
      let d := (d.setCore c thaw).detect (detId 0x11 old) 2 false none 0 0 0
      (d.haltCore c { reason := rBusError, unit := 5, d0 := detId 0x11 old, first := some d.er.seq }).closeSwap x resSwapFail
    else ((d.remapCore c old (x.spare.getD old)).resume c).closeSwap x resOk

/-- R485: SPARE_SWAP_END. -/
def execSpareSwapEnd (die : Nat) (copyOk : Bool) (s : State) : Host.Outcome State Fault Refusal :=
  s.onDev fun d => d.swapEnd die copyOk

/-! ## Ports -/

/-- A port as firmware retrains it (R369, R488): at FULL, or at HALF_WIDTH on its good pair; a failed FULL returns to HALF_WIDTH, a
failed HALF_WIDTH leaves it down. -/
def PortSt.retrain (s : PortSt) (half trained : Bool) : PortSt :=
  let s := { s with training := false, halfRate := false, winReplays := 0 }
  if trained then { s with up := true, width := if half then goodPair s.laneErr else 0 }
  else { s with up := !half, width := goodPair s.laneErr }

/-- PORT_RETRAIN (R479, R488). A port that failed its self-test stays down (R464). -/
def Dev.portRetrain (d : Dev) (p : Nat) (half trained : Bool) : Dev :=
  if !(presentPorts d.grade).contains p then d.mailDone 4 resBadArg
  else if (d.port p).failedTest then d.mailDone 4 resPartner
  else (d.setPort p fun s => s.retrain half trained).mailDone 4 (if trained then resOk else resPartner)

/-- R488: PORT_RETRAIN. -/
def execPortRetrain (port : Nat) (halfWidth trained : Bool) (s : State) : Host.Outcome State Fault Refusal :=
  s.onHost fun d => d.mailCmd 4 liveStates fun d => d.portRetrain port halfWidth trained

/-- The error word of a port with one lane's count saturated. -/
def satLane (w : Word32) (lane : Nat) : Word32 := w ||| BitVec.ofNat 32 (0xFF * 2 ^ (8 * lane))

/-- R488: LANE_FAULT: the lane's count is saturated, the port is taken down and trains at HALF_WIDTH on the other pair. -/
def execLaneFault (port lane : Nat) (s : State) : Host.Outcome State Fault Refusal :=
  s.onDev fun d =>
    if lane < 4 && (d.port port).up then
      (d.setPort port fun s => { s with laneErr := satLane s.laneErr lane }).portDown port false
    else d

/-- R488: FULL_RETRAIN_TIMER: a HALF_WIDTH port is retrained at FULL, and returns to HALF_WIDTH where that fails. The retrain waits for a
microcode stall of a Well on the port's die. -/
def execFullRetrainTimer (port : Nat) (trained : Bool) (s : State) : Host.Outcome State Fault Refusal :=
  s.onDev fun d =>
    if liveStates d.boot.st && (d.port port).up && (d.port port).width ≠ 0 then
      (d.awaitStall (dieOfPort port)).setPort port fun s => s.retrain false trained
    else d

/-! ## RECAL, SVN_COMMIT, INJECT_ENABLE -/

/-- R490: RECAL. Its results lie in memory reserved to Acwald firmware and change no register. -/
def execRecal (sensor : Nat) (s : State) : Host.Outcome State Fault Refusal :=
  s.onHost fun d => d.mailCmd 5 liveStates fun d =>
    d.mailDone 5 (if sensor = 0xFF || groupPresent d.grade sensor then resOk else resBadArg)

/-- The fused minimum SVN raised to the running image's (R472). -/
def Dev.svnCommit (d : Dev) : Dev :=
  ({ d with trust := { d.trust with minSvn := max d.trust.minSvn d.boot.svn } }).measure4.mailDone 6 resOk

/-- R472: SVN_COMMIT. -/
def execSvnCommit (s : State) : Host.Outcome State Fault Refusal :=
  s.onHost fun d => d.mailCmd 6 (fun st => st == 4) Dev.svnCommit

/-- R477: INJECT_ENABLE_WRITE: only in WAIT_FW and before the latch. -/
def execInjectEnableWrite (value : Bool) (s : State) : Host.Outcome State Fault Refusal :=
  s.onHost fun d =>
    if d.boot.st = 3 && !d.boot.latchDone then { d with boot := { d.boot with injectEnable := value } } else d

end Sys2Proof.Machine
end

