-- ==== Sys2Proof/Machine/Spdm.lean ====
section
/-! DEFINITION. The SPDM 1.2 responder (R473 to R478). The manual names the standard; the layout of its messages is that of DMTF
DSP0274 1.2 (PRESUMED, log entry 84). -/

namespace Sys2Proof.Machine

open Sys2Proof

/-- Request codes of SPDM 1.2. -/
def spdmGetDigests : Nat := 0x81
def spdmGetCertificate : Nat := 0x82
def spdmChallenge : Nat := 0x83
def spdmGetVersion : Nat := 0x84
def spdmGetMeasurements : Nat := 0xE0
def spdmGetCapabilities : Nat := 0xE1
def spdmNegotiate : Nat := 0xE3

/-- Error codes of SPDM 1.2. -/
def spdmInvalid : Nat := 0x01
def spdmUnexpected : Nat := 0x04
def spdmUnspecified : Nat := 0x05

/-- The four bytes that begin a response. -/
def spdmHead (version code p1 p2 : Nat) : List Byte := leBytes 1 version ++ leBytes 1 code ++ leBytes 1 p1 ++ leBytes 1 p2

/-- The ERROR response. -/
def spdmError (code : Nat) : List Byte := spdmHead 0x12 0x7F code 0

/-- The stage of a connection: 1 after GET_VERSION, 2 after GET_CAPABILITIES, 3 after NEGOTIATE_ALGORITHMS. -/
def spdmStage (reqs : List Nat) : Nat :=
  if reqs.contains spdmNegotiate then 3 else if reqs.contains spdmGetCapabilities then 2
  else if reqs.contains spdmGetVersion then 1 else 0

/-- The device with a request noted. GET_VERSION begins a connection anew. -/
def Dev.spdmNote (d : Dev) (code : Nat) : Dev :=
  let rs := if code = spdmGetVersion then [code] else d.trust.spdm ++ [code]
  { d with trust := { d.trust with spdm := rs } }

/-- A request that needs a stage: served in every state from WAIT_FW on (R474), refused out of order. -/
def Dev.spdmServe (d : Dev) (code stage : Nat) (f : Dev → Dev) : Dev :=
  if d.boot.st < 3 then d
  else if spdmStage d.trust.spdm < stage then d.emit (.spdm (spdmError spdmUnexpected))
  else f (d.spdmNote code)

/-- R474: GET_VERSION: version 1.2 only. -/
def execGetVersion (s : State) : Host.Outcome State Fault Refusal :=
  s.onHost fun d => d.spdmServe spdmGetVersion 0 fun d =>
    d.emit (.spdm (spdmHead 0x10 0x04 0 0 ++ leBytes 1 0 ++ leBytes 1 1 ++ leBytes 2 0x1200))

/-- CERT_CAP, CHAL_CAP, and MEAS_CAP with signatures (R474). -/
def spdmFlags : Nat := 0x16

/-- R474: GET_CAPABILITIES: CTExponent 15. -/
def execGetCapabilities (s : State) : Host.Outcome State Fault Refusal :=
  s.onHost fun d => d.spdmServe spdmGetCapabilities 1 fun d =>
    d.emit (.spdm (spdmHead 0x12 0x61 0 0 ++ leBytes 1 0 ++ leBytes 1 15 ++ leBytes 2 0 ++ leBytes 4 spdmFlags ++
      leBytes 4 Config.spdmTransfer.toNat ++ leBytes 4 Config.spdmMax.toNat))

/-- ECDSA P-256 and SHA-256 in BaseAsymAlgo, BaseHashAlgo and MeasurementHashAlgo, DMTF in MeasurementSpecification. -/
def spdmEcdsa : Nat := 0x10
def spdmSha : Nat := 0x01
def spdmMeasSha : Nat := 0x02
def spdmDmtf : Nat := 0x01

/-- R474: NEGOTIATE_ALGORITHMS: the supported algorithm of each kind where the requester offers it. MeasurementHashAlgo is the
responder's own; `measHash` is not part of the standard's request and has no effect. -/
def Dev.spdmNegotiated (d : Dev) (asym hash _measHash spec : Nat) : Dev :=
  let pick (offer own : Nat) : Nat := if offer &&& own = own then own else 0
  d.emit (.spdm (spdmHead 0x12 0x63 0 0 ++ leBytes 2 36 ++ leBytes 1 (pick spec spdmDmtf) ++ leBytes 1 0 ++
    leBytes 4 (if pick spec spdmDmtf = 0 then 0 else spdmMeasSha) ++ leBytes 4 (pick asym spdmEcdsa) ++ leBytes 4 (pick hash spdmSha) ++
    zeros 12 ++ zeros 4))

/-- R474: NEGOTIATE_ALGORITHMS. -/
def execNegotiateAlgorithms (baseAsym baseHash measHash measSpec : Nat) (s : State) : Host.Outcome State Fault Refusal :=
  s.onHost fun d => d.spdmServe spdmNegotiate 2 fun d => d.spdmNegotiated baseAsym baseHash measHash measSpec

/-- The digest of slot 0's chain. -/
def chainDigest : List Byte := sha256 Config.certChain

/-- R474: GET_DIGESTS: slot 0 only; an error while CHAIN_OK is 0. -/
def execGetDigests (s : State) : Host.Outcome State Fault Refusal :=
  s.onHost fun d => d.spdmServe spdmGetDigests 3 fun d =>
    d.emit (.spdm (if d.boot.chainOk then spdmHead 0x12 0x01 0 1 ++ chainDigest else spdmError spdmUnspecified))

/-- The portion of the chain that a GET_CERTIFICATE asks for, and what remains after it. -/
def certPortion (off len : Nat) : List Byte × Nat :=
  let n := min len (Config.certChain.length - off)
  (slice Config.certChain off n, Config.certChain.length - off - n)

/-- GET_CERTIFICATE of slot 0 (R474). -/
def Dev.spdmCertificate (d : Dev) (slot off len : Nat) : Dev :=
  if !d.boot.chainOk then d.emit (.spdm (spdmError spdmUnspecified))
  else if slot ≠ 0 then d.emit (.spdm (spdmError spdmInvalid))
  else if off ≥ Config.certChain.length then d.emit (.spdm (spdmError spdmInvalid))
  else
    let p := certPortion off len
    d.emit (.spdm (spdmHead 0x12 0x02 0 0 ++ leBytes 2 p.1.length ++ leBytes 2 p.2 ++ p.1))

/-- R474: GET_CERTIFICATE. -/
def execGetCertificate (slot off len : Nat) (s : State) : Host.Outcome State Fault Refusal :=
  s.onHost fun d => d.spdmServe spdmGetCertificate 3 fun d => d.spdmCertificate slot off len

/-- A responder's nonce, and the device with a free value drawn. -/
def Dev.spdmNonce (d : Dev) : List Byte × Dev :=
  ((List.range 32).map fun i => Config.nonceByte d.draws i, { d with draws := d.draws + 1 })

/-- A response signed with the device identity key (R473, R474): ECDSA P-256 over SHA-256 of the transcript. -/
def Dev.spdmSigned (d : Dev) (code : Nat) (req resp : List Byte) : Dev :=
  let digest := sha256 (Config.spdmRequest code d.trust.spdm ++ req ++ resp)
  d.emit (.spdm (resp ++ Config.ecdsaSign .deviceIdentity digest))

/-- CHALLENGE of slot 0 (R474), signed whether or not CHAIN_OK holds. -/
def Dev.spdmChallenged (d : Dev) (slot : Nat) (nonce : List Byte) : Dev :=
  if slot ≠ 0 then d.emit (.spdm (spdmError spdmInvalid))
  else
    let (own, d) := d.spdmNonce
    d.spdmSigned spdmChallenge (slice nonce 0 32) (spdmHead 0x12 0x03 0 1 ++ chainDigest ++ own ++ leBytes 2 0)

/-- R474: CHALLENGE. -/
def execChallenge (slot : Nat) (nonce : List Byte) (s : State) : Host.Outcome State Fault Refusal :=
  s.onHost fun d => d.spdmServe spdmChallenge 3 fun d => d.spdmChallenged slot nonce

/-- The value type of a measurement block (R476): 0 immutable ROM, 1 mutable firmware, 2 hardware configuration; 0x80 marks a raw
bit stream. -/
def measType : Nat → Nat
  | 1 => 0x00 | 4 => 0x82 | _ => 0x01

/-- The value of a measurement block (R476). -/
def Dev.measValue (d : Dev) : Nat → List Byte
  | 1 => leBytes 32 Config.bootRomDigest.toNat
  | 2 => d.trust.m2 | 3 => d.trust.m3 | 4 => d.trust.m4 | 5 => d.trust.m5
  | _ => d.trust.m6

/-- A measurement block in the DMTF measurement format (R476). -/
def Dev.measBlock (d : Dev) (i : Nat) : List Byte :=
  let v := d.measValue i
  leBytes 1 i ++ leBytes 1 spdmDmtf ++ leBytes 2 (3 + v.length) ++ leBytes 1 (measType i) ++ leBytes 2 v.length ++ v

/-- The blocks that a GET_MEASUREMENTS asks for: 0 the count only, 0xFF all, else one. -/
def measBlocks : Nat → Option (List Nat)
  | 0 => some []
  | i => if i = 0xFF then some [1, 2, 3, 4, 5, 6] else if i ≤ 6 then some [i] else none

/-- GET_MEASUREMENTS (R476, R478): the blocks as they stand in one state. -/
def Dev.spdmMeasured (d : Dev) (index : Nat) (sign : Bool) (nonce : List Byte) : Dev :=
  match measBlocks index with
  | none => d.emit (.spdm (spdmError spdmInvalid))
  | some is =>
    let record := is.flatMap d.measBlock
    let (own, d) := d.spdmNonce
    let resp := spdmHead 0x12 0x60 (if index = 0 then 6 else 0) 0 ++ leBytes 1 is.length ++ leBytes 3 record.length ++ record ++ own ++
      leBytes 2 0
    if sign then d.spdmSigned spdmGetMeasurements (slice nonce 0 32) resp else d.emit (.spdm resp)

/-- R476: GET_MEASUREMENTS. -/
def execGetMeasurements (index : Nat) (sign : Bool) (nonce : List Byte) (s : State) : Host.Outcome State Fault Refusal :=
  s.onHost fun d => d.spdmServe spdmGetMeasurements 3 fun d => d.spdmMeasured index sign nonce

end Sys2Proof.Machine
end

