-- ==== Sys2Proof/Machine/Tollhouse.lean ====
section
/-! DEFINITION. The Tollhouse (R492 to R517): power, energy, work counts, its two times, signed readings, the audit log, the mailbox,
BAR4, and firmware under seal. -/

namespace Sys2Proof.Machine

open Sys2Proof

/-! ## Times and the log -/

/-- The Tollhouse at a time: MONO and, once set, TT have counted on (R501). -/
def Toll.at (t : Toll) (now : Nat) : Toll :=
  let m := max t.mono ((now - t.start) / 1000)
  { t with mono := m, tt := if t.timeSet then t.tt + (m - t.mono) else 0 }

/-- A command that acts on the running Tollhouse only. -/
def State.onToll (s : State) (f : Toll → Toll) : Host.Outcome State Fault Refusal :=
  .next (if s.toll.running then { s with toll := f (s.toll.at s.dev.now) } else s)

/-- Audit events (R508). -/
def evGap : Nat := 1
def evTimeSet : Nat := 2
def evTimeDev : Nat := 3
def evTimeDevClear : Nat := 4
def evUnseal : Nat := 5
def evSeal : Nat := 6
def evFwOk : Nat := 7
def evFwFail : Nat := 8
def evSenseFault : Nat := 9
def evSenseClear : Nat := 10
def evWorkLoss : Nat := 11
def evWorkRestore : Nat := 12

/-- An audit entry (R506). -/
def Toll.entry (t : Toll) (event : Nat) (data : List Byte) : List Byte :=
  leBytes 8 (t.nv.logSeq + 1) ++ leBytes 8 t.tt ++ leBytes 8 t.mono ++ leBytes 4 t.nv.bootCount ++ leBytes 2 event ++ zeros 2 ++
    slice data 0 32

/-- An entry is written with its hash (R507). -/
def TollNv.append (v : TollNv) (e : List Byte) : TollNv :=
  let h := sha256 (v.logHash ++ e)
  { v with logSeq := v.logSeq + 1, logHash := h, log := ((e, h) :: v.log).take 65536 }

/-- An event is logged (R506, R507). -/
def Toll.logEvent (t : Toll) (event : Nat) (data : List Byte) : Toll := { t with nv := t.nv.append (t.entry event data) }

/-- A signed number of 64 bits as bytes. -/
def intBytes (i : Int) : List Byte := leBytes 8 (i.emod (2 ^ 64)).toNat

/-! ## Power -/

/-- The Tollhouse powers up (R494, R509, R512): the boot is counted and a GAP entry is logged. -/
def Toll.powerUp (t : Toll) (now : Nat) (pinHigh : Bool) : Toll :=
  let v : TollNv := { t.nv with bootCount := t.nv.bootCount + 1 }
  let t : Toll := { Toll.reset with running := true, nv := v, start := now }
  t.logEvent evGap (leBytes 8 v.lastTt ++ leBytes 8 v.seq ++ leBytes 4 1000 ++ leBytes 1 (b2n pinHigh))

/-- R509: TOLLHOUSE_POWER_UP. -/
def execTollhousePowerUp (unsealPinHigh : Bool) (s : State) : Host.Outcome State Fault Refusal :=
  .next (if s.toll.running then s else { s with toll := s.toll.powerUp s.dev.now unsealPinHigh })

/-- R494, R498: TOLLHOUSE_POWER_LOSS: all but the nonvolatile store is lost. -/
def execTollhousePowerLoss (s : State) : Host.Outcome State Fault Refusal :=
  .next { s with toll := { Toll.reset with nv := s.toll.nv } }

/-! ## Work counts -/

/-- A work-count frame with a given CRC (R499). -/
def Dev.workFrame (d : Dev) (die crc : Nat) : List Byte :=
  let w := d.work
  let at_ (l : List Nat) : List Byte := leBytes 8 (l.getD die 0)
  leBytes 1 1 ++ leBytes 1 die ++ leBytes 2 (w.fseq.getD die 0) ++ leBytes 4 crc ++
    leBytes 8 (d.tm.ns % 2 ^ 63 + (if d.tm.st = .locked then 2 ^ 63 else 0)) ++ at_ w.macFp4 ++ at_ w.mac8 ++ at_ w.mac16 ++
    at_ w.vecOps ++ at_ w.hbm ++ at_ w.fab

/-- A compute die sends its frame (R499). -/
def Dev.sendWork (d : Dev) (die : Nat) : Dev :=
  if die > 1 || !d.trust.powerGood then d
  else
    let d := d.emit (.workFrame (d.workFrame die (crc32c (d.workFrame die 0))))
    { d with work := { d.work with fseq := d.work.fseq.modify die fun n => (n + 1) % 65536 } }

/-- R499: WORK_COUNT_SEND. -/
def execWorkCountSend (die : Nat) (s : State) : Host.Outcome State Fault Refusal := s.onDev fun d => d.sendWork die

/-- Whether a frame passes the checks of R500. -/
def frameOk (f : List Byte) : Bool :=
  decide (f.length = 64) && decide (fieldAt f 0 1 = 1) && decide (fieldAt f 1 1 ≤ 1) &&
    decide (fieldAt f 4 4 = crc32c (slice f 0 4 ++ zeros 4 ++ slice f 8 56))

/-- TT is set from DEV_TIME, once per power-up (R501). -/
def Toll.setTime (t : Toll) (devNs : Nat) : Toll :=
  if t.timeSet then t
  else
    let t : Toll := { t with timeSet := true, tt := devNs / 1000 }
    t.logEvent evTimeSet (leBytes 8 devNs ++ intBytes ((t.tt : Int) - t.mono))

/-- A valid frame (R500, R501): the counts, the end of WORK_STALE, and the device's time. -/
def Toll.frame (t : Toll) (f : List Byte) : Toll :=
  let die := fieldAt f 1 1
  let ws := (List.range 6).map fun i => fieldAt f (16 + 8 * i) 8
  let locked := decide (fieldAt f 8 8 ≥ 2 ^ 63)
  let ns := fieldAt f 8 8 % 2 ^ 63
  let wasStale := t.stale.getD die false
  let t : Toll := { t with work := t.work.set die ws, stale := t.stale.set die false, devTime := if locked then some ns else none }
  let t := if wasStale then t.logEvent evWorkRestore (leBytes 1 die) else t
  if locked then t.setTime ns else t

/-- R500: WORK_COUNT_FRAME. -/
def execWorkCountFrame (frame : List Byte) (s : State) : Host.Outcome State Fault Refusal :=
  s.onToll fun t => if frameOk frame then t.frame frame else { t with workBad := sat32 (t.workBad + 1) }

/-- No valid frame from a die for 10 ms (R500). -/
def Toll.workLost (t : Toll) (die : Nat) : Toll :=
  if die > 1 || t.stale.getD die false then t
  else ({ t with stale := t.stale.set die true } : Toll).logEvent evWorkLoss (leBytes 1 die)

/-- R500: WORK_STALE_TIMEOUT. -/
def execWorkStaleTimeout (die : Nat) (s : State) : Host.Outcome State Fault Refusal := s.onToll fun t => t.workLost die

/-! ## Readings -/

/-- FLAGS of a reading (R503). -/
def Toll.flags (t : Toll) : Nat :=
  b2n t.timeSet + 2 * b2n t.unsealed + 4 * b2n t.first + 8 * b2n t.timeDev + 16 * b2n (t.stale.any id) + 32 * b2n (t.senseFault.any id)

/-- The sums of the six work counts over both dies (R503). -/
def Toll.workSums (t : Toll) : List Nat :=
  (List.range 6).map fun i => ((t.work.getD 0 []).getD i 0 + (t.work.getD 1 []).getD i 0) % 2 ^ 64

/-- A signed reading (R503, R504). -/
def Toll.reading (t : Toll) (kind nonce : Nat) (energy : List Nat) : List Byte :=
  let body := leBytes 1 1 ++ leBytes 1 kind ++ leBytes 2 t.flags ++ leBytes 4 t.nv.bootCount ++ leBytes 8 t.nv.seq ++ leBytes 8 t.tt ++
    leBytes 8 t.mono ++ leBytes 8 nonce ++ leBytes 8 t.nv.logSeq ++ slice t.nv.logHash 0 32 ++
    ((List.range 8).flatMap fun c => leBytes 8 (energy.getD c 0)) ++ t.workSums.flatMap fun n => leBytes 8 n
  body ++ slice (Config.ecdsaSign .tollhouse (sha256 body)) 0 64

/-- The counts of R498 after a commit: a channel in sense fault adds nothing (R497). -/
def Toll.commit (t : Toll) (energy : List Nat) : Toll :=
  let add (c e : Nat) : Nat := if t.senseFault.getD c false then e else e + energy.getD c 0
  { t with nv := { t.nv with energy := t.nv.energy.mapIdx add, lastTt := t.tt, seq := t.nv.seq + 1 } }

/-- A periodic reading: the commit of R498, then the reading in its ring slot (R504, R505). -/
def Toll.periodic (t : Toll) (energy : List Nat) : Toll :=
  let t := t.commit energy
  let slot := t.nv.seq % 16
  let r := t.reading 1 0 t.nv.energy
  { t with readings := (slot, r) :: t.readings.filter (fun x => x.1 != slot), first := false, secs := t.secs + 1 }

/-- R504: PERIODIC_READING: at the next whole second of MONO. -/
def execPeriodicReading (energy : List Nat) (s : State) : Host.Outcome State Fault Refusal :=
  if s.toll.running then
    let d := s.dev.advanceTo (s.toll.start + 1000000000 * (s.toll.secs + 1))
    .next { s with dev := d, toll := (s.toll.at d.now).periodic energy }
  else .next s

/-- A slew of TT toward the device's time, at most 10 µs (R502). -/
def Toll.slew (t : Toll) (diff : Int) : Toll :=
  { t with tt := ((t.tt : Int) - max (-10) (min 10 diff)).toNat }

/-- The comparison of TT with DEV_TIME (R502). -/
def Toll.timeCheck (t : Toll) : Toll :=
  match t.devTime with
  | none => t
  | some ns =>
    if !t.timeSet then t
    else
      let diff : Int := (t.tt : Int) - (ns / 1000 : Nat)
      let t : Toll := { t with timeDevUs := max (-2147483647) (min 2147483647 diff) }
      if diff.natAbs > 100000 then
        (if t.timeDev then t else ({ t with timeDev := true } : Toll).logEvent evTimeDev (intBytes diff))
      else if !t.timeDev then t.slew diff
      else if diff.natAbs ≤ 50000 then (({ t with timeDev := false } : Toll).logEvent evTimeDevClear (intBytes diff)).slew diff
      else t

/-- R502: TIME_CHECK. -/
def execTimeCheck (s : State) : Host.Outcome State Fault Refusal := s.onToll Toll.timeCheck

/-- A channel enters sense fault (R497). -/
def Toll.faultOn (t : Toll) (c kind : Nat) : Toll :=
  if c ≥ 8 || kind = 0 || kind > 3 || t.senseFault.getD c false then t
  else ({ t with senseFault := t.senseFault.set c true } : Toll).logEvent evSenseFault (leBytes 1 c ++ leBytes 1 kind)

/-- R497: SENSE_FAULT. -/
def execSenseFault (channel kind : Nat) (s : State) : Host.Outcome State Fault Refusal := s.onToll fun t => t.faultOn channel kind

/-- A channel leaves sense fault (R497). -/
def Toll.faultOff (t : Toll) (c : Nat) : Toll :=
  if t.senseFault.getD c false then
    ({ t with senseFault := t.senseFault.set c false } : Toll).logEvent evSenseClear (leBytes 1 c)
  else t

/-- R497: SENSE_CLEAR. -/
def execSenseClear (channel : Nat) (s : State) : Host.Outcome State Fault Refusal := s.onToll fun t => t.faultOff channel

/-! ## BAR4 -/

/-- TH_STATE (R512). -/
def Toll.stateWord (t : Toll) : Nat :=
  b2n t.running + 2 * b2n t.timeSet + 4 * b2n t.unsealed + 8 * b2n t.timeDev + 32 * b2n (t.stale.any id) +
    256 * maskOf ((List.range 8).filter fun c => t.senseFault.getD c false)

/-- The status registers: bytes 0x0000 to 0x007F of BAR4 (R512). -/
def Toll.status (t : Toll) : List Byte :=
  let w (n : Nat) : List Byte := leBytes 4 n
  slice (w 1 ++ w t.stateWord ++ w t.nv.bootCount ++ w t.nv.fwVersion ++ w t.nv.fwSvn ++ w t.nv.fwUpdates ++ w t.nv.unseals ++
    w (Config.tollCert.length % 65536 + Config.meteringCaCert.length % 65536 * 65536) ++ leBytes 8 t.nv.seq ++ leBytes 8 t.nv.logSeq ++
    leBytes 4 (t.timeDevUs.emod (2 ^ 32)).toNat ++ w t.workBad ++ leBytes 8 Config.serial.toNat ++ slice t.nv.fwDigest 0 32) 0 128

/-- The audit entry that a window slot shows: the newest 896 (R507, R511). -/
def Toll.windowEntry (t : Toll) (slot : Nat) : List Byte :=
  (((t.nv.log.take 896).find? fun e => decide (fieldAt e.1 0 8 % 896 = slot)).map (·.1)).getD (zeros 64)

/-- A byte of BAR4 (R511). -/
def Toll.bar4 (t : Toll) (off : Nat) : Byte :=
  let at_ (bs : List Byte) (i : Nat) : Byte := bs.getD i 0
  if off < 0x80 then at_ t.status off
  else if off < 0x100 then 0
  else if off < 0x1100 then
    at_ (((t.readings.find? fun r => r.1 == (off - 0x100) / 256).map (·.2)).getD []) ((off - 0x100) % 256)
  else if off < 0x1500 then at_ Config.tollCert (off - 0x1100)
  else if off < 0x1900 then at_ Config.meteringCaCert (off - 0x1500)
  else if off < 0x2000 then 0
  else if off < 0x10000 then at_ (t.windowEntry ((off - 0x2000) / 64)) ((off - 0x2000) % 64)
  else 0

/-! ## The mailbox -/

/-- RESULT of a response (R510). -/
def tollOk : Nat := 0
def tollBusy : Nat := 1
def tollBad : Nat := 2
def tollGone : Nat := 3

/-- A response (R510). -/
def tollResponse (cmd result : Nat) (body : List Byte) : List Byte :=
  leBytes 1 1 ++ leBytes 1 cmd ++ leBytes 1 result ++ zeros 1 ++ leBytes 4 body.length ++ zeros 24 ++ body

/-- Fields of a request (R510). -/
def reqCmd (r : List Byte) : Nat := fieldAt r 1 1
def reqCount (r : List Byte) : Nat := fieldAt r 2 2
def reqArg (r : List Byte) : Nat := fieldAt r 8 8

/-- Whether VERSION and the reserved bytes of a request are right (R510). -/
def reqOk (r : List Byte) : Bool :=
  decide (r.length = 32) && decide (fieldAt r 0 1 = 1) && allZero (slice r 4 4) && allZero (slice r 16 16)

/-- GET_READING: a REQUESTED reading with the current counts (R510). -/
def Toll.answerReading (t : Toll) (r : List Byte) : List Byte :=
  let now (c e : Nat) : Nat := if t.senseFault.getD c false then e else e + Config.tollSince t.nv.seq t.mono c
  tollResponse 1 tollOk (t.reading 2 (reqArg r) (t.nv.energy.mapIdx now))

/-- GET_LOG: entries from ARG on, each with its hash (R510). -/
def Toll.answerLog (t : Toll) (r : List Byte) : List Byte :=
  let first := reqArg r
  let n := reqCount r
  if n = 0 || n > 16 || first = 0 || first > t.nv.logSeq then tollResponse 2 tollBad []
  else if first + t.nv.log.length ≤ t.nv.logSeq then tollResponse 2 tollGone []
  else tollResponse 2 tollOk (((t.nv.log.reverse.drop (first - (t.nv.logSeq + 1 - t.nv.log.length))).take n).flatMap fun e => e.1 ++ e.2)

/-- GET_CERT (R510). -/
def answerCert (r : List Byte) : List Byte :=
  if reqArg r = 0 then tollResponse 3 tollOk Config.tollCert
  else if reqArg r = 1 then tollResponse 3 tollOk Config.meteringCaCert
  else tollResponse 3 tollBad []

/-- The response to a request (R510). -/
def Toll.answer (t : Toll) (r : List Byte) : List Byte :=
  if !reqOk r then tollResponse (reqCmd r) tollBad []
  else if reqCmd r = 1 then t.answerReading r
  else if reqCmd r = 2 then t.answerLog r
  else if reqCmd r = 3 then answerCert r
  else if reqCmd r = 4 then tollResponse 4 tollOk t.status
  else tollResponse (reqCmd r) tollBad []

/-- The slot's place. -/
def slotIdx : TollSlot → Nat
  | .acwald => 0 | .smbus => 1

/-- A slot of the mailbox. -/
def Toll.box (t : Toll) (i : Nat) : TollBox := t.boxes.getD i ⟨0, [], []⟩

/-- Whether a slot is being served: its response is in the making. -/
def TollBox.serving (b : TollBox) : Bool := b.st == 1 && !b.resp.isEmpty

/-- Whether a slot's request waits. -/
def TollBox.waiting (b : TollBox) : Bool := b.st == 1 && b.resp.isEmpty

/-- A slot's waiting request is served, one at a time (R510). -/
def Toll.serveBox (t : Toll) (i : Nat) : Toll :=
  if (t.box i).waiting && !(t.box (1 - i)).serving then
    { t with boxes := t.boxes.modify i fun b => { b with resp := t.answer b.req } }
  else t

/-- A request taken into a slot. -/
def Toll.accept (t : Toll) (i : Nat) (r : List Byte) : Toll :=
  ({ t with boxes := t.boxes.set i ⟨1, r, []⟩ } : Toll).serveBox i

/-- A mailbox request (R510): BUSY while its own slot is still being served. One that SMBus has already placed is served. A request
with another command's code is not this command's. -/
def State.request (s : State) (cmd : Nat) (slot : TollSlot) (r : List Byte) : State :=
  let i := slotIdx slot
  let t := s.toll.at s.dev.now
  let b := t.box i
  if !s.toll.running || (reqCmd r != cmd && decide (1 ≤ reqCmd r) && decide (reqCmd r ≤ 4)) then s
  else if b.st == 1 && b.req == r && slot == .smbus then { s with toll := t.serveBox i }
  else if b.st = 1 then
    { s with dev := s.dev.emit (match slot with
        | .acwald => .mailbox (tollResponse (reqCmd r) tollBusy [])
        | .smbus => .smbus []) }
  else { s with toll := t.accept i r }

/-- R510: GET_READING. -/
def execGetReading (slot : TollSlot) (req : List Byte) (s : State) : Host.Outcome State Fault Refusal := .next (s.request 1 slot req)

/-- R510: GET_LOG. -/
def execGetLog (slot : TollSlot) (req : List Byte) (s : State) : Host.Outcome State Fault Refusal := .next (s.request 2 slot req)

/-- R510: GET_CERT. -/
def execGetCert (slot : TollSlot) (req : List Byte) (s : State) : Host.Outcome State Fault Refusal := .next (s.request 3 slot req)

/-- R510: GET_STATUS. -/
def execGetStatus (slot : TollSlot) (req : List Byte) (s : State) : Host.Outcome State Fault Refusal := .next (s.request 4 slot req)

/-- A response becomes ready, and the other slot's waiting request is served (R510, R564). -/
def State.ready (s : State) (i : Nat) : State :=
  let done (b : TollBox) : TollBox := { b with st := 2 }
  let resp := (s.toll.box i).resp
  let t : Toll := ({ s.toll with boxes := s.toll.boxes.modify i done } : Toll).serveBox (1 - i)
  let d : Dev := if i = 0 then s.dev.emit (.mailbox resp) else { s.dev with trust := { s.dev.trust with smbAlert := true } }
  { s with toll := t, dev := d }

/-- R510: TOLLHOUSE_RESPONSE_READY. -/
def execTollhouseResponseReady (s : State) : Host.Outcome State Fault Refusal :=
  .next (if !s.toll.running then s
    else if (s.toll.box 0).serving then s.ready 0
    else if (s.toll.box 1).serving then s.ready 1
    else s)

/-! ## Firmware under seal -/

/-- The seal opens (R514, R516). -/
def Toll.unseal (t : Toll) : Toll :=
  if t.unsealed then t
  else
    let t : Toll := { t with unsealed := true, unsealMono := t.mono, nv := { t.nv with unseals := t.nv.unseals + 1 } }
    t.logEvent evUnseal (leBytes 4 t.nv.unseals)

/-- R514: UNSEAL. -/
def execUnseal (s : State) : Host.Outcome State Fault Refusal := s.onToll Toll.unseal

/-- The seal closes (R514, R516). -/
def Toll.seal (t : Toll) : Toll :=
  if t.unsealed then ({ t with unsealed := false } : Toll).logEvent evSeal (leBytes 8 ((t.mono - t.unsealMono) / 1000)) else t

/-- R514: TOLLHOUSE_SEAL. -/
def execTollhouseSeal (s : State) : Host.Outcome State Fault Refusal := s.onToll Toll.seal

/-- Result bytes of an image (R514). -/
def fwOk : Nat := 0
def fwSealed : Nat := 1
def fwFormat : Nat := 2
def fwKey : Nat := 3
def fwSignature : Nat := 4
def fwSvnLow : Nat := 5
def fwStart : Nat := 6

/-- Whether the header of an image is well formed (R515). -/
def tollImgOk (m : List Byte) : Bool :=
  decide (192 ≤ m.length) && decide (fieldAt m 0 4 = 0x4C4C4F54) && decide (fieldAt m 4 2 = 1) && decide (fieldAt m 6 2 = 0) &&
    decide (fieldAt m 16 4 = m.length) && decide (m.length % 32 = 0) && decide (m.length ≤ 1048576) && allZero (slice m 20 12) &&
    allZero (slice m 96 32)

/-- The first check of an image that fails, or OK (R514 to R516). -/
def TollNv.imgCheck (v : TollNv) (m : List Byte) (selfCheck pinHigh : Bool) : Nat :=
  if !tollImgOk m then fwFormat
  else if sha256 (slice m 32 64) ≠ Config.meteringKeyDigest then fwKey
  else if !Config.ecdsaVerify (slice m 32 64) (sha256 (m.take (m.length - 64))) (slice m (m.length - 64) 64) then fwSignature
  else if fieldAt m 12 4 < v.fwSvn then fwSvnLow
  else if pinHigh then fwSealed
  else if !selfCheck then fwStart
  else fwOk

/-- The outcome of an image: logged, and on OK the new image is the running one (R516). -/
def Toll.install (t : Toll) (m : List Byte) (code : Nat) : Toll :=
  let digest := sha256 m
  if code = fwOk then
    let t' := t.logEvent evFwOk (slice t.nv.fwDigest 0 16 ++ slice digest 0 16)
    { t' with nv := { t'.nv with fwVersion := fieldAt m 8 4, fwSvn := fieldAt m 12 4, fwDigest := digest,
                                 fwUpdates := t'.nv.fwUpdates + 1 } }
  else t.logEvent evFwFail (leBytes 1 code ++ zeros 15 ++ (if code = fwFormat then zeros 16 else slice digest 0 16))

/-- An image on the service port (R514 to R516); the boot ROM reads the new digest into block 6 (R513). -/
def State.fwImage (s : State) (m : List Byte) (selfCheck pinHigh : Bool) : State :=
  if !s.toll.running || !s.toll.unsealed then s
  else
    let t := s.toll.at s.dev.now
    let code := t.nv.imgCheck m selfCheck pinHigh
    let t' := t.install m code
    let d := s.dev.emit (.service code)
    let d := if code = fwOk && d.trust.powerGood then { d with trust := { d.trust with m6 := t'.nv.fwDigest } } else d
    { s with toll := t', dev := d }

/-- R516: TOLLHOUSE_FW_IMAGE. -/
def execTollhouseFwImage (image : List Byte) (selfCheckOk pinHighBeforeSwitch : Bool) (s : State) :
    Host.Outcome State Fault Refusal :=
  .next (s.fwImage image selfCheckOk pinHighBeforeSwitch)

end Sys2Proof.Machine
end

