-- ==== Sys2Proof/Machine/SmbusJtag.lean ====
section
/-! DEFINITION. The SMBus management port and the JTAG port (R564, R565). The port is served in every state and wakes nothing; an empty
answer is a transfer that is not acknowledged. -/

namespace Sys2Proof.Machine

open Sys2Proof

/-- The device ID of R424. -/
def deviceId : Grade → Nat
  | .zx9480 => 0x9480 | .zx9460 => 0x9460 | .zx9440 => 0x9440

/-- IDC_ID (R434). -/
def idcId (g : Grade) : Nat := Config.vendorId.toNat + deviceId g * 65536

/-- R564: IDENT. -/
def execSmbIdent (s : State) : Host.Outcome State Fault Refusal :=
  s.onDev fun d => d.emit (.smbus (leBytes 4 (idcId d.grade) ++ leBytes 4 (gradeWord d.grade) ++ leBytes 8 Config.serial.toNat))

/-- R564: STATE. -/
def execSmbState (s : State) : Host.Outcome State Fault Refusal :=
  s.onDev fun d => d.emit (.smbus (leBytes 2 (d.boot.st % 16 + d.pw.state % 8 * 256)))

/-- The hottest present Well in °C. -/
def Dev.hottestWell (d : Dev) : Nat := (presentWells d.grade).foldl (fun m w => max m (d.well w).temp) 0

/-- R564: TEMP. -/
def execSmbTemp (s : State) : Host.Outcome State Fault Refusal :=
  s.onDev fun d => d.emit (.smbus (leBytes 2 (d.pw.tj % 256 + d.hottestWell % 256 * 256)))

/-- R564: POWER. -/
def execSmbPower (s : State) : Host.Outcome State Fault Refusal :=
  s.onDev fun d => d.emit (.smbus (leBytes 2 (min d.pw.power 0xFFFF)))

/-- TM_TOD_SEC as SMBus writes it (R527, R564). -/
def TimeCtr.setTod (t : TimeCtr) (data : List Byte) : TimeCtr :=
  { t with todLo := BitVec.ofNat 32 (fieldAt data 0 4), todHi := BitVec.ofNat 32 (fieldAt data 4 4 % 4) }

/-- R564: TOD. -/
def execSmbTod (pecOk : Bool) (data : List Byte) (s : State) : Host.Outcome State Fault Refusal :=
  s.onDev fun d => if pecOk && data.length = 8 then { d with tm := d.tm.setTod data } else d.emit (.smbus [])

/-- A transfer that is not acknowledged. -/
def State.nack (s : State) : State := { s with dev := s.dev.emit (.smbus []) }

/-- R510, R564: TOLL_REQ: not acknowledged while TOLL_STATUS reads 1. -/
def execSmbTollReq (pecOk : Bool) (data : List Byte) (s : State) : Host.Outcome State Fault Refusal :=
  .next (if !pecOk || data.length ≠ 32 || !s.toll.running || (s.toll.box 1).st = 1 then s.nack
    else { s with toll := (s.toll.at s.dev.now).accept 1 data })

/-- R564: TOLL_STATUS. -/
def execSmbTollStatus (s : State) : Host.Outcome State Fault Refusal :=
  .next (if s.toll.running then { s with dev := s.dev.emit (.smbus (leBytes 1 (s.toll.box 1).st)) } else s.nack)

/-- R564: TOLL_OFFSET. -/
def execSmbTollOffset (pecOk : Bool) (off : Nat) (s : State) : Host.Outcome State Fault Refusal :=
  s.onDev fun d => if pecOk then { d with trust := { d.trust with tollOffset := off % 65536 } } else d.emit (.smbus [])

/-- The bytes of the response that a TOLL_READ returns (R564). -/
def Toll.smbBytes (t : Toll) (off len : Nat) : List Byte :=
  if (t.box 1).st = 2 then ((t.box 1).resp.drop off).take (min len 240) else []

/-- R564: TOLL_READ. It has no effect (R16). -/
def execSmbTollRead (len : Nat) (s : State) : Host.Outcome State Fault Refusal :=
  s.onDev fun d => d.emit (.smbus (s.toll.smbBytes d.trust.tollOffset len))

/-- R564: the Alert Response Address: the port's address, and SMB_ALERT_N is clear. -/
def execSmbAlertResponse (s : State) : Host.Outcome State Fault Refusal :=
  s.onDev fun d =>
    if d.trust.smbAlert then
      ({ d with trust := { d.trust with smbAlert := false } }).emit (.smbus (leBytes 1 (2 * (0x58 + d.trust.straps.slotId % 8))))
    else d.emit (.smbus [])

/-- R565: JTAG_INSTRUCTION: balls are driven or sampled only while PERST_N is low. -/
def execJtagInstruction (drivesBalls : Bool) (s : State) : Host.Outcome State Fault Refusal :=
  s.onDev fun d => d.emit (.jtag (drivesBalls && d.trust.perstLow))

/-- IDCODE (R565). -/
def jtagIdcode (g : Grade) : Nat := 1 + Config.jep106.toNat * 2 + deviceId g * 2 ^ 12

end Sys2Proof.Machine
end

