-- ==== Sys2Proof/Machine/Regs.lean ====
section
/-! DEFINITION. The registers of BAR0: writes by the rules of R14, R15 and R431 and of each block's table, and what reads show (R16,
R431, R465). A write that has a command of its own has that command's effect here too, but for BT_CMD, whose commands need more than
the written word. -/

namespace Sys2Proof.Machine

open Sys2Proof

/-! ## Writes -/

/-- A value within a range, or the old one, for a register of which its table says that a write outside the range is ignored (R534
and the tables of R237, R303, R334, R365, R366, R405). Another register holds what was written last (R14). -/
def keepIn (lo hi : Nat) (v old : Word32) : Word32 := if lo ≤ v.toNat && v.toNat ≤ hi then v else old

/-- Write one to clear (R14). -/
def w1c (v old : Word32) : Word32 := old &&& ~~~v

/-- A ring's set-up registers (R457): bases and size ignore writes while the ring is enabled. -/
def Ring.writeReg (r : Ring) (o : Nat) (v : Word32) : Ring :=
  if o = 0x18 then { r with intMod := v }
  else if r.enabled then r
  else match o with
    | 0x00 => { r with sqLo := v } | 0x04 => { r with sqHi := v } | 0x08 => { r with cqLo := v } | 0x0C => { r with cqHi := v }
    | 0x10 => { r with size := v &&& 0x1F1F#32 }
    | _ => r

/-- The MSI-X table (R432, R455). -/
def Dev.writeMsix (d : Dev) (v o : Nat) (w : Word32) : Dev :=
  let e := d.msixEntry v
  match o with
  | 0x0 => d.setMsix { e with lo := w }
  | 0x4 => d.setMsix { e with hi := w }
  | 0x8 => d.setMsix { e with data := w }
  | _ => if wbit w 0 then d.setMsix { e with mask := true } else d.unmask v

/-- The ring set-up block (R432, R457). -/
def Dev.writeHost (d : Dev) (off : Nat) (v : Word32) : Dev :=
  if off < 0x18000 then
    let n := (off - 0x10000) / 0x40
    let o := off % 0x40
    if o = 0x14 then (if wbit v 0 then d.ringEnable n v else d.ringDisable n v)
    else d.setRing ((d.ring n).writeReg o v)
  else if 0x20000 ≤ off && off < 0x28000 then d.writeMsix ((off - 0x20000) / 16) (off % 16) v
  else match off with
    | 0x18004 => { d with host := { d.host with bar2Lo := v } }
    | 0x18008 => { d with host := { d.host with bar2Hi := v } }
    | 0x1800C => { d with host := { d.host with eventVector := v &&& 0x07FF07FF#32 } }
    | _ => d

/-- The doorbells (R436). -/
def Dev.writeDoorbell (d : Dev) (off : Nat) (v : Word32) : Dev :=
  let n := (off - 0x100000) / 0x1000
  match off % 0x1000 with
  | 0 => d.sqTail n v.toNat
  | 4 => d.cqHead n v.toNat
  | _ => d

/-- TM_CTRL (R527, R534): the selection of PPS begins TM_LOCK_TIME. -/
def TimeCtr.writeCtrl (t : TimeCtr) (now : Nat) (v : Word32) : TimeCtr :=
  { t with ctrl := v &&& 3#32, since := if wbit v 0 && !wbit t.ctrl 0 then now else t.since }

/-- The power and time block (R534). -/
def Dev.writePower (d : Dev) (o : Nat) (v : Word32) : Dev :=
  let p := d.pw
  let t := d.tm
  match o with
  | 0x000 => d.latencyTol v
  | 0x008 =>
    let d : Dev := { d with pw := { p with ctrl := v &&& 1#32 } }
    if wbit v 1 then d.pwClear else d
  | 0x00C => { d with pw := { p with limit := keepIn 800 1600 v p.limit } }
  | 0x010 => { d with pw := { p with tjLimit := keepIn 70 105 v p.tjLimit } }
  | 0x014 => { d with pw := { p with sagMv := keepIn 20 80 v p.sagMv } }
  | 0x018 => { d with pw := { p with sagFrac := keepIn 1 15 v p.sagFrac } }
  | 0x100 =>
    let d : Dev := { d with tm := t.writeCtrl d.now v }
    if wbit v 2 then { d with tm := { d.tm with capture := d.timeStamp, capDone := true } } else d
  | 0x118 => { d with tm := { t with todLo := v } }
  | 0x11C => { d with tm := { t with todHi := v &&& 3#32 } }
  | 0x12C => { d with tm := { t with err := w1c v t.err } }
  | _ => d

/-- The errors and injection block (R553). -/
def Dev.writeErrors (d : Dev) (o : Nat) (v : Word32) : Dev :=
  let e := d.er
  if 0x100 ≤ o && o < 0x180 then
    let s := (o - 0x100) / 0x10
    match o % 0x10 with
    | 0x0 => d.injArm s v
    | 0x4 =>
      let set (x : InjSlot) : InjSlot := { x with count := v &&& 0xFFFF#32 }
      { d with er := { e with slots := e.slots.modify s set } }
    | _ => d
  else match o with
    | 0x04 => if e.ringOn then d else { d with er := { e with ringLo := v } }
    | 0x08 => if e.ringOn then d else { d with er := { e with ringHi := v } }
    | 0x0C => { d with er := e.ringCtrlWrite (decide (d.boot.st ≥ 4)) v }
    | 0x10 => { d with er := e.headWrite (v.toNat % 65536) }
    | 0x28 => { d with er := { e with ceInt := v } }
    | 0x2C => { d with er := { e with swapCe := v } }
    | _ => d

/-- The Depot block (R365). -/
def Depot.writeReg (p : Depot) (o : Nat) (v : Word32) : Depot :=
  let on := wbit p.ctrl 0
  match o with
  | 0x00 => { p with ctrl := v &&& 1#32, invalid := if wbit v 1 then 0 else p.invalid, scParity := if wbit v 1 then 0 else p.scParity }
  | 0x04 => if on then p else { p with poolBaseLo := v }
  | 0x08 => if on then p else { p with poolBaseHi := v }
  | 0x1C => { p with err := w1c v p.err }
  | 0x34 => { p with pfDepth := keepIn 0 512 v p.pfDepth }
  | 0x40 => { p with queryLo := v }
  | 0x44 => { p with queryHi := v }
  | _ => p

/-- A Well's registers (R334). -/
def WellSt.writeReg (w : WellSt) (o : Nat) (v : Word32) : WellSt :=
  match o with
  | 0x04 => { w with droneCtrl := v &&& 1#32 }
  | 0x08 => { w with dronePeriod := keepIn 1800 604800 v w.dronePeriod }
  | 0x30 => { w with err := w1c v w.err }
  | _ => w

/-- The Wells part of the block (R334, R335). -/
def Dev.writeWells (d : Dev) (o : Nat) (v : Word32) : Dev :=
  let w := d.wells
  let on := wbit w.ctrl 0
  if 0x100 ≤ o then
    let n := (o - 0x100) / 0x100
    if d.wellHere n then d.setWell n fun x => x.writeReg (o % 0x100) v else d
  else match o with
    | 0x00 => if on then d else { d with wells := { w with baseLo := v } }
    | 0x04 => if on then d else { d with wells := { w with baseHi := v } }
    | 0x08 => if on then d else { d with wells := { w with count := v } }
    | 0x0C =>
      { d with wells := { w with ctrl := v &&& 1#32, wells := if wbit v 1 then w.wells.map WellSt.clearCounts else w.wells } }
    | _ => d

/-- The placement part of the block (R366). -/
def Placement.writeReg (p : Placement) (o : Nat) (v : Word32) : Placement :=
  match o with
  | 0x00 =>
    { p with ctrl := v &&& 1#32, denied := if wbit v 1 then 0 else p.denied, replicaReads := if wbit v 1 then 0 else p.replicaReads }
  | 0x04 => { p with hotWindow := keepIn 1 64 v p.hotWindow }
  | 0x08 => { p with hotRatio := keepIn 17 255 v p.hotRatio }
  | 0x0C => { p with hotMax := keepIn 0 256 v p.hotMax }
  | 0x20 => { p with ovrLo := v }
  | 0x24 => { p with ovrHi := v }
  | 0x28 => { p with ovrCount := v }
  | _ => p

/-- FX_Pn_CTRL (R405): a port whose ENABLE is cleared goes down; one whose ENABLE is set trains. -/
def PortSt.writeCtrl (s : PortSt) (v : Word32) : PortSt :=
  let s' := { s with ctrl := v &&& 3#32 }
  if !wbit v 0 then { s' with up := false, training := false }
  else if wbit s.ctrl 0 then s'
  else { s' with training := !s.failedTest }

/-- The fabric block (R370, R405, R406). -/
def Dev.writeFabric (d : Dev) (o : Nat) (v : Word32) : Dev :=
  let f := d.fx
  let on := wbit f.ctrl 0
  let put (f : Fabric) : Dev := { d with fx := f }
  let idle (f' : Fabric) : Dev := if on then d else put f'
  if 0x100 ≤ o then
    let n := (o - 0x100) / 0x40
    if (presentPorts d.grade).contains n && o % 0x40 = 0x04 then d.setPort n fun s => s.writeCtrl v else d
  else if 0xA0 ≤ o && o < 0xC0 then put { f with gateways := f.gateways.set ((o - 0xA0) / 4) (v &&& 0x803F1FFF#32) }
  else match o with
    | 0x00 =>
      let f := if wbit v 1 then f.clearCounts else f
      put { f with ctrl := v &&& 5#32 }
    | 0x18 => idle { f with rankLo := v }
    | 0x1C => idle { f with rankHi := v }
    | 0x20 => idle { f with rankCount := v }
    | 0x28 => idle { f with expLo := v }
    | 0x2C => idle { f with expHi := v }
    | 0x30 => idle { f with expCount := v }
    | 0x34 => put { f with cplTimeout := keepIn 100 10000000 v f.cplTimeout }
    | 0x38 => put { f with gwTimeout := keepIn 1000 10000000 v f.gwTimeout }
    | 0x48 => put { f with err := w1c v f.err }
    | 0x6C => if (presentPorts d.grade).contains (v.toNat % 32) then put { f with ptpPort := v &&& 0x1F#32 } else d
    | 0x70 => idle { f with cohLo := v }
    | 0x74 => idle { f with cohHi := v }
    | 0x78 => idle { f with cohSize := keepIn 0 32 v f.cohSize }
    | _ => d

/-- The Bazaar block (R237, R238). -/
def Dev.writeBazaar (d : Dev) (o : Nat) (v : Word32) : Dev :=
  match o with
  | 0x00 =>
    let b := d.bz
    let d : Dev := if wbit v 1 then
        { d with bz := { b with tagsPeak := 0, stale := 0, late := 0, dup := 0, overrun := 0, reexpr := 0, missing := 0, msgFail := 0 } }
      else d
    if wbit v 0 then { d with bz := { d.bz with ctrl := wset d.bz.ctrl 1 } }
    else if wbit d.bz.ctrl 0 then d.bzDisable
    else d
  | 0x1C => { d with bz := { d.bz with deadline := keepIn 100 10000000 v d.bz.deadline } }
  | 0x20 => { d with bz := { d.bz with err := w1c v d.bz.err } }
  | _ => d

/-- The reduction block (R302, R303). -/
def Dev.writeReduction (d : Dev) (o : Nat) (v : Word32) : Dev :=
  match o with
  | 0x00 =>
    let d : Dev := if wbit v 1 then { d with rd := d.rd.clearCounts } else d
    if wbit v 0 then { d with rd := { d.rd with ctrl := wset d.rd.ctrl 1 } }
    else if wbit d.rd.ctrl 0 then d.rdDisable
    else d
  | 0x0C => { d with rd := { d.rd with deadline := keepIn 100 10000000 v d.rd.deadline } }
  | 0x18 => { d with rd := { d.rd with err := w1c v d.rd.err } }
  | _ => d

/-- The scale-tables block (R169). -/
def Dev.writeScale (d : Dev) (o : Nat) (v : Word32) : Dev :=
  let r := d.scale
  let on := wbit r.ctrl 0
  let idle (r' : ScaleRegs) : Dev := if on then d else { d with scale := r' }
  match o with
  | 0x00 => idle { r with baseLo := v }
  | 0x04 => idle { r with baseHi := v }
  | 0x08 => idle { r with count := v }
  | 0x0C =>
    let d : Dev := { d with scale := { r with ctrl := v &&& 3#32 } }
    let d := if wbit v 2 then d.forceWarm else d
    if wbit v 3 then d.snapshotScale else d
  | 0x18 => { d with scale := { r with iterFaults := w1c v r.iterFaults } }
  | 0x20 => idle { r with seedLo := v }
  | 0x24 => idle { r with seedHi := v }
  | _ => d

/-- CT_CTRL (R535): CLEAR comes before SNAPSHOT. -/
def Dev.writeCounters (d : Dev) (off : Nat) (v : Word32) : Dev :=
  if off = 0x3D0000 then
    let c := if wbit v 1 then d.ct.clear else d.ct
    { d with ct := if wbit v 0 then c.snapshot d.timeStamp else c }
  else d

/-- The boot and trust mailbox (R477, R479, R491). A code of BT_CMD without a command of its own is answered BAD_STATE (R480). -/
def Dev.writeBoot (d : Dev) (o : Nat) (v : Word32) : Dev :=
  let b := d.boot
  match o with
  | 0x00 => if b.st = 3 && !b.latchDone then { d with boot := { b with injectEnable := wbit v 0 } } else d
  | 0x04 =>
    let code := v.toNat % 256
    if 1 ≤ code && code ≤ 6 then d else d.mailCmd code (fun _ => false) id
  | 0x0C => if b.busy then d else { d with boot := { b with imgLo := v } }
  | 0x10 => if b.busy then d else { d with boot := { b with imgHi := v } }
  | 0x14 => if b.busy then d else { d with boot := { b with imgLen := v } }
  | _ => d

/-- A 32-bit write at an offset of BAR0 (R433). -/
def Dev.writeWord (d : Dev) (off : Nat) (v : Word32) : Dev :=
  if 0x3F0000 ≤ off && off < 0x400000 then d.writeBoot (off - 0x3F0000) v
  else if !d.boot.served || off < 0x10000 || 0x400000 ≤ off then d
  else if off < 0x100000 then d.writeHost off v
  else if off < 0x300000 then d.writeDoorbell off v
  else match off / 0x10000 with
    | 0x30 => d.writePower (off % 0x10000) v
    | 0x31 => d.writeErrors (off % 0x10000) v
    | 0x32 => { d with depot := d.depot.writeReg (off % 0x10000) v }
    | 0x33 =>
      if off % 0x10000 < 0x1000 then d.writeWells (off % 0x10000) v
      else { d with place := d.place.writeReg (off % 0x10000 - 0x1000) v }
    | 0x34 => d.writeFabric (off % 0x10000) v
    | 0x35 => d.writeBazaar (off % 0x10000) v
    | 0x36 => d.writeReduction (off % 0x10000) v
    | 0x37 => d.writeScale (off % 0x10000) v
    | _ => d.writeCounters off v

/-- A write of BAR0 (R431): aligned 32 bits, or aligned 64 bits as two words in ascending order; any other is ignored. -/
def Dev.writeReg (d : Dev) (off size : Nat) (v : Word64) : Dev :=
  if size = 4 && off % 4 = 0 then d.writeWord off (v.setWidth 32)
  else if size = 8 && off % 8 = 0 then (d.writeWord off (v.setWidth 32)).writeWord (off + 4) ((v >>> 32).setWidth 32)
  else d

/-- R15, R431: REGISTER_WRITE. -/
def execRegisterWrite (off size : Nat) (value : Word64) (s : State) : Host.Outcome State Fault Refusal :=
  s.onHost fun d => d.writeReg off size value

/-! ## What reads show -/

/-- Bits of a mask of physical cores in word i (R434). -/
def coreMask (ps : List Nat) (i : Nat) : Nat := maskOf ((ps.filter fun p => p / 32 == i).map (· % 32))

/-- The identity and capability block (R434). -/
def Dev.readIdc (d : Dev) (off : Nat) : Nat :=
  if 0x80 ≤ off && off < 0x80 + 4 * d.n then d.trust.lmap.getD ((off - 0x80) / 4) 0
  else if 0x40 ≤ off && off < 0x54 then coreMask d.trust.lmap ((off - 0x40) / 4)
  else if 0x60 ≤ off && off < 0x74 then coreMask d.trust.spares ((off - 0x60) / 4)
  else match off with
    | 0x00 => idcId d.grade
    | 0x04 => gradeWord d.grade
    | 0x08 => 0x100
    | 0x0C => d.boot.fwVersion
    | 0x10 => d.boot.st
    | 0x14 => d.n + 8 * 2 ^ 8 + 8 * 2 ^ 16
    | 0x18 => maskOf (presentWells d.grade)
    | 0x1C => maskOf (presentPorts d.grade)
    | 0x20 => 0xFF
    | 0x24 => 48 * (presentWells d.grade).length
    | 0x28 => 0x8000200
    | _ => 0

/-- A ring's registers (R457). -/
def Ring.readReg (r : Ring) (o : Nat) : Nat :=
  match o with
  | 0x00 => r.sqLo.toNat | 0x04 => r.sqHi.toNat | 0x08 => r.cqLo.toNat | 0x0C => r.cqHi.toNat
  | 0x10 => r.size.toNat
  | 0x14 => r.ctrl.toNat
  | 0x18 => r.intMod.toNat
  | 0x1C => b2n r.enabled + 2 * b2n r.draining + 4 * b2n (r.faultCode != 0) + 16 * r.faultCode
  | 0x20 => r.sqHead
  | 0x24 => r.cqTail + b2n r.phase * 2 ^ 16
  | 0x28 => r.sqTail
  | 0x2C => r.cqHead
  | _ => 0

/-- The ring set-up block, the MSI-X table and the pending bits (R432, R457). -/
def Dev.readHost (d : Dev) (off : Nat) : Nat :=
  if off < 0x18000 then (d.ring ((off - 0x10000) / 0x40)).readReg (off % 0x40)
  else if 0x20000 ≤ off && off < 0x28000 then
    let e := d.msixEntry ((off - 0x20000) / 16)
    match off % 16 with
    | 0x0 => e.lo.toNat | 0x4 => e.hi.toNat | 0x8 => e.data.toNat | _ => b2n e.mask
  else if 0x28000 ≤ off && off < 0x28100 then
    maskOf ((List.range 32).filter fun i => (d.msixEntry ((off - 0x28000) * 8 + i)).pend)
  else match off with
    | 0x18000 => 512
    | 0x18004 => d.host.bar2Lo.toNat
    | 0x18008 => d.host.bar2Hi.toNat
    | 0x1800C => d.host.eventVector.toNat
    | 0x18010 => d.host.dbDrops
    | _ => 0

/-- The states of the time counter as TM_STATUS codes them (R534). -/
def tmCode : TmState → Nat
  | .free => 0 | .acquiring => 1 | .locked => 2 | .holdover => 3

/-- A signed register of 32 bits. -/
def int32 (i : Int) : Nat := (i.emod (2 ^ 32)).toNat

/-- The power and time block (R534). -/
def Dev.readPower (d : Dev) (o : Nat) : Nat :=
  let p := d.pw
  let t := d.tm
  if 0x40 ≤ o && o < 0x68 then (p.res.getD ((o - 0x40) / 8) 0 / 1000) >>> (32 * ((o - 0x40) / 4 % 2))
  else match o with
    | 0x000 => p.latencyTol.toNat
    | 0x004 => p.state + 16 * p.deepest
    | 0x008 => p.ctrl.toNat
    | 0x00C => p.limit.toNat
    | 0x010 => p.tjLimit.toNat
    | 0x014 => p.sagMv.toNat
    | 0x018 => p.sagFrac.toNat
    | 0x01C => p.power
    | 0x020 => p.vddCore
    | 0x024 => p.tj + p.tjPeak * 2 ^ 8
    | 0x028 => p.stepRate
    | 0x02C => p.sagEvents
    | 0x030 => p.limitPaced
    | 0x034 => p.wakes
    | 0x100 => t.ctrl.toNat
    | 0x104 => tmCode t.st + 4 * b2n t.capDone
    | 0x108 => t.capture
    | 0x10C => t.capture >>> 32
    | 0x110 => int32 t.offset
    | 0x114 => int32 t.freqAdj
    | 0x118 => t.todLo.toNat
    | 0x11C => t.todHi.toNat
    | 0x120 => t.steps
    | 0x124 => t.ignored
    | 0x128 => t.lockTime
    | 0x12C => t.err.toNat
    | _ => 0

/-- A word of the log window (R543). -/
def Errors.logWord (e : Errors) (o : Nat) : Nat :=
  match e.log.find? fun r => r.seq % 64 == o / 64 with
  | none => 0
  | some r => fieldAt (errBytes r false false) (o % 64 / 4 * 4) 4

/-- The errors and injection block (R543, R553). -/
def Dev.readErrors (d : Dev) (o : Nat) : Nat :=
  let e := d.er
  if 0x1000 ≤ o && o < 0x2000 then e.logWord (o - 0x1000)
  else if 0x100 ≤ o && o < 0x180 then
    let s := e.slots.getD ((o - 0x100) / 0x10) ⟨0, 0, 0, 0⟩
    match o % 0x10 with
    | 0x0 => s.ctrl.toNat | 0x4 => s.count.toNat | 0x8 => s.left | _ => s.fired
  else match o with
    | 0x00 => b2n e.ringOn + 2 * b2n (e.pending.length == 256) + 4 * b2n e.fatal
    | 0x04 => e.ringLo.toNat
    | 0x08 => e.ringHi.toNat
    | 0x0C => e.ringCtrl.toNat
    | 0x14 => e.tail + b2n e.phase * 2 ^ 16
    | 0x18 => e.seq
    | 0x1C => e.seq >>> 32
    | 0x20 => e.lost
    | 0x24 => e.pending.length
    | 0x28 => e.ceInt.toNat
    | 0x2C => e.swapCe.toNat
    | 0x30 => e.fatalSeq
    | 0x34 => e.fatalSeq >>> 32
    | 0x38 => b2n d.boot.latched + 256 * maskOf ((List.range 8).filter fun i => wbit (e.slots.getD i ⟨0, 0, 0, 0⟩).ctrl 31)
    | 0x3C => e.refused
    | _ => 0

/-- The Depot block (R365). -/
def Dev.readDepot (d : Dev) (o : Nat) : Nat :=
  let p := d.depot
  let h : Word64 := BitVec.ofNat 64 (p.queryLo.toNat + p.queryHi.toNat * 2 ^ 32)
  match o with
  | 0x00 => p.ctrl.toNat
  | 0x04 => p.poolBaseLo.toNat
  | 0x08 => p.poolBaseHi.toNat
  | 0x0C => p.bufs.length
  | 0x10 => p.bufPeak
  | 0x14 => p.invalid
  | 0x18 => (p.bufs.filter (·.torn)).length
  | 0x1C => p.err.toNat
  | 0x20 => p.stashLines
  | 0x24 => p.stashUsed
  | 0x28 => p.stashPeak
  | 0x2C => ((p.spill.filter fun s => !s.freed).map fun s => ceilDiv s.bytes 2048).sum
  | 0x30 => (p.spill.filter fun s => !s.freed).length
  | 0x34 => p.pfDepth.toNat
  | 0x38 => p.scParity
  | 0x40 => p.queryLo.toNat
  | 0x44 => p.queryHi.toNat
  | 0x48 => match d.countCheck h false with
    | .error k => k
    | .ok b => 16 * b2n b.torn + b.refs * 2 ^ 16
  | 0x4C => match d.countCheck h false with
    | .error _ => 0
    | .ok b => b.tornTiles
  | _ => 0

/-- Lines of a Well that are poisoned now. -/
def Dev.poisonedNow (d : Dev) (w : Nat) : Nat := (d.poison.filter fun l => wellOf d.grade (l * lineBytes) == w).length

/-- A Well's registers (R334). -/
def Dev.readWell (d : Dev) (w o : Nat) : Nat :=
  let x := d.well w
  match o with
  | 0x00 => 1 + 2 * b2n x.filled + 4 * b2n (x.track.openLines != 0) + 8 * b2n (x.there && wbit x.droneCtrl 0 && d.pw.state < 3) +
      16 * b2n x.retraining + 32 * b2n x.sparing + 64 * b2n x.ucode
  | 0x04 => x.droneCtrl.toNat
  | 0x08 => x.dronePeriod.toNat
  | 0x0C => x.dronePos
  | 0x10 => x.droneLag
  | 0x14 => x.corrected
  | 0x18 => x.uncorr
  | 0x1C => d.poisonedNow w
  | 0x20 => x.track.openLines
  | 0x24 => x.retrains
  | 0x28 => x.sparedRows
  | 0x2C => x.laneRepairs
  | 0x30 => x.err.toNat
  | 0x34 => x.cmds
  | 0x38 => x.partsFailed
  | _ => 0

/-- The Wells and placement block (R334, R366). -/
def Dev.readWells (d : Dev) (o : Nat) : Nat :=
  let p := d.place
  if 0x100 ≤ o && o < 0x900 then (if d.wellHere ((o - 0x100) / 0x100) then d.readWell ((o - 0x100) / 0x100) (o % 0x100) else 0)
  else match o with
    | 0x00 => d.wells.baseLo.toNat
    | 0x04 => d.wells.baseHi.toNat
    | 0x08 => d.wells.count.toNat
    | 0x0C => d.wells.ctrl.toNat
    | 0x10 => maskOf (presentWells d.grade)
    | 0x1000 => p.ctrl.toNat
    | 0x1004 => p.hotWindow.toNat
    | 0x1008 => p.hotRatio.toNat
    | 0x100C => p.hotMax.toNat
    | 0x1010 => (p.replicas.filter (·.complete)).length
    | 0x1014 => (p.replicas.map fun r => ceilDiv r.len 2048).sum
    | 0x1018 => p.denied
    | 0x101C => p.replicaReads
    | 0x1020 => p.ovrLo.toNat
    | 0x1024 => p.ovrHi.toNat
    | 0x1028 => p.ovrCount.toNat
    | _ => 0

/-- A port's registers (R370, R405). -/
def PortSt.readReg (s : PortSt) (o : Nat) : Nat :=
  match o with
  | 0x00 => 1 + 2 * b2n s.up + 4 * s.width + 16 * b2n s.halfRate + 32 * b2n s.training
  | 0x04 => s.ctrl.toNat
  | 0x08 => s.fecCorr
  | 0x0C => s.fecUncorr
  | 0x10 => s.replays
  | 0x14 => s.downEvents
  | 0x18 => s.laneErr.toNat
  | _ => 0

/-- The fabric block (R405, R406). -/
def Dev.readFabric (d : Dev) (o : Nat) : Nat :=
  let f := d.fx
  if 0x100 ≤ o then
    let n := (o - 0x100) / 0x40
    if (presentPorts d.grade).contains n then (d.port n).readReg (o % 0x40) else 0
  else if 0xA0 ≤ o && o < 0xC0 then (f.gateways.getD ((o - 0xA0) / 4) 0).toNat
  else if 0x80 ≤ o && o < 0xA0 then (f.cohMembers.getD ((o - 0x80) / 4) 0).toNat
  else if 0x4C ≤ o && o < 0x6C then f.counts.getD ((o - 0x4C) / 4) 0
  else match o with
    | 0x00 => f.ctrl.toNat
    | 0x04 => b2n f.fid.isSome + 2 * b2n (d.tm.st == .locked && !wbit d.tm.ctrl 0) + 4 * b2n f.cohFormed + 8 * b2n (!f.stalled.isEmpty)
    | 0x08 => f.fid.elim 0 fun x => x + 2 ^ 31
    | 0x0C => f.jobId
    | 0x10 => maskOf (presentPorts d.grade)
    | 0x14 => maskOf ((presentPorts d.grade).filter fun p => (d.port p).up)
    | 0x18 => f.rankLo.toNat
    | 0x1C => f.rankHi.toNat
    | 0x20 => f.rankCount.toNat
    | 0x24 => f.rankSelf
    | 0x28 => f.expLo.toNat
    | 0x2C => f.expHi.toNat
    | 0x30 => f.expCount.toNat
    | 0x34 => f.cplTimeout.toNat
    | 0x38 => f.gwTimeout.toNat
    | 0x3C => 32768
    | 0x40 => f.npOut
    | 0x44 => f.npPeak
    | 0x48 => f.err.toNat
    | 0x6C => f.ptpPort.toNat
    | 0x70 => f.cohLo.toNat
    | 0x74 => f.cohHi.toNat
    | 0x78 => f.cohSize.toNat
    | _ => 0

/-- The Bazaar block (R237). -/
def Dev.readBazaar (d : Dev) (o : Nat) : Nat :=
  let b := d.bz
  let open_ (bwd : Bool) : Nat := (b.rounds.filter fun r => r.bwd == bwd).length
  match o with
  | 0x00 => b.ctrl.toNat
  | 0x04 => b2n (wbit b.ctrl 0) + 2 * b2n (b.waits.any fun w => decide (b.tagsInUse + w.need > 65536)) +
      4 * b2n (b.waits.any fun w => decide (open_ w.bwd ≥ 64))
  | 0x08 => 65536
  | 0x0C => b.tagsInUse
  | 0x10 => b.tagsPeak
  | 0x14 => open_ false + open_ true * 2 ^ 8
  | 0x18 => 64
  | 0x1C => b.deadline.toNat
  | 0x20 => b.err.toNat
  | 0x24 => b.stale
  | 0x28 => b.late
  | 0x2C => b.dup
  | 0x30 => b.overrun
  | 0x34 => b.reexpr
  | 0x38 => b.missing
  | 0x3C => b.msgFail
  | _ => 0

/-- The reduction block (R302). -/
def Dev.readReduction (d : Dev) (o : Nat) : Nat :=
  let r := d.rd
  let running (p : CollSt → Bool) : List Nat := (r.channels.filter fun ch => ch.2.any fun k => k.started && p k).map (·.1)
  match o with
  | 0x00 => r.ctrl.toNat
  | 0x04 => maskOf (running fun _ => true) + b2n (!(running fun k => k.perm.isSome).isEmpty) * 2 ^ 16 +
      b2n (r.channels.any fun ch => ch.2.any fun k => k.ahead.isSome) * 2 ^ 17
  | 0x08 => r.epoch.toNat
  | 0x0C => r.deadline.toNat
  | 0x10 => 16
  | 0x14 => 8192
  | 0x18 => r.err.toNat
  | 0x1C => r.done
  | 0x20 => r.partialCount
  | 0x24 => r.late
  | 0x28 => r.stale
  | 0x2C => r.residueRetry
  | 0x30 => r.residueFail
  | 0x34 => r.nanSkipped
  | _ => 0

/-- The scale-tables block (R169). -/
def Dev.readScale (d : Dev) (o : Nat) : Nat :=
  let r := d.scale
  match o with
  | 0x00 => r.baseLo.toNat
  | 0x04 => r.baseHi.toNat
  | 0x08 => r.count.toNat
  | 0x0C => r.ctrl.toNat
  | 0x10 => r.status.toNat
  | 0x14 => if wbit r.ctrl 0 then ((List.range r.count.toNat).filter fun i => (d.entry i).warm == 1).length else 0
  | 0x18 => r.iterFaults.toNat
  | 0x20 => r.seedLo.toNat
  | 0x24 => r.seedHi.toNat
  | _ => 0

/-- The bound registers of a row (R533). -/
def BoundRow.readReg (b : BoundRow) (o : Nat) : Nat :=
  match o with
  | 0x00 => b.achieved | 0x04 => b.achieved >>> 32
  | 0x08 => b.bound | 0x0C => b.bound >>> 32
  | 0x10 => b.lastRatio.toNat
  | 0x14 => b.runRatio.toNat
  | 0x18 => b.peak.toNat
  | 0x1C => b.peakUncov.toNat
  | 0x20 => b.covered
  | 0x24 => b.uncovered
  | 0x28 => b.exceeded
  | _ => 0

/-- The counter block (R531 to R535): counters and bound registers as of the last snapshot. -/
def Dev.readCounters (d : Dev) (off : Nat) : Nat :=
  let c := d.ct
  if 0x3E0000 ≤ off then (c.boundsSnap.getD ((off - 0x3E0000) / 0x40) BoundRow.zero).readReg (off % 0x40)
  else match off with
    | 0x3D0004 => b2n c.snapDone
    | 0x3D0008 => c.snapTime
    | 0x3D000C => c.snapTime >>> 32
    | _ => lookNat (off / 8 * 8) c.snap >>> (32 * (off / 4 % 2))

/-- BT_LIVE (R479, R491): a live-service action in progress, or a channel repair, of the lowest Well that repairs one. -/
def Dev.liveNow (d : Dev) : Nat :=
  let repairs (w : Nat) : Bool := let s := d.well w; s.retraining || s.sparing || s.laneRepair
  if d.boot.live ≠ 0 then d.boot.live.toNat
  else match (presentWells d.grade).find? repairs with
    | some w => 8 + 16 * w
    | none => 0

/-- The boot and trust mailbox (R491). -/
def Dev.readBoot (d : Dev) (o : Nat) : Nat :=
  let b := d.boot
  if 0x60 ≤ o && o < 0x80 then fieldAt d.trust.m2 (o - 0x60) 4
  else match o with
    | 0x00 => b2n b.injectEnable
    | 0x08 => b2n b.busy + b.lastCmd * 2 ^ 8 + b.result * 2 ^ 16
    | 0x0C => b.imgLo.toNat
    | 0x10 => b.imgHi.toNat
    | 0x14 => b.imgLen.toNat
    | 0x18 => b.selftest.toNat
    | 0x1C => b.selftestPorts.toNat
    | 0x20 => Config.serial.toNat
    | 0x24 => Config.serial.toNat >>> 32
    | 0x28 => b.svn + d.trust.minSvn * 2 ^ 16
    | 0x2C => b.updates
    | 0x30 => d.liveNow
    | 0x34 => b.sysRank.elim 0 fun r => r % 8192 + 2 ^ 31
    | 0x38 => b.tFill
    | 0x3C => b.tSelftest
    | 0x40 => b.tWaitFw
    | 0x44 => b.tLoad
    | 0x48 => b2n b.chainOk + 2 * b2n b.calOk
    | _ => 0

/-- A word of BAR0 (R433, R465): before READY only the identity block and the mailbox hold values; in FAULT the errors block stays
readable (R543). -/
def Dev.readWord (d : Dev) (off : Nat) : Word32 :=
  let v : Nat :=
    if off < 0x10000 then d.readIdc off
    else if 0x3F0000 ≤ off then (if off < 0x400000 then d.readBoot (off - 0x3F0000) else 0)
    else if off / 0x10000 = 0x31 then (if d.boot.served || d.boot.st = 6 then d.readErrors (off % 0x10000) else 0)
    else if !d.boot.served then 0
    else if off < 0x100000 then d.readHost off
    else match off / 0x10000 with
      | 0x30 => d.readPower (off % 0x10000)
      | 0x32 => d.readDepot (off % 0x10000)
      | 0x33 => d.readWells (off % 0x10000)
      | 0x34 => d.readFabric (off % 0x10000)
      | 0x35 => d.readBazaar (off % 0x10000)
      | 0x36 => d.readReduction (off % 0x10000)
      | 0x37 => d.readScale (off % 0x10000)
      | 0x38 => d.readCounters off | 0x39 => d.readCounters off | 0x3D => d.readCounters off | 0x3E => d.readCounters off
      | _ => 0
  BitVec.ofNat 32 v

/-- A byte of BAR0. -/
def Dev.bar0 (d : Dev) (a : Nat) : Byte := (d.readWord (a / 4 * 4) >>> (8 * (a % 4))).setWidth 8

/-- A read of `size` bytes at an offset of a BAR (R431): aligned 32 and 64 bits whole, any other only in the aligned word that holds its
first byte. -/
def barRead (byte : Nat → Byte) (off size : Nat) : List Byte :=
  (List.range size).map fun i =>
    if (size = 4 && off % 4 = 0) || (size = 8 && off % 8 = 0) || (off + i) / 4 = off / 4 then byte (off + i) else 0

/-- A read of BAR0; it has no effect (R16). -/
def Dev.bar0Read (d : Dev) (off size : Nat) : List Byte := barRead d.bar0 off size

/-- A read of BAR4 (R429, R431, R511). -/
def Toll.bar4Read (t : Toll) (off size : Nat) : List Byte := barRead t.bar4 off size

end Sys2Proof.Machine
end

