-- ==== Sys2Proof/Machine/Dispatch.lean ====
section
/-! DEFINITION. The meaning of each command: one arm per row of the opcode table, each a direct call. -/

namespace Sys2Proof.Machine

open Sys2Proof

/-- The effect of a command on everything but the queue. -/
def exec (i : Instr) (s : State) : Host.Outcome State Fault Refusal :=
  match i with
  | .commandPush core unit cmd => Sys2Proof.Machine.execCommandPush core unit cmd s
  | .commandQueueRoom core => Sys2Proof.Machine.execCommandQueueRoom core s
  | .commandStart core unit => Sys2Proof.Machine.execCommandStart core unit s
  | .signalArrival core ids => Sys2Proof.Machine.execSignalArrival core ids s
  | .tileArrival core queue => Sys2Proof.Machine.execTileArrival core queue s
  | .creditReturn core queue => Sys2Proof.Machine.execCreditReturn core queue s
  | .close core unit => Sys2Proof.Machine.execClose core unit s
  | .wait core opIndex raw waits => Sys2Proof.Machine.execWait core opIndex raw waits s
  | .signal core opIndex raw sigs => Sys2Proof.Machine.execSignal core opIndex raw sigs s
  | .listPush core => Sys2Proof.Machine.execListPush core s
  | .listTake core opIndex => Sys2Proof.Machine.execListTake core opIndex s
  | .listTakeServed die => Sys2Proof.Machine.execListTakeServed die s
  | .affinityExpire die id => Sys2Proof.Machine.execAffinityExpire die id s
  | .reservedSlotEnd core => Sys2Proof.Machine.execReservedSlotEnd core s
  | .endRoutine core opIndex => Sys2Proof.Machine.execEndRoutine core opIndex s
  | .load core => Sys2Proof.Machine.execLoad core s
  | .store core => Sys2Proof.Machine.execStore core s
  | .gatherRows core => Sys2Proof.Machine.execGatherRows core s
  | .scatterRows core => Sys2Proof.Machine.execScatterRows core s
  | .matmul core => Sys2Proof.Machine.execMatmul core s
  | .matmulTopk core => Sys2Proof.Machine.execMatmulTopk core s
  | .matmulLse core => Sys2Proof.Machine.execMatmulLse core s
  | .accPassEnd core => Sys2Proof.Machine.execAccPassEnd core s
  | .drainEnd core => Sys2Proof.Machine.execDrainEnd core s
  | .map core => Sys2Proof.Machine.execMap core s
  | .reduce core => Sys2Proof.Machine.execReduce core s
  | .broadcast core => Sys2Proof.Machine.execBroadcast core s
  | .convert core => Sys2Proof.Machine.execConvert core s
  | .amax core => Sys2Proof.Machine.execAmax core s
  | .jobStop => Sys2Proof.Machine.execJobStop s
  | .waitCycle core => Sys2Proof.Machine.execWaitCycle core s
  | .gate core => Sys2Proof.Machine.execGate core s
  | .tagReserveServed => Sys2Proof.Machine.execTagReserveServed s
  | .roundOpenServed => Sys2Proof.Machine.execRoundOpenServed s
  | .dispatch core => Sys2Proof.Machine.execDispatch core s
  | .combine core => Sys2Proof.Machine.execCombine core s
  | .header via m => Sys2Proof.Machine.execHeader via m s
  | .rows via m => Sys2Proof.Machine.execRows via m s
  | .request via m => Sys2Proof.Machine.execRequest via m s
  | .grant via m => Sys2Proof.Machine.execGrant via m s
  | .dropList via m => Sys2Proof.Machine.execDropList via m s
  | .bazaarAbort via m => Sys2Proof.Machine.execBazaarAbort via m s
  | .phaseDeadline layer microBatch phase => Sys2Proof.Machine.execPhaseDeadline layer microBatch phase s
  | .replicaCopyDone slot => Sys2Proof.Machine.execReplicaCopyDone slot s
  | .bzClearCounts => Sys2Proof.Machine.execBzClearCounts s
  | .bzDisable => Sys2Proof.Machine.execBzDisable s
  | .stashAlloc core => Sys2Proof.Machine.execStashAlloc core s
  | .versionTake core => Sys2Proof.Machine.execVersionTake core s
  | .versionDrop core => Sys2Proof.Machine.execVersionDrop core s
  | .optUpdate core => Sys2Proof.Machine.execOptUpdate core s
  | .updateAdmit id => Sys2Proof.Machine.execUpdateAdmit id s
  | .holdMaxExpire id => Sys2Proof.Machine.execHoldMaxExpire id s
  | .allReduce core => Sys2Proof.Machine.execAllReduce core s
  | .reduceScatter core => Sys2Proof.Machine.execReduceScatter core s
  | .globalNorm core => Sys2Proof.Machine.execGlobalNorm core s
  | .permute core => Sys2Proof.Machine.execPermute core s
  | .collectiveStart channel => Sys2Proof.Machine.execCollectiveStart channel s
  | .up via m residue => Sys2Proof.Machine.execUp via m residue s
  | .result via m => Sys2Proof.Machine.execResult via m s
  | .refuse via m => Sys2Proof.Machine.execRefuse via m s
  | .reductionAbort via m => Sys2Proof.Machine.execReductionAbort via m s
  | .normUp via m => Sys2Proof.Machine.execNormUp via m s
  | .normResult via m => Sys2Proof.Machine.execNormResult via m s
  | .edgeDeadline channel segment level => Sys2Proof.Machine.execEdgeDeadline channel segment level s
  | .segmentDeadline channel segment => Sys2Proof.Machine.execSegmentDeadline channel segment s
  | .normDeadline channel => Sys2Proof.Machine.execNormDeadline channel s
  | .epochAheadTimeout channel => Sys2Proof.Machine.execEpochAheadTimeout channel s
  | .permuteTile via t => Sys2Proof.Machine.execPermuteTile via t s
  | .permuteDeadline channel => Sys2Proof.Machine.execPermuteDeadline channel s
  | .rdClearCounts => Sys2Proof.Machine.execRdClearCounts s
  | .rdDisable => Sys2Proof.Machine.execRdDisable s
  | .sumsq core => Sys2Proof.Machine.execSumsq core s
  | .requant core => Sys2Proof.Machine.execRequant core s
  | .scatterAdd core => Sys2Proof.Machine.execScatterAdd core s
  | .fold core => Sys2Proof.Machine.execFold core s
  | .fill core => Sys2Proof.Machine.execFill core s
  | .scrubRange core => Sys2Proof.Machine.execScrubRange core s
  | .wellCommandStart id => Sys2Proof.Machine.execWellCommandStart id s
  | .wellPartEnd id part engineFault ecc => Sys2Proof.Machine.execWellPartEnd id part engineFault ecc s
  | .wellFillDone start => Sys2Proof.Machine.execWellFillDone start s
  | .backgroundFillLine well line => Sys2Proof.Machine.execBackgroundFillLine well line s
  | .droneLine well ecc => Sys2Proof.Machine.execDroneLine well ecc s
  | .laneRepair well channel => Sys2Proof.Machine.execLaneRepair well channel s
  | .retrainPreserve well channel => Sys2Proof.Machine.execRetrainPreserve well channel s
  | .retrainReset well channel => Sys2Proof.Machine.execRetrainReset well channel s
  | .rowSpare well channel lines => Sys2Proof.Machine.execRowSpare well channel lines s
  | .channelRepairEnd well => Sys2Proof.Machine.execChannelRepairEnd well s
  | .wlClearCounts => Sys2Proof.Machine.execWlClearCounts s
  | .alloc core => Sys2Proof.Machine.execAlloc core s
  | .allocGranted pool => Sys2Proof.Machine.execAllocGranted pool s
  | .allocTimeout id => Sys2Proof.Machine.execAllocTimeout id s
  | .retain core => Sys2Proof.Machine.execRetain core s
  | .release core => Sys2Proof.Machine.execRelease core s
  | .prefetchRead die stream => Sys2Proof.Machine.execPrefetchRead die stream s
  | .prefetchStreamFree die stream => Sys2Proof.Machine.execPrefetchStreamFree die stream s
  | .dpClearCounts => Sys2Proof.Machine.execDpClearCounts s
  | .plClearCounts => Sys2Proof.Machine.execPlClearCounts s
  | .read port p => Sys2Proof.Machine.execRead port p s
  | .write port p => Sys2Proof.Machine.execWrite port p s
  | .atomic port p => Sys2Proof.Machine.execAtomic port p s
  | .signalPacket port p => Sys2Proof.Machine.execSignalPacket port p s
  | .completion port p => Sys2Proof.Machine.execCompletion port p s
  | .ack port p => Sys2Proof.Machine.execAck port p s
  | .coherentPacket port p => Sys2Proof.Machine.execCoherentPacket port p s
  | .frameReplay port => Sys2Proof.Machine.execFrameReplay port s
  | .requestTimeout id => Sys2Proof.Machine.execRequestTimeout id s
  | .tagQuarantineEnd dest tag => Sys2Proof.Machine.execTagQuarantineEnd dest tag s
  | .cohMemberLost fabricId => Sys2Proof.Machine.execCohMemberLost fabricId s
  | .fxClearCounts => Sys2Proof.Machine.execFxClearCounts s
  | .fxDisable => Sys2Proof.Machine.execFxDisable s
  | .queueTile via m => Sys2Proof.Machine.execQueueTile via m s
  | .queueCredit via m => Sys2Proof.Machine.execQueueCredit via m s
  | .queueCloseMsg via m => Sys2Proof.Machine.execQueueCloseMsg via m s
  | .creditTimer core queue => Sys2Proof.Machine.execCreditTimer core queue s
  | .creditResend core queue => Sys2Proof.Machine.execCreditResend core queue s
  | .remoteWaitExpire core queue => Sys2Proof.Machine.execRemoteWaitExpire core queue s
  | .announce => Sys2Proof.Machine.execAnnounce s
  | .assignId fromSwitch src fabricId managerId => Sys2Proof.Machine.execAssignId fromSwitch src fabricId managerId s
  | .group fromSwitch src members => Sys2Proof.Machine.execGroup fromSwitch src members s
  | .assignRank fromSwitch src rank => Sys2Proof.Machine.execAssignRank fromSwitch src rank s
  | .fmCommand fromSwitch src payload => Sys2Proof.Machine.execFmCommand fromSwitch src payload s
  | .ptpMessage fromSwitch src port kind offsetNs sourceNs => Sys2Proof.Machine.execPtpMessage fromSwitch src port kind offsetNs sourceNs s
  | .ppsEdge offsetNs => Sys2Proof.Machine.execPpsEdge offsetNs s
  | .sourceLoss => Sys2Proof.Machine.execSourceLoss s
  | .sqTail ring value => Sys2Proof.Machine.execSqTail ring value s
  | .cqHead ring value => Sys2Proof.Machine.execCqHead ring value s
  | .ringEnable ring ctrl => Sys2Proof.Machine.execRingEnable ring ctrl s
  | .ringDisable ring ctrl => Sys2Proof.Machine.execRingDisable ring ctrl s
  | .nop ring => Sys2Proof.Machine.execNop ring s
  | .jobLoad ring image => Sys2Proof.Machine.execJobLoad ring image s
  | .jobStart ring => Sys2Proof.Machine.execJobStart ring s
  | .jobHalt ring => Sys2Proof.Machine.execJobHalt ring s
  | .jobUnload ring => Sys2Proof.Machine.execJobUnload ring s
  | .copy ring => Sys2Proof.Machine.execCopy ring s
  | .hostAlloc ring => Sys2Proof.Machine.execHostAlloc ring s
  | .hostRelease ring => Sys2Proof.Machine.execHostRelease ring s
  | .wellCmd ring => Sys2Proof.Machine.execWellCmd ring s
  | .intTimer ring => Sys2Proof.Machine.execIntTimer ring s
  | .msixUnmask vector => Sys2Proof.Machine.execMsixUnmask vector s
  | .flr => Sys2Proof.Machine.execFlr s
  | .bar2Read off len => Sys2Proof.Machine.execBar2Read off len s
  | .bar2Write off data => Sys2Proof.Machine.execBar2Write off data s
  | .pcieCompletion tag st data => Sys2Proof.Machine.execPcieCompletion tag st data s
  | .hostReadTimeout tag => Sys2Proof.Machine.execHostReadTimeout tag s
  | .registerWrite off size value => Sys2Proof.Machine.execRegisterWrite off size value s
  | .powerGood straps => Sys2Proof.Machine.execPowerGood straps s
  | .powerGoodLoss => Sys2Proof.Machine.execPowerGoodLoss s
  | .perstFall straps => Sys2Proof.Machine.execPerstFall straps s
  | .perstRelease => Sys2Proof.Machine.execPerstRelease s
  | .staggerEnd => Sys2Proof.Machine.execStaggerEnd s
  | .selftestDone r => Sys2Proof.Machine.execSelftestDone r s
  | .linkTrained port halfWidth halfRate => Sys2Proof.Machine.execLinkTrained port halfWidth halfRate s
  | .fwLoad run => Sys2Proof.Machine.execFwLoad run s
  | .fwUpdate run => Sys2Proof.Machine.execFwUpdate run s
  | .spareSwap core => Sys2Proof.Machine.execSpareSwap core s
  | .autoSpareSwap core => Sys2Proof.Machine.execAutoSpareSwap core s
  | .portRetrain port halfWidth trained => Sys2Proof.Machine.execPortRetrain port halfWidth trained s
  | .laneFault port lane => Sys2Proof.Machine.execLaneFault port lane s
  | .fullRetrainTimer port trained => Sys2Proof.Machine.execFullRetrainTimer port trained s
  | .recal sensor => Sys2Proof.Machine.execRecal sensor s
  | .svnCommit => Sys2Proof.Machine.execSvnCommit s
  | .injectEnableWrite value => Sys2Proof.Machine.execInjectEnableWrite value s
  | .getVersion => Sys2Proof.Machine.execGetVersion s
  | .getCapabilities => Sys2Proof.Machine.execGetCapabilities s
  | .negotiateAlgorithms baseAsym baseHash measHash measSpec => Sys2Proof.Machine.execNegotiateAlgorithms baseAsym baseHash measHash measSpec s
  | .getDigests => Sys2Proof.Machine.execGetDigests s
  | .getCertificate slot off len => Sys2Proof.Machine.execGetCertificate slot off len s
  | .challenge slot nonce => Sys2Proof.Machine.execChallenge slot nonce s
  | .getMeasurements index sign nonce => Sys2Proof.Machine.execGetMeasurements index sign nonce s
  | .tollhousePowerUp unsealPinHigh => Sys2Proof.Machine.execTollhousePowerUp unsealPinHigh s
  | .workCountSend die => Sys2Proof.Machine.execWorkCountSend die s
  | .workCountFrame frame => Sys2Proof.Machine.execWorkCountFrame frame s
  | .workStaleTimeout die => Sys2Proof.Machine.execWorkStaleTimeout die s
  | .periodicReading energy => Sys2Proof.Machine.execPeriodicReading energy s
  | .timeCheck => Sys2Proof.Machine.execTimeCheck s
  | .senseFault channel kind => Sys2Proof.Machine.execSenseFault channel kind s
  | .senseClear channel => Sys2Proof.Machine.execSenseClear channel s
  | .getReading slot req => Sys2Proof.Machine.execGetReading slot req s
  | .getLog slot req => Sys2Proof.Machine.execGetLog slot req s
  | .getCert slot req => Sys2Proof.Machine.execGetCert slot req s
  | .getStatus slot req => Sys2Proof.Machine.execGetStatus slot req s
  | .unseal => Sys2Proof.Machine.execUnseal s
  | .tollhouseFwImage image selfCheckOk pinHighBeforeSwitch => Sys2Proof.Machine.execTollhouseFwImage image selfCheckOk pinHighBeforeSwitch s
  | .droverSag sensor => Sys2Proof.Machine.execDroverSag sensor s
  | .droverRaise sensor => Sys2Proof.Machine.execDroverRaise sensor s
  | .limiterAdjust raise pacedUs => Sys2Proof.Machine.execLimiterAdjust raise pacedUs s
  | .powerStateEnter => Sys2Proof.Machine.execPowerStateEnter s
  | .wake ev => Sys2Proof.Machine.execWake ev s
  | .hostLatencyTolWrite value => Sys2Proof.Machine.execHostLatencyTolWrite value s
  | .capture => Sys2Proof.Machine.execCapture s
  | .pwClearCounts => Sys2Proof.Machine.execPwClearCounts s
  | .forceWarm => Sys2Proof.Machine.execForceWarm s
  | .stSnapshot => Sys2Proof.Machine.execStSnapshot s
  | .ctSnapshot clear => Sys2Proof.Machine.execCtSnapshot clear s
  | .ctClear => Sys2Proof.Machine.execCtClear s
  | .boundUpdate dense streaming exchange pass after => Sys2Proof.Machine.execBoundUpdate dense streaming exchange pass after s
  | .errorRecordDeliver => Sys2Proof.Machine.execErrorRecordDeliver s
  | .ceCoalesceEnd detector injected => Sys2Proof.Machine.execCeCoalesceEnd detector injected s
  | .erRingHeadWrite value => Sys2Proof.Machine.execErRingHeadWrite value s
  | .erRingEnable value => Sys2Proof.Machine.execErRingEnable value s
  | .erInjArm slot value => Sys2Proof.Machine.execErInjArm slot value s
  | .supplyLow sensor lowestMv => Sys2Proof.Machine.execSupplyLow sensor lowestMv s
  | .thermalTrip sensor celsius => Sys2Proof.Machine.execThermalTrip sensor celsius s
  | .smbIdent => Sys2Proof.Machine.execSmbIdent s
  | .smbState => Sys2Proof.Machine.execSmbState s
  | .smbTemp => Sys2Proof.Machine.execSmbTemp s
  | .smbPower => Sys2Proof.Machine.execSmbPower s
  | .smbTod pecOk data => Sys2Proof.Machine.execSmbTod pecOk data s
  | .smbTollReq pecOk data => Sys2Proof.Machine.execSmbTollReq pecOk data s
  | .smbTollStatus => Sys2Proof.Machine.execSmbTollStatus s
  | .smbTollOffset pecOk off => Sys2Proof.Machine.execSmbTollOffset pecOk off s
  | .smbTollRead len => Sys2Proof.Machine.execSmbTollRead len s
  | .smbAlertResponse => Sys2Proof.Machine.execSmbAlertResponse s
  | .jtagInstruction drivesBalls => Sys2Proof.Machine.execJtagInstruction drivesBalls s
  | .tollhouseSeal => Sys2Proof.Machine.execTollhouseSeal s
  | .tollhousePowerLoss => Sys2Proof.Machine.execTollhousePowerLoss s
  | .tollhouseResponseReady => Sys2Proof.Machine.execTollhouseResponseReady s
  | .spareSwapEnd die copyOk => Sys2Proof.Machine.execSpareSwapEnd die copyOk s
  | .fwUpdateEnd => Sys2Proof.Machine.execFwUpdateEnd s
  | .mgmtCoreSelfCheckFail core partnerTakes => Sys2Proof.Machine.execMgmtCoreSelfCheckFail core partnerTakes s

end Sys2Proof.Machine
end

