-- ==== Sys2Proof/Safety.lean ====
section
/-! DEFINITION. What a safe run of the block is, and the words in which statements about every state speak: a core changed, no
injection slot armed, a core at rest, a device that is up. -/

namespace Sys2Proof.Machine

open Sys2Proof

/-- A run of `k` steps from `s` that meets neither a fault nor a refusal. -/
def State.SafeFor (s : State) (k : Nat) : Prop := ∃ t, Host.Core.run core k s = .next t

/-- The state with its device changed and nothing else. -/
def State.dev! (s : State) (d : Dev) : State := { s with dev := d }

/-- The state with one core changed and nothing else. -/
def State.atCore (s : State) (c : Nat) (f : CoreSt → CoreSt) : State := { s with dev := s.dev.setCore c f }

/-- The state with one more update in transit toward a core (R89) and nothing else changed. -/
def State.sends (s : State) (core : Nat) (src : SigSrc) (obj : SigObj) (op : SigOp) : State :=
  s.dev! { s.dev with nextId := s.dev.nextId + 1, inflight := s.dev.inflight ++ [⟨s.dev.nextId, core, src, obj, op⟩] }

/-- The state with one work list changed and nothing else. -/
def State.atList (s : State) (die : Nat) (f : WorkList → WorkList) : State := s.dev! (s.dev.setList die f)

/-- The state with one tile queue changed and nothing else. -/
def State.atQueue (s : State) (i : Nat) (f : QState → QState) : State := s.dev! (s.dev.setQ i f)

/-- No injection slot is armed (R549), so that every detection is a real one. -/
def Dev.unarmed (d : Dev) : Bool := d.er.slots.all fun s => !wbit s.ctrl 31

/-- A core with no queued command, nothing in the pipe of its matrix engine, and no control-core operation that waits. -/
def CoreSt.atRest (s : CoreSt) : Bool :=
  s.mx.isEmpty && s.pipe.isEmpty && s.vx.isEmpty && s.ls.isEmpty && s.st.isEmpty && s.waiting.isNone && s.ending.isNone

/-- A command as a push puts it into its queue (R73, R104): with the next sequence number, and the item whose routine pushes it (R95). -/
def CoreSt.newCmd (s : CoreSt) (u : EngUnit) (cmd : Cmd) : QCmd :=
  { seq := s.seqs.getD (unitIdx u) 0, cmd := cmd, started := false, asked := false, inputs := [], ran := false, hold := [], trap := none,
    item := s.items.head?.map (·.1) }

/-- Nothing waits for room in a work list: no withdrawn item, and no item of an arrangement (R92, R95, R223). -/
def Dev.noBacklog (d : Dev) (die : Nat) : Prop := (d.list die).back = [] ∧ ∀ r ∈ d.bz.rounds, ∀ p, r.disp = some p → p.toPush = []

/-- A device that has reached READY since its last device reset (R465) and is in A0 (R522): BAR0 writes are served at once. -/
def Dev.awakeUp (d : Dev) : Bool := d.boot.served && d.pw.state == 0

/-- A command that an engine runs in its simplest surroundings: it is alone in its queue, the core's other engines have nothing, no
slot is armed, it carries no signal and no NAN_TRAP, and nothing coherent or replicated is in play. -/
def engAlone (d : Dev) (c : Nat) (u : EngUnit) (q : QCmd) : Prop :=
  (d.core c).queue u = [q] ∧ q.started = true ∧ q.ran = false ∧ q.asked = false ∧ q.hold = [] ∧ q.trap = none ∧
  q.cmd.signals = [] ∧ q.cmd.nanTrap = false ∧ (∀ v ∈ [EngUnit.mx, .vx, .ls], v ≠ u → (d.core c).queue v = []) ∧
  (d.core c).pipe = [] ∧ (d.core c).waiting = none ∧ (d.core c).ending = none ∧ c < d.cores.length ∧ d.unarmed = true ∧ wbit d.fx.ctrl 2 = false ∧
  d.place.replicas = [] ∧ d.landed c u = true ∧ d.writesOut c = false

/-- Pieces of device memory with no poisoned line and no line that its Well holds (R310, R332, R484). -/
def Dev.clean (d : Dev) (ps : List (Nat × Nat)) : Prop :=
  ∀ x ∈ ps, x.1 < hostBase ∧ d.poisonedIn x.1 x.2 = none ∧ d.heldAt x.1 x.2 = false

/-- A MATMUL that MX has multiplied, in its simplest surroundings: alone in the pipe, with nothing queued on the core's engines. -/
def pipeAlone (d : Dev) (c : Nat) (q : QCmd) (a : AccSt) : Prop :=
  (d.core c).pipe = [⟨q, a⟩] ∧ q.ran = false ∧ q.hold = [] ∧ q.trap = none ∧ q.cmd.signals = [] ∧ q.cmd.nanTrap = false ∧
  (∀ v ∈ [EngUnit.mx, .vx, .ls], (d.core c).queue v = []) ∧ (d.core c).waiting = none ∧ (d.core c).ending = none ∧
  c < d.cores.length ∧ d.unarmed = true ∧ d.landed c .mx = true

/-- `n` tiles of an operand as they stand: at the head of its queue past `skip` tiles, in the queue's format (R572), or in device memory at addresses that pass the
checks, with no line poisoned or held. Operands on another device and in host memory are read by packets first (R376, R253). -/
def Dev.tilesAt (d : Dev) (c : Nat) (u : EngUnit) (pos : Nat) (src : TileSrc) (skip n : Nat) (ts : List (List Byte)) : Prop :=
  match src with
  | .queue q _ _ => ∃ x, (d.headIdx c u q).bind d.q? = some x ∧ skip + n ≤ x.ring.length ∧ ts = (x.ring.drop skip).take n ∧
      ∀ t ∈ ts, tileFmt t = x.decl.fmt
  | .mem ref stride f _ => ∃ ps : List (List (Nat × Nat)), d.tileSpans pos ref stride f n false = .ok (ps.map Span.mem) ∧
      (∀ p ∈ ps, d.clean p) ∧ ts = ps.map (fun p => p.flatMap fun x => d.peek x.1 x.2) ∧
      (∀ t ∈ ts, tileFmt t = f)

/-- A tile as it is read, transposed or not (R48). -/
def turned (tr : Bool) (t : List Byte) : List Byte := if tr then transposeTile t else t

/-- A tile as its operand delivers it (R48). -/
def asRead (src : TileSrc) (t : List Byte) : List Byte :=
  match src with
  | .queue _ _ tr => if tr then transposeTile t else t
  | .mem _ _ _ tr => if tr then transposeTile t else t

/-- A MESSAGE of the device's job arrives while the fabric is enabled, the device is in A0 and no slot is armed: it is taken in
(R378, R524). -/
def State.takesMsg (s : State) (via : Via) : Prop :=
  s.dev.pw.state = 0 ∧ s.dev.unarmed = true ∧ via.jobId = s.dev.fx.jobId ∧ s.dev.fx.jobId ≠ 0 ∧ wbit s.dev.fx.ctrl 0 = true

/-- Bytes of device memory that can be read: in job memory, no line poisoned. -/
def Dev.readable (d : Dev) (a n : Nat) : Bool := inJobMem d.grade a n && (d.poisonedIn a n).isNone

/-- A span that lies in device memory with no line poisoned or held. -/
def Dev.goodSpan (d : Dev) (s : Span) : Prop := ∃ ps, s = .mem ps ∧ d.clean ps

/-- The row of the opcode table that runs a multiplying command (R124, R141, R145). -/
def mxRow (c : Nat) : DrainKind → Instr
  | .plain => .matmul c
  | .topk .. => .matmulTopk c
  | .lse .. => .matmulLse c

/-- The tiles of GATE's X or WG by their numbers, as they stand (`tilesAt`). -/
def Dev.gateTilesAt (d : Dev) (c pos : Nat) (src : TileSrc) (skip : Nat) (is : List Nat) (ts : List (List Byte)) : Prop :=
  match src with
  | .queue .. => d.tilesAt c .mx pos src skip is.length ts
  | .mem _ _ f _ => ∃ ps : List (List (Nat × Nat)),
      d.gateSpans pos src is = .ok ((is.map fun i => 2 ^ 40 * pos + i).zip (ps.map Span.mem)) ∧ ps.length = is.length ∧
      (∀ p ∈ ps, d.clean p) ∧ ts = ps.map (fun p => p.flatMap fun x => d.peek x.1 x.2) ∧
      (∀ t ∈ ts, tileFmt t = f)

/-- How tiles written under an entry take their scales when the reference names one of the two open iterations of a valid entry
that can be read (R156); tiles without entry are unscaled (R46). -/
def Dev.ruleAt (d : Dev) : Option ScaleRef → Option ScaleRule
  | none => some (.fixed 0x7F)
  | some ref =>
    let e := d.entry ref.idx
    if d.scale.count.toNat ≤ ref.idx || e.valid ≠ 1 || (d.poisonedIn (d.entryAddr ref.idx) 64).isSome then none
    else if ref.iter % 65536 = e.iter.toNat then some (e.rule .cur)
    else if (ref.iter + 1) % 65536 = e.iter.toNat then some (e.rule .prev)
    else none

/-- The scale table lies in job memory whole (R17, R169). -/
def Dev.tableIn (d : Dev) : Bool := inJobMem d.grade d.scaleBase (32 + 64 * d.scale.count.toNat)

/-- The bytes of the entry that an operation names. -/
def Dev.entryBytesAt (d : Dev) (entry : Option ScaleRef) (a : Nat) : Bool :=
  entry.any fun r => decide (d.entryAddr r.idx ≤ a) && decide (a < d.entryAddr r.idx + 64)

/-- The tail of a queue of an engine, both ends of it on this core, open and with room for `n` more tiles. -/
def Dev.tailRoom (d : Dev) (c : Nat) (u : EngUnit) (qn i n : Nat) (x : QState) : Prop :=
  d.tailIdx c u qn = some i ∧ d.q? i = some x ∧ x.decl.prod.core = c ∧ x.decl.cons.core = c ∧ d.farCons x = false ∧
  x.closed = false ∧ x.ring.length + n ≤ x.decl.cap

/-- Every queue of the core has its producer on this device, so that a pop returns its credit here (R81). -/
def Dev.nearQueues (d : Dev) : Prop := ∀ x ∈ d.queues, d.farProd x = false

/-- A command of an engine has completed and touched nothing of these: what waits, the Tollhouse, other cores, the core's flags and
counters, the error records, and every byte of memory but those of `but`. Where MX idles then, its run retires, which may leave BOUND_OVER
to be recorded (R533, R537). -/
def engFrame (s t : State) (c : Nat) (u : EngUnit) (but : Nat → Bool) : Prop :=
  (t.dev.core c).queue u = [] ∧ t.pending = s.pending ∧ t.toll = s.toll ∧ (∀ k, k ≠ c → t.dev.core k = s.dev.core k) ∧
  (t.dev.core c).flags = (s.dev.core c).flags ∧ (t.dev.core c).counters = (s.dev.core c).counters ∧
  (t.dev.core c).halted = (s.dev.core c).halted ∧ (u ≠ .mx → t.dev.er = s.dev.er) ∧ t.dev.er = { s.dev.er with coalesce := t.dev.er.coalesce } ∧
  (∀ a, but a = false → t.dev.mem.read a = s.dev.mem.read a)

/-- A station command in its simplest surroundings: accepted and not begun, no other of its core before it, alone under its id, with
no signal, and the core does not stand at END. -/
def Dev.serves (d : Dev) (c : Nat) (a : Accepted) (pre post : List Accepted) : Prop :=
  d.accepted = pre ++ a :: post ∧ a.core = c ∧ a.begun = false ∧ (∀ x ∈ pre, x.core ≠ c) ∧ (∀ x ∈ pre ++ post, x.id ≠ a.id) ∧
  a.cmd.signals = [] ∧ (d.core c).ending = none

/-- The device with its accepted station commands replaced. -/
def Dev.withAccepted (d : Dev) (xs : List Accepted) : Dev := { d with accepted := xs }

/-- A reduction message of a kind, from the rank it names, to this device, with a good head, is taken in (R292, R378). -/
def State.takesRed (s : State) (via : Via) (m : RedMsg) (kind : Nat) : Prop :=
  s.takesMsg via ∧ s.dev.fidRank via.srcId = some m.src ∧ m.version = 1 ∧ m.kind = kind ∧ m.dst = s.dev.fx.rankSelf ∧ m.resv = 0

/-- The running tree collective of a channel, with nothing held unread for it. -/
def Dev.runsTree (d : Dev) (ch : Nat) (k : CollSt) (a : CollArgs) : Prop :=
  d.coll ch = some k ∧ k.started = true ∧ k.coll = some a ∧ a.channel = ch ∧ k.members.length = a.n ∧ a.pos < a.n ∧
  (∀ x ∈ d.rd.held, x.msg.collId ≠ a.collId) ∧ d.unarmed = true

/-- A reduction message of the running tree collective of its channel. -/
def State.takesTree (s : State) (via : Via) (m : RedMsg) (kind : Nat) (k : CollSt) (a : CollArgs) : Prop :=
  s.takesRed via m kind ∧ s.dev.runsTree m.channel k a ∧ m.collId = a.collId ∧ m.epoch = a.epoch

/-- A step that leaves what waits, the Tollhouse, cores, queues and accepted commands as they were. -/
def fabricFrame (s t : State) : Prop :=
  t.pending = s.pending ∧ t.toll = s.toll ∧ t.dev.cores = s.dev.cores ∧ t.dev.queues = s.dev.queues ∧ t.dev.accepted = s.dev.accepted

/-- A segment that is open on this device and waits for the edge of its next level (R277). -/
def waitsEdge (a : CollArgs) (g : SegSt) : Prop :=
  g.outcome = 0 ∧ g.upSent = false ∧ hasChild a.n (relPos a.n a.pos g.seg) g.level = true ∧ (∀ x ∈ g.failed, x.1 ≠ g.level)

/-- A packet that arrives whole at its receiver, with the device in A0 and no slot armed (R381). -/
def Dev.takesPkt (d : Dev) (p : Packet) : Prop :=
  d.pw.state = 0 ∧ d.unarmed = true ∧ p.crc = packetCrc p ∧ p.version = 1 ∧ d.fx.fid = some p.destId

/-- The answer to a packet: its operation, status and data (R381, R385, R386). -/
def Dev.reply (d : Dev) (p : Packet) (op status : Nat) (data : List Byte) : Output :=
  .packet d.pickPort (sealPacket
    { version := 1, cls := p.cls, op := op, flags := if status = 4 then 8 else 0, destId := p.srcId, srcId := d.fx.fid.getD 0,
      jobId := d.fx.jobId, reqTag := p.reqTag, stream := 0, crc := 0, len := data.length, addr := status, payload := data })

/-- The ACK of an ORDERED message (R385). -/
def Dev.ackOf (d : Dev) (via : Via) : Output :=
  d.reply ⟨1, 1, 5, 0, d.fx.fid.getD 0, via.srcId, via.jobId, via.reqTag, 0, 0, 0, 0, []⟩ 7 0 []

/-- Nothing of a core waits or ends on one of its engines, queues or its control core. -/
def Dev.restful (d : Dev) (c : Nat) : Prop := (d.core c).atRest = true ∧ c < d.cores.length

/-- The completion record of a started descriptor as it is written to its ring (R448, R451). -/
def Dev.recordOf (d : Dev) (n : Nat) (x : Desc) (status reason result detail err : Nat) : Output :=
  .hostWrite ((d.ring n).cqBase + 32 * (d.ring n).cqTail)
    (recordBytes status reason x.slot n x.cookie result detail (if err = 0 then x.errSeq else err) (d.ring n).phase)

/-- The descriptor of an opcode that a ring runs next, alone under its slot among those started, with no UPDATE under way. -/
def Dev.nextIs (d : Dev) (n opcode : Nat) (x : Desc) : Prop :=
  d.nextDesc n opcode = some x ∧ (d.ring n).descs.find? (fun y => y.started && y.slot == x.slot) = some x ∧ d.trust.update = none

/-- A step that leaves what waits, the Tollhouse, memory, cores, queues, accepted commands and the fabric's ports as they were. -/
def hostFrame (s t : State) : Prop := fabricFrame s t ∧ t.dev.mem = s.dev.mem ∧ t.dev.fx.ports = s.dev.fx.ports

/-- The boot and trust mailbox is free, the device in A0 and no slot armed (R479). -/
def Dev.mailFree (d : Dev) : Prop := d.pw.state = 0 ∧ d.boot.busy = false ∧ d.unarmed = true

/-- A command of the boot and trust mailbox has ended with a result, and the mailbox vector has fired (R456, R479). -/
def mailAnswer (s t : State) (code result : Nat) : Prop :=
  t.dev.boot.busy = false ∧ t.dev.boot.lastCmd = code ∧ t.dev.boot.result = result ∧
  ((s.dev.msixEntry s.dev.mailVector).mask = false → Output.msix s.dev.mailVector ∈ t.dev.out)

/-- The result code of the first check of an image that fails, in the order of R470, with the HANDOVER that an UPDATE asks for (R480, R481). -/
def Dev.imgVerdict (d : Dev) (img : List Byte) (len : Nat) (handover : Option Nat) : Option Nat :=
  if imgFormOk img len = false ∨ (∃ h, handover = some h ∧ h ≠ fieldAt img 6 2) then some 0x04
  else if (fieldAt img 16 4).testBit (gradeBit d.grade) = false then some 0x05
  else if fieldAt img 12 4 < d.trust.minSvn then some 0x06
  else if imgSigned img len = false then some 0x07
  else none

/-- One audit entry more, with its hash and its place in the store, newest first (R506, R507). -/
def Toll.loggedOne (t u : Toll) (event : Nat) (data : List Byte) : Prop :=
  let e := leBytes 8 (t.nv.logSeq + 1) ++ leBytes 8 u.tt ++ leBytes 8 u.mono ++ leBytes 4 u.nv.bootCount ++ leBytes 2 event ++ zeros 2 ++
    slice data 0 32
  let h := sha256 (t.nv.logHash ++ e)
  u.nv.logSeq = t.nv.logSeq + 1 ∧ u.nv.logHash = h ∧ u.nv.log = ((e, h) :: t.nv.log).take 65536

/-- What the Tollhouse keeps of its energy, its sequence, its firmware and its seal (R492). -/
def Toll.keeps (t u : Toll) : Prop :=
  u.running = t.running ∧ u.nv.energy = t.nv.energy ∧ u.nv.seq = t.nv.seq ∧ u.nv.bootCount = t.nv.bootCount ∧ u.nv.fwDigest = t.nv.fwDigest ∧
  u.nv.fwVersion = t.nv.fwVersion ∧ u.nv.fwSvn = t.nv.fwSvn ∧ u.nv.fwUpdates = t.nv.fwUpdates ∧ u.readings = t.readings

/-- A step that changes nothing but the Tollhouse. -/
def tollFrame (s t : State) : Prop := t.pending = s.pending ∧ t.dev = s.dev

/-- The commands that reach the Tollhouse: its power, its inputs of R492, its own time, and its mailbox. -/
def tollInput : Instr → Bool
  | .tollhousePowerUp _ | .tollhousePowerLoss | .workCountFrame _ | .workStaleTimeout _ | .periodicReading _ | .timeCheck
  | .senseFault _ _ | .senseClear _ | .getReading _ _ | .getLog _ _ | .getCert _ _ | .getStatus _ _ | .unseal
  | .tollhouseFwImage _ _ _ | .tollhouseSeal | .tollhouseResponseReady | .smbTollReq _ _ => true
  | _ => false

/-- Audit entries, newest first: each hash is over the hash before it and the entry, and LOG_SEQ rises by 1 (R506, R507). -/
def logChained : List (List Byte × List Byte) → Prop
  | [] => True
  | [_] => True
  | x :: y :: r => x.2 = sha256 (y.2 ++ x.1) ∧ fieldAt x.1 0 8 = (fieldAt y.1 0 8 + 1) % 2 ^ 64 ∧ logChained (y :: r)

/-- The audit log as R507 keeps it: the newest 65,536 entries of 64 bytes, chained, LOG_HASH that of the newest, entry 1 hashed after 32 zero
bytes. -/
def TollNv.chained (v : TollNv) : Prop :=
  v.log.length = min v.logSeq 65536 ∧ (∀ x ∈ v.log, x.1.length = 64) ∧ logChained v.log ∧
  (v.log = [] → v.logHash = zeros 32) ∧ (∀ x, v.log.head? = some x → v.logHash = x.2 ∧ fieldAt x.1 0 8 = v.logSeq % 2 ^ 64) ∧
  (v.logSeq ≤ 65536 → ∀ x, v.log.getLast? = some x → x.2 = sha256 (zeros 32 ++ x.1))

end Sys2Proof.Machine
end

