-- ==== Sys2Proof/Certificates/Slice0/Obligations.lean ====
section
/-! DEFINITION. The statements for the provers. -/

open Sys2Proof Sys2Proof.Machine

/-! ## The block -/

/-- A step takes the command at the front of the queue and runs it on the state with the queue's rest. -/
def Obligations.StepRunsFront : Prop :=
  ∀ (s : State) (c : Instr) (rest : List Instr), s.pending = c :: rest → step s = exec c { s with pending := rest }

/-- Every command, in every state, answers a next state, and none touches the queue of what waits: the manual gives each of them an effect. Where it
rests on the model's choices: log entry 1. -/
def Obligations.EveryCommandAnswers : Prop :=
  ∀ (c : Instr) (s : State), ∃ t, exec c s = .next t ∧ t.pending = s.pending

/-- Reset (R153, R237, R302, R334, R365, R366, R405, R434, R459, R465, R491, R534, R553): IDC_STATE is RESET, nothing waits, memory lists nothing,
no job is loaded; once the device serves its registers, each reads its stated reset value. Before that only the identity block and the mailbox do.
The grade is the model's choice (log entry 3). Where it rests on the model's choices: log entries 3, 4, 5. -/
def Obligations.ResetValues : Prop :=
  State.reset.pending = [] ∧ State.reset.dev.boot.st = 0 ∧ State.reset.dev.mem = [] ∧ State.reset.dev.mem.wf = true ∧ State.reset.dev.job = none ∧
  State.reset.toll.running = false ∧ State.reset.toll.nv.chained ∧
  (let d : Dev := { State.reset.dev with boot := { Boot.reset with served := true } }
   ∀ x ∈ [(0x300000, 0), (0x300008, 1), (0x30000C, 0x640), (0x300010, 0x69), (0x300014, 0x28), (0x300018, 8), (0x300100, 2), (0x300104, 0),
     (0x31000C, 6), (0x310014, 0), (0x31002C, 0x40), (0x310104, 1), (0x310174, 1), (0x320034, 0x40), (0x330010, 0xFF), (0x331000, 1),
     (0x331004, 8), (0x331008, 0x20), (0x33100C, 0x10), (0x340010, 0x3FFFF), (0x340034, 0x2710), (0x340038, 0x30D40), (0x34003C, 0x8000),
     (0x350008, 0x10000), (0x350018, 0x40), (0x35001C, 0x4E20), (0x36000C, 0xC350), (0x360010, 0x10), (0x360014, 0x2000), (0x370000, 0),
     (0x3D0004, 0), (0x3F0000, 0), (0x3F0008, 0), (0x8, 0x100), (0xC, 0), (0x20, 0xFF), (0x24, 384), (0x28, 0x08000200), (0x18000, 0x200), (0x10010, 0x606), (0x10024, 0)],
     (d.readWord x.1).toNat = x.2) ∧
  (∀ (d : Dev) (off : Nat), d.boot.served = false → d.boot.st ≠ 6 → 0x10000 ≤ off → off < 0x3F0000 → d.readWord off = 0)

/-- The checksum (R62 stated) and vectors of the manual (R40, R51): CRC-32C by its loop, over the header with bytes 16 to 19 zero and the payload,
stored there least significant byte first; its values for 123456789 and for 32 zero bytes; the format codes with their sizes; the E4M3 quotients 450
and 470 of R51; every code of the 8-bit and smaller formats that is no NaN keeps its value through its own format. -/
def Obligations.ChecksumAndFormatVectors : Prop :=
  let bitStep (c : Nat) : Nat := if c % 2 = 1 then (c >>> 1) ^^^ 0x82F63B78 else c >>> 1
  let byteStep (c : Nat) (x : Byte) : Nat := (List.range 8).foldl (fun c _ => bitStep c) (c ^^^ x.toNat)
  (∀ bs, crc32c bs = bs.foldl byteStep 0xFFFFFFFF ^^^ 0xFFFFFFFF) ∧
  (∀ t : List Byte, 32 ≤ t.length →
    sealTile t = t.take 16 ++ leBytes 4 (crc32c (t.take 16 ++ [0, 0, 0, 0] ++ t.drop 20)) ++ t.drop 20 ∧
    crcKind (sealTile t) = .ok) ∧
  crc32c [0x31, 0x32, 0x33, 0x34, 0x35, 0x36, 0x37, 0x38, 0x39] = 0xE3069283 ∧ crc32c (zeros 32) = 0x8A9136AA ∧
  (∀ x ∈ [(Fmt.fp4, 1, 544), (.e4m3, 2, 1056), (.e5m2, 3, 1056), (.int8, 4, 1056), (.bf16, 8, 2080), (.fp16, 9, 2080), (.fp32, 12, 4128),
    (.int32, 13, 4128)], fmtCode x.1 = x.2.1 ∧ fmtOf x.2.1 = some x.1 ∧ tileTotal x.1 = x.2.2) ∧
  (encodeElem .e4m3 .nearest (Fl.ofInt 450 0)).code = 0x7E ∧ (encodeElem .e4m3 .nearest (Fl.ofInt 450 0)).ovf = false ∧
  (encodeElem .e4m3 .nearest (Fl.ofInt 470 0)).code = 0x7E ∧ (encodeElem .e4m3 .nearest (Fl.ofInt 470 0)).ovf = true ∧
  (∀ f ∈ [Fmt.fp4, .e4m3, .e5m2, .int8], ∀ c < 2 ^ fmtBits f, (decodeElem f c).isFinite = true → (encodeElem f .nearest (decodeElem f c)).code = c)

/-- The layouts of the tile header (R59), the token tag (R187), the buffer handle (R346) and the scale-table entry (R154), fields to bytes and back
with every field at every value, and words to fields and back; and the handle of the example of R346. -/
def Obligations.LayoutsRoundTrip : Prop :=
  (∀ (h : Hdr) (payload : List Byte), tileHdr (leBytes 32 (packHdr h).toNat ++ payload) = h) ∧ (∀ b, packHdr (unpackHdr b) = b) ∧
  (∀ t, unpackTag (packTag t) = t) ∧ (∀ w, packTag (unpackTag w) = w) ∧
  (∀ h, unpackHandle (packHandle h) = h) ∧ (∀ w, packHandle (unpackHandle w) = w) ∧
  (∀ e, entryOf (entryBytes e) = e ∧ (entryBytes e).length = 64) ∧
  (∀ n v, leNat (leBytes n v) = v % 256 ^ n) ∧
  unpackHandle 0x807B002400304A1C = { slot := 0x04A1C, pool := 3, kind := 0, resv1 := 0, gen := 0x24, jobTag := 0x7B, resv2 := 0, valid := 1 }

/-- Tiles (R48, R62, R64, R65): a sealed tile passes its check, and the torn mark makes exactly the kind TORN, of any content; a transposed read
exchanges rows and columns, blocks 1 and 2 and every element, keeps the format, and passes its check. -/
def Obligations.TilesSealTearTranspose : Prop :=
  (∀ t : List Byte, 32 ≤ t.length → crcKind (sealTile t) = .ok ∧ crcKind (tearTile t) = .torn ∧ (sealTile t).length = t.length ∧
    (tearTile t).length = t.length ∧ (∀ i, i < 16 ∨ 20 ≤ i → (tearTile t).getD i 0 = t.getD i 0)) ∧
  (∀ (t : List Byte), let u := transposeTile t
    tileFmt u = tileFmt t ∧ tileRows u = tileCols t ∧ tileCols u = tileRows t ∧ (tileHdr u).s1 = (tileHdr t).s2 ∧ (tileHdr u).s2 = (tileHdr t).s1 ∧
    (tileHdr u).s0 = (tileHdr t).s0 ∧ (tileHdr u).s3 = (tileHdr t).s3 ∧ tileNan u = tileNan t ∧ crcKind u = .ok ∧ u.length = tileTotal (tileFmt t) ∧
    ∀ r < 32, ∀ c < 32, codeAt (tileFmt t) u r c = codeAt (tileFmt t) t c r)

/-! ## Caravans, stations and queues -/

/-- R74 (stated), R73: a push enters its queue, 64 commands deep with those of MX that have not completed, the ST path 32, with the next sequence
number; a push to a full queue stalls the control core with nothing dropped, and the stalled push goes on when an entry is free. Nothing else
changes. R76 (stated in part): a push that names an absent Well or port halts the core with ENGINE_ABSENT, kind 1 or 2, DETAIL0 the number, UNIT 0,
and no command is delivered. -/
def Obligations.PushesEnterStallOrHalt : Prop :=
  (∀ (s : State) (c : Nat) (u : EngUnit) (cmd : Cmd), u ≠ .cc →
     (s.dev.ccRuns c = true → (u = .st → s.dev.absentStation cmd.op = none) →
       ((s.dev.core c).depth u < (if u = .st then 32 else 64) →
         exec (.commandPush c u cmd) s = .next (s.atCore c fun k =>
           { (k.setQueue u (k.queue u ++ [k.newCmd u cmd])) with
             seqs := k.seqs.modify (unitIdx u) (· + 1) })) ∧
       ((s.dev.core c).depth u ≥ (if u = .st then 32 else 64) →
         exec (.commandPush c u cmd) s = .next (s.atCore c fun k => { k with pushStall := some (u, cmd) }))) ∧
     ((s.dev.core c).pushStall = some (u, cmd) → (s.dev.core c).halted = false → (s.dev.core c).frozen = false →
       (s.dev.core c).depth u < (if u = .st then 32 else 64) →
       exec (.commandQueueRoom c) s = .next (s.atCore c fun k =>
         { (({ k with pushStall := none } : CoreSt).setQueue u
             (k.queue u ++ [k.newCmd u cmd])) with
           pushStall := none, seqs := k.seqs.modify (unitIdx u) (· + 1) }))) ∧
  (∀ (s : State) (c : Nat) (cmd : Cmd), s.dev.ccRuns c = true →
     (∀ w r o, cmd.op = .well w r o → w ∉ presentWells s.dev.grade →
       exec (.commandPush c .st cmd) s = .next (s.dev! (s.dev.haltCore c
         { reason := 0x05, unit := 0, kind := 1, opIndex := cmd.opIndex, d0 := w }))) ∧
     (∀ a, cmd.op = .collective a → a.leadPort ∉ presentPorts s.dev.grade →
       exec (.commandPush c .st cmd) s = .next (s.dev! (s.dev.haltCore c
         { reason := 0x05, unit := 0, kind := 2, opIndex := cmd.opIndex, d0 := a.leadPort }))))

/-- R85 (stated), R84: with no slot armed, a command that may start starts exactly when all its waits hold together: then each consuming wait takes
effect at that moment; otherwise nothing changes but that a MATMUL joins or begins its run of the bound counters (R533). Where it rests on the
model's choices: log entries 10, 11. -/
def Obligations.StartConsumesTogether : Prop :=
  ∀ (s : State) (c : Nat) (u : EngUnit) (q : QCmd) (qs : List QCmd), u ≠ .cc → u ≠ .st → s.dev.unarmed = true →
    (s.dev.core c).halted = false → (s.dev.core c).frozen = false →
    (s.dev.core c).queue u = q :: qs → q.started = false → s.dev.startFault c u q.cmd = none →
    s.dev.channelFull q.cmd.op = false → (s.dev.core c).behindPipe u q.cmd.op = false → s.dev.popShort c u (opPops q.cmd.op) = none →
    ((s.dev.core c).holdsAll q.cmd.waits = true →
      let t := s.atCore c fun k => (k.consumeAll q.cmd.waits).setQueue u ({ q with started := true } :: qs)
      exec (.commandStart c u) s = .next (t.dev! (t.dev.admitRun c q.cmd.op)) ∧
      (t.dev.admitRun c q.cmd.op) = { t.dev with ct := (t.dev.admitRun c q.cmd.op).ct }) ∧
    ((s.dev.core c).holdsAll q.cmd.waits = false → exec (.commandStart c u) s = .next s)

/-- R84: the control core's WAIT consumes when it holds, and stands where it does not. R110, R111: when the control core and the three engines are
blocked, one of them on a wait, a pop or a push, and nothing is pending toward the core, the detector fires after WAIT_WINDOW: the core halts with
WAIT_CYCLE, UNIT 5 (R105), DETAIL0 the time in ns and the four entries of BLOCKED. R86, R89: SIGNAL of this core's or another local core's object
sets the update out toward that core, and its arrival takes effect: a flag is set or cleared, a counter grows by the value; a core at rest has
nothing to start. R90: an ADD that would carry a counter above 0xFFFF_FFFF leaves every counter and flag of the owning core unchanged and halts it.
Where it rests on the model's choices: log entries 2, 10, 15, 16. -/
def Obligations.WaitsAndSignals : Prop :=
  (∀ (s : State) (c i : Nat) (raw : Word64) (ws : List WaitField), s.dev.ccRuns c = true →
     c < s.dev.cores.length → s.dev.fieldFault raw ws [] = none →
     ((s.dev.core c).holdsAll ws = true → exec (.wait c i raw ws) s = .next (s.atCore c fun k => k.consumeAll ws)) ∧
     ((s.dev.core c).holdsAll ws = false →
       exec (.wait c i raw ws) s = .next (s.atCore c fun k => { k with waiting := some (i, raw, ws) }))) ∧
  (∀ (s : State) (c : Nat) (j : Job) (b0 b1 b2 b3 : Block), s.dev.job = some j → j.primary = none → c < s.dev.n →
     (s.dev.core c).halted = false → (s.dev.core c).frozen = false → s.dev.blockCc c = some b0 →
     s.dev.blockEng c .mx = some b1 → s.dev.blockEng c .vx = some b2 → s.dev.blockEng c .ls = some b3 →
     (∃ b ∈ [b0, b1, b2, b3], b.state ≠ 0) → s.dev.pendingToward c = false →
     exec (.waitCycle c) s = .next (s.dev! ((s.dev.advance (1000 * (s.dev.core c).waitWindowUs)).haltCore c
       { reason := 0x06, unit := 5, d0 := 1000 * (s.dev.core c).waitWindowUs,
         blocked := b0.bytes 0 ++ b1.bytes 1 ++ b2.bytes 2 ++ b3.bytes 3 }))) ∧
  ((∀ (s : State) (c i k : Nat) (raw : Word64) (g : SigField), s.dev.ccRuns c = true → g.rank = none → g.core = some k →
     s.dev.sigFault raw g = none →
     exec (.signal c i raw [g]) s = .next (s.sends k (if k = c then .own .cc i 0 else .core c) g.obj g.op)) ∧
   (∀ (s : State) (f : InFlight), s.dev.inflight = [f] → f.core < s.dev.cores.length → (s.dev.core f.core).halted = false →
     (s.dev.core f.core).frozen = false → (s.dev.core f.core).atRest = true →
     (∀ n, f.obj = .flag n → f.op = .set → exec (.signalArrival f.core [f.id]) s =
       .next (({ s with dev := { s.dev with inflight := [] } } : State).atCore f.core fun k =>
         { k with flags := k.flags ||| BitVec.ofNat 256 (2 ^ n) })) ∧
     (∀ n, f.obj = .flag n → f.op = .clear → exec (.signalArrival f.core [f.id]) s =
       .next (({ s with dev := { s.dev with inflight := [] } } : State).atCore f.core fun k =>
         { k with flags := k.flags &&& ~~~(BitVec.ofNat 256 (2 ^ n)) })) ∧
     (∀ n v, f.obj = .counter n → f.op = .add v → ((s.dev.core f.core).counters.getD n 0).toNat + v ≤ 0xFFFFFFFF →
       exec (.signalArrival f.core [f.id]) s =
       .next (({ s with dev := { s.dev with inflight := [] } } : State).atCore f.core fun k =>
         { k with counters := k.counters.modify n fun x => x + BitVec.ofNat 32 v })))) ∧
  (∀ (d : Dev) (f : InFlight) (n v : Nat), f.obj = .counter n → f.op = .add v → f.core < d.cores.length →
     (d.core f.core).halted = false → ((d.core f.core).counters.getD n 0).toNat + v > 0xFFFFFFFF →
     ∃ h : HaltInfo, h.reason = 0x04 ∧ h.kind = 4 ∧ h.d0 = n ∧
       h.d1 = ((d.core f.core).counters.getD n 0).toNat + v * 2 ^ 32 ∧ d.applyUpdate f = d.haltCore f.core h)

/-- R102, R103, R104: a halt stops the core, writes the 1,024-byte snapshot into its halt area and leaves every other byte of memory, every other
core, and the core's flags, counters and sequence numbers as they were. R108: the job stop halts every core of the job that is not frozen in a swap.
Stated of a job without outstanding descriptors, rounds and collectives, whose ends other statements give. Where it rests on the model's choices:
log entries 16, 17. -/
def Obligations.HaltsSnapshotAndStop : Prop :=
  (∀ (d : Dev) (c : Nat) (h : HaltInfo), c < d.cores.length → (d.core c).halted = false → d.mem.wf = true →
     (d.core c).counters.length = 64 →
     let e := d.haltBase c h
     (e.core c).halted = true ∧ (e.core c).flags = (d.core c).flags ∧ (e.core c).counters = (d.core c).counters ∧
     (e.core c).seqs = (d.core c).seqs ∧ (∀ i, i ≠ c → e.core i = d.core i) ∧
     (d.snapshot c h).length = 1024 ∧ e.mem.reads (haltArea d.grade c) 1024 = d.snapshot c h ∧
     (∀ a, a < haltArea d.grade c ∨ haltArea d.grade c + 1024 ≤ a → e.mem.read a = d.mem.read a)) ∧
  (∀ (s : State) (j : Job) (p : Nat), s.dev.job = some j → j.primary = some p → j.stopped = false → j.start = none → j.halters = [] →
     s.dev.bz.rounds = [] → s.dev.bz.waits = [] → s.dev.rd.channels = [] → s.dev.cores.length = s.dev.n →
     ∃ t, exec .jobStop s = .next t ∧ t.pending = s.pending ∧ t.toll = s.toll ∧
       (∀ c, c < s.dev.n → (s.dev.core c).frozen = false → (t.dev.core c).halted = true) ∧
       (∀ c, (s.dev.core c).halted = true ∨ (s.dev.core c).frozen = true → t.dev.core c = s.dev.core c) ∧
       t.dev.job.map (·.stopped) = some true)

/-- R81: for a queue that joins two cores of the device, pushes, arrivals, pops and credit returns keep the sum of tiles in the ring, tiles in
transit, credits in transit and credits held. R81 (stated in part), R79: the oldest tile in transit is written whole into the ring; a credit returns
to the producer. Where it rests on the model's choices: log entry 13. -/
def Obligations.TilesAndCreditsConserved : Prop :=
  (∀ (d : Dev) (i : Nat) (s : QState), d.q? i = some s → d.farCons s = false → d.farProd s = false →
     s.decl.prod.core ≠ s.decl.cons.core →
     let total (x : QState) : Nat := x.ring.length + x.transit.length + x.back + x.credits
     (∀ t, 0 < s.credits → ∃ x, (d.pushTile i t).q? i = some x ∧ total x = total s ∧ x.transit = s.transit ++ [t]) ∧
     (∀ n, n ≤ s.ring.length → ∃ x, (d.popTiles i n).q? i = some x ∧ total x = total s ∧ x.ring = s.ring.drop n ∧
       x.back = s.back + n)) ∧
  (∀ (s : State) (c q i : Nat) (x : QState), s.dev.crossIdx c q = some i → s.dev.q? i = some x → s.dev.unarmed = true →
     (s.dev.core c).halted = false → (s.dev.core c).frozen = false → (s.dev.core x.decl.prod.core).frozen = false →
     (s.dev.core c).atRest = true → (s.dev.core x.decl.prod.core).atRest = true →
     (∀ t ts, x.transit = t :: ts →
       exec (.tileArrival c q) s = .next (s.atQueue i fun y => { y with transit := ts, ring := y.ring ++ [t] })) ∧
     (0 < x.back → exec (.creditReturn c q) s =
       .next (s.atQueue i fun y => { y with back := y.back - 1, credits := y.credits + 1 })))

/-- R93: the list hands out the oldest item of the highest class that suits the taking core's group, and only without one the oldest of the highest
class. R92, R93: a LIST_PUSH that keeps the limits puts its item at the end of the list it names, the pushing core's die by default, when the list
has room for it (16,384 items); a take gets the item of the order of R93 from a list with items, and waits on an empty one; the oldest waiting take
is served; 2 µs after it entered, an item loses its AFFINITY. R97: the core's EMPTY slot ends and its SLOT_STEPS count as RESERVED_EMPTY; a core of
a slot that still runs takes nothing. R114 (END), R91: with every pushed command completed, END ends the item in progress and raises its DONE at the
core it names; with no item it ends the control routine. R80 (first sentence), R75: the CLOSE at the head of an engine's queue closes a queue whose
consumer lies on this device, and completes; only the queue's mark and the engine's queue change. Where it rests on the model's choices: log entry
14. -/
def Obligations.ListsSlotsAndEndings : Prop :=
  (∀ (items : List WorkEntry) (g : Nat) (e : WorkEntry), (∀ x ∈ items, x.item.cls ≤ 3) → pickItem items g = some e →
     let suits (x : WorkEntry) : Prop := x.item.affinity = none ∨ x.item.affinity = some g
     e ∈ items ∧
     ((∃ x ∈ items, suits x) → suits e ∧ (∀ x ∈ items, suits x → e.item.cls ≤ x.item.cls) ∧
       (∀ pre post, items = pre ++ e :: post → e ∉ pre → ∀ x ∈ pre, suits x → x.item.cls ≠ e.item.cls)) ∧
     ((∀ x ∈ items, ¬ suits x) → ∀ x ∈ items, e.item.cls ≤ x.item.cls)) ∧
  ((∀ (s : State) (c : Nat) (q : QCmd) (qs : List QCmd) (die : Option Nat) (it : WorkItem),
     (s.dev.core c).st = q :: qs → q.started = true → q.cmd.op = .listPush die it → q.cmd.signals = [] → q.trap = none →
     c < s.dev.cores.length → (s.dev.core c).ending = none → s.dev.unarmed = true → s.dev.itemFault it = none →
     let die := die.getD (dieOfCore s.dev.grade c)
     die ≤ 1 → (s.dev.list die).items.length < 16384 →
     exec (.listPush c) s = .next (((s.dev! { s.dev with nextId := s.dev.nextId + 1 }).atList die fun l =>
       { l with items := l.items ++ [⟨s.dev.nextId, it, s.dev.now⟩] }).atCore c fun k => { k with st := qs })) ∧
   (∀ (s : State) (c i : Nat), s.dev.ccRuns c = true → (s.dev.core c).slots = [] → s.dev.unarmed = true →
     let die := dieOfCore s.dev.grade c
     s.dev.noBacklog die → s.dev.slotsDue c = false →
     (∀ e, (s.dev.list die).takes = [] → pickItem (s.dev.list die).items (c / 8) = some e →
       exec (.listTake c i) s = .next ((s.atList die fun l => { l with items := l.items.filter fun x => x.id != e.id }).atCore c fun k =>
         { k with taking := false, items := (e.id, e.item) :: k.items })) ∧
     ((s.dev.list die).items = [] →
       exec (.listTake c i) s = .next ((s.atList die fun l => { l with takes := l.takes ++ [c] }).atCore c fun k =>
         { k with taking := true }))) ∧
   (∀ (s : State) (die c : Nat) (cs : List Nat) (e : WorkEntry), (s.dev.list die).takes = c :: cs → c ∉ cs →
     s.dev.servable c = true → s.dev.noBacklog die → pickItem (s.dev.list die).items (c / 8) = some e →
     exec (.listTakeServed die) s = .next ((s.atList die fun l =>
       { l with takes := cs, items := l.items.filter fun x => x.id != e.id }).atCore c fun k =>
         { k with taking := false, items := (e.id, e.item) :: k.items })) ∧
   (∀ (s : State) (die id : Nat) (e : WorkEntry), ((s.dev.list die).items.find? fun x => x.id == id) = some e →
     e.since + 2000 ≤ s.dev.now →
     exec (.affinityExpire die id) s = .next (s.atList die fun l => { l with items := l.items.map fun x =>
       if x.id == id then { x with item := { x.item with affinity := none } } else x }))) ∧
  (∀ (s : State) (c : Nat) (pre post : List SlotMark) (m : SlotMark), (s.dev.core c).slots = pre ++ m :: post →
     (∀ x ∈ pre, x.open = false) → m = ⟨none, m.slotSteps, none, false⟩ → (∃ x ∈ pre ++ post, x.ended = false) →
     (s.dev.core c).halted = false → (s.dev.core c).frozen = false → (s.dev.core c).taking = false →
     exec (.reservedSlotEnd c) s = .next (s.atCore c fun k =>
       { k with slots := pre ++ { m with ended := true } :: post, emptySteps := k.emptySteps + m.slotSteps })) ∧
  (∀ (s : State) (c i : Nat), s.dev.ccRuns c = true → s.dev.coreQuiet c = true → (s.dev.core c).slots = [] → c < s.dev.cores.length →
     (∀ id it rest f, (s.dev.core c).items = (id, it) :: rest → it.done = some f →
       exec (.endRoutine c i) s = .next ((s.sends f.core (if f.core = c then .own .cc i 0 else .core c) (.counter f.counter)
         (.add f.value)).atCore c fun k => { k with items := rest })) ∧
     (∀ j, (s.dev.core c).items = [] → s.dev.job = some j → j.stopped = false → j.hostHalt = false →
       (∃ p ∈ j.prog.cores, p.core ≠ c ∧ (s.dev.core p.core).cc ≠ .ended) →
       exec (.endRoutine c i) s = .next (s.atCore c fun k => { k with cc := .ended }))) ∧
  (∀ (s : State) (c n i : Nat) (u : EngUnit) (q : QCmd) (x : QState), u = .mx ∨ u = .vx ∨ u = .ls →
     (s.dev.core c).queue u = [q] → q.started = true → q.ran = false → q.cmd.op = .close n → q.cmd.signals = [] →
     q.cmd.nanTrap = false → c < s.dev.cores.length →
     (∀ v, v ≠ u → (s.dev.core c).queue v = []) → (s.dev.core c).waiting = none → (s.dev.core c).ending = none →
     s.dev.tailIdx c u n = some i → s.dev.q? i = some x → s.dev.farCons x = false → s.dev.landed c u = true →
     s.dev.writesOut c = false → (x.decl.cons.core ≠ c → (s.dev.core x.decl.cons.core).atRest = true) →
     (s.dev.core c).pipe = [] → (u = .mx → s.dev.track? 0 c = none) →
     exec (.close c u) s = .next ((s.atQueue i fun y => { y with closed := true }).atCore c fun k => k.setQueue u []))

/-- LOAD (R114, R572, R67, R79): n good tiles of the queue's declared format at consecutive local addresses, none poisoned or held, go to the tail
of a queue of the core with room, in order, turned where the source is read transposed (R48); the command completes; memory, poison and every other
queue are as they were. STORE (R114, R572, R63, R78): the n oldest tiles of a queue go to consecutive local addresses, turned where the operand is
read transposed; each tile's bytes read back at the address computed for it; every byte outside those tiles reads as before; without KEEP the tiles
leave the queue. GATHER_ROWS and SCATTER_ROWS (R114) of a one-column tensor (H_TILES 1): the index tile names rows of local tiles; the gathered tile
holds those rows; a scattered row replaces the valid row of the tile that its index names, and no byte outside that tile changes. The index tile
comes from memory. Row r of a tensor lies in row r mod 32 of tile r ÷ 32 (DEDUCED, log entry 20). Where it rests on the model's choices: log entries
9, 20. -/
def Obligations.LoadStoreAndRows : Prop :=
  (∀ (s : State) (c a n qn i : Nat) (tr : Bool) (q : QCmd) (x : QState), engAlone s.dev c .ls q → q.cmd.op = .load (.addr a) none tr n qn →
     s.dev.tailIdx c .ls qn = some i → s.dev.q? i = some x → x.decl.prod.core = c → x.decl.cons.core = c →
     s.dev.farCons x = false → x.closed = false → 1 ≤ n → n ≤ 1024 → x.ring.length + n ≤ x.decl.cap →
     a % 32 = 0 → inJobMem s.dev.grade a (n * tileTotal x.decl.fmt) = true →
     s.dev.clean [(a, n * tileTotal x.decl.fmt)] →
     let tile (j : Nat) : List Byte := s.dev.peek (a + j * tileTotal x.decl.fmt) (tileTotal x.decl.fmt)
     (∀ j, j < n → tileGood (fun g => g == x.decl.fmt) (tile j) = true) →
     ∃ t, exec (.load c) s = .next t ∧ (t.dev.q? i).map (·.ring) = some (x.ring ++ (List.range n).map fun j => turned tr (tile j)) ∧
       (t.dev.core c).ls = [] ∧ t.dev.mem = s.dev.mem ∧ t.dev.poison = s.dev.poison ∧ t.pending = s.pending ∧ t.toll = s.toll ∧
       (∀ j, j ≠ i → t.dev.q? j = s.dev.q? j) ∧ (∀ k, k ≠ c → t.dev.core k = s.dev.core k) ∧ t.dev.er = s.dev.er) ∧
  (∀ (s : State) (c a n qn i : Nat) (keep tr : Bool) (q : QCmd) (x : QState), engAlone s.dev c .ls q →
     q.cmd.op = .store qn keep tr (.addr a) none n → s.dev.heldAt a (n * tileTotal x.decl.fmt) = false → s.dev.headIdx c .ls qn = some i → s.dev.q? i = some x →
     x.decl.prod.core = c → x.decl.cons.core = c → s.dev.farCons x = false → s.dev.farProd x = false → 1 ≤ n → n ≤ 1024 →
     n ≤ x.ring.length → a % 32 = 0 → inJobMem s.dev.grade a (n * tileTotal x.decl.fmt) = true → s.dev.mem.wf = true →
     (∀ t ∈ x.ring, t.length = tileTotal x.decl.fmt ∧ tileGood (fun g => g == x.decl.fmt) t = true) →
     ∃ t, exec (.store c) s = .next t ∧
       (∀ j, j < n → t.dev.peek (a + j * tileTotal x.decl.fmt) (tileTotal x.decl.fmt) = turned tr (x.ring.getD j [])) ∧
       (∀ b, b < a ∨ a + n * tileTotal x.decl.fmt ≤ b → t.dev.mem.read b = s.dev.mem.read b) ∧
       (t.dev.q? i).map (·.ring) = some (if keep then x.ring else x.ring.drop n) ∧ (t.dev.core c).ls = [] ∧
       t.pending = s.pending ∧ t.toll = s.toll ∧ (∀ k, k ≠ c → t.dev.core k = s.dev.core k) ∧ t.dev.er = s.dev.er) ∧
  ((∀ (s : State) (c a b qn i r : Nat) (tr : Bool) (q : QCmd) (x : QState) (row : TileRow), engAlone s.dev c .ls q →
     q.cmd.op = .gatherRows (.addr a) x.decl.fmt tr 1 (.mem (.addr b) none .int32 false) qn → x.closed = false →
     s.dev.tailIdx c .ls qn = some i → s.dev.q? i = some x → x.decl.prod.core = c → x.decl.cons.core = c →
     s.dev.farCons x = false → x.ring.length < x.decl.cap → a % 32 = 0 → b % 32 = 0 →
     inJobMem s.dev.grade b (tileTotal .int32) = true → s.dev.poison = [] → s.dev.someHeld = false →
     let idx := s.dev.peek b (tileTotal .int32)
     let at_ := a + r / 32 * tileTotal x.decl.fmt
     let src := s.dev.peek at_ (tileTotal x.decl.fmt)
     inJobMem s.dev.grade at_ (tileTotal x.decl.fmt) = true →
     tileGood (fun g => g == .int32) idx = true → indexRows idx = [(r : Int)] → tileGood (fun g => g == x.decl.fmt) src = true →
     rowOf x.decl.fmt (turned tr src) (r % 32) = some row →
     ∃ t, exec (.gatherRows c) s = .next t ∧
       (t.dev.q? i).map (·.ring) = some (x.ring ++ [tileOfRows x.decl.fmt (tileEpoch src) [row]]) ∧
       (t.dev.core c).ls = [] ∧ t.dev.mem = s.dev.mem ∧ t.pending = s.pending ∧ t.toll = s.toll) ∧
   (∀ (s : State) (c a b qn i r : Nat) (keep tr : Bool) (q : QCmd) (x : QState) (y new : List Byte) (ys : List (List Byte)),
     engAlone s.dev c .ls q →
     q.cmd.op = .scatterRows qn keep tr (.mem (.addr b) none .int32 false) (.addr a) x.decl.fmt 1 1 →
     s.dev.headIdx c .ls qn = some i → s.dev.q? i = some x → x.decl.prod.core = c → x.decl.cons.core = c →
     s.dev.farCons x = false → s.dev.farProd x = false → x.ring = y :: ys → a % 32 = 0 → b % 32 = 0 → s.dev.mem.wf = true →
     inJobMem s.dev.grade b (tileTotal .int32) = true → s.dev.poison = [] → s.dev.someHeld = false →
     let idx := s.dev.peek b (tileTotal .int32)
     let at_ := a + r / 32 * tileTotal x.decl.fmt
     let old := s.dev.peek at_ (tileTotal x.decl.fmt)
     inJobMem s.dev.grade at_ (tileTotal x.decl.fmt) = true →
     tileGood (fun g => g == .int32) idx = true → indexRows idx = [(r : Int)] → tileGood (fun g => g == x.decl.fmt) old = true →
     tileGood (fun g => g == x.decl.fmt) y = true → y.length = tileTotal x.decl.fmt →
     replaceRow x.decl.fmt old (r % 32) (rowOf x.decl.fmt (turned tr y) 0) = some new →
     ∃ t, exec (.scatterRows c) s = .next t ∧
       t.dev.mem = s.dev.mem.writes at_ new ∧
       (t.dev.q? i).map (·.ring) = some (if keep then y :: ys else ys) ∧ (t.dev.core c).ls = [] ∧ t.pending = s.pending ∧ t.toll = s.toll))

/-! ## The matrix and vector engines and numerics -/

/-- MATMUL, MATMUL_TOPK, MATMUL_LSE (R124, R125): Kt good operand pairs that fit the accumulation join it in ascending K and leave their queues;
with CHAIN the command completes, without it the accumulation closes, leaves the head of MX for its passes and drain, and the next one takes the
other bank (R119). ACC_PASS_END (R128, R129, R131): a pass without overflow is final; blocks that overflow move their window by 16 and the pass runs
again; an overflow after four moves halts the core with ACC_RANGE at its lowest row and column. Passes after the first count as RETRY. Where it
rests on the model's choices: log entry 32. -/
def Obligations.AccumulationsTakeAndMove : Prop :=
  (∀ (s : State) (c : Nat) (q : QCmd) (m : MatmulArgs) (as bs : List (List Byte)), engAlone s.dev c .mx q → q.cmd.op = .matmul m →
     1 ≤ m.kt → s.dev.nearQueues →
     s.dev.tilesAt c .mx 0 m.a 0 m.kt as → s.dev.tilesAt c .mx 1 m.b (match m.a, m.b with
       | .queue qa false _, .queue qb _ _ => if qa = qb then m.kt else 0
       | _, _ => 0) m.kt bs →
     (∀ t ∈ as ++ bs, tileGood mxTakes t = true) →
     let pairs := (as.map (asRead m.a)).zip (bs.map (asRead m.b))
     let all := (s.dev.core c).acc.pairs ++ pairs
     all.length ≤ 256 →
     (∀ p ∈ pairs, ∀ p0, all.head? = some p0 → pairOk (tileFmt p.1) (tileFmt p.2) = true ∧ tileCols p.1 = tileRows p.2 ∧
       tileRows p.1 = tileRows p0.1 ∧ tileCols p.2 = tileCols p0.2 ∧ tileFmt p.1 = tileFmt p0.1 ∧ tileFmt p.2 = tileFmt p0.2) →
     (m.chain = false → s.dev.outFault c m = none ∧ spanFault (s.dev.core c).span m.kind (accShape all).1 (accShape all).2 = none) →
     let acc := { (s.dev.core c).acc with pairs := all }
     ∃ t, exec (mxRow c m.kind) s = .next t ∧ (t.dev.core c).mx = [] ∧
       (m.chain = true → (t.dev.core c).acc = acc ∧ (t.dev.core c).pipe = []) ∧
       (m.chain = false → (t.dev.core c).acc = acc.drained ∧ (t.dev.core c).pipe = [⟨q, { acc with closedAcc := true }⟩]) ∧
       t.dev.queues = (s.dev.popAll c .mx (opPops q.cmd.op)).queues ∧
       (t.dev.core c).span = (s.dev.core c).span ∧ t.pending = s.pending ∧ t.toll = s.toll ∧
       (∀ k, k ≠ c → t.dev.core k = s.dev.core k) ∧ (t.dev.core c).flags = (s.dev.core c).flags ∧
       (t.dev.core c).counters = (s.dev.core c).counters ∧ t.dev.mem = s.dev.mem ∧ t.dev.er = s.dev.er) ∧
  (∀ (s : State) (c : Nat) (a : AccSt), (s.dev.core c).passing = some a → c < s.dev.cores.length →
     let l := if a.placed then a.lpos else placeAll a.pairs
     let r := if a.placed then a.retry else [0, 0, 0, 0]
     let cells := passAll a.pairs l
     let moved (b : Nat) : Prop := ∃ x ∈ cells, x.2.ovf = true ∧ blockOf x.1.1 x.1.2 = b
     let steps (k : CoreSt) : CoreSt := { k with retrySteps := k.retrySteps + if r = [0, 0, 0, 0] then 0 else accSteps a.pairs }
     let go (f : AccSt → AccSt) (last : Bool) : State :=
       let t := s.atCore c fun k => (steps k).setPass f
       t.dev! (t.dev.noteAcc c a.pairs last)
     ((∀ x ∈ cells, x.2.ovf = false) → exec (.accPassEnd c) s = .next (go (fun a =>
       { a with lpos := l, retry := r, placed := true, cells := some (cells.map fun x => ⟨x.2.v, x.2.sp, x.2.rho⟩) }) true)) ∧
     ((∃ x ∈ cells, x.2.ovf = true) → (∀ x ∈ cells, x.2.ovf = true → r.getD (blockOf x.1.1 x.1.2) 0 ≠ 4) →
       ∃ l' r', exec (.accPassEnd c) s = .next (go (fun a => { a with lpos := l', retry := r', placed := true }) false) ∧
         ∀ b, b < 4 → (moved b → l'.getD b 0 = l.getD b 0 + 16 ∧ r'.getD b 0 = r.getD b 0 + 1) ∧
           (¬ moved b → l'.getD b 0 = l.getD b 0 ∧ r'.getD b 0 = r.getD b 0)) ∧
     (∀ x ∈ cells, x.2.ovf = true → r.getD (blockOf x.1.1 x.1.2) 0 = 4 →
       (∀ y ∈ cells, y.2.ovf = true → r.getD (blockOf y.1.1 y.1.2) 0 = 4 →
         x.1.1 < y.1.1 ∨ (x.1.1 = y.1.1 ∧ x.1.2 ≤ y.1.2)) →
       let h : HaltInfo := { reason := 0x09, unit := 1, d0 := x.1.1 + x.1.2 * 2 ^ 8 + 4 * 2 ^ 16 }
       let d := s.dev.setCore c steps
       exec (.accPassEnd c) s = .next (s.dev! (if (s.dev.core c).pipe = [] then d.haltEng c .mx h
         else d.haltJob c ((s.dev.core c).pipe.findIdx fun j => j.acc.cells.isNone) h))))

/-- R130 (first sentence): with the window as first placed, and no overflow marked, V of a cell is the exact sum over every chunk of its products
that have no special state, each with the weight of its chunk; V × 2^L is that sum as a number. R134, R135: at the end of a pass in which a cell did
not overflow, at any window position, the residue that ran beside the accumulator is that of V, so that the check of the drain fails only on a
fault. -/
def Obligations.AccumulatorIsExact : Prop :=
  (∀ (fa fb : Fmt) (pairs : List (List Byte × List Byte)) (i j : Nat), pairOk fa fb = true → i < 32 → j < 32 →
     let l := placeWindow (chunksOf fa fb pairs (i / 16) (j / 16))
     let x := cellPass fa fb pairs l i j
     x.ovf = false →
     x.v = ((pairs.flatMap fun p => [0, 1].flatMap fun k => ((rowForms fa p.1 i k).zip (colForms fb p.2 j k)).map fun e =>
       if prodSpecial e.1 e.2 = 0 then
         e.1.n * e.2.n * 2 ^ (fOf fa + fOf fb + blockExp fa p.1 (2 * (i / 16) + k) + blockExp fb p.2 (2 * k + j / 16) - l).toNat
       else 0) : List Int).sum) ∧
  (∀ (fa fb : Fmt) (pairs : List (List Byte × List Byte)) (l : Int) (i j : Nat),
     (cellPass fa fb pairs l i j).ovf = false →
     ((cellPass fa fb pairs l i j).rho : Int) = (cellPass fa fb pairs l i j).v % 255 ∧ (cellPass fa fb pairs l i j).rho < 255)

/-- R79, R87, R139: tiles that a command has produced enter their queues whole and in order, and the command completes; what it popped has left.
Stated of queues of one core with room for every tile. DRAIN_END of a multiplying command (R135, R137, R139, R144, R147, R150): with every residue
right, the drained values are ranked and summed where the command says, converted under the scale rule of its entry, and pushed whole: product,
values, positions, log-sum-exp; then its bank is free. Where it rests on the model's choices: log entries 13, 33. -/
def Obligations.ResultsLeaveWhole : Prop :=
  (∀ (d : Dev) (c : Nat) (u : EngUnit) (q : QCmd) (pops : List (Nat × Nat × Bool × Nat)) (outs : List (Nat × List Byte)), u ≠ .cc → u ≠ .st →
     engAlone d c u q → d.nearQueues →
     (∀ o ∈ outs, ∃ i x, d.tailRoom c u o.1 i (outs.filter fun p => p.1 == o.1).length x) →
     let e := d.commit c u pops outs
     (e.core c).queue u = [] ∧
     (∀ (n i : Nat) (x : QState), d.tailIdx c u n = some i → (d.popAll c u pops).q? i = some x →
       (e.q? i).map (·.ring) = some (x.ring ++ (outs.filter fun p => p.1 == n).map (·.2))) ∧
     (∀ i, (∀ o ∈ outs, d.tailIdx c u o.1 ≠ some i) → e.q? i = (d.popAll c u pops).q? i) ∧
     e.mem = d.mem ∧ (u ≠ .mx → e.er = d.er) ∧ e.er = { d.er with coalesce := e.er.coalesce } ∧ (∀ k, k ≠ c → e.core k = d.core k) ∧
     (e.core c).flags = (d.core c).flags ∧ (e.core c).counters = (d.core c).counters) ∧
  (∀ (s : State) (c : Nat) (q : QCmd) (a : AccSt) (m : MatmulArgs), pipeAlone s.dev c q a → q.cmd.op = .matmul m →
     let rows := (accShape a.pairs).1
     let cols := (accShape a.pairs).2
     a.cells.isSome = true → a.residueFail rows cols = none →
     let val := a.valueAt cols
     let epoch := (a.pairs.head?.map fun p => tileEpoch p.1).getD 0
     let span := spanStep (s.dev.core c).span m.kind rows cols epoch val
     let last : Bool := match m.kind with
       | .topk _ n pos .. => decide (pos + 1 = n)
       | .lse n pos _ => decide (pos + 1 = n)
       | .plain => true
     let drained (k : CoreSt) : CoreSt := { k with span := if last then none else span }
     (m.out = none → m.entry = none →
       exec (.drainEnd c) s = .next (s.dev! ((s.dev.setCore c drained).commitJob c (spanTiles span m.kind)))) ∧
     (∀ n, m.out = some n → m.entry = none → exec (.drainEnd c) s = .next (s.dev! ((s.dev.setCore c drained).commitJob c
       ((n, (convTile m.outFmt rows cols epoch (.fixed 0x7F) (fun _ _ => .nearest) false val).tile) :: spanTiles span m.kind)))) ∧
     (∀ n ref rule i x, m.out = some n → m.entry = some ref → s.dev.ruleAt (some ref) = some rule → m.kind = .plain →
       s.dev.tailRoom c .mx n i 1 x → s.dev.mem.wf = true →
       ∃ t, exec (.drainEnd c) s = .next t ∧
         (t.dev.q? i).map (·.ring) = some (x.ring ++ [(convTile m.outFmt rows cols epoch (if fmtScaled m.outFmt then rule else .fixed 0x7F)
           (fun _ _ => .nearest) false val).tile]) ∧
         (t.dev.core c).pipe = [] ∧ (t.dev.core c).acc = (s.dev.core c).acc ∧ engFrame s t c .mx (s.dev.entryBytesAt (some ref))))

/-- MAP and BROADCAST (R114, R170): each output tile holds the operation on the elements of the operands' tiles, one rounding per FP32 operation,
converted under the scale rule of the entry; the tiles enter the output queue and the command completes. REDUCE, CONVERT and AMAX (R39, R51, R114,
R163, R171, R172): one column or row in FP32; the tile in its output format, to nearest or stochastic under the keys of R172; the report of the
absolute maximum to the entry without a tile. Where it rests on the model's choices: log entries 37, 38. -/
def Obligations.VectorOperationsOnTiles : Prop :=
  (∀ (s : State) (c : Nat) (q : QCmd), engAlone s.dev c .vx q → s.dev.nearQueues → s.dev.mem.wf = true →
     (∀ op ins out entry n i x rule (tss : List (List (List Byte))), q.cmd.op = .map op ins out entry n → ins.length = mapArity op → 1 ≤ n →
       s.dev.tailRoom c .vx out i n x → x.decl.fmt ≠ .int32 → (fmtScaled x.decl.fmt = true → entry.isSome = true) →
       s.dev.ruleAt entry = some rule → tss.length = ins.length →
       (∀ k, k < ins.length → s.dev.tilesAt c .vx k (ins.getD k (.queue 64 false false))
         (((List.range k).filter fun j => match ins.getD j (.queue 64 false false), ins.getD k (.queue 64 false false) with
           | .queue a false _, .queue b _ _ => a == b
           | _, _ => false).length * n) n (tss.getD k [])) →
       (∀ ts ∈ tss, ∀ t ∈ ts, tileGood vxTakes t = true) →
       let arg (k j : Nat) : List Byte := asRead (ins.getD k (.queue 64 false false)) ((tss.getD k []).getD j [])
       (∀ k j, k < ins.length → j < n → tileRows (arg k j) = tileRows (arg 0 j) ∧ tileCols (arg k j) = tileCols (arg 0 j)) →
       ∃ t, exec (.map c) s = .next t ∧ engFrame s t c .vx (s.dev.entryBytesAt entry) ∧
         ((t.dev.q? i).map (·.ring)) = some ((((s.dev.popAll c .vx (opPops q.cmd.op)).q? i).elim [] (·.ring)) ++
           (List.range n).map fun j => (convTile x.decl.fmt (tileRows (arg 0 j)) (tileCols (arg 0 j)) (tileEpoch (arg 0 j)) (if fmtScaled x.decl.fmt then rule else .fixed 0x7F)
             (fun _ _ => .nearest) false fun r k => f32 (mapElem op ((List.range ins.length).map fun o => elem32 (arg o j) r k))).tile)) ∧
     (∀ op a b out entry i x rule ta tb v, q.cmd.op = .broadcast op a b out entry → mapArity op = 2 →
       s.dev.tailRoom c .vx out i 1 x → x.decl.fmt ≠ .int32 → (fmtScaled x.decl.fmt = true → entry.isSome = true) →
       s.dev.ruleAt entry = some rule → s.dev.tilesAt c .vx 0 a 0 1 [ta] →
       s.dev.tilesAt c .vx 1 b (match a, b with | .queue a false _, .queue b _ _ => if a = b then 1 else 0 | _, _ => 0) 1 [tb] →
       tileGood vxTakes ta = true → tileGood vxTakes tb = true → vectorAt (asRead a ta) (asRead b tb) = some v →
       let ta := asRead a ta
       ∃ t, exec (.broadcast c) s = .next t ∧ engFrame s t c .vx (s.dev.entryBytesAt entry) ∧
         ((t.dev.q? i).map (·.ring)) = some ((((s.dev.popAll c .vx (opPops q.cmd.op)).q? i).elim [] (·.ring)) ++
           [(convTile x.decl.fmt (tileRows ta) (tileCols ta) (tileEpoch ta) (if fmtScaled x.decl.fmt then rule else .fixed 0x7F) (fun _ _ => .nearest) false
             fun r k => f32 (mapElem op [elem32 ta r k, v r k])).tile]))) ∧
  (∀ (s : State) (c : Nat) (q : QCmd), engAlone s.dev c .vx q → s.dev.nearQueues → s.dev.mem.wf = true →
     (∀ op along src out i x ta, q.cmd.op = .reduce op along src out → s.dev.tailRoom c .vx out i 1 x → x.decl.fmt = .fp32 →
       s.dev.tilesAt c .vx 0 src 0 1 [ta] → tileGood vxTakes ta = true →
       ∃ t, exec (.reduce c) s = .next t ∧ engFrame s t c .vx (fun _ => false) ∧
         ((t.dev.q? i).map (·.ring)) = some ((((s.dev.popAll c .vx (opPops q.cmd.op)).q? i).elim [] (·.ring)) ++
           [reduceTile op along (asRead src ta)])) ∧
     (∀ src out f entry stoch ord i x rule ta, q.cmd.op = .convert src out f entry stoch ord → s.dev.tailRoom c .vx out i 1 x →
       x.decl.fmt = f → (fmtScaled f = true → entry.isSome = true) → s.dev.ruleAt entry = some rule →
       s.dev.tilesAt c .vx 0 src 0 1 [ta] → tileGood (fun _ => true) ta = true →
       let ta := asRead src ta
       let rnd (r k : Nat) : Rnd := if stoch then .stoch (rand16 s.dev.seed (entry.elim Config.noEntryStream (·.idx)) (entry.elim 0 (·.iter))
         (1024 * ord + 32 * r + k)) else .nearest
       ∃ t, exec (.convert c) s = .next t ∧ engFrame s t c .vx (s.dev.entryBytesAt entry) ∧
         ((t.dev.q? i).map (·.ring)) = some ((((s.dev.popAll c .vx (opPops q.cmd.op)).q? i).elim [] (·.ring)) ++
           [(convTile f (tileRows ta) (tileCols ta) (tileEpoch ta) (if fmtScaled f then rule else .fixed 0x7F) rnd stoch (valueAt (tileFmt ta) ta)).tile])) ∧
     (∀ src ref ta, q.cmd.op = .amax src ref → s.dev.tilesAt c .vx 0 src 0 1 [ta] → tileGood vxTakes ta = true →
       (s.dev.ruleAt (some ref)).isSome = true →
       let ta := asRead src ta
       let top := maxAbs ((validCells (tileRows ta) (tileCols ta)).map fun p => valueAt (tileFmt ta) ta p.1 p.2)
       ∃ t, exec (.amax c) s = .next t ∧ engFrame s t c .vx (s.dev.entryBytesAt (some ref)) ∧
         t.dev.entry ref.idx = (s.dev.entry ref.idx).report
           (if ref.iter % 65536 = (s.dev.entry ref.idx).iter.toNat then .cur else .prev) top 0 0))

/-- R158 (stated): the scale that the seal into iteration n sets depends on nothing reported for iteration n − 1, which is still open. -/
def Obligations.ScaleIgnoresOpenIteration : Prop :=
  ∀ (e : ScaleEntry) (amax : BitVec 32) (ovf retry : BitVec 16),
    ({ e with curAmax := amax, curOvf := ovf, curRetry := retry } : ScaleEntry).seal.scale = e.seal.scale

/-- R157: a first reference of ITER + 1 seals the entry: the previous iteration's maximum enters the history, the current iteration becomes the
previous one, SCALE is estimated anew, and sources of a product that retried have their SPAN narrowed; no other entry changes. FORCE_WARM (R165,
R169) puts every valid entry into warm-up and leaves the others; ST_SNAPSHOT (R168, R573) writes the CRC-32C over the entries into the image header
and sets SNAPSHOT_DONE; nothing else in memory changes. Stated of a table in job memory without an unreadable line; one outside is not written
(R17). Where it rests on the model's choices: log entry 41. -/
def Obligations.ScaleTablesSealWarmSnapshot : Prop :=
  (∀ (d : Dev) (req : Nat) (ref : ScaleRef), d.mem.wf = true → d.unarmed = true → d.poison = [] → d.tableIn = true → ref.idx < d.scale.count.toNat →
     let e := d.entry ref.idx
     e.valid = 1 → ref.iter % 65536 = (e.iter.toNat + 1) % 65536 →
     e.srcA.toNat ≠ ref.idx → e.srcB.toNat ≠ ref.idx →
     ∃ e' d', d.touchEntry req ref = (.ok (e', .cur), d') ∧ d'.entry ref.idx = e' ∧
       e'.hist 0 = magCode (f32 e.prevAmax) ∧ (∀ k, k < 15 → e'.hist (k + 1) = e.hist k) ∧
       e'.prevAmax = e.curAmax ∧ e'.prevOvf = e.curOvf ∧ e'.prevRetry = e.curRetry ∧ e'.curAmax = 0 ∧ e'.curOvf = 0 ∧ e'.curRetry = 0 ∧
       e'.prevScale = e.scale ∧ e'.prevWarm = e.warm ∧ e'.iter = e.iter + 1 ∧ e'.span = e.span ∧ e'.scale.toNat = e'.estimate % 256 ∧
       (∀ k, k < d.scale.count.toNat → k ≠ ref.idx → ((k ≠ e.srcA.toNat ∧ k ≠ e.srcB.toNat) ∨ e.prevRetry = 0) → d'.entry k = d.entry k) ∧
       (∀ k, k = e.srcA.toNat → k ≠ 0xFFFF → k ≠ e.srcB.toNat → k < d.scale.count.toNat → (d.entry k).valid = 1 → e.prevRetry ≠ 0 →
         d'.entry k = { d.entry k with span := BitVec.ofNat 8 (max ((d.entry k).span.toNat - 8) 16) })) ∧
  (∀ (s : State), s.dev.awakeUp = true → s.dev.unarmed = true → s.dev.poison = [] → s.dev.mem.wf = true → s.dev.tableIn = true →
     (∃ t, exec .forceWarm s = .next t ∧ t.pending = s.pending ∧ t.toll = s.toll ∧ wbit t.dev.scale.status 4 = false ∧
       (∀ i, i < s.dev.scale.count.toNat → t.dev.entry i =
         if (s.dev.entry i).valid = 1 then (s.dev.entry i).enterWarm else s.dev.entry i) ∧
       (∀ a, a < s.dev.entryAddr 0 ∨ s.dev.entryAddr s.dev.scale.count.toNat ≤ a → t.dev.mem.read a = s.dev.mem.read a)) ∧
     (∃ t, exec .stSnapshot s = .next t ∧ t.pending = s.pending ∧ t.toll = s.toll ∧
       wbit t.dev.scale.status 2 = true ∧ wbit t.dev.scale.status 3 = false ∧
       t.dev.peek (s.dev.scaleBase + 12) 4 = leBytes 4 (crc32c (s.dev.peek (s.dev.entryAddr 0) (64 * s.dev.scale.count.toNat))) ∧
       (∀ a, a < s.dev.scaleBase + 12 ∨ s.dev.scaleBase + 16 ≤ a → t.dev.mem.read a = s.dev.mem.read a)))

/-! ## Expert routing and the Bazaar -/

/-- R192, R194, R217: the shares of an expert under QUOTA add up to its capacity; the counts granted under NEGOTIATED add up to at most the
capacity, each source in ascending position in full while room remains, and BASE is the sum of the counts before it. R191, R193: admission looks at
each choice of a token once, in rank order; a choice is admitted exactly when its own expert has room after the admitted choices before it; a drop
moves no other choice; the experts' counts grow by the choices admitted. -/
def Obligations.AdmissionAndShares : Prop :=
  ((∀ cap s : Nat, 1 ≤ s → ((List.range s).map (quota cap s)).sum = cap) ∧
   (∀ (cap : Nat) (wants : List Nat), let g := grantFold cap wants 0
     g.length = wants.length ∧ (g.map (·.1)).sum = min cap wants.sum ∧
     (∀ i, i < wants.length → (g.getD i (0, 0)).2 = ((g.take i).map (·.1)).sum ∧ (g.getD i (0, 0)).1 ≤ wants.getD i 0 ∧
       ((g.getD i (0, 0)).1 < wants.getD i 0 → (g.getD i (0, 0)).2 + (g.getD i (0, 0)).1 = cap)))) ∧
  (∀ (room : Nat → Nat → Bool) (counts : List Nat) (cs : List Choice), (∀ c ∈ cs, c.expert < counts.length) →
     let r := admitChoices room counts cs
     r.2.map (fun c => (c.expert, c.raw)) = cs.map (fun c => (c.expert, c.raw)) ∧
     (∀ i, i < cs.length → (r.2.getD i ⟨0, 0, 0, false, false⟩).dropped =
       !room (cs.getD i ⟨0, 0, 0, false, false⟩).expert (counts.getD (cs.getD i ⟨0, 0, 0, false, false⟩).expert 0 +
         ((r.2.take i).filter fun c => c.expert == (cs.getD i ⟨0, 0, 0, false, false⟩).expert && !c.dropped).length)) ∧
     (∀ e, r.1.getD e 0 = counts.getD e 0 + (r.2.filter fun c => c.expert == e && !c.dropped).length))

/-- GATE (R179, R185, R203, R227, R229) with operands within their limits: its routing table is read and its T × k entries are reserved; with room
its forward round opens and, once X and WG have the tiles, the first pairs enter the accumulation; without room it waits in line. R227, R229: the
reservation at the front of the line is served once it fits, never one behind it: its entries are reserved and the round of its GATE opens; without
room nothing changes. Stated of a GATE whose X has no row tile yet. Where it rests on the model's choices: log entries 42, 43. -/
def Obligations.GatesReserveInOrder : Prop :=
  (∀ (s : State) (c : Nat) (q : QCmd) (g : GateArgs) (route : List (Nat × Nat × Nat)), engAlone s.dev c .mx q → q.cmd.op = .gate g →
     (s.dev.core c).gate = none → (s.dev.core c).acc.closedAcc = false → (s.dev.core c).acc.pairs = [] → g.negotiated = false →
     wbit s.dev.bz.ctrl 0 = true → s.dev.gateLimits g = none → s.dev.gateHandle g.choices (g.tokens * (16 * g.k + 8)) = none →
     s.dev.gateHandle g.summary (64 + 16 * g.experts) = none → s.dev.round? false g.layer g.microBatch = none → s.dev.nearQueues →
     (∃ sx, s.dev.gateSpans 0 g.x (List.range (gateRt g * gateKt g)) = .ok sx ∧ ∀ x ∈ sx, s.dev.goodSpan x.2) →
     (∃ sw, s.dev.gateSpans 1 g.wg (List.range (gateKt g * gateEt g)) = .ok sw ∧ ∀ x ∈ sw, s.dev.goodSpan x.2) →
     s.dev.readable g.routeTable (8 * g.experts) = true → route.length = g.experts →
     (∀ i, i < g.experts → s.dev.routeEntry (leNat (s.dev.peek (g.routeTable + 8 * i) 8)) = .ok (route.getD i (0, 0, 0))) →
     s.dev.poisonedIn g.members (2 * g.group) = none →
     (¬ (s.dev.bz.waits = [] ∧ s.dev.bzRoom false (g.tokens * g.k) = true) →
       ∃ t, exec (.gate c) s = .next t ∧ t.dev.bz = { s.dev.bz with waits := s.dev.bz.waits ++ [⟨c, false, 0, g.layer, g.microBatch, g.tokens * g.k⟩] } ∧
         (t.dev.core c).gate.map (fun x => (x.args, x.route, x.phase)) = some (g, route, 0) ∧ t.dev.queues = s.dev.queues ∧
         t.dev.mem = s.dev.mem ∧ t.pending = s.pending ∧ t.toll = s.toll) ∧
     (∀ xs ws : List (List Byte), s.dev.bz.waits = [] → s.dev.bzRoom false (g.tokens * g.k) = true →
       s.dev.gateTilesAt c 0 g.x 0 (gateXIdx g 0) xs →
       s.dev.gateTilesAt c 1 g.wg (match g.x, g.wg with
         | .queue qa false _, .queue qb _ _ => if qa = qb then gateKt g else 0
         | _, _ => 0) (gateWIdx g 0) ws → (∀ t ∈ xs ++ ws, tileGood mxTakes t = true) →
       ∀ ps, gatePairs g 0 0 (xs.map (asRead g.x)) (ws.map (asRead g.wg)) = .ok ps →
       ∃ t, exec (.gate c) s = .next t ∧ (∃ r, t.dev.bz.rounds = s.dev.bz.rounds ++ [r] ∧ r.bwd = false ∧ r.layer = g.layer ∧
           r.mb = g.microBatch ∧ r.core = c ∧ r.tokens = g.tokens ∧ r.k = g.k ∧ r.entries = g.tokens * g.k ∧ r.gateDone = false) ∧
         (t.dev.core c).gate.map (fun x => (x.args, x.route, x.phase, x.rowTile, x.colTile)) = some (g, route, 1, 0, 0) ∧
         (t.dev.core c).acc.pairs = ps ∧ (t.dev.core c).acc.closedAcc = true ∧ t.dev.mem = s.dev.mem ∧ t.pending = s.pending ∧
         t.toll = s.toll ∧ t.dev.er = s.dev.er)) ∧
  (∀ (s : State) (w : BzWait) (ws : List BzWait) (i : Instr), i = .tagReserveServed ∨ i = .roundOpenServed → s.dev.bz.waits = w :: ws →
     s.dev.unarmed = true →
     (∀ r ∈ s.dev.bz.rounds, r.opener = none) →
     (s.dev.bzRoom w.bwd w.need = false → exec i s = .next s) ∧
     (∀ (g : GateSt) (short : Nat × Nat × Nat), w.bwd = false → s.dev.bzRoom false w.need = true → (s.dev.core w.core).gate = some g →
       g.args.negotiated = false → s.dev.poisonedIn g.args.members (2 * g.args.group) = none →
       s.dev.round? false g.args.layer g.args.microBatch = none → g.x = [] → g.rowTile = 0 →
       (s.dev.core w.core).acc.closedAcc = false → w.core < s.dev.cores.length → w.need = g.args.tokens * g.args.k →
       s.dev.popShort w.core .mx (srcPop (gateKt g.args) 0 g.args.x ++ srcPop (gateKt g.args) 1 g.args.wg) = some (false, short) →
       ∃ t r, exec i s = .next t ∧ t.dev.bz.waits = ws ∧ t.dev.bz.rounds = s.dev.bz.rounds ++ [r] ∧ r.bwd = false ∧
         r.layer = g.args.layer ∧ r.mb = g.args.microBatch ∧ r.core = w.core ∧ r.entries = w.need ∧
         t.dev.bz.tagsInUse = s.dev.bz.tagsInUse + w.need ∧ (t.dev.core w.core).gate = some { g with phase := 1 } ∧
         (∀ k, k ≠ w.core → t.dev.core k = s.dev.core k) ∧ t.dev.mem = s.dev.mem ∧ t.pending = s.pending ∧ t.toll = s.toll))

/-- DISPATCH (R207, R208, R216, R218, R219) with operands that are there and large enough: the phase begins under the command, which has sent its
rows and one HEADER to every other member; the phase stays open for the others' HEADERs; a backward DISPATCH opens its round with T × k entries
(R227, R229). Stated of a group of at least two. COMBINE (R207, R208, R216, R218, R224) of a round whose dispatch is arranged: its return phase
begins under the command, which has read EXPERT_OUT and sent its rows, DROP_LISTs and one HEADER to every other member; the phase stays open for the
others. Stated of a group of at least two in which no row comes back from the device itself, so that no token is combined yet. Where it rests on the
model's choices: log entries 44, 45. -/
def Obligations.PhasesBeginAndSend : Prop :=
  (∀ (s : State) (c : Nat) (a : Accepted) (x : DispatchArgs) (r : Round) (route : List (Nat × Nat × Nat)), s.dev.unarmed = true →
     s.dev.place.replicas = [] → wbit s.dev.fx.ctrl 2 = false → c < s.dev.cores.length →
     s.dev.oldest c (fun op => match op with | .dispatch _ => true | _ => false) = some a → s.dev.acc a.id = some a →
     a.cmd.op = .dispatch x →
     s.dev.dispatchFault x = none → 2 ≤ x.r.group →
     (if x.r.bwd then s.dev.round? true x.r.layer x.r.microBatch = none ∧ s.dev.bz.waits = [] ∧ s.dev.bzRoom true (x.r.tokens * x.r.k) = true
       else s.dev.round? false x.r.layer x.r.microBatch = some r ∧ r.gateDone = true ∧ r.disp = none ∧ r.early = [] ∧ r.tokens = x.r.tokens ∧
         r.k = x.r.k) →
     (∃ rs, s.dev.rowsSpans x = .ok rs ∧ ∀ y ∈ rs, s.dev.goodSpan y.2) →
     (∃ cs, s.dev.handleSpan x.r.choices (x.r.tokens * (16 * x.r.k + 8)) false = .ok cs ∧ s.dev.goodSpan cs) →
     s.dev.readable x.r.members (2 * x.r.group) = true →
     (∀ i, i < x.r.group → s.dev.rankValid (leNat (s.dev.peek (x.r.members + 2 * i) 2)) = true) →
     s.dev.readable x.routeTable (8 * x.experts) = true → route.length = x.experts →
     (∀ i, i < x.experts → s.dev.routeEntry (leNat (s.dev.peek (x.routeTable + 8 * i) 8)) = .ok (route.getD i (0, 0, 0))) →
     let ht := ceilDiv x.r.hidden 32
     let n := localCount route s.dev.fx.rankSelf
     let slot := roundUp (ht * 4 * fmtBits x.rowsFmt + 2 * ht + 16) 32
     (∃ sp, s.dev.handleSpan x.recv ((List.range n).map fun e => localCap route s.dev.fx.rankSelf e * slot).sum true = .ok sp) →
     (∃ sp, s.dev.handleSpan x.expertIn (s.dev.partOff { r with route := route } x.reservation (groupBytes x.rowsFmt ht) n) true = .ok sp) →
     (∃ sp, s.dev.handleSpan x.r.record (64 + roundUp (ceilDiv x.r.group 8) 32) true = .ok sp) →
     ∃ t r' p, exec (.dispatch c) s = .next t ∧ t.dev.round? x.r.bwd x.r.layer x.r.microBatch = some r' ∧ r'.disp = some p ∧ p.acc = a.id ∧
       p.phase = (if x.r.bwd then 2 else 0) ∧ p.sentHeaders = true ∧ p.arranged = false ∧ (t.dev.acc a.id).map (·.begun) = some true ∧
       (x.r.bwd = true → r'.entries = x.r.tokens * x.r.k) ∧ t.dev.queues = s.dev.queues ∧ t.dev.mem = s.dev.mem ∧
       (∀ k, t.dev.core k = s.dev.core k) ∧ t.pending = s.pending ∧ t.toll = s.toll) ∧
  (∀ (s : State) (c : Nat) (a : Accepted) (x : CombineArgs) (r : Round) (p0 : PhaseSt), s.dev.unarmed = true → s.dev.place.replicas = [] →
     wbit s.dev.fx.ctrl 2 = false → c < s.dev.cores.length →
     s.dev.oldest c (fun op => match op with | .combine _ => true | _ => false) = some a → s.dev.acc a.id = some a →
     a.cmd.op = .combine x →
     wbit s.dev.bz.ctrl 0 = true → roundLimits x.r (ceilDiv x.r.hidden 32) 5 = none → outBad x.outFmt x.outEntry = false → 2 ≤ x.r.group →
     s.dev.round? x.r.bwd x.r.layer x.r.microBatch = some r → r.comb = none → r.tokens = x.r.tokens → r.k = x.r.k →
     r.disp = some p0 → p0.arranged = true → r.early = [] → r.pos = x.r.pos →
     (∀ y ∈ p0.rows, y.pos ≠ x.r.pos) → (∀ y ∈ p0.dropTags, y.1 ≠ x.r.pos) →
     let ht := ceilDiv x.r.hidden 32
     let tile := tileTotal x.expFmt
     (∀ e g j, e < localCount r.route s.dev.fx.rankSelf → 32 * g < (p0.rows.filter fun y => y.key == e).length → j < ht →
       let off := s.dev.partOff r p0.reservation (ht * tile) e + g * (ht * tile) + j * tile
       ∃ b, s.dev.checkHandle x.expertOut ⟨off, tile, 32, false⟩ = .ok b ∧ s.dev.goodSpan (b.span off tile)) →
     s.dev.readable x.r.members (2 * x.r.group) = true →
     (∀ i, i < x.r.group → s.dev.rankValid (leNat (s.dev.peek (x.r.members + 2 * i) 2)) = true) →
     (∃ sp, s.dev.handleSpan x.ret (x.r.tokens * x.r.k * rowSlot x.expFmt ht) true = .ok sp) →
     (∃ sp, s.dev.handleSpan x.out (ceilDiv x.r.tokens 32 * ht * tileTotal x.outFmt) true = .ok sp) →
     (∃ sp, s.dev.handleSpan x.r.record (64 + roundUp (ceilDiv x.r.group 8) 32) true = .ok sp) →
     (∃ cs, s.dev.handleSpan x.r.choices (x.r.tokens * (16 * x.r.k + 8)) true = .ok (.mem cs) ∧ s.dev.goodSpan (.mem cs) ∧
       ∀ l ∈ choicesOf (cs.flatMap fun y => s.dev.peek y.1 y.2) x.r.tokens x.r.k, ∃ y ∈ l, y.1 = true) →
     ∃ t r' p, exec (.combine c) s = .next t ∧ t.dev.round? x.r.bwd x.r.layer x.r.microBatch = some r' ∧ r'.comb = some p ∧ p.acc = a.id ∧
       p.phase = (if x.r.bwd then 3 else 1) ∧ p.sentHeaders = true ∧ p.arranged = false ∧ (t.dev.acc a.id).map (·.begun) = some true ∧
       t.dev.queues = s.dev.queues ∧ t.dev.mem = s.dev.mem ∧ (∀ k, t.dev.core k = s.dev.core k) ∧ t.pending = s.pending ∧ t.toll = s.toll)

/-- HEADER, ROWS, DROP_LIST, ABORT (R214, R218, R230, R232): a message with a good head from its rank is acknowledged; before its phase has begun
here it is kept for it; for a round that is not open it is counted late; a HEADER whose counts match makes its sender complete. REQUEST and GRANT
(R217): a request of an open NEGOTIATED round is held while others are still out; a grant likewise; nothing else changes but the acknowledgment.
PHASE_DEADLINE, BZ_CLEAR_COUNTS, BZ_DISABLE, REPLICA_COPY_DONE (R230, R237, R238, R360): members without HEADER, and owners without GRANT, are
missing when the deadline passes; the counts return to zero; rounds that have no phase open close with the ENABLE bit; a copied replica serves from
then on. Where it rests on the model's choices: log entries 43, 47, 48. -/
def Obligations.RoundMessagesAndUpkeep : Prop :=
  (∀ (s : State) (via : Via) (m : BzMsg) (kind : Nat) (i : Instr), s.takesMsg via → s.dev.fidRank via.srcId = some m.src →
     (kind, i) ∈ [(1, Instr.header via m), (2, .rows via m), (5, .dropList via m), (6, .bazaarAbort via m)] → s.dev.headOk kind m = true →
     let bwd := decide (m.phase ≥ 2)
     let ret := m.phase % 2 == 1
     let d := if kind = 2 then (s.dev.ackMsg via 0).rowsCame via m else s.dev.ackMsg via 0
     (s.dev.round? bwd m.layer m.microBatch = none →
       exec i s = .next (s.dev! { d with bz := { d.bz with late := sat32 (d.bz.late + 1), err := wset d.bz.err 2 } })) ∧
     (∀ r, s.dev.round? bwd m.layer m.microBatch = some r → r.phase? ret = none → kind ≠ 6 ∨ m.phase ≠ 0 ∨ r.negotiated = false →
       exec i s = .next (s.dev! (d.setRound bwd m.layer m.microBatch fun r => { r with early := r.early ++ [(m.phase, m)] }))) ∧
     (∀ r p x, kind = 1 → s.dev.round? bwd m.layer m.microBatch = some r → r.phase? ret = some p → ret = false → p.arranged = false →
       p.members.find? (fun y => y.pos == r.members.idxOf m.src) = some x → x.missing = false → x.header = false → m.epoch = p.epoch →
       m.format = fmtCode p.fmt → m.hTiles = p.hTiles →
       (∃ y ∈ p.members, y.pos ≠ r.members.idxOf m.src ∧ y.header = false ∧ y.missing = false) →
       (fieldAt m.body 0 4 = x.rows ∧ fieldAt m.body 4 4 = x.groups ∧ fieldAt m.body 16 4 = x.drops ∧
         ∀ e, (if e < fieldAt m.body 20 2 then fieldAt m.body (32 + 2 * e) 2 else 0) = x.byExpert.getD e 0 % 65536) →
       exec i s = .next (s.dev! (d.mapPhase r ret fun q => q.mapMember (r.members.idxOf m.src) fun y => { y with header := true })))) ∧
  (∀ (s : State) (via : Via) (m : BzMsg) (r : Round), s.takesMsg via → s.dev.fidRank via.srcId = some m.src → m.phase = 0 →
     s.dev.round? false m.layer m.microBatch = some r → r.negotiated = true → m.epoch = r.epoch → r.agrees m = true →
     let pos := r.members.idxOf m.src
     pos < r.members.length →
     (∃ p, p < r.members.length ∧ p ≠ pos ∧ p ∉ r.reqMissing ∧ (∀ x ∈ r.requests, x.1 ≠ p) ∧ (∀ x ∈ r.grants, x.1 ≠ p)) →
     let d := s.dev.ackMsg via 0
     (s.dev.headOk 3 m = true → r.granted = false → (∀ x ∈ r.requests, x.1 ≠ pos) →
       exec (.request via m) s = .next (s.dev! (d.setRound false m.layer m.microBatch fun r => { r with
         requests := r.requests ++ [(pos, (List.range (fieldAt m.body 0 2)).map fun i => fieldAt m.body (32 + 2 * i) 2)] }))) ∧
     (s.dev.headOk 4 m = true → r.gateDone = false → (∀ x ∈ r.grants, x.1 ≠ pos) →
       exec (.grant via m) s = .next (s.dev! (d.setRound false m.layer m.microBatch fun r => { r with grants := r.grants ++
         [(pos, (List.range (fieldAt m.body 0 2)).map fun i => (fieldAt m.body (32 + 4 * i) 2, fieldAt m.body (34 + 4 * i) 2))] })))) ∧
  ((∀ (s : State) (layer mb phase : Nat) (r : Round) (p : PhaseSt), phase < 4 → s.dev.round? (decide (phase ≥ 2)) layer mb = some r →
     r.phase? (phase % 2 == 1) = some p → p.arranged = false →
     exec (.phaseDeadline layer mb phase) s = .next (s.dev! (((s.dev.advanceTo (p.since + 1000 * s.dev.bz.deadline.toNat)).mapPhase r
       (phase % 2 == 1) fun p => (p.members.filter fun m => !m.header).foldl (fun p m => p.lose r.k m.pos false) p).phaseCheck
         (decide (phase ≥ 2)) layer mb (phase % 2 == 1)))) ∧
   (∀ (s : State) (layer mb : Nat) (r : Round), s.dev.round? false layer mb = some r → r.negotiated = true → r.gateDone = false →
     r.granted = true → exec (.phaseDeadline layer mb 4) s = .next (s.dev! (((s.dev.advanceTo (r.gateStart + 1000 * s.dev.bz.deadline.toNat)).setRound
       false layer mb fun x => { x with reqMissing := x.reqMissing ++ (List.range r.members.length).filter fun p =>
         !(r.grants.any fun y => y.1 == p) && !r.reqMissing.contains p }).negotiate layer mb))) ∧
   (∀ s : State, s.dev.awakeUp = true → exec .bzClearCounts s = .next (s.dev! { s.dev with bz := { s.dev.bz with
     tagsPeak := 0, stale := 0, late := 0, dup := 0, overrun := 0, reexpr := 0, missing := 0, msgFail := 0 } })) ∧
   (∀ s : State, s.dev.awakeUp = true → s.dev.bz.waits = [] →
     (∀ r ∈ s.dev.bz.rounds, r.gateDone = true ∧ r.members = [] ∧ r.disp = none ∧ r.comb = none ∧ ∀ a ∈ s.dev.accepted, r.owns a = false) →
     (∀ t ∈ s.dev.ct.tracks, t.row ≠ 2) →
     exec .bzDisable s = .next (s.dev! { s.dev with bz := { s.dev.bz with ctrl := wclr s.dev.bz.ctrl 1, rounds := [] } })) ∧
   (∀ (s : State) (slot : Nat) (r : Replica) (v b : Buf), (s.dev.place.replicas.find? fun x => x.slot == slot && !x.complete) = some r →
     s.dev.depot.buf r.vslot = some v → s.dev.depot.buf r.slot = some b → s.dev.unarmed = true →
     (∀ x ∈ v.pieces r.lo r.len, x.1 < hostBase ∧ s.dev.poisonedIn x.1 x.2 = none) →
     ∃ t, exec (.replicaCopyDone slot) s = .next t ∧ t.pending = s.pending ∧ t.toll = s.toll ∧
       t.dev.place.replicas = s.dev.place.replicas.map (fun x => if x.slot == slot then { x with complete := true } else x) ∧
       t.dev.mem = (s.dev.writePieces (b.pieces 0 r.len) ((v.pieces r.lo r.len).flatMap fun x => s.dev.peek x.1 x.2)).mem ∧
       t.dev.queues = s.dev.queues ∧ (∀ k, t.dev.core k = s.dev.core k)))

/-- ROWS, DROP_LIST, ABORT in a phase that has begun (R214, R219, R220, R230): the rows of a good message are kept by the rules of R219, R220 and
R224; a DROP_LIST of a return phase marks the choices that it names as dropped; the sender of an ABORT is missing. DISPATCH and COMBINE of a device
that is alone in its exchange group (R207, R223, R225, R227): the phase runs to its end within the command. The dispatch is arranged, and where no
choice is admitted it has completed; the combine has written OUT and its record, its round is over, and it has completed. Stated of commands without
signals and NAN_TRAP, and of an OUT without an entry. Where it rests on the model's choices: log entries 44, 45, 99. -/
def Obligations.RoundsRunThrough : Prop :=
  (∀ (s : State) (via : Via) (m : BzMsg) (kind : Nat) (i : Instr) (r : Round) (p : PhaseSt) (x : MemberSt), s.takesMsg via →
     s.dev.fidRank via.srcId = some m.src → (kind, i) ∈ [(2, Instr.rows via m), (5, .dropList via m), (6, .bazaarAbort via m)] →
     s.dev.headOk kind m = true →
     let bwd := decide (m.phase ≥ 2)
     let ret := m.phase % 2 == 1
     let pos := r.members.idxOf m.src
     s.dev.round? bwd m.layer m.microBatch = some r → r.phase? ret = some p → p.arranged = false →
     p.members.find? (fun y => y.pos == pos) = some x → x.missing = false → x.header = false → m.epoch = p.epoch →
     m.format = fmtCode p.fmt → m.hTiles = p.hTiles →
     let d := s.dev.ackMsg via 0
     let lost := d.mapPhase r ret fun p => p.lose r.k pos false
     let then_ (e : Dev) : Prop := exec i s = .next (s.dev! (e.phaseCheck bwd m.layer m.microBatch ret))
     let stays : Prop := ret = false ∧ ∃ y ∈ p.members, y.pos ≠ pos ∧ y.header = false ∧ y.missing = false
     (kind = 6 → then_ lost ∧ (stays → exec i s = .next (s.dev! lost))) ∧
     (kind = 5 → ret = true → then_ (d.enterDrops r p pos m)) ∧
     (kind = 5 → ret = false → then_ lost) ∧
     (kind = 2 → then_ ((d.rowsCame via m).enterRows r ret p pos m)) ∧
     (let tile (j : Nat) : List Byte := (m.body.drop (544 + j * tileTotal p.fmt)).take (tileTotal p.fmt)
      let side := m.body.take 544
      let n := min 32 (fieldAt side 1 1)
      let ts := (List.range m.hTiles).map tile
      let row (i : Nat) : RowSt :=
        let e := slice side (32 + 16 * i) 16
        mkRow p.fmt ts [] i pos (ts.map tileCols).sum (BitVec.ofNat 64 (fieldAt e 0 8)) (fieldAt e 8 2 % 4096) (fieldAt e 10 2)
      kind = 2 → stays → m.body.length = 544 + m.hTiles * tileTotal p.fmt → sideGood side = true → fieldAt side 2 2 = m.layer →
      fieldAt side 4 4 = p.epoch → (∀ t ∈ ts, tileGood (fun g => g == p.fmt) t = true) →
      let kept := s.dev.keepRows r false ((s.dev.dispatchOf p).bind (·.reservation))
        (p.mapMember pos fun x => { x with rows := x.rows + n, groups := x.groups + 1 }) ((List.range n).map row)
      ∃ t, exec i s = .next t ∧ t.dev.round? bwd m.layer m.microBatch = some (r.mapPhase false fun _ => kept.1) ∧
        t.dev.bz.dup = sat32 (s.dev.bz.dup + kept.2.1) ∧ t.dev.bz.overrun = sat32 (s.dev.bz.overrun + kept.2.2) ∧
        t.dev.mem = s.dev.mem ∧ t.dev.cores = s.dev.cores ∧ t.pending = s.pending ∧ t.toll = s.toll)) ∧
  ((∀ (s : State) (c : Nat) (a : Accepted) (x : DispatchArgs) (r : Round) (route : List (Nat × Nat × Nat)) (cs : Span), s.dev.unarmed = true →
     s.dev.place.replicas = [] → wbit s.dev.fx.ctrl 2 = false → c < s.dev.cores.length →
     s.dev.oldest c (fun op => match op with | .dispatch _ => true | _ => false) = some a → s.dev.acc a.id = some a →
     a.cmd.op = .dispatch x → a.cmd.signals = [] → a.cmd.nanTrap = false → (s.dev.core a.core).ending = none →
     s.dev.dispatchFault x = none → x.r.group = 1 → x.reservation = none →
     (if x.r.bwd then s.dev.round? true x.r.layer x.r.microBatch = none ∧ s.dev.bz.waits = [] ∧ s.dev.bzRoom true (x.r.tokens * x.r.k) = true
       else s.dev.round? false x.r.layer x.r.microBatch = some r ∧ r.gateDone = true ∧ r.disp = none ∧ r.early = [] ∧ r.tokens = x.r.tokens ∧
         r.k = x.r.k) →
     (∃ rs, s.dev.rowsSpans x = .ok rs ∧ ∀ y ∈ rs, s.dev.goodSpan y.2) →
     s.dev.handleSpan x.r.choices (x.r.tokens * (16 * x.r.k + 8)) false = .ok cs → s.dev.goodSpan cs →
     s.dev.readable x.r.members 2 = true → s.dev.rankValid (leNat (s.dev.peek x.r.members 2)) = true →
     s.dev.readable x.routeTable (8 * x.experts) = true → route.length = x.experts →
     (∀ i, i < x.experts → s.dev.routeEntry (leNat (s.dev.peek (x.routeTable + 8 * i) 8)) = .ok (route.getD i (0, 0, 0))) →
     let ht := ceilDiv x.r.hidden 32
     let n := localCount route s.dev.fx.rankSelf
     (∃ sp, s.dev.handleSpan x.recv ((List.range n).map fun e => localCap route s.dev.fx.rankSelf e * rowSlot x.rowsFmt ht).sum true = .ok sp) →
     (∃ sp, s.dev.handleSpan x.expertIn (s.dev.partOff { r with route := route } none (groupBytes x.rowsFmt ht) n) true = .ok sp) →
     (∃ sp, s.dev.handleSpan x.r.record (64 + roundUp (ceilDiv x.r.group 8) 32) true = .ok sp) →
     ∃ t r' p, exec (.dispatch c) s = .next t ∧ t.dev.round? x.r.bwd x.r.layer x.r.microBatch = some r' ∧ r'.disp = some p ∧ p.acc = a.id ∧
       p.arranged = true ∧ (∀ y ∈ p.members, y.header = true ∨ y.missing = true) ∧ (∀ k, t.dev.core k = s.dev.core k) ∧ t.dev.queues = s.dev.queues ∧
       (x.r.bwd = true → r'.entries = x.r.tokens * x.r.k) ∧ t.pending = s.pending ∧ t.toll = s.toll ∧
       (∀ ps, cs = .mem ps → (∀ l ∈ choicesOf (ps.flatMap fun y => s.dev.peek y.1 y.2) x.r.tokens x.r.k, ∀ y ∈ l, y.1 = false) →
         t.dev.acc a.id = none ∧ p.rows = [] ∧ p.toPush = [])) ∧
   (∀ (s : State) (c : Nat) (a : Accepted) (x : CombineArgs) (r : Round) (p0 : PhaseSt), s.dev.unarmed = true → s.dev.place.replicas = [] →
     wbit s.dev.fx.ctrl 2 = false → c < s.dev.cores.length →
     s.dev.oldest c (fun op => match op with | .combine _ => true | _ => false) = some a → s.dev.acc a.id = some a →
     a.cmd.op = .combine x → a.cmd.signals = [] → a.cmd.nanTrap = false → (s.dev.core a.core).ending = none →
     wbit s.dev.bz.ctrl 0 = true → roundLimits x.r (ceilDiv x.r.hidden 32) 5 = none → outBad x.outFmt x.outEntry = false → x.outEntry = none →
     x.r.group = 1 → s.dev.round? x.r.bwd x.r.layer x.r.microBatch = some r → r.comb = none → r.tokens = x.r.tokens → r.k = x.r.k →
     r.disp = some p0 → p0.arranged = true → r.early = [] → r.pos = x.r.pos →
     let ht := ceilDiv x.r.hidden 32
     let tile := tileTotal x.expFmt
     (∀ e g j, e < localCount r.route s.dev.fx.rankSelf → 32 * g < (p0.rows.filter fun y => y.key == e).length → j < ht →
       let off := s.dev.partOff r p0.reservation (ht * tile) e + g * (ht * tile) + j * tile
       ∃ b, s.dev.checkHandle x.expertOut ⟨off, tile, 32, false⟩ = .ok b ∧ s.dev.goodSpan (b.span off tile)) →
     s.dev.readable x.r.members 2 = true → s.dev.rankValid (leNat (s.dev.peek x.r.members 2)) = true →
     (∃ sp, s.dev.handleSpan x.ret (x.r.tokens * x.r.k * rowSlot x.expFmt ht) true = .ok sp) →
     (∃ sp, s.dev.handleSpan x.out (ceilDiv x.r.tokens 32 * ht * tileTotal x.outFmt) true = .ok sp) →
     (∃ sp, s.dev.handleSpan x.r.record (64 + roundUp (ceilDiv x.r.group 8) 32) true = .ok sp) →
     (∃ cs, s.dev.handleSpan x.r.choices (x.r.tokens * (16 * x.r.k + 8)) true = .ok cs ∧ s.dev.goodSpan cs) →
     ∃ t, exec (.combine c) s = .next t ∧ t.dev.round? x.r.bwd x.r.layer x.r.microBatch = none ∧ t.dev.acc a.id = none ∧
       t.dev.queues = s.dev.queues ∧ (∀ k, t.dev.core k = s.dev.core k) ∧ t.pending = s.pending ∧ t.toll = s.toll))

/-- R194, R219, R220: whatever rows a message brings, and in whatever order messages arrive, a dispatch phase keeps of each source and expert at
most the source's share, at the indexes 0, 1, …, and keeps no tag twice. -/
def Obligations.KeptRowsWithinShare : Prop :=
  ∀ (d : Dev) (r : Round) (res : Option Nat) (p : PhaseSt) (xs : List RowSt), r.bwd = false →
    let held (p : PhaseSt) (e pos : Nat) : List RowSt := p.rows.filter fun y => y.pos == pos && y.key == e
    let ok (p : PhaseSt) : Prop := (∀ e pos, (held p e pos).length ≤ d.shareOf r res e pos) ∧ (p.rows.map (·.tag)).Nodup ∧
      (∀ e pos, (held p e pos).map (·.j) = List.range (held p e pos).length)
    ok p → ok (d.keepRows r false res p xs).1 ∧ p.rows <+: (d.keepRows r false res p xs).1.rows

/-! ## Backward pass and gradient reduction -/

/-- STASH_ALLOC (R248, R249, R250, R251): lines of the reservation are found exactly when as many are free as an allocation needs; one that fits the
bytes left takes them and gives its handle to RESULT; a larger one goes whole to the spill ring where SPILL_ALLOWED and room let it, and otherwise
halts its core with STASH_FULL, DETAIL0 the rounded BYTES and DETAIL1 the bytes left. VERSION_TAKE and VERSION_DROP (R265, R268): a take raises the
count of the current version, keeps the hold and writes that version's handle to RESULT; a drop lowers the count of the version that its hold took;
on a hold already taken, not taken, or a FROZEN group, the core halts with VERSION_LIMIT and no count changes. Where it rests on the model's
choices: log entries 49, 51. -/
def Obligations.StashAndVersions : Prop :=
  ((∀ (n i : Nat) (free : List (Nat × List Nat)), (takeLines n i free).isSome = true ↔ n ≤ (free.map (·.2.length)).sum) ∧
   (∀ (s : State) (c : Nat) (a : Accepted) (pre post : List Accepted) (mb bytes r slot : Nat), s.dev.serves c a pre post →
     a.cmd.op = .stashAlloc mb bytes r → wbit s.dev.depot.ctrl 0 = true → mb ≤ 255 → 32 ≤ bytes → bytes ≤ 2 ^ 32 → bytes % 32 = 0 →
     s.dev.resultFault 2 r = none → s.dev.depot.freeSlot = some slot →
     let n := roundUp bytes 2048
     let left := 2048 * (s.dev.depot.stashLines - s.dev.depot.stashUsed)
     let st := s.dev.job.elim ⟨0, 0, false, 0, 0⟩ (·.stash)
     let buf (kind eb k0 : Nat) (es : List Nat) : Buf := ⟨slot, 255, kind, s.dev.depot.gen slot, n, none, k0, eb, es, 1, false, 0, none⟩
     (∀ es, n ≤ left → takeLines (n / 2048) ((s.dev.pool 255).elim 0 fun p => s.dev.depot.leastWell s.dev.grade p) s.dev.stashFree = some es →
       ∃ t k0, exec (.stashAlloc c) s = .next t ∧ t.dev.depot.bufs = s.dev.depot.bufs ++ [buf 0 2048 k0 es] ∧ es.length = n / 2048 ∧
         t.dev.mem = s.dev.mem.writes r (leBytes 8 (s.dev.handleOf (buf 0 2048 k0 es)).toNat) ∧ t.dev.accepted = pre ++ post ∧
         t.dev.depot.spill = s.dev.depot.spill ∧ (∀ k, t.dev.core k = s.dev.core k) ∧ t.pending = s.pending ∧ t.toll = s.toll) ∧
     (∀ off, left < n → st.spill = true → s.dev.depot.spillAt st.ringSize n = some off →
       ∃ t, exec (.stashAlloc c) s = .next t ∧ t.dev.depot.bufs = s.dev.depot.bufs ++ [buf 1 n 0 [st.ringBase + off]] ∧
         t.dev.depot.spill = s.dev.depot.spill ++ [⟨slot, off, n, false⟩] ∧
         t.dev.mem = s.dev.mem.writes r (leBytes 8 (s.dev.handleOf (buf 1 n 0 [st.ringBase + off])).toNat) ∧ t.dev.accepted = pre ++ post ∧
         (∀ k, t.dev.core k = s.dev.core k) ∧ t.pending = s.pending ∧ t.toll = s.toll) ∧
     (left < n → st.spill = false ∨ s.dev.depot.spillAt st.ringSize n = none → exec (.stashAlloc c) s = .next (s.dev! (s.dev.haltAcc a.id
       { reason := 0x0A, unit := 4, d0 := n, d1 := left }))))) ∧
  (∀ (s : State) (c : Nat) (a : Accepted) (pre post : List Accepted) (g h : Nat), s.dev.serves c a pre post →
     wbit s.dev.depot.ctrl 0 = true → g < s.dev.groupCount → h ≤ 1023 →
     let limit (num : Nat) : HaltInfo := { reason := 0x10, unit := 4, d0 := g, d1 := num, d2 := ((s.dev.version? g num).map (·.count)).getD 0 }
     (∀ r, a.cmd.op = .versionTake g h r → s.dev.resultFault 2 r = none →
       (s.dev.trainMode g ≠ 1 → s.dev.hold? g h = none → exec (.versionTake c) s = .next (s.dev!
         (({ (s.dev.takeVersion g (s.dev.curNum g)) with wells := { (s.dev.takeVersion g (s.dev.curNum g)).wells with
             holds := s.dev.wells.holds ++ [⟨g, h, s.dev.curNum g⟩] } } : Dev).write r
           (leBytes 8 (s.dev.gField g 72 8)) |>.withAccepted (pre ++ post)))) ∧
       (s.dev.trainMode g = 1 → exec (.versionTake c) s = .next (s.dev! (s.dev.haltAcc a.id (limit (s.dev.curNum g))))) ∧
       (∀ o, s.dev.trainMode g ≠ 1 → s.dev.hold? g h = some o → exec (.versionTake c) s = .next (s.dev! (s.dev.haltAcc a.id (limit o.num))))) ∧
     (a.cmd.op = .versionDrop g h →
       (∀ o, s.dev.trainMode g ≠ 1 → s.dev.hold? g h = some o → exec (.versionDrop c) s = .next (s.dev!
         ((({ s.dev with wells := { s.dev.wells with holds := s.dev.wells.holds.erase o } } : Dev).dropVersion g o.num).withAccepted
           (pre ++ post)))) ∧
       (s.dev.trainMode g = 1 ∨ s.dev.hold? g h = none →
         exec (.versionDrop c) s = .next (s.dev! (s.dev.haltAcc a.id (limit (s.dev.curNum g)))))))

/-- R276 (stated): the segments of n members cover the tiles one after another, and within a segment each relative position r above 0 sends one
edge, of the level of its lowest set bit, to r − 2^l, whose position is (p − 2^l) mod n; that level lies below the depth, and the receiver has an
edge of that level; position s is the root. -/
def Obligations.ReductionTree : Prop :=
  ∀ (n tiles : Nat), 1 ≤ n → n ≤ 8192 →
    segLo tiles n 0 = 0 ∧ segHi tiles n (n - 1) = tiles ∧ (∀ s, segHi tiles n s = segLo tiles n (s + 1) ∧ segLo tiles n s ≤ segHi tiles n s) ∧
    n ≤ 2 ^ redDepth n ∧ (2 ≤ n → 2 ^ redDepth n < 2 * n) ∧
    (∀ s p, s < n → p < n → relPos n p s < n ∧ (s + relPos n p s) % n = p ∧ relPos n s s = 0 ∧
      let r := relPos n p s
      let l := upLevel r
      0 < r → r.testBit l = true ∧ r % 2 ^ l = 0 ∧ l < redDepth n ∧ relPos n ((p + n - 2 ^ l) % n) s = r - 2 ^ l ∧
        hasChild n (r - 2 ^ l) l = true ∧ (∀ k, k < l → r.testBit k = false))

/-- ALL_REDUCE, REDUCE_SCATTER, GLOBAL_NORM, PERMUTE (R271, R272, R273, R416): with operands within their limits, the collective enters the end of
its channel, unstarted, and its command has begun; nothing else changes. PERMUTE is stated with empty maps. COLLECTIVE_START and EPOCH_AHEAD_TIMEOUT
(R274, R295, R296): the head of a channel starts when its EPOCH equals RD_EPOCH, its own tiles entering their segments; an older one halts its core
with EPOCH_STALE and leaves the channel; a newer one waits, and after D_C it retires FAILED with EPOCH_AHEAD. RD_DISABLE (R291, R303) ends every
collective. The start is stated of an ALL_REDUCE of two members or more without COUNTS and norm. Where it rests on the model's choices: log entries
12, 56. -/
def Obligations.CollectivesEnterAndStart : Prop :=
  (∀ (s : State) (c : Nat) (x : Accepted) (pre post : List Accepted), s.dev.serves c x pre post → s.dev.unarmed = true →
     wbit s.dev.rd.ctrl 0 = true →
     let ranks (m n : Nat) : List Nat := (List.range n).map fun i => fieldAt (s.dev.peek m (2 * n)) (2 * i) 2
     let enters (i : Instr) (ch : Nat) (is : CollSt → Prop) : Prop := ∃ t k, exec i s = .next t ∧ t.dev.chan ch = s.dev.chan ch ++ [k] ∧ is k ∧
       k.acc = x.id ∧ k.started = false ∧ (∀ h, h ≠ ch → t.dev.chan h = s.dev.chan h) ∧ (t.dev.acc x.id).map (·.begun) = some true ∧
       t.dev.mem = s.dev.mem ∧ t.pending = s.pending ∧ t.toll = s.toll ∧ t.dev.cores = s.dev.cores ∧ t.dev.queues = s.dev.queues
     (∀ a slots, x.cmd.op = .collective a → collLimits a = none → s.dev.readable a.members (2 * a.n) = true →
       (∀ r ∈ ranks a.members a.n, s.dev.rankValid r = true) → (ranks a.members a.n).getD a.pos 0 = s.dev.fx.rankSelf →
       s.dev.collRanges a = .ok slots →
       enters (match a.op with | .allReduce => .allReduce c | .reduceScatter => .reduceScatter c | .globalNorm => .globalNorm c) a.channel
         fun k => k.coll = some a ∧ k.members = ranks a.members a.n ∧ k.segs.length = (if a.op = .globalNorm then 0 else a.n)) ∧
     (∀ a b, x.cmd.op = .permute a → permLimits a = none → a.sendCount = 0 → a.recvCount = 0 → s.dev.readable a.members (2 * a.n) = true →
       (∀ r ∈ ranks a.members a.n, s.dev.rankValid r = true) → (ranks a.members a.n).getD a.pos 0 = s.dev.fx.rankSelf →
       s.dev.fetching x.id = false → s.dev.redBuf 0 a.record 0 (collRecordBytes a.n 0) 8 true = .ok b →
       enters (.permute c) a.channel fun k => k.perm = some a ∧ k.members = ranks a.members a.n)) ∧
  ((∀ (s : State) (ch : Nat) (k : CollSt) (a : CollArgs), s.dev.coll ch = some k → k.started = false → k.coll = some a → a.channel = ch →
     wbit s.dev.rd.ctrl 0 = true → k.members.length = a.n → s.dev.fetching k.acc = false →
     (epochOlder a.epoch s.dev.rd.epoch.toNat = true → exec (.collectiveStart ch) s = .next (s.dev!
       ((s.dev.setChan ch ((s.dev.chan ch).filter fun x => x.acc != k.acc)).haltAcc k.acc
         { reason := 0x0B, unit := 4, d0 := a.epoch, d1 := s.dev.rd.epoch.toNat }))) ∧
     (epochOlder a.epoch s.dev.rd.epoch.toNat = false → a.epoch ≠ s.dev.rd.epoch.toNat → k.ahead = none →
       exec (.collectiveStart ch) s = .next (s.dev! (s.dev.setColl ch fun k => { k with ahead := some s.dev.now }))) ∧
     (∀ b : Buf, a.epoch = s.dev.rd.epoch.toNat → a.op = .allReduce → a.counts = none → a.norm = false → a.nanSkip = false → 1 ≤ a.nTiles → 2 ≤ a.n → a.pos < a.n →
       s.dev.unarmed = true → (∀ x ∈ s.dev.rd.held, x.msg.collId ≠ a.collId) → s.dev.liveBuf a.src = some b →
       (∀ i, i < a.nTiles → ∀ p ∈ b.pieces (i * fp32Tile) fp32Tile, (p.1 < hostBase ∧ s.dev.poisonedIn p.1 p.2 = none) ∨
         (hostBase ≤ p.1 ∧ (s.dev.host.piece (p.1 - hostBase) p.2).isSome = true)) →
       let own (i : Nat) : List Byte := s.dev.peekPieces (b.pieces (i * fp32Tile) fp32Tile)
       ∃ t k', exec (.collectiveStart ch) s = .next t ∧ t.dev.coll ch = some k' ∧ k'.started = true ∧ k'.coll = some a ∧ k'.t0 = s.dev.now ∧
         k'.tStart = s.dev.timeStamp ∧ (∀ i, i < a.n → segLo a.nTiles a.n i < segHi a.nTiles a.n i → ∃ g, k'.segAt i = some g ∧ g.outcome = 0 ∧
           g.present = if ((List.range (segHi a.nTiles a.n i)).all fun j => decide (j < segLo a.nTiles a.n i) || redGood (own j)) then [a.pos] else []) ∧
         t.dev.mem = s.dev.mem ∧ fabricFrame s t)) ∧
   (∀ (s : State) (ch w : Nat) (k : CollSt) (a : CollArgs), s.dev.coll ch = some k → k.started = false → k.coll = some a → a.channel = ch →
     k.ahead = some w → s.dev.rd.epoch.toNat ≠ a.epoch → k.nanTrap = false → (∀ x ∈ s.dev.accepted, x.id ≠ k.acc) →
     ∃ t, exec (.epochAheadTimeout ch) s = .next t ∧ t.dev.chan ch = (s.dev.chan ch).filter (fun x => x.acc != k.acc) ∧
       w + s.dev.collDc k ≤ t.dev.now ∧ t.dev.rd.done = sat32 (s.dev.rd.done + 1) ∧ t.dev.rd.partialCount = sat32 (s.dev.rd.partialCount + 1) ∧
       wbit t.dev.rd.err 6 = true ∧ fabricFrame s t) ∧
   (∀ (s : State), s.dev.awakeUp = true → ∃ t, exec .rdDisable s = .next t ∧ (∀ ch, t.dev.chan ch = []) ∧
     t.dev.rd.ctrl = s.dev.rd.ctrl &&& 0xFFFFFFFE ∧ t.pending = s.pending ∧ t.toll = s.toll))

/-- UP, RESULT, ABORT, NORM_UP, NORM_RESULT (R275, R281, R288): a message of a channel on which no collective runs is acknowledged and held unread;
of an edge or result that was closed it is discarded and counted. UP, REFUSE, ABORT, EDGE_DEADLINE (R277, R280, R281, R288, R291): an edge whose
message passes is added whole; one that fails, is aborted or misses its deadline is discarded whole and the value stays; a REFUSE stops the sender.
Stated of a segment that stays open afterwards, in a collective without norm. Where it rests on the model's choices: log entries 52, 53, 54. -/
def Obligations.EdgesResolveWhole : Prop :=
  (∀ (s : State) (via : Via) (m : RedMsg) (kind : Nat) (i : Instr), s.takesRed via m kind → s.dev.runningColl m.channel = none →
     (kind, i) ∈ [(1, Instr.up via m .clean), (2, .result via m), (4, .reductionAbort via m), (5, .normUp via m), (6, .normResult via m)] →
     (kind = 4 → m.crc = redCrc m ∧ m.body = []) →
     let d := s.dev.ackMsg via 0
     let e : ClosedEdge := ⟨m.channel, m.collId, kind, m.segment, m.level⟩
     (e ∉ s.dev.rd.closed → exec i s = .next (s.dev! { d with rd := { d.rd with held := d.rd.held ++ [⟨via.port, m, .clean⟩] } })) ∧
     (e ∈ s.dev.rd.closed → exec i s = .next (s.dev! { d with rd := { d.rd with
       closed := d.rd.closed.erase e, late := sat32 (d.rd.late + 1), err := wset d.rd.err 0x20 } }))) ∧
  (∀ (s : State) (k : CollSt) (a : CollArgs) (g : SegSt) (ch : Nat), k.segAt g.seg = some g → a.n ≤ 8192 → a.norm = false → a.op ≠ .globalNorm →
     let r := relPos a.n a.pos g.seg
     let now (t : State) : Option SegSt := (t.dev.coll ch).bind fun k => k.segAt g.seg
     let lo := segLo a.nTiles a.n g.seg
     let hi := segHi a.nTiles a.n g.seg
     let items := (collItemsOf a lo hi).length
     (∀ via m, s.takesTree via m 1 k a → m.channel = ch → m.segment = g.seg → waitsEdge a g → m.level = g.level →
       k.members.getD ((a.pos + 2 ^ m.level) % a.n) 0 = m.src → waitsEdge a { g with level := g.level + 1 } →
       (∀ ts tr, readBody a.n items (hi - lo) false m = some (ts, tr) → edgeGood g ts = true →
         ∃ t, exec (.up via m .clean) s = .next t ∧ now t = some { mergeSeg a.epoch g ts tr with level := g.level + 1 } ∧
           t.dev.mem = (if ts = [] then s.dev else s.dev.putScratch a g.seg (mergeSeg a.epoch g ts tr).tiles).mem ∧ fabricFrame s t) ∧
       ((∀ ts tr, readBody a.n items (hi - lo) false m = some (ts, tr) → edgeGood g ts = false) →
         ∃ t, exec (.up via m .clean) s = .next t ∧ now t = some { g with failed := g.failed ++ [(g.level, 2)], level := g.level + 1 } ∧
           wbit t.dev.rd.err 1 = true ∧ t.dev.mem = s.dev.mem ∧ fabricFrame s t)) ∧
     (∀ via m, s.takesTree via m 4 k a → m.crc = redCrc m → m.body = [] → m.channel = ch → m.segment = g.seg → g.seg < a.n → waitsEdge a g → g.level < m.level → m.level < redDepth a.n →
       hasChild a.n r m.level = true → k.members.getD ((a.pos + 2 ^ m.level) % a.n) 0 = m.src →
       ∃ t, exec (.reductionAbort via m) s = .next t ∧ now t = some { g with failed := g.failed ++ [(m.level, 1)] } ∧
         wbit t.dev.rd.err 7 = true ∧ t.dev.mem = s.dev.mem ∧ fabricFrame s t) ∧
     (∀ via m, s.takesTree via m 3 k a → m.crc = redCrc m → m.body = [] → m.channel = ch → m.segment = g.seg → g.seg < a.n → a.op = .allReduce → g.outcome = 0 → m.level < redDepth a.n →
       r.testBit m.level = true → r % 2 ^ m.level = 0 → k.members.getD ((a.pos + a.n - 2 ^ m.level) % a.n) 0 = m.src →
       ∃ t, exec (.refuse via m) s = .next t ∧ now t = some { g with upSent := true } ∧ t.dev.mem = s.dev.mem ∧ fabricFrame s t) ∧
     (∀ l, s.dev.runsTree ch k a → g.seg < a.n → waitsEdge a g → g.level < l → l < redDepth a.n → hasChild a.n r l = true → (∀ x ∈ g.failed, x.1 ≠ l) →
       ∃ t, exec (.edgeDeadline ch g.seg l) s = .next t ∧ now t = some { g with failed := g.failed ++ [(l, 1)] } ∧
         k.t0 + s.dev.collDc k * (l + 1) ≤ t.dev.now ∧ t.dev.rd.late = sat32 (s.dev.rd.late + 1) ∧
         (t.dev.coll ch).map (·.lateEdges) = some (k.lateEdges + 1) ∧ ⟨ch, a.collId, 1, g.seg, l⟩ ∈ t.dev.rd.closed ∧
         t.dev.out = ((s.dev.advanceTo (k.t0 + s.dev.collDc k * (l + 1))).sendRed k 3 l ((a.pos + 2 ^ l) % a.n) g.seg []).out ∧
         t.dev.mem = s.dev.mem ∧ fabricFrame s t))

/-- RESULT, SEGMENT_DEADLINE, NORM_UP, NORM_RESULT, NORM_DEADLINE (R278, R287, R288, R299): a segment's result goes to DST; one that misses its
deadline is torn there; the values q add up along the tree; the norm's result, or its absence, is written to NORM_OUT. Stated of an ALL_REDUCE in
which another segment stays open, and for NORM_UP of a GLOBAL_NORM that waits for a further edge. Where it rests on the model's choices: log entries
53, 55. -/
def Obligations.ResultsAndNorm : Prop :=
  ∀ (s : State) (k : CollSt) (a : CollArgs) (ch : Nat), a.countsOut = none →
    (∀ rest ∈ k.segs, rest.outcome = 0 → a.op = .allReduce →
      (∀ via m g b ts tr, s.takesTree via m 2 k a → m.channel = ch → k.segAt m.segment = some g → g.seg = m.segment → g.outcome = 0 → a.norm = false →
        rest.seg ≠ m.segment → (∀ i x, k.segAt i = some x → x.seg = i) → m.segment ≠ a.pos → m.level = 0xFF →
        k.members.getD m.segment 0 = m.src → s.dev.liveBuf a.dst = some b →
        readBody a.n (collItemsOf a (segLo a.nTiles a.n m.segment) (segHi a.nTiles a.n m.segment)).length
          (segHi a.nTiles a.n m.segment - segLo a.nTiles a.n m.segment) false m = some (ts, tr) → ts ≠ [] → ts.all redGood = true →
        ∃ t, exec (.result via m) s = .next t ∧ (t.dev.coll ch).bind (·.segAt m.segment) = some
            { g with outcome := 1, has := true, tiles := [],
                     present := tr.present, nanMap := tr.nanMap, nanCount := tr.nanCount, arisen := tr.arisen, counts := tr.counts } ∧
          t.dev.mem = ((List.range ts.length).foldl (fun d i => d.writePieces (b.pieces ((segLo a.nTiles a.n m.segment + i) * fp32Tile) fp32Tile)
            (ts.getD i [])) s.dev).mem ∧ fabricFrame s t) ∧
      (∀ sg g b, s.dev.runsTree ch k a → k.segAt sg = some g → g.seg = sg → g.outcome = 0 → a.norm = false → rest.seg ≠ sg →
        (∀ i x, k.segAt i = some x → x.seg = i) → sg ≠ a.pos → s.dev.liveBuf a.dst = some b →
        ∃ t, exec (.segmentDeadline ch sg) s = .next t ∧ (t.dev.coll ch).bind (·.segAt sg) = some
            { g with outcome := 2, has := false, tiles := [],
                     present := [], nanMap := [], nanCount := 0, arisen := 0, counts := [] } ∧
          k.t0 + s.dev.collDc k * (redDepth a.n + 1) ≤ t.dev.now ∧
          (t.dev.coll ch).map (·.tornTiles) = some (k.tornTiles + (segHi a.nTiles a.n sg - segLo a.nTiles a.n sg)) ∧ fabricFrame s t) ∧
      (∀ via m tr, s.takesTree via m 6 k a → m.channel = ch → a.norm = true → a.pos ≠ 0 → k.members.getD 0 0 = m.src → m.level = 0xFF → k.normDone = false →
        readBody a.n 0 0 true m = some ([], tr) →
        ∃ t, exec (.normResult via m) s = .next t ∧
          t.dev.mem = s.dev.mem.writes a.normOut (normOut (f64 tr.sumsq) (decide (tr.present.length = a.n))) ∧
          (t.dev.coll ch).map (fun k => (k.normDone, k.normQ)) = some (true, tr.sumsq) ∧ fabricFrame s t) ∧
      (s.dev.runsTree ch k a → a.norm = true → k.normDone = false →
        ∃ t, exec (.normDeadline ch) s = .next t ∧ k.t0 + s.dev.collDc k * (redDepth a.n + 2) ≤ t.dev.now ∧
          t.dev.mem = s.dev.mem.writes a.normOut (leBytes 8 0 ++ leBytes 4 0x7FC00000 ++ zeros 4) ∧
          (t.dev.coll ch).map (·.normDone) = some true ∧ fabricFrame s t)) ∧
    (∀ via m tr, a.op = .globalNorm → k.segs = [] → s.takesTree via m 5 k a → m.channel = ch → k.normReady = true → k.normHas = true → k.normSent = false →
      k.normDone = false → m.level = k.normLevel → m.segment = 0 → m.level + 1 < redDepth a.n → hasChild a.n a.pos m.level = true →
      hasChild a.n a.pos (m.level + 1) = true → (∀ l ∈ k.normFailed, l ≠ m.level ∧ l ≠ m.level + 1) →
      k.members.getD (a.pos + 2 ^ m.level) 0 = m.src → readBody a.n 0 0 true m = some ([], tr) → tr.present ≠ [] →
      ∃ t, exec (.normUp via m) s = .next t ∧ (t.dev.coll ch).map (fun k => (k.normQ, k.normLevel)) =
          some (code64 (add64 (f64 k.normQ) (f64 tr.sumsq)), k.normLevel + 1) ∧ t.dev.mem = s.dev.mem ∧ fabricFrame s t)

/-! ## The Wells -/

/-- OPT_UPDATE, SUMSQ, REQUANT, SCATTER_ADD, FOLD, FILL, SCRUB_RANGE (R304, R305, R306, R88): a command that passes the lead Well's checks is
accepted with its parts, none started; one that breaks a check, without a usable RECORD, completes REJECTED and halts its core with BAD_OPERAND,
kind 10, DETAIL0 the CAUSE. R262: on a FROZEN group an OPT_UPDATE writes its record and nothing else. R256: a fold is held exactly when its key does
not come next. R266, R267: an update below MAX_VERSIONS with room takes the next version's buffer at once, and otherwise waits. The +0 of a job load
(R257, log entry 62) stands already. UPDATE_ADMIT and HOLD_MAX_EXPIRE (R267): a held update is admitted once fewer than MAX_VERSIONS versions are
live and a buffer is free, and is left alone before; after HOLD_MAX it is over, no version changes, and its core has halted with VERSION_LIMIT.
Where it rests on the model's choices: log entries 59, 60. -/
def Obligations.WellCommandsAdmitted : Prop :=
  (∀ (s : State) (c w : Nat) (a : Accepted) (pre post : List Accepted) (r : Word64) (op : WellOp), s.dev.serves c a pre post →
     a.cmd.op = .well w r op → (∀ k ∈ s.dev.wells.cmds, k.id < s.dev.nextId) →
     (∀ g, opGroup op = some g → g < s.dev.groupCount → s.dev.wells.zeroed.contains g = true ∨ s.dev.accLive g = false) →
     let i : Instr := match op with
       | .optUpdate .. => .optUpdate c | .sumsq .. => .sumsq c | .requant .. => .requant c | .scatterRows .. => .scatterAdd c | .fold _ => .fold c
       | .fill .. => .fill c | .scrub .. => .scrubRange c
     let d := { s.dev with nextId := s.dev.nextId + 1 }
     (∀ e e', s.dev.wellPlan w op = .error e → s.dev.wRange r 0 96 8 true = .error e' → exec i s = .next (s.dev!
       ((if e.handle then d.countInvalid else d).haltAcc a.id { reason := 0x02, unit := 4, kind := 10, d0 := e.cause }))) ∧
     (∀ plan b, s.dev.wellPlan w op = .ok plan → s.dev.opEntry op = none → s.dev.wRange r 0 (wellRecordBytes plan.parts.length) 8 true = .ok b →
       let refs := (b.slot :: plan.refs).eraseDups
       let k := s.dev.newWell s.dev.nextId (.core c a.id) w r op a.cmd.nanTrap ⟨plan.parts, refs⟩
       ((∀ g it gr cs n, op = .optUpdate g it gr cs n → s.dev.trainMode g ≠ 1) →
         ∃ t k', exec i s = .next t ∧ t.dev.wells.cmds = s.dev.wells.cmds ++ [k'] ∧ k'.id = k.id ∧ k'.origin = k.origin ∧ k'.op = op ∧
           k'.parts = plan.parts ∧ k'.started = false ∧ t.dev.acc a.id = some { a with begun := true, refs := refs } ∧
           ((∀ g it gr cs n, op ≠ .optUpdate g it gr cs n) → (∀ f, op ≠ .fold f) → k' = k) ∧
           (∀ f, op = .fold f → k'.heldSince = if s.dev.foldEarly f then some s.dev.now else none) ∧
           (∀ g it gr cs n, op = .optUpdate g it gr cs n →
             (∀ x, (s.dev.liveVersions g).length < s.dev.gField g 5 1 → s.dev.allocVersion g = some x →
               k'.newSlot = some x.1.slot ∧ k'.heldSince = none) ∧
             (s.dev.gField g 5 1 ≤ (s.dev.liveVersions g).length → k'.newSlot = none ∧ k'.heldSince = some s.dev.now)) ∧
           t.dev.mem = s.dev.mem ∧ t.dev.cores = s.dev.cores ∧ t.dev.queues = s.dev.queues ∧ t.pending = s.pending ∧ t.toll = s.toll) ∧
       (∀ g it gr cs n, op = .optUpdate g it gr cs n → s.dev.trainMode g = 1 → a.cmd.nanTrap = false →
         ∃ t, exec i s = .next t ∧ t.dev.wells = s.dev.wells ∧ t.dev.accepted = pre ++ post ∧
           t.dev.mem = (s.dev.writeHandle r 0 (s.dev.wellRecord { k with counts := s.dev.optIdle g 0 } 0 0)).mem ∧
           t.dev.cores = s.dev.cores ∧ t.pending = s.pending ∧ t.toll = s.toll))) ∧
  (∀ (s : State) (id g it t0 : Nat) (gr : Word64) (cs n : Option Nat) (k : WellCmd), s.dev.wcmd id = some k → k.op = .optUpdate g it gr cs n →
     k.heldSince = some t0 → (∀ x ∈ s.dev.wells.cmds, x.id = id → x = k) →
     (s.dev.gField g 5 1 ≤ (s.dev.liveVersions g).length → exec (.updateAdmit id) s = .next s) ∧
     (∀ x, (s.dev.liveVersions g).length < s.dev.gField g 5 1 → s.dev.allocVersion g = some x →
       exec (.updateAdmit id) s = .next (s.dev! (x.2.setWcmd id fun k => { k with
         newSlot := some x.1.slot, heldSince := none, heldUs := k.heldUs + (s.dev.now - t0) / 1000 }))) ∧
     (∀ c acc, k.id = id → k.origin = .core c acc → k.nanAt = none → c < s.dev.cores.length → (s.dev.core c).halted = false → s.dev.bz.rounds = [] →
       s.dev.mem.wf = true → (∀ a, s.dev.acc acc = some a → a.core = c ∧ a.cmd.signals = []) → (s.dev.core c).ending = none →
       ∃ t, exec (.holdMaxExpire id) s = .next t ∧ t.dev.wcmd id = none ∧ (t.dev.core c).halted = true ∧ t0 + 1000 * s.dev.gField g 36 4 ≤ t.dev.now ∧
         t.dev.wells.versions = s.dev.wells.versions ∧ t.dev.mem.read (haltArea s.dev.grade c) = 0x10 ∧
         (∀ j, j ≠ c → t.dev.core j = s.dev.core j) ∧ t.pending = s.pending ∧ t.toll = s.toll))

/-- R256 (the order of folds): a fold comes next exactly when it belongs to the accumulator's iteration and its key is the one after those folded;
folds that each came next have strictly rising keys (MICRO_BATCH, USE, CHUNK). Where it rests on the model's choices: log entry 50. -/
def Obligations.FoldsInKeyOrder : Prop :=
  (∀ (d : Dev) (f : FoldArgs), d.foldNext f = true ↔ ((d.accIter f.group = none ∨ d.accIter f.group = some (f.iter % 65536)) ∧
    (f.microBatch, f.use, f.chunk) = nextKey (d.gUses f.group) (d.foldSt f.group f.expert (f.iter % 65536)).done)) ∧
  (∀ (uses : Nat) (keys : List (Nat × Nat × Nat × Bool)), 1 ≤ uses →
    (∀ i, i < keys.length → (fun x : Nat × Nat × Nat × Bool => (x.1, x.2.1, x.2.2.1)) (keys.getD i (0, 0, 0, false)) = nextKey uses (keys.take i)) →
    ∀ i j, i < j → j < keys.length →
      let x := keys.getD i (0, 0, 0, false)
      let y := keys.getD j (0, 0, 0, false)
      (x.1 < y.1 ∨ (x.1 = y.1 ∧ (x.2.1 < y.2.1 ∨ (x.2.1 = y.2.1 ∧ x.2.2.1 < y.2.2.1)))) ∧ y.2.1 < uses)

/-- WELL_COMMAND_START and WELL_PART_END (R256, R257, R307, R308, R314, R329): an accepted command that nothing blocks starts; a part that succeeds
writes its outputs, one that fails writes none and its output tiles are torn; a ZERO fold completes its key at once; the last part of a SUMSQ,
REQUANT, SCATTER_ADD, FILL or SCRUB_RANGE ends the command with its result and its record. Where it rests on the model's choices: log entries 61,
64. -/
def Obligations.WellPartsRun : Prop :=
  ∀ (s : State) (id : Nat) (k : WellCmd), s.dev.wcmd id = some k → k.id = id → s.dev.unarmed = true →
    (∀ p ∈ k.parts, s.dev.partHeld k p = false) → (s.dev.well k.well).ucode = false → s.dev.fetching id = false →
    (k.started = false → s.dev.wellBlocked k = false →
      ((∀ g it gr cs n, k.op ≠ .optUpdate g it gr cs n) → (∀ f, k.op ≠ .fold f) →
        exec (.wellCommandStart id) s = .next (s.dev! (s.dev.setWcmd id fun k => { k with started := true }))) ∧
      (∀ f, k.op = .fold f → s.dev.foldNext f = true → k.parts ≠ [] →
        exec (.wellCommandStart id) s = .next (s.dev! (s.dev.setWcmd id fun k => { k with started := true, heldSince := none }))) ∧
      (∀ f, k.op = .fold f → s.dev.foldNext f = true → k.parts = [] → k.nanTrap = false →
        ∃ t, exec (.wellCommandStart id) s = .next t ∧ t.dev.wcmd id = none ∧
          (t.dev.foldSt f.group f.expert (f.iter % 65536)).done =
            (s.dev.foldSt f.group f.expert (f.iter % 65536)).done ++ [(f.microBatch, f.use, f.chunk, f.last)] ∧
          t.pending = s.pending ∧ t.toll = s.toll) ∧
      (∀ g it gr cs n, k.op = .optUpdate g it gr cs n → k.heldSince = none → s.dev.gExperts g = 0 → (s.dev.gField g 2 1).testBit 6 = false →
        s.dev.heldAt (cs.getD 0) 0 = false → s.dev.heldAt (n.getD 0) 16 = false →
        exec (.wellCommandStart id) s = .next (s.dev! (s.dev.setWcmd id fun k => { k with
          started := true, clip := 0x3F800000, visited := [true] })))) ∧
    (∀ p ecc, k.started = true → p ∈ k.parts → p.done = false → (k.parts.map (·.idx)).Nodup → s.dev.partBehind k p = false →
      (∃ q ∈ k.parts, q.idx ≠ p.idx ∧ q.done = false) →
      let fin (failed : Bool) (cause : Nat) := k.parts.map fun x => if x.idx = p.idx then { x with done := true, failed := failed, cause := cause } else x
      (∀ f d0 d' mask acc pt tried torn cause nan, k.op = .fold f → s.dev.maskBytes p.well f.group = (some mask, d0) →
        s.dev.wTiles (s.dev.gHandle f.group 96) .fp32 (f.expert.getD 0 * s.dev.gTiles f.group * tileTotal .fp32) (s.dev.gTiles f.group) true = .ok acc →
        s.dev.wTiles (f.part.getD 0) .fp32 0 (s.dev.gTiles f.group) false = .ok pt →
        d0.foldGo p.well acc pt f mask f.group (s.dev.gTiles f.group) ((List.range p.count).map (· + p.first)) (0, 0, 0, none) =
          ((tried, torn, cause, nan), d') → d'.wells.cmds = s.dev.wells.cmds →
        ∃ t, exec (.wellPartEnd id p.idx false ecc) s = .next t ∧ t.dev.mem = d'.mem ∧ t.dev.wells.folds = d'.wells.folds ∧
          (t.dev.wcmd id).map (·.parts) = some (fin (decide (torn ≠ 0)) (if torn = 0 then 0 else cause)) ∧ t.pending = s.pending ∧ t.toll = s.toll) ∧
      (∀ b l, k.op = .scrub b l → let r := s.dev.partScrub p b ecc k.counts
        r.2.wells.cmds = s.dev.wells.cmds →
        ∃ t, exec (.wellPartEnd id p.idx false ecc) s = .next t ∧ t.dev.mem = r.2.mem ∧ t.dev.poison = r.2.poison ∧
          (t.dev.wcmd id).map (·.parts) = some (fin false 0) ∧ t.pending = s.pending ∧ t.toll = s.toll) ∧
      ((∀ f, k.op ≠ .fold f) → (∀ b l, k.op ≠ .scrub b l) →
      (∀ o d', s.dev.partRun k p = (.ok o, d') → d'.wells.cmds = s.dev.wells.cmds →
        ∃ t, exec (.wellPartEnd id p.idx false ecc) s = .next t ∧ t.dev.mem = (d'.putOut o).mem ∧ t.pending = s.pending ∧ t.toll = s.toll ∧
          (t.dev.wcmd id).map (·.parts) = some (fin false 0)) ∧
      (∀ cause d', s.dev.partRun k p = (.error cause, d') → d'.wells.cmds = s.dev.wells.cmds →
        ∃ t, exec (.wellPartEnd id p.idx false ecc) s = .next t ∧ t.dev.mem = (d'.tearAll p.well (d'.partTargets k p)).mem ∧
          (t.dev.wcmd id).map (·.parts) = some (fin true cause) ∧ t.pending = s.pending ∧ t.toll = s.toll))) ∧
    (∀ p ecc, k.started = true → k.parts = [p] → p.done = false → k.nanTrap = false → s.dev.partBehind k p = false →
      (∀ c acc, k.origin = .core c acc → ∀ y, s.dev.acc acc = some y → y.cmd.signals = [] ∧ (s.dev.core y.core).ending = none) →
      let same (d : Dev) : Prop := d.wells.cmds = s.dev.wells.cmds ∧ d.accepted = s.dev.accepted ∧ d.cores = s.dev.cores
      let ends (d : Dev) : Prop := ∃ t rec, exec (.wellPartEnd id p.idx false ecc) s = .next t ∧ t.dev.wcmd id = none ∧
        rec.length = wellRecordBytes 1 ∧ rec.take 3 = [1, BitVec.ofNat 8 (wellOpCode k.op), 0] ∧
        t.dev.mem = (d.writeHandle k.record 0 rec).mem ∧ t.pending = s.pending ∧ t.toll = s.toll
      (∀ h off bytes pat b, k.op = .fill h off bytes pat → s.dev.depot.buf (slotOf h) = some b →
        ends (s.dev.putOut (fillOut b off bytes pat s.dev.rd.epoch.toNat p))) ∧
      (∀ b l, k.op = .scrub b l → same (s.dev.partScrub p b ecc k.counts).2 → ends (s.dev.partScrub p b ecc k.counts).2) ∧
      (∀ o d', s.dev.partRun k p = (.ok o, d') → same d' →
        let d1 := (d'.putOut o).notePart id p none 0 o
        (∀ src dst f e st it n cc, k.op = .requant src dst f e st it n cc → ends (d'.putOut o)) ∧
        (∀ k1, d1.wcmd id = some k1 → (∀ bs r, k.op = .sumsq bs r → ends (d1.sumsqEnd k1 bs r).2) ∧
          (∀ sr ix ds n m h, k.op = .scatterRows sr ix ds n m h → ends (d1.scatterRun k1 sr ix ds n m h).2))))

/-- R327, R330, R333: a write to device memory reads back and leaves every other byte; a poisoned line loses its mark exactly when the write covers
it whole; memory keeps its canonical form. WELL_FILL_DONE, BACKGROUND_FILL_LINE, DRONE_LINE, LANE_REPAIR, RETRAIN_PRESERVE, RETRAIN_RESET,
ROW_SPARE, CHANNEL_REPAIR_END (R326, R328, R330, R332): what each does to its Well, its lines, the traffic that waits for them, and the error
records. Where it rests on the model's choices: log entries 64, 65, 66. -/
def Obligations.WritesPoisonAndStackCare : Prop :=
  (∀ (d : Dev) (a : Nat) (bs : List Byte), d.mem.wf = true →
     (d.write a bs).mem.wf = true ∧ (d.write a bs).peek a bs.length = bs ∧
     (∀ x, x < a ∨ a + bs.length ≤ x → (d.write a bs).mem.read x = d.mem.read x) ∧
     (∀ l, l ∈ (d.write a bs).poison ↔ l ∈ d.poison ∧ ¬ (a ≤ 2048 * l ∧ 2048 * (l + 1) ≤ a + bs.length)) ∧
     (d.write a bs).cores = d.cores ∧ (d.write a bs).queues = d.queues ∧ (d.write a bs).er = d.er) ∧
  (∀ (s : State) (w : Nat), w ∈ presentWells s.dev.grade → w < s.dev.wells.wells.length →
     let free := (s.dev.well w).retraining = false ∧ (s.dev.well w).sparing = false ∧ (s.dev.well w).laneRepair = false ∧ (s.dev.well w).ucode = false
     let repaired (d : Dev) (sev ch kind : Nat) (a n : Nat) : Dev := d.detect (0x0500 + w) sev false (some a) ch kind n
     (s.dev.boot.st = 1 → s.dev.trust.staggerWait = false → (s.dev.well w).there = false →
       ((∃ v ∈ presentWells s.dev.grade, v ≠ w ∧ (s.dev.well v).there = false) →
         exec (.wellFillDone ⟨w, false⟩) s = .next (s.dev! (s.dev.setWell w fun x => { x with filled := true, passStart := s.dev.now })) ∧
         exec (.wellFillDone ⟨w, true⟩) s = .next (s.dev! (s.dev.setWell w fun x => { x with
           startedTracked := true, track := ⟨true, [], [], []⟩, passStart := s.dev.now }))) ∧
       (∀ tracked, (∀ v ∈ presentWells s.dev.grade, v ≠ w → (s.dev.well v).there = true) →
         ∃ t, exec (.wellFillDone ⟨w, tracked⟩) s = .next t ∧ t.dev.boot.st = 2 ∧
           t.dev.boot.tFill = sat32 ((s.dev.now - s.dev.trust.fillStart) / 1000) ∧ t.pending = s.pending ∧ t.toll = s.toll)) ∧
     (∀ l, l < 25165824 → (s.dev.well w).track.invalid l = true → s.dev.heldAt ((wellBase s.dev.grade w / 2048 + l) * 2048) 1 = false →
       exec (.backgroundFillLine w l) s = .next (s.dev! (s.dev.writeTsv ((wellBase s.dev.grade w / 2048 + l) * 2048) (zeros 2048)))) ∧
     ((s.dev.well w).there = true → wbit (s.dev.well w).droneCtrl 0 = true → s.dev.pw.state < 3 → s.dev.unarmed = true →
       let l := wellBase s.dev.grade w / 2048 + (s.dev.well w).dronePos % 25165824
       s.dev.heldAt (l * 2048) 2048 = false → l ∉ s.dev.poison → (s.dev.well w).track.invalid (l % 25165824) = false →
       (∃ t, exec (.droneLine w .clean) s = .next t ∧ t.dev.well w = (s.dev.well w).droneNext s.dev.now ∧ t.dev.poison = s.dev.poison ∧
         t.dev.mem = s.dev.mem ∧ t.dev.er = s.dev.er ∧ t.pending = s.pending ∧ t.toll = s.toll) ∧
       (∃ t, exec (.droneLine w .uncorrectable) s = .next t ∧ t.dev.poison = insertAsc l s.dev.poison ∧ (t.dev.well w).uncorr = sat32 ((s.dev.well w).uncorr + 1) ∧
         wbit (t.dev.well w).err 1 = true ∧ t.dev.er.seq = nextSeq s.dev.er.seq ∧ t.dev.mem = s.dev.mem ∧ t.pending = s.pending ∧ t.toll = s.toll)) ∧
     (∀ ch, ch < 32 → s.dev.boot.st = 4 ∨ s.dev.boot.st = 5 → free →
       exec (.laneRepair w ch) s = .next (s.dev! (repaired (s.dev.setWell w fun x => { x with
         laneRepair := true, channel := ch, laneRepairs := sat32 (x.laneRepairs + 1) }) 0 ch 1 0 0)) ∧
       exec (.retrainPreserve w ch) s = .next (s.dev! (repaired (s.dev.setWell w fun x => x.retrain ch) 0 ch 2 0 0)) ∧
       (∃ t, exec (.retrainReset w ch) s = .next t ∧ (t.dev.well w).retraining = true ∧ t.dev.poison = s.dev.poison ∧
         (∀ l, l % 32 = ch → (t.dev.well w).track.invalid l = true) ∧
         (∀ a, s.dev.mem.wf = true → t.dev.mem.read a = if s.dev.inChannel w ch a then 0 else s.dev.mem.read a) ∧ t.pending = s.pending ∧ t.toll = s.toll) ∧
       (∀ ls : List SpareLine, ls ≠ [] →
         (∀ x ∈ ls, x.line < 25165824 ∧ x.line % 32 = ch ∧ wellBase s.dev.grade w / 2048 + x.line ∉ s.dev.poison) →
         ∃ t, exec (.rowSpare w ch ls) s = .next t ∧ (t.dev.well w).sparing = true ∧
           (t.dev.well w).sparedRows = sat32 ((s.dev.well w).sparedRows + 1) ∧ t.dev.mem = s.dev.mem ∧
           (∀ x, x ∈ t.dev.poison ↔ x ∈ s.dev.poison ∨
             ∃ y ∈ ls, y.unreadable = true ∧ (s.dev.well w).track.invalid y.line = false ∧ x = wellBase s.dev.grade w / 2048 + y.line) ∧
           t.pending = s.pending ∧ t.toll = s.toll)) ∧
     let ended := s.dev.setWell w fun x => { x with retraining := false, sparing := false, laneRepair := false }
     exec (.channelRepairEnd w) s = .next (s.dev! ended.serveHeld) ∧
     (s.dev.wells.heldIo = [] → exec (.channelRepairEnd w) s = .next (s.dev! ended)))

/-! ## Memory and the Depot -/

/-- ALLOC (R349, R350): one that passes its checks takes a buffer of reference count 1 at once when no other ALLOC waits on its pool or for the last
free slot, and the pool has room and a slot, writes its handle to RESULT and completes; otherwise it waits. One that fails a check halts its core
with HANDLE_INVALID and is counted in DP_INVALID. The oldest ALLOC that waits on a pool takes room freed meanwhile, and a free slot unless an
earlier ALLOC of another pool is to have it; one that waits past WAIT_MAX fails check 10 with DETAIL0 zero. RETAIN and RELEASE (R351, R348): a count
goes up or down by one, a buffer whose count reaches zero is freed and the GEN of its slot goes up by one modulo 2^16; a handle that fails a check
halts the core with HANDLE_INVALID. A prefetch stream past its buffer, past its depth or not trained changes nothing; a trained stream goes on, and
reads its next line into the cache of its die unless its core's loads have reached it; 64 µs without a load free a stream (R341). Where it rests on
the model's choices: log entries 67, 68, 69. -/
def Obligations.BuffersAndStreams : Prop :=
  ((∀ (s : State) (c : Nat) (a : Accepted) (pre post : List Accepted) (x : AllocArgs) (r : Nat), s.dev.serves c a pre post →
     a.cmd.op = .alloc x → x.result = some r → wbit s.dev.depot.ctrl 0 = true → s.dev.resultFault 5 r = none →
     (∀ h k, s.dev.allocCheck x = .error (h, k) → exec (.alloc c) s =
       .next (s.dev! (s.dev.countInvalid.haltAcc a.id { reason := 0x0C, unit := 4, d0 := h, d1 := k }))) ∧
     (∀ p, s.dev.allocCheck x = .ok p →
       (s.dev.behind s.dev.depot.waits x.pool = false → ∀ b e, s.dev.allocTry x = some (b, e) → b.refs = 1 →
         exec (.alloc c) s = .next (s.dev! ((({ s.dev with depot := e.depot } : Dev).write r (leBytes 8 (e.handleOf b).toNat)).withAccepted
           (pre ++ post)))) ∧
       (s.dev.behind s.dev.depot.waits x.pool = true ∨ s.dev.allocTry x = none →
         ∃ t, exec (.alloc c) s = .next t ∧ t.dev.depot.waits = s.dev.depot.waits ++ [⟨a.id, x, s.dev.now, none⟩] ∧
           t.dev.depot.bufs = s.dev.depot.bufs ∧ t.dev.mem = s.dev.mem ∧ t.dev.cores = s.dev.cores ∧
           t.dev.accepted = pre ++ { a with begun := true, refs := [] } :: post ∧ t.pending = s.pending ∧ t.toll = s.toll))) ∧
   (∀ (s : State) (c : Nat) (a : Accepted) (pre post : List Accepted) (x : AllocArgs) (since : Nat) (ws zs : List AllocWait),
     s.dev.accepted = pre ++ a :: post → a.core = c → a.refs = [] → a.cmd.signals = [] → (s.dev.core c).ending = none →
     (∀ y ∈ pre ++ post, y.id ≠ a.id) → s.dev.depot.waits = zs ++ ⟨a.id, x, since, none⟩ :: ws →
     (∀ z ∈ zs, z.args.pool ≠ x.pool ∧ z.id ≠ a.id) →
     (∀ b e, s.dev.behind zs x.pool = false → s.dev.allocTry x = some (b, e) → exec (.allocGranted x.pool) s = .next (s.dev!
       ((({ s.dev with depot := { e.depot with waits := zs ++ ws } } : Dev).write (x.result.getD 0) (leBytes 8 (e.handleOf b).toNat)).withAccepted
         (pre ++ post)))) ∧
     (s.dev.behind zs x.pool = true ∨ s.dev.allocTry x = none → exec (.allocGranted x.pool) s = .next s) ∧
     (let d := s.dev.advanceTo (since + 1000 * (s.dev.pool x.pool).elim 0 (·.waitMax))
      exec (.allocTimeout a.id) s = .next (s.dev! (({ d with depot := { d.depot with waits := zs ++ ws, err := wset d.depot.err 8 } } :
        Dev).countInvalid.haltAcc a.id { reason := 0x0C, unit := 4, d0 := 0, d1 := 10 }))))) ∧
  ((∀ (s : State) (c : Nat) (a : Accepted) (pre post : List Accepted) (h : Word64), s.dev.serves c a pre post →
     wbit s.dev.depot.ctrl 0 = true →
     (a.cmd.op = .retain h → (∀ k, s.dev.countCheck h true = .error k → exec (.retain c) s =
         .next (s.dev! (s.dev.countInvalid.haltAcc a.id { reason := 0x0C, unit := 4, d0 := h.toNat, d1 := k }))) ∧
       (∀ b, s.dev.countCheck h true = .ok b → exec (.retain c) s = .next (s.dev! (({ s.dev with depot := { s.dev.depot with
         bufs := s.dev.depot.bufs.map fun y => if y.slot == b.slot then { y with refs := y.refs + 1 } else y } } : Dev).withAccepted
           (pre ++ post))))) ∧
     (a.cmd.op = .release h → (∀ k, s.dev.countCheck h false = .error k → exec (.release c) s =
         .next (s.dev! (s.dev.countInvalid.haltAcc a.id { reason := 0x0C, unit := 4, d0 := h.toNat, d1 := k }))) ∧
       (∀ b, s.dev.countCheck h false = .ok b → 
         (2 ≤ b.refs → exec (.release c) s = .next (s.dev! (({ s.dev with depot := { s.dev.depot with
           bufs := s.dev.depot.bufs.map fun y => if y.slot == b.slot then { y with refs := y.refs - 1 } else y } } : Dev).withAccepted
             (pre ++ post)))) ∧
         (b.refs ≤ 1 → ∃ t, exec (.release c) s = .next t ∧ t.dev.depot.buf b.slot = none ∧
           t.dev.depot.gen b.slot = (s.dev.depot.gen b.slot + 1) % 65536 ∧ (∀ k, k ≠ b.slot → t.dev.depot.buf k = s.dev.depot.buf k ∧
             t.dev.depot.gen k = s.dev.depot.gen k) ∧
           t.dev.mem = s.dev.mem ∧ t.dev.cores = s.dev.cores ∧ t.dev.accepted = pre ++ post ∧ t.pending = s.pending ∧ t.toll = s.toll)))) ∧
   (∀ (s : State) (die i : Nat) (f : PfStream), (s.dev.depot.streams.filter fun x => x.die == die)[i]? = some f →
     ((∀ b, s.dev.depot.buf f.slot = some b → b.gen ≠ f.gen) → exec (.prefetchRead die i) s = .next s) ∧
     (∀ b, s.dev.depot.buf f.slot = some b → b.gen = f.gen →
       let ahead := (((f.next / 2048 : Nat) : Int) - (f.last / 2048 : Nat)).natAbs
       let l := ((b.pieces f.next 1).head?.elim 0 (·.1)) / 2048
       let able : Bool := 3 ≤ f.loads && ahead ≤ s.dev.depot.pfDepth.toNat && decide (f.next < b.bytes) && inJobMem s.dev.grade (l * 2048) 2048
       (able = false → exec (.prefetchRead die i) s = .next s) ∧
       (able = true → ∃ t, exec (.prefetchRead die i) s = .next t ∧ t.dev.mem = s.dev.mem ∧ t.dev.cores = s.dev.cores ∧
         t.dev.er = s.dev.er ∧ t.pending = s.pending ∧ t.toll = s.toll ∧
         { f with next := ((f.next : Int) + f.stride).toNat } ∈ t.dev.depot.streams ∧
         (ahead ≠ 0 → l ∉ s.dev.poison → (die, l) ∈ t.dev.depot.cached) ∧
         (ahead = 0 ∨ l ∈ s.dev.poison → t.dev.depot.cached = s.dev.depot.cached))) ∧
     (∃ t, exec (.prefetchStreamFree die i) s = .next t ∧ t.dev.depot.streams = s.dev.depot.streams.erase f ∧
       t.dev.depot.cached = s.dev.depot.cached ∧ t.dev.mem = s.dev.mem ∧ t.dev.cores = s.dev.cores ∧ t.pending = s.pending ∧
       max s.dev.now (f.used + 64000) ≤ t.dev.now)))

/-! ## Zelxa Fabric -/

/-- READ, WRITE and ATOMIC (R378, R382, R385): a request that passes the checks is served and answered OK, with the data it reads, the write made or
the location's old value; one that fails a check of R378 is answered with its status, changes no memory and is counted once as JOB, ACCESS or RANGE.
A read that meets a poisoned line is answered POISON. A request for lines under repair waits (R332). SIGNAL (R378, R90, R400): with the job's ID it
sets or clears a flag or adds to a counter of the core it names, as one update, and is answered OK; a wrong job is answered JOB, a core outside the
device RANGE, with no core changed; a counter outside 0 to 63 or a value out of range halts the core, answered OK; COUNT 0 is discarded and counted.
Where it rests on the model's choices: log entries 19, 25. -/
def Obligations.RequestsAndSignalsServed : Prop :=
  (∀ (s : State) (port : Nat) (p : Packet), s.dev.takesPkt p →
     let fails (i : Instr) (op st : Nat) : Prop := ∃ t, exec i s = .next t ∧ fabricFrame s t ∧ t.dev.mem = s.dev.mem ∧
       t.dev.out = s.dev.reply p op st [] :: s.dev.out ∧
       (∀ k, t.dev.fx.counts.getD k 0 = if st = k + 1 ∧ k < s.dev.fx.counts.length ∧ k < 3 then sat32 (s.dev.fx.counts.getD k 0 + 1)
         else s.dev.fx.counts.getD k 0)
     let waits (i : Instr) : Prop := ∃ t, exec i s = .next t ∧ fabricFrame s t ∧ t.dev.mem = s.dev.mem ∧ t.dev.out = s.dev.out ∧
       t.dev.wells.heldIo = s.dev.wells.heldIo ++ [.request port p]
     (p.cls = 0 → p.op = 1 → 32 ≤ p.len → p.len ≤ 4096 → p.len % 32 = 0 →
       (∀ st, s.dev.rxAddr p.jobId p.addr p.len 0 false = .error st → fails (.read port p) 6 st) ∧
       (∀ a, s.dev.rxAddr p.jobId p.addr p.len 0 false = .ok a → s.dev.heldAt a p.len = true → waits (.read port p)) ∧
       (∀ a, s.dev.rxAddr p.jobId p.addr p.len 0 false = .ok a → s.dev.lostIn a p.len = false → s.dev.heldAt a p.len = false →
         (s.dev.poisonedIn a p.len = none → ∃ t, exec (.read port p) s = .next t ∧ fabricFrame s t ∧ t.dev.mem = s.dev.mem ∧
           t.dev.fx = s.dev.fx ∧ t.dev.er = s.dev.er ∧ t.dev.out = s.dev.reply p 6 0 (s.dev.peek a p.len) :: s.dev.out) ∧
         (∀ l, s.dev.poisonedIn a p.len = some l → ∃ t, exec (.read port p) s = .next t ∧ fabricFrame s t ∧ t.dev.mem = s.dev.mem ∧
           t.dev.out = s.dev.reply p 6 4 [] :: s.dev.out))) ∧
     (p.cls = 0 → p.op = 2 → p.len = p.payload.length → 32 ≤ p.len → p.len ≤ 4096 → p.len % 32 = 0 →
       (∀ st, s.dev.rxAddr p.jobId p.addr p.len 1 false = .error st → fails (.write port p) 7 st) ∧
       (∀ a, s.dev.rxAddr p.jobId p.addr p.len 1 false = .ok a → s.dev.heldAt a p.len = true → waits (.write port p)) ∧
       (∀ a, s.dev.rxAddr p.jobId p.addr p.len 1 false = .ok a → s.dev.heldAt a p.len = false → ∃ t, exec (.write port p) s = .next t ∧ fabricFrame s t ∧
         t.dev.mem = s.dev.mem.writes a p.payload ∧ t.dev.er = s.dev.er ∧ t.dev.out = s.dev.reply p 7 0 [] :: s.dev.out)) ∧
     (p.cls = 0 → p.op = 3 → p.payload.length = 32 →
       (∀ st, s.dev.rxAddr p.jobId p.addr 8 2 false = .error st → fails (.atomic port p) 6 st) ∧
       (∀ a, s.dev.rxAddr p.jobId p.addr 8 2 false = .ok a → s.dev.heldAt a 8 = true → waits (.atomic port p)) ∧
       (∀ a old new, s.dev.rxAddr p.jobId p.addr 8 2 false = .ok a → s.dev.heldAt a 8 = false → s.dev.inCoh a 8 = false → a % 8 = 0 → s.dev.lostIn a 8 = false →
         s.dev.poisonedIn a 8 = none → old = leNat (s.dev.peek a 8) →
         atomicNew (fieldAt p.payload 0 1) old (fieldAt p.payload 8 8) (fieldAt p.payload 16 8) = some new →
         ∃ t, exec (.atomic port p) s = .next t ∧ fabricFrame s t ∧ t.dev.mem = s.dev.mem.writes a (leBytes 8 new) ∧
           t.dev.er = s.dev.er ∧ t.dev.out = s.dev.reply p 6 0 (if fieldAt p.payload 0 1 = 4 then [] else s.dev.peek a 8) :: s.dev.out))) ∧
  (∀ (s : State) (port : Nat) (p : Packet), s.dev.takesPkt p →
     let c := bits p.addr 15 0
     let act := bits p.addr 23 16
     let i := bits p.addr 31 24
     let v := bits p.addr 63 32
     let refused (st : Nat) : Prop := ∃ t, exec (.signalPacket port p) s = .next t ∧ fabricFrame s t ∧ t.dev.mem = s.dev.mem ∧
       t.dev.out = s.dev.reply p 7 st [] :: s.dev.out
     (p.stream = 0 → ∃ t, exec (.signalPacket port p) s = .next t ∧ fabricFrame s t ∧ t.dev.out = s.dev.out ∧
       t.dev.fx.counts = s.dev.fx.counts.modify 6 fun n => sat32 (n + 1)) ∧
     (p.stream ≠ 0 → (p.jobId ≠ s.dev.fx.jobId ∨ s.dev.fx.jobId = 0 ∨ wbit s.dev.fx.ctrl 0 = false) → refused 1) ∧
     (p.stream ≠ 0 → p.jobId = s.dev.fx.jobId → s.dev.fx.jobId ≠ 0 → wbit s.dev.fx.ctrl 0 = true →
       (s.dev.n ≤ c → refused 3) ∧
       (c < s.dev.n → s.dev.restful c → (s.dev.core c).halted = false →
         let applied (f : CoreSt → CoreSt) : Prop := ∃ t, exec (.signalPacket port p) s = .next t ∧
           t.dev.cores = (s.dev.setCore c f).cores ∧ t.dev.mem = s.dev.mem ∧ t.dev.queues = s.dev.queues ∧ t.pending = s.pending ∧
           t.toll = s.toll ∧ t.dev.er = s.dev.er ∧ t.dev.out = s.dev.reply p 7 0 [] :: s.dev.out
         (act = 1 → applied fun k => { k with flags := k.flags ||| BitVec.ofNat 256 (2 ^ i) }) ∧
         (act = 2 → applied fun k => { k with flags := k.flags &&& ~~~(BitVec.ofNat 256 (2 ^ i)) }) ∧
         (act = 3 → i ≤ 63 → 1 ≤ v → v ≤ 65535 * p.stream → ((s.dev.core c).counters.getD i 0).toNat + v ≤ 0xFFFFFFFF →
           applied fun k => { k with counters := k.counters.modify i fun x => BitVec.ofNat 32 (x.toNat + v) }) ∧
         (act = 3 → 63 < i ∨ v = 0 ∨ 65535 * p.stream < v → ∃ t, exec (.signalPacket port p) s = .next t ∧ (t.dev.core c).halted = true ∧
           (t.dev.core c).flags = (s.dev.core c).flags ∧ (t.dev.core c).counters = (s.dev.core c).counters))))

/-- COMPLETION, ACK, REQUEST_TIMEOUT and TAG_QUARANTINE_END (R386, R389, R390, R391): an answer for a tag that no live request holds is counted in
FX_LATE_CPL and changes nothing else; one that ends a request frees its tag; a timed-out request is counted in FX_TIMEOUTS and keeps its tag in
quarantine until a further FX_CPL_TIMEOUT has passed. Where it rests on the model's choices: log entries 25, 27. -/
def Obligations.AnswersMatchRequests : Prop :=
  (∀ (s : State) (port : Nat) (p : Packet), s.dev.takesPkt p → port < 18 →
    let late (i : Instr) : Prop := ∃ t, exec i s = .next t ∧ fabricFrame s t ∧ t.dev.mem = s.dev.mem ∧ t.dev.fx.outs = s.dev.fx.outs ∧
      t.dev.er = s.dev.er ∧ t.dev.fx.counts = s.dev.fx.counts.modify 5 fun n => sat32 (n + 1)
    (s.dev.fx.outOf p.srcId p.reqTag true = none → late (.completion port p)) ∧
    (s.dev.fx.outOf p.srcId p.reqTag false = none → late (.ack port p)) ∧
    (s.dev.fx.stalled = [] → ∀ o, o.use = .dead ∨ (∃ x, o.use = .adder x) →
      (s.dev.fx.outOf p.srcId p.reqTag false = some o → ∃ t, exec (.ack port p) s = .next t ∧ fabricFrame s t ∧
        t.dev.mem = s.dev.mem ∧ t.dev.fx.outs = s.dev.fx.outs.filter fun x => x.id != o.id) ∧
      (s.dev.fx.outOf p.srcId p.reqTag true = some o → o.want ≤ p.payload.length ∨ p.addr % 256 ≠ 0 →
        ∃ t, exec (.completion port p) s = .next t ∧ fabricFrame s t ∧
          t.dev.mem = s.dev.mem ∧ t.dev.fx.outs = s.dev.fx.outs.filter fun x => x.id != o.id)) ∧
    (∀ o c, s.dev.fx.stalled = [] → o.use = .store c → p.addr % 256 ≠ 0 → c < s.dev.cores.length → (s.dev.core c).halted = false →
      s.dev.bz.rounds = [] → s.dev.bz.waits = [] → s.dev.fx.outOf p.srcId p.reqTag false = some o → ∃ t, exec (.ack port p) s = .next t ∧ (t.dev.core c).halted = true ∧
        t.dev.fx.outs = s.dev.fx.outs.filter fun x => x.id != o.id)) ∧
  (∀ (s : State) (pre post : List OutReq) (o : OutReq), s.dev.fx.outs = pre ++ o :: post → s.dev.fx.stalled = [] →
    (∀ x ∈ pre ++ post, x.id ≠ o.id) → (o.use = .dead ∨ ∃ x, o.use = .adder x) →
    (o.quarantined = false → ∃ t, exec (.requestTimeout o.id) s = .next t ∧ fabricFrame s t ∧ t.dev.mem = s.dev.mem ∧
      t.dev.now = max s.dev.now (o.issued + 1000 * (if o.gateway then s.dev.fx.gwTimeout.toNat else s.dev.fx.cplTimeout.toNat)) ∧
      t.dev.fx.outs = pre ++ { o with quarantined := true, issued := t.dev.now } :: post ∧
      t.dev.fx.counts = s.dev.fx.counts.modify 4 fun n => sat32 (n + 1)) ∧
    (o.quarantined = true → (∀ x ∈ pre, x.space ≠ o.space ∨ x.tag ≠ o.tag) → ∃ t, exec (.tagQuarantineEnd o.space o.tag) s = .next t ∧
      fabricFrame s t ∧ t.dev.mem = s.dev.mem ∧ t.dev.now = max s.dev.now (o.issued + 1000 * s.dev.fx.cplTimeout.toNat) ∧
      t.dev.fx.outs = pre ++ post))

/-- COHERENT_PACKET and COH_MEMBER_LOST (R395, R398): a line that nobody holds is given and its new holder entered; one that another member holds
for writing waits until that copy has been recalled; a WRITEBACK lands and its holder leaves. When a member is lost, what it held for reading leaves
the directory and what it held for writing is poisoned. Where it rests on the model's choices: log entries 28, 29. -/
def Obligations.CoherentLinesHaveOneWriter : Prop :=
  (∀ (s : State) (port : Nat) (p : Packet) (a : Nat), s.dev.takesPkt p → p.jobId = s.dev.fx.jobId → p.jobId ≠ 0 → a % 128 = 0 →
    s.dev.rxAddr p.jobId p.addr 128 (if p.op = 8 then 0 else 1) true = .ok a → s.dev.lostIn a 128 = false → s.dev.heldAt a 128 = false →
    (p.op = 8 ∨ p.op = 9 →
      let hs := s.dev.fx.holders (a / 128) p.srcId (decide (p.op ≠ 8))
      (hs = [] → s.dev.poisonedIn a 128 = none → ∃ t, exec (.coherentPacket port p) s = .next t ∧ fabricFrame s t ∧
        t.dev.mem = s.dev.mem ∧ t.dev.out = s.dev.reply p 6 0 (s.dev.peek a 128) :: s.dev.out ∧
        t.dev.fx.dir = (p.srcId, a / 128, decide (p.op = 9)) :: s.dev.fx.dir.filter fun e => !(e.1 == p.srcId && e.2.1 == a / 128)) ∧
      (hs ≠ [] → ∃ t, exec (.coherentPacket port p) s = .next t ∧ fabricFrame s t ∧ t.dev.mem = s.dev.mem ∧
        t.dev.fx.dir = s.dev.fx.dir ∧ t.dev.fx.recalls = s.dev.fx.recalls ++ [⟨port, p, hs, s.dev.now⟩])) ∧
    (p.op = 10 → p.payload.length = 128 → ∃ t, exec (.coherentPacket port p) s = .next t ∧ fabricFrame s t ∧
      t.dev.mem = s.dev.mem.writes a p.payload ∧ t.dev.out = s.dev.reply p 7 0 [] :: s.dev.out ∧
      t.dev.fx.dir = s.dev.fx.dir.filter fun e => !(e.1 == p.srcId && e.2.1 == a / 128))) ∧
  (∀ (s : State) (fid : Nat), fid ∈ s.dev.fx.peers → s.dev.fx.recalls = [] → ∃ t, exec (.cohMemberLost fid) s = .next t ∧ fabricFrame s t ∧
    t.dev.fx.dir = s.dev.fx.dir.filter (fun e => e.1 != fid) ∧
    (∀ e ∈ s.dev.fx.dir, e.1 = fid → e.2.2 = true → e.2.1 ∈ t.dev.fx.lostLines ∧ (e.2.1 * 128 / 2048) ∈ t.dev.poison)) ∧
  (∀ (s : State) (fid : Nat), fid ∉ s.dev.fx.peers → exec (.cohMemberLost fid) s = .next s)

/-- FRAME_REPLAY, FX_DISABLE and the management class (R368, R404, R405, R467): a replay is counted and the 1,001st within 1 ms takes the port down;
ENABLE is cleared; an MGMT packet from neither a switch port nor the fabric manager is discarded and counted; ASSIGN_ID sets the fabric ID, whose
slot is below 96, GROUP the members, ASSIGN_RANK the system rank; a device with an ID announces nothing more. Where it rests on the model's choices:
log entries 30, 31. -/
def Obligations.ManagementAndPorts : Prop :=
  (∀ (s : State) (port : Nat), (s.dev.port port).up = true → port < s.dev.fx.ports.length → s.dev.unarmed = true →
    let old := s.dev.port port
    let n := if old.winStart + 1000000 ≤ s.dev.now then 1 else old.winReplays + 1
    ∃ t, exec (.frameReplay port) s = .next t ∧ fabricFrame s t ∧ t.dev.mem = s.dev.mem ∧ (t.dev.port port).replays = sat32 (old.replays + 1) ∧
      (t.dev.port port).up = decide (n ≤ 1000) ∧ (t.dev.port port).downEvents = (if n ≤ 1000 then old.downEvents else sat32 (old.downEvents + 1)) ∧
      (∀ q, q ≠ port → t.dev.port q = s.dev.port q)) ∧
  (∀ (s : State) (port : Nat), (s.dev.port port).up = false → exec (.frameReplay port) s = .next s) ∧
  (∀ s : State, s.dev.awakeUp = true → exec .fxDisable s = .next (s.dev! { s.dev with fx := { s.dev.fx with ctrl := wclr s.dev.fx.ctrl 1 } })) ∧
  (∀ s : State, s.dev.fx.fid.isSome = true → exec .announce s = .next s) ∧
  (∀ s : State, s.dev.fx.fid = none → ∃ t, exec .announce s = .next t ∧ fabricFrame s t ∧ t.dev.fx = s.dev.fx ∧ t.dev.mem = s.dev.mem ∧
    t.dev.out.length = s.dev.out.length + s.dev.fx.upPorts.length) ∧
  (∀ (s : State) (sw : Bool) (src : Nat), s.dev.pw.state = 0 → 3 ≤ s.dev.boot.st → s.dev.boot.st ≤ 5 →
    let other : State := s.dev! (s.dev.fxCount 7 0x200)
    (s.dev.mgmtFrom sw src = false → ∀ a b ms bs, exec (.assignId sw src a b) s = .next other ∧ exec (.group sw src ms) s = .next other ∧
      exec (.assignRank sw src a) s = .next other ∧ exec (.fmCommand sw src bs) s = .next other) ∧
    (s.dev.mgmtFrom sw src = true →
      (∀ id mgr, (8192 ≤ id ∨ 96 ≤ id % 128) → exec (.assignId sw src id mgr) s = .next other) ∧
      (∀ id mgr, id < 8192 → id % 128 < 96 → (s.dev.boot.st ≠ 5 ∨ s.dev.fx.fid = none) → ∃ t, exec (.assignId sw src id mgr) s = .next t ∧
        fabricFrame s t ∧ t.dev.mem = s.dev.mem ∧ t.dev.fx.fid = some id ∧ t.dev.fx.fmId = some (mgr % 8192) ∧
        t.dev.fx.counts = s.dev.fx.counts) ∧
      (∀ ms : List Nat, ∃ t, exec (.group sw src ms) s = .next t ∧ fabricFrame s t ∧ t.dev.mem = s.dev.mem ∧ t.dev.fx.fid = s.dev.fx.fid ∧
        t.dev.fx.gone = [] ∧ t.dev.fx.cohMembers = (List.range 8).map fun i =>
          BitVec.ofNat 32 (ms.getD i 0 % 8192 + if (ms.getD i 0).testBit 15 then 2 ^ 31 else 0)) ∧
      (∀ r, ∃ t, exec (.assignRank sw src r) s = .next t ∧ fabricFrame s t ∧ t.dev.mem = s.dev.mem ∧ t.dev.boot.sysRank = some r) ∧
      (∀ bs : List Byte, bs.length ≤ 4096 → exec (.fmCommand sw src bs) s = .next s)))

/-- The messages and timers of inter-device queues (R411, R412, R413): a TILE enters the consumer's ring and is counted, a cumulative CREDIT moves
the producer's count up but never past what was pushed, and a CLOSE closes the queue once the count of received tiles is reached; a CREDIT goes out
with the count of pops; REMOTE_WAIT makes the queue pending no more. PERMUTE_TILE and the deadline of a PERMUTE (R419, R420): a good tile takes its
place in its range under the new epoch with its checksum anew; a failed one is torn there; the last one ends the collective; one for a PERMUTE that
has not started is held; at twice D_C every range that is not whole is torn and the collective retires. Where it rests on the model's choices: log
entries 18, 22, 57. -/
def Obligations.QueueAndPermuteMessages : Prop :=
  ((∀ (s : State) (via : Via) (m : QMsg) (i : Nat) (x : QState), s.takesMsg via → m.version = 1 →
     let becomes (c0 : Instr) (y : QState) : Prop := ∃ t, exec c0 s = .next t ∧ t.dev.queues = (s.dev.setQ i fun _ => y).queues ∧
       t.dev.out = s.dev.ackOf via :: s.dev.out ∧ t.dev.cores = s.dev.cores ∧ t.dev.mem = s.dev.mem ∧ t.dev.er = s.dev.er ∧
       t.pending = s.pending ∧ t.toll = s.toll
     s.dev.q? i = some x →
     (s.dev.queues.findIdx? (fun y => y.decl.num == m.queue && s.dev.isHere y.decl.cons && y.decl.cons.core == m.consumer && s.dev.farProd y)
         = some i → s.dev.fromEnd via x.decl.prod = true → s.dev.restful x.decl.cons.core → (s.dev.core x.decl.cons.core).halted = false →
       (m.kind = 1 → (x.compared = false → x.decl.prod.core = m.producer) → m.tile.length = tileTotal x.decl.fmt →
         becomes (.queueTile via m) ({ x with ring := x.ring ++ [m.tile], received := x.received + 1, compared := true, crossed := s.dev.now, quiet := false } :
           QState).settleClose) ∧
       (m.kind = 3 → becomes (.queueCloseMsg via m) ({ x with closeAt := some m.count } : QState).settleClose)) ∧
     (s.dev.queues.findIdx? (fun y => y.decl.num == m.queue && s.dev.isHere y.decl.prod && y.decl.prod.core == m.producer && s.dev.farCons y)
         = some i → s.dev.fromEnd via x.decl.cons = true → x.decl.cons.core = m.consumer → s.dev.restful x.decl.prod.core → m.kind = 2 →
       x.creditSeen ≤ x.pushed → ∀ seen, x.creditSeen ≤ seen → seen < x.creditSeen + 2 ^ 32 → seen % 2 ^ 32 = m.count →
         becomes (.queueCredit via m) { x with creditSeen := if seen ≤ x.pushed then seen else x.creditSeen, crossed := s.dev.now, quiet := false })) ∧
   (∀ (s : State) (c q i : Nat) (x : QState), s.dev.farQueue c q = some i → s.dev.q? i = some x →
     (x.popped = x.creditSent → exec (.creditTimer c q) s = .next s) ∧ (x.resend = none → exec (.creditResend c q) s = .next s) ∧
     (let sent (c0 : Instr) (at_ : Nat) : Prop := ∃ t y, exec c0 s = .next t ∧ t.dev.q? i = some y ∧ y.creditSent = x.popped ∧
        y.resend = none ∧ y.ring = x.ring ∧ t.dev.now = max s.dev.now at_ ∧ t.dev.cores = s.dev.cores ∧ t.dev.mem = s.dev.mem ∧
        (∀ j, j ≠ i → t.dev.q? j = s.dev.q? j) ∧ t.pending = s.pending ∧ t.toll = s.toll
      s.dev.unarmed = true → s.dev.noRoute (x.decl.prod.rank.getD 0) = none →
      (x.popped ≠ x.creditSent → sent (.creditTimer c q) (x.firstPop + 2000)) ∧
      (∀ at_, x.resend = some at_ → sent (.creditResend c q) at_))) ∧
   (∀ (s : State) (c q i : Nat) (x : QState), s.dev.queues.findIdx? (fun y => y.decl.num == q &&
       ((s.dev.isHere y.decl.cons && y.decl.cons.core == c && s.dev.farProd y) || (s.dev.isHere y.decl.prod && y.decl.prod.core == c &&
         s.dev.farCons y))) = some i → s.dev.q? i = some x →
     (x.quiet = true → exec (.remoteWaitExpire c q) s = .next s) ∧
     (x.quiet = false → exec (.remoteWaitExpire c q) s = .next (s.dev! ((s.dev.advanceTo (x.crossed + 1000000 * x.decl.remoteWaitMs)).setQ i
       fun y => { y with quiet := true }))))) ∧
  ((∀ (s : State) (via : Via) (x : PermTile) (rank : Nat), s.takesMsg via → s.dev.fidRank via.srcId = some rank →
     (s.dev.runningColl x.channel = none → ∃ t, exec (.permuteTile via x) s = .next t ∧ fabricFrame s t ∧ t.dev.mem = s.dev.mem ∧
       t.dev.rd.heldTiles = s.dev.rd.heldTiles ++ [x] ∧ t.dev.rd.channels = s.dev.rd.channels) ∧
     (∀ k a r b, s.dev.runningColl x.channel = some k → k.perm = some a → a.collId = x.collId → a.epoch = x.epoch →
       k.members.getD x.srcPos 0xFFFF = rank → k.recv.find? (fun y => y.srcPos == x.srcPos && y.key == x.key) = some r →
       s.dev.liveBuf r.dst = some b → b.kind ≠ 1 → r.bad = false → x.index ∉ r.got → x.tiles = r.tiles → x.index < r.tiles →
       x.tile.length = tileTotal (b.fmt.getD .fp32) →
       (x.failed = false → (tileHdr x.tile).format.toNat = fmtCode (b.fmt.getD .fp32)) →
       let off := (r.first + x.index) * tileTotal (b.fmt.getD .fp32)
       (r.got.length + 1 = r.tiles → k.recv = [r] → k.nanTrap = false → ∀ y, s.dev.acc k.acc = some y → y.cmd.signals = [] →
         (s.dev.core y.core).ending = none → ∃ t, exec (.permuteTile via x) s = .next t ∧ t.pending = s.pending ∧ t.toll = s.toll ∧
           t.dev.cores = s.dev.cores ∧ t.dev.queues = s.dev.queues ∧ t.dev.rd.done = sat32 (s.dev.rd.done + 1) ∧
           (∀ z ∈ t.dev.chan x.channel, z.acc ≠ k.acc) ∧ (∀ z ∈ t.dev.accepted, z.id ≠ k.acc)) ∧
       (r.got.length + 1 < r.tiles → ∃ t, exec (.permuteTile via x) s = .next t ∧ t.pending = s.pending ∧ t.toll = s.toll ∧ t.dev.cores = s.dev.cores ∧
         t.dev.queues = s.dev.queues ∧ t.dev.accepted = s.dev.accepted ∧
         t.dev.mem = (if x.failed then s.dev.storeTorn b off (newEpoch a.epoch x.tile)
           else s.dev.writePieces (b.pieces off (newEpoch a.epoch x.tile).length) (newEpoch a.epoch x.tile)).mem))) ∧
   (∀ (s : State) (ch : Nat), s.dev.runningColl ch = none → exec (.permuteDeadline ch) s = .next s) ∧
   (∀ (s : State) (ch : Nat) (k : CollSt) (a : PermuteArgs) (x : Accepted), s.dev.runningColl ch = some k → k.perm = some a →
     k.recv.all RecvRange.full = false → k.nanTrap = false → s.dev.acc k.acc = some x → x.cmd.signals = [] →
     (s.dev.core x.core).ending = none → ∃ t, exec (.permuteDeadline ch) s = .next t ∧ t.pending = s.pending ∧ t.toll = s.toll ∧
       t.dev.cores = s.dev.cores ∧ t.dev.queues = s.dev.queues ∧ t.dev.now = max s.dev.now (k.t0 + 2 * s.dev.collDc k) ∧
       t.dev.rd.done = sat32 (s.dev.rd.done + 1) ∧ t.dev.rd.partialCount = sat32 (s.dev.rd.partialCount + 1) ∧
       (∀ y ∈ t.dev.chan ch, y.acc ≠ k.acc) ∧ (∀ y ∈ t.dev.accepted, y.id ≠ k.acc)))

/-! ## Host interface -/

/-- SQ_TAIL, CQ_HEAD, RING_ENABLE and RING_DISABLE (R435, R436, R437, R439, R441, R451): a doorbell of a disabled ring is dropped and counted; a
value at or above the size sets the fault, 2 or 3, unless one stands; an enable that breaks the limits sets fault 1 and the ring stays disabled, one
that keeps them starts the ring afresh with PHASE 1; a disable drains, and ends at once where nothing has started. NOP, JOB_START, JOB_HALT,
JOB_UNLOAD, ALLOC and RELEASE (R444, R445, R448): what the descriptor does, and the record that it writes; one that needs a job while none is loaded
is REJECTED with NO_JOB, a second start with JOB_STARTED. Where it rests on the model's choices: log entries 73, 74, 78. -/
def Obligations.RingsRunDescriptors : Prop :=
  (∀ (s : State) (n v : Nat) (c : Word32), s.dev.awakeUp = true → n < 512 →
     let r := s.dev.ring n
     let drop : State := s.dev! { s.dev with host := { s.dev.host with dbDrops := sat32 (s.dev.host.dbDrops + 1) } }
     let first (k : Nat) : Nat := if r.faultCode = 0 then k else r.faultCode
     (r.enabled = false → exec (.sqTail n v) s = .next drop ∧ exec (.cqHead n v) s = .next drop) ∧
     (r.enabled = true →
       (r.sqSize ≤ v % 65536 → exec (.sqTail n v) s = .next (s.dev! (s.dev.setRing { r with sqTail := v % 65536, faultCode := first 2 }))) ∧
       (r.cqSize ≤ v % 65536 → exec (.cqHead n v) s = .next (s.dev! (s.dev.setRing { r with cqHead := v % 65536, faultCode := first 3 }))) ∧
       (r.draining = false →
         (v % 65536 < r.sqSize → ∃ t, exec (.sqTail n v) s = .next t ∧ hostFrame s t ∧ (t.dev.ring n).sqTail = v % 65536 ∧
           (t.dev.ring n).cqHead = r.cqHead ∧ (t.dev.ring n).enabled = true) ∧
         (v % 65536 < r.cqSize → ∃ t, exec (.cqHead n v) s = .next t ∧ hostFrame s t ∧ (t.dev.ring n).cqHead = v % 65536 ∧
           (t.dev.ring n).sqTail = r.sqTail ∧ (t.dev.ring n).enabled = true))) ∧
     (r.enabled = false → 4 ≤ s.dev.boot.st →
       let q := { r with ctrl := (c ||| 1) &&& 0x07FF0003 }
       (q.setUpOk = false → exec (.ringEnable n c) s = .next (s.dev! (s.dev.setRing { q with faultCode := 1 }))) ∧
       (q.setUpOk = true → ∃ t, exec (.ringEnable n c) s = .next t ∧ hostFrame s t ∧ t.dev.ring n = { q with
         enabled := true, draining := false, faultCode := 0, sqHead := 0, cqTail := 0, phase := true, sqTail := 0, cqHead := 0, cqUsed := 0,
         fetch := 0, descs := [] })) ∧
     (let q := { r with ctrl := c &&& 0x07FF0003 &&& ~~~1 }
      ∃ t, exec (.ringDisable n c) s = .next t ∧ hostFrame s t ∧
       (r.enabled = false → t.dev.ring n = q) ∧
       (r.enabled = true → r.startedCount ≠ 0 → t.dev.ring n = { q with draining := true }) ∧
       (r.enabled = true → r.startedCount = 0 → (t.dev.ring n).enabled = false ∧ (t.dev.ring n).descs = [] ∧ (t.dev.ring n).sqHead = 0 ∧
         (t.dev.ring n).cqTail = 0 ∧ (t.dev.ring n).phase = false))) ∧
  (∀ (s : State) (n : Nat) (x : Desc),
     let posts (t : State) (status reason result detail : Nat) : Prop := s.dev.recordOf n x status reason result detail 0 ∈ t.dev.out
     (s.dev.nextIs n 0 x → ∃ t, exec (.nop n) s = .next t ∧ hostFrame s t ∧ t.dev.job = s.dev.job ∧ posts t 0 0 0 0) ∧
     (s.dev.job = none → ∀ i ∈ [(2, Instr.jobStart n), (3, .jobHalt n), (4, .jobUnload n), (6, .hostAlloc n), (7, .hostRelease n)],
       s.dev.nextIs n i.1 x → ∃ t, exec i.2 s = .next t ∧ hostFrame s t ∧ t.dev.job = none ∧ posts t 3 3 0 0) ∧
     (∀ j, s.dev.job = some j →
       (s.dev.nextIs n 2 x → j.started = true → ∃ t, exec (.jobStart n) s = .next t ∧ hostFrame s t ∧ posts t 3 0x14 0 0) ∧
       (s.dev.nextIs n 2 x → j.started = false → j.hostHalt = false → j.stopped = false → j.prog.cores ≠ [] →
         (∀ p ∈ j.prog.cores, p.core < s.dev.cores.length) → ∃ t, exec (.jobStart n) s = .next t ∧
           t.dev.job = some { j with started := true, start := some (n, x.slot) } ∧ t.dev.out = s.dev.out ∧ t.dev.mem = s.dev.mem ∧
           (∀ c, (t.dev.core c) = if (j.prog.cores.any fun p => p.core == c) then { s.dev.core c with cc := .running } else s.dev.core c)) ∧
       (s.dev.nextIs n 3 x → j.runs = false → ∃ t, exec (.jobHalt n) s = .next t ∧ hostFrame s t ∧ posts t 0 0 0 0) ∧
       (s.dev.nextIs n 3 x → j.runs = true → j.hostHalt = false → j.stopped = false → j.primary = none → s.dev.trust.swaps = [] →
         s.dev.bz.rounds = [] → s.dev.bz.waits = [] → (∀ c, (s.dev.core c).frozen = false) → ∃ t, exec (.jobHalt n) s = .next t ∧
           (∀ c, c < s.dev.n → c < s.dev.cores.length → (t.dev.core c).halted = true ∧ (t.dev.core c).flags = (s.dev.core c).flags) ∧
           (t.dev.job.any (·.hostHalt)) = true ∧ t.pending = s.pending ∧ t.toll = s.toll) ∧
       (s.dev.nextIs n 4 x → j.runs = false → s.dev.jobDescs = [] → j.halters = [] → ∃ t, exec (.jobUnload n) s = .next t ∧ t.dev.job = none ∧ t.dev.fx.jobId = 0 ∧
         t.dev.depot.bufs = [] ∧ t.dev.queues = [] ∧ wbit t.dev.fx.ctrl 0 = false ∧ t.pending = s.pending ∧ t.toll = s.toll ∧ posts t 0 0 0 0) ∧
       (s.dev.nextIs n 6 x → (fieldAt x.bytes 25 1 = 0 ∨ fmtOf (fieldAt x.bytes 25 1) ≠ none) → let a := hostAllocArgs x
         (∀ h k, s.dev.allocCheck a = .error (h, k) → ∃ t, exec (.hostAlloc n) s = .next t ∧ hostFrame s t ∧ posts t 3 0x0F 0 k) ∧
         (∀ p, s.dev.allocCheck a = .ok p →
           (∀ b e, s.dev.behind s.dev.depot.waits a.pool = false → s.dev.allocTry a = some (b, e) → ∃ t, exec (.hostAlloc n) s = .next t ∧ hostFrame s t ∧
             t.dev.depot = e.depot ∧ posts t 0 0 (s.dev.handleOf b).toNat 0) ∧
           (s.dev.behind s.dev.depot.waits a.pool = true ∨ s.dev.allocTry a = none → ∃ t, exec (.hostAlloc n) s = .next t ∧ hostFrame s t ∧
             t.dev.depot.waits = s.dev.depot.waits ++ [⟨s.dev.nextId, a, s.dev.now, some (n, x.slot)⟩] ∧ t.dev.out = s.dev.out))) ∧
       (s.dev.nextIs n 7 x → let hs := releaseHandles x
         (∀ k, s.dev.releaseCheck hs = some k → ∃ t, exec (.hostRelease n) s = .next t ∧ hostFrame s t ∧ t.dev.depot.bufs = s.dev.depot.bufs ∧
           posts t 3 0x0F 0 k) ∧
         (s.dev.releaseCheck hs = none → ∃ t, exec (.hostRelease n) s = .next t ∧ hostFrame s t ∧ posts t 0 0 0 hs.length ∧
           t.dev.depot.bufs = (hs.foldl (fun d h => d.release (unpackHandle h).slot.toNat) s.dev).depot.bufs))))

/-- COPY, WELL_CMD and the host reads behind them (R444, R447, R426, R430, R545): a copy to the host writes every byte of the range and nothing else
there, a copy to the device asks for its first piece and writes the data that comes; a WELL_CMD with an unknown code or Well is REJECTED at the byte
at fault, a good one is accepted for its Well; a failed or late read of a descriptor faults its ring. Where it rests on the model's choices: log
entries 75, 76. -/
def Obligations.CopiesMoveEveryByte : Prop :=
  (∀ (s : State) (n : Nat) (x : Desc), s.dev.nextIs n 5 x → x.off = 0 → x.good = 0 → x.failLine = none → s.dev.unarmed = true →
    (∀ o, copyBad s.dev.grade x = some o → ∃ t, exec (.copy n) s = .next t ∧ hostFrame s t ∧ s.dev.recordOf n x 3 2 0 o 0 ∈ t.dev.out) ∧
    (copyBad s.dev.grade x = none → x.copyDir = 1 → s.dev.poisonedIn x.copyDev x.copyLen = none → 0 < x.copyLen →
      ∃ t, exec (.copy n) s = .next t ∧ hostFrame s t ∧ s.dev.recordOf n x 0 0 x.copyLen 0xFFFFFFFF 0 ∈ t.dev.out ∧
        ∀ k, k < x.copyLen → ∃ a bs, Output.hostWrite a bs ∈ t.dev.out ∧ a ≤ x.copyHost + k ∧ x.copyHost + k - a < bs.length ∧
          bs.getD (x.copyHost + k - a) 0 = s.dev.mem.read (x.copyDev + k)) ∧
    (copyBad s.dev.grade x = none → x.copyDir = 0 → 0 < x.copyLen → s.dev.host.reads.length < 1024 → ∃ t tag, exec (.copy n) s = .next t ∧
      hostFrame s t ∧ t.dev.out = .hostRead tag x.copyHost x.copyPiece :: s.dev.out ∧
      t.dev.host.reads = s.dev.host.reads ++ [⟨tag, x.copyHost, x.copyPiece, s.dev.now, .copy n x.slot⟩])) ∧
  (∀ (s : State) (n : Nat) (x : Desc) (args : List Byte), s.dev.nextIs n 8 x → x.args = some args → s.dev.job.isSome = true →
    (∀ o, wellArgBad s.dev.grade args = some o → ∃ t, exec (.wellCmd n) s = .next t ∧ hostFrame s t ∧ s.dev.recordOf n x 3 2 0 o 0 ∈ t.dev.out) ∧
    (∀ op i plan b, wellArgBad s.dev.grade args = none → s.dev.wellArg (fieldAt args 1 1) args = .ok (op, i) → 32 + 8 * (i + 1) ≤ args.length →
      s.dev.wellPlan (fieldAt args 0 1) op = .ok plan → s.dev.opEntry op = none → (∀ g it gr cs m, op ≠ .optUpdate g it gr cs m) → (∀ f, op ≠ .fold f) →
      s.dev.wRange (BitVec.ofNat 64 (argSlot args i)) 0 (wellRecordBytes plan.parts.length) 8 true = .ok b → ∃ t k, exec (.wellCmd n) s = .next t ∧
        hostFrame s t ∧ t.dev.wells.cmds = s.dev.wells.cmds ++ [k] ∧ k.op = op ∧ k.origin = .host n x.slot ∧ k.well = fieldAt args 0 1 ∧
        k.parts = plan.parts ∧ k.started = false ∧ ∀ o ∈ t.dev.out, o ∈ s.dev.out ∨ ∃ tag ad len, o = .hostRead tag ad len)) ∧
  (∀ (s : State) (tag : Nat) (r : HostRead) (st : PcieStatus) (data : List Byte), s.dev.unarmed = true → s.dev.host.queued = [] →
    s.dev.host.reads.find? (fun r => r.tag == tag) = some r →
    (data.length ≠ r.len → exec (.pcieCompletion tag .ok data) s = .next s) ∧
    (∀ n slot x, r.use = .copy n slot → (s.dev.ring n).descs.find? (fun x => x.started && x.slot == slot) = some x → data.length = r.len →
      ∃ t, exec (.pcieCompletion tag .ok data) s = .next t ∧ t.dev.mem = s.dev.mem.writes (x.copyDev + x.off) data ∧
        fabricFrame s t ∧ (x.off + x.copyPiece = x.copyLen → x.failLine = none →
          s.dev.recordOf n x 0 0 (x.good + x.copyPiece) 0xFFFFFFFF 0 ∈ t.dev.out)) ∧
    (∀ n slot, r.use = .desc n slot →
      (st ≠ .ok → ∃ t, exec (.pcieCompletion tag st data) s = .next t ∧ hostFrame s t ∧
        (t.dev.ring n).faultCode = if (s.dev.ring n).faultCode = 0 then 4 else (s.dev.ring n).faultCode) ∧
      (∃ t, exec (.hostReadTimeout tag) s = .next t ∧ hostFrame s t ∧ max s.dev.now (r.issued + 50000000) = t.dev.now ∧
        (t.dev.ring n).faultCode = if (s.dev.ring n).faultCode = 0 then 4 else (s.dev.ring n).faultCode))) ∧
  (∀ (s : State) (tag : Nat) (st : PcieStatus) (data : List Byte), (∀ r ∈ s.dev.host.reads, r.tag ≠ tag) →
    exec (.pcieCompletion tag st data) s = .next s ∧ exec (.hostReadTimeout tag) s = .next s)

/-- BAR2, interrupts, Function Level Reset and register writes (R428, R430, R431, R455, R457, R465): an access outside job memory aborts; a write
through BAR2 lands, and one of lines under repair waits (R332); a vector that is unmasked fires if it was pending; a reset of the function unloads
the job and puts the host interface at its reset values; a write of another size, or before READY outside the mailbox, is ignored, and 64 bits act
as two ascending writes of 32. Where it rests on the model's choices: log entries 29, 77, 79. -/
def Obligations.HostAccessesLand : Prop :=
  (∀ (s : State) (off len : Nat) (data : List Byte), s.dev.awakeUp = true → s.dev.unarmed = true →
    let a := s.dev.bar2Addr off
    (inJobMem s.dev.grade a len = false → exec (.bar2Read off len) s = .next (s.dev! (s.dev.emit (.bar2 .abort [])))) ∧
    (s.dev.readable a len = true → s.dev.localConflicts false (.mem [(a, len)]) = [] → (s.dev.inCoh a len && s.dev.lostIn a len) = false →
      s.dev.heldAt a len = false →
      ∃ t, exec (.bar2Read off len) s = .next t ∧ hostFrame s t ∧ t.dev.out = .bar2 .ok (s.dev.peek a len) :: s.dev.out ∧ t.dev.er = s.dev.er) ∧
    (inJobMem s.dev.grade a data.length = false → exec (.bar2Write off data) s = .next (s.dev! (s.dev.emit (.aer 2)))) ∧
    (inJobMem s.dev.grade a len = true → s.dev.heldAt a len = true →
      exec (.bar2Read off len) s = .next (s.dev! (s.dev.holdIo (.bar2Read off len)))) ∧
    (inJobMem s.dev.grade a data.length = true → s.dev.heldAt a data.length = true →
      exec (.bar2Write off data) s = .next (s.dev! (s.dev.holdIo (.bar2Write off data)))) ∧
    (inJobMem s.dev.grade a data.length = true → s.dev.heldAt a data.length = false → s.dev.localConflicts true (.mem [(a, data.length)]) = [] →
      exec (.bar2Write off data) s = .next (s.dev! (s.dev.write a data)))) ∧
  (∀ (s : State) (v : Nat), s.dev.awakeUp = true →
    (2048 ≤ v → exec (.msixUnmask v) s = .next s) ∧
    (v < 2048 → let e := s.dev.msixEntry v
      let d := s.dev.setMsix { e with mask := false, pend := false }
      exec (.msixUnmask v) s = .next (s.dev! (if e.pend then d.emit (.msix v) else d)))) ∧
  (∀ (s : State) (n : Nat), let r := s.dev.ring n
    (s.dev.unsignalled r.vector = [] → exec (.intTimer n) s = .next s) ∧
    (s.dev.unsignalled r.vector ≠ [] → 65536 ≤ r.intMod.toNat → (s.dev.msixEntry r.vector).mask = false → ∃ t, exec (.intTimer n) s = .next t ∧
      hostFrame s t ∧ t.dev.out = .msix r.vector :: s.dev.out ∧ t.dev.unsignalled r.vector = [])) ∧
  (∀ s : State, s.dev.pw.state = 0 → ∃ t, exec .flr s = .next t ∧ t.dev.job = none ∧ t.dev.host = HostIf.reset ∧ t.pending = s.pending ∧
    t.toll = s.toll ∧ (s.dev.job = none → t.dev.fx.ports = s.dev.fx.ports ∧ t.dev.mem = s.dev.mem ∧ t.dev.out = s.dev.out)) ∧
  (∀ (s : State) (off size : Nat) (v : Word64), s.dev.pw.state = 0 →
    ((size ≠ 4 ∧ size ≠ 8) ∨ off % size ≠ 0 → exec (.registerWrite off size v) s = .next s) ∧
    (s.dev.boot.served = false → off < 0x3F0000 → off % 4 = 0 → exec (.registerWrite off 4 v) s = .next s) ∧
    (s.dev.boot.served = true →
      exec (.registerWrite 0x1800C 4 v) s =
        .next (s.dev! { s.dev with host := { s.dev.host with eventVector := v.setWidth 32 &&& 0x07FF07FF } }) ∧
      exec (.registerWrite 0x32001C 4 v) s = .next (s.dev! { s.dev with depot := { s.dev.depot with err := s.dev.depot.err &&& ~~~(v.setWidth 32) } }) ∧
      (off < 0x10000 → off % 4 = 0 → exec (.registerWrite off 4 v) s = .next s)) ∧
    (∀ t u, off % 8 = 0 → exec (.registerWrite off 4 v) s = .next t → t.dev.pw.state = 0 → exec (.registerWrite (off + 4) 4 (v >>> 32)) t = .next u →
      exec (.registerWrite off 8 v) s = .next u))

/-- JOB_LOAD (R444, R446, R575): a load while a job is loaded, one whose block breaks a limit, and one that fails a later check leave no new job and
say why; one that passes them all leaves the job loaded with its ID and epoch, its cores at rest, and answers with the halt area of core 0. Where it
rests on the model's choices: log entries 70, 71, 72. -/
def Obligations.LoadsPassEveryCheck : Prop :=
  ∀ (s : State) (n : Nat) (x : Desc) (image : ImageBody), s.dev.nextIs n 1 x →
    let b := x.args.getD []
    let rejected (reason detail err : Nat) (job : Option Job) : Prop := ∃ t, exec (.jobLoad n image) s = .next t ∧ hostFrame s t ∧
      t.dev.job = job ∧ s.dev.recordOf n x 3 reason 0 detail err ∈ t.dev.out
    (∀ j, s.dev.job = some j → rejected 0x04 0 0 (some j)) ∧
    (∀ o, s.dev.job = none → loadBlockBad s.dev.grade b = some o → rejected 0x02 (0x100 + o) 0 none) ∧
    (s.dev.job = none → loadBlockBad s.dev.grade b = none →
      (lbMgi b ≠ 0x0100 → rejected 0x09 (lbMgi b) 0 none) ∧
      (∀ e d, s.dev.loadChecks b image = (.error e, d) → rejected e.reason e.detail (if e.recorded then d.er.seq % 65536 else 0) none) ∧
      (∀ l d, s.dev.loadChecks b image = (.ok l, d) →
        let dp := d.withPlacement l.overrides l.pools
        let r := dp.reservePools (l.pools ++ [dp.stashPool (lbStash b)])
        (0 < r.2.1 → rejected 0x0A (min 0xFFFFFFFF (ceilDiv r.2.1 (2 ^ 20))) 0 none) ∧
        (r.2.1 = 0 → ∃ t j w, exec (.jobLoad n image) s = .next t ∧ t.dev.job = some j ∧ j.started = false ∧ t.dev.boot.st = 5 ∧
          t.dev.fx.jobId = lbJob b ∧ t.dev.rd.epoch = BitVec.ofNat 32 (lbEpoch b) ∧ t.dev.fx.ranks = l.ranks ∧ t.dev.fx.rankSelf = l.self ∧
          (∀ c, (t.dev.core c).halted = false ∧ (t.dev.core c).flags = 0 ∧ (t.dev.core c).atRest = true) ∧ t.pending = s.pending ∧
          t.toll = s.toll ∧ s.dev.recordOf n x 0 0 (haltArea s.dev.grade 0) w 0 ∈ t.dev.out)))

/-! ## Start-up, trust and live service -/

/-- Device resets (R459, R460, R461, R462, R464, R465, R563): power-good and an edge of PERST# clear the device, start the fill and leave the
Tollhouse as it is; the stagger wait ends after 40 ms × SLOT_ID; self-test ends in WAIT_FW or FAULT; a port that trains comes up, after a microcode
stall on its die (R488). Self-test that passes leaves every logical core a passing physical core of its die, no two the same (R464). Where it rests
on the model's choices: log entries 4, 80. -/
def Obligations.ResetsAndSelfTest : Prop :=
  (let fresh (s t : State) (st : Straps) : Prop := t.pending = s.pending ∧ t.toll = s.toll ∧ t.dev.now = s.dev.now ∧ t.dev.mem = [] ∧
     t.dev.job = none ∧ t.dev.tm.ns = 0 ∧ t.dev.fx = Fabric.reset ∧ t.dev.boot.latchDone = false ∧ t.dev.boot.st = (if st.testEn then 0 else 1) ∧
     t.dev.trust.straps = st ∧ t.dev.trust.minSvn = s.dev.trust.minSvn ∧ t.dev.trust.m5 = zeros 32 ∧ t.dev.trust.m6 = s.toll.nv.fwDigest ∧
     t.dev.trust.powerGood = true ∧ t.dev.trust.staggerWait = st.stagger ∧ t.dev.trust.fillStart = s.dev.now
   (∀ (s : State) (st : Straps),
     (s.dev.trust.powerGood = true → exec (.powerGood st) s = .next s) ∧
     (s.dev.trust.powerGood = false → ∃ t, exec (.powerGood st) s = .next t ∧ fresh s t st ∧ t.dev.trust.thermtrip = false ∧
       t.dev.trust.perstLow = s.dev.trust.perstLow ∧ t.dev.trust.linkUp = !s.dev.trust.perstLow) ∧
     (s.dev.trust.perstLow = true → exec (.perstFall st) s = .next s) ∧
     (s.dev.trust.perstLow = false → ∃ t, exec (.perstFall st) s = .next t ∧ t.dev.trust.perstLow = true ∧ t.dev.trust.linkUp = false ∧
       t.dev.trust.straps = st ∧ t.dev.trust.thermtrip = s.dev.trust.thermtrip ∧ (s.dev.boot.st ≠ 0 → fresh s t st) ∧
       (s.dev.boot.st = 0 → t = s.dev! { s.dev with trust := t.dev.trust }))) ∧
   (∀ s : State,
     (s.dev.trust.powerGood = true → ∃ t, exec .powerGoodLoss s = .next t ∧ t.pending = s.pending ∧ t.toll = s.toll ∧ t.dev.boot = Boot.reset ∧
       t.dev.mem = [] ∧ t.dev.job = none ∧ t.dev.accepted = [] ∧ t.dev.trust.powerGood = false ∧ t.dev.trust.minSvn = s.dev.trust.minSvn) ∧
     (s.dev.trust.perstLow = true → exec .perstRelease s = .next (s.dev! { s.dev with trust := { s.dev.trust with
       perstLow := false, linkUp := s.dev.trust.powerGood, releaseTime := s.dev.now } })) ∧
     (s.dev.boot.st = 1 → s.dev.trust.staggerWait = true → ∃ t, exec .staggerEnd s = .next t ∧ hostFrame s t ∧ t.dev.boot = s.dev.boot ∧
       t.dev.trust.staggerWait = false ∧ t.dev.trust.fillStart = t.dev.now ∧
       t.dev.now = max s.dev.now (s.dev.trust.fillStart + 40000000 * (s.dev.trust.straps.slotId % 8)))) ∧
   (∀ (s : State) (r : SelfTest), s.dev.boot.st = 2 → ∃ t, exec (.selftestDone r) s = .next t ∧ fabricFrame s t ∧ t.dev.mem = s.dev.mem ∧
     t.dev.boot.st = (if selfTestOk s.dev.grade r then 3 else 6) ∧ t.dev.boot.selftest = selfTestWord s.dev.grade r ∧
     t.dev.now = s.dev.now + 1000 * r.micros ∧
     ∀ p < s.dev.fx.ports.length, (t.dev.port p).up = (s.dev.port p).up ∧ (p ∈ presentPorts s.dev.grade →
       ((t.dev.port p).failedTest = true ↔ p ∈ r.ports) ∧ ((t.dev.port p).training = true ↔ p ∉ r.ports ∧ wbit (s.dev.port p).ctrl 0 = true))) ∧
   (∀ (s : State) (p half : Nat) (rate : Bool), 3 ≤ s.dev.boot.st → p ∈ presentPorts s.dev.grade → p < s.dev.fx.ports.length →
     (s.dev.port p).training = true → (s.dev.port p).up = false → half ≤ 2 → (rate = true → wbit (s.dev.port p).ctrl 1 = true) →
     (s.dev.trust.update = none → s.dev.awaitStall (dieOfPort p) = s.dev) ∧
     exec (.linkTrained p half rate) s = .next (s.dev! ((s.dev.awaitStall (dieOfPort p)).setPort p fun x =>
       { x with up := true, training := false, halfRate := rate, width := if x.width = 0 then half else x.width })))) ∧
  (∀ (s : State) (r : SelfTest), s.dev.boot.st = 2 → s.dev.trust.lmap = fusedMap s.dev.grade → s.dev.trust.spares = fusedSpares s.dev.grade →
     selfTestOk s.dev.grade r = true → ∃ t, exec (.selftestDone r) s = .next t ∧
       t.dev.trust.lmap.length = s.dev.n ∧ t.dev.trust.lmap.Nodup ∧ (∀ p ∈ t.dev.trust.lmap, p ∉ r.cores ∧ p ∉ t.dev.trust.spares) ∧
       (∀ p ∈ t.dev.trust.spares, p ∉ r.cores ∧ p ∈ fusedSpares s.dev.grade) ∧
       ∀ c < s.dev.n, dieOfPhys (t.dev.trust.lmap.getD c 0) = dieOfCore s.dev.grade c ∧
         ((fusedMap s.dev.grade).getD c 0 ∉ r.cores → t.dev.trust.lmap.getD c 0 = (fusedMap s.dev.grade).getD c 0))

/-- LOAD, UPDATE, SVN_COMMIT and INJECT_ENABLE (R470, R471, R472, R476, R477, R479, R480, R481, R482): an image is read, checked and measured in
order, an update once it waits for no descriptor; a failed check measures and latches nothing; a failed start keeps only the history chain and the
latch; an update that reverts changes no measurement; the fused minimum only rises. Where it rests on the model's choices: log entry 81. -/
def Obligations.ImagesAreCheckedAndMeasured : Prop :=
  let images (s : State) (run : FwRun) : List Byte × Nat := (slice run.image 0 s.dev.boot.imgLen.toNat, s.dev.boot.imgLen.toNat)
  let measured (s t : State) (img : List Byte) : Prop := t.dev.trust.m2 = sha256 (imgBytes img 24) ∧ t.dev.trust.m3 = sha256 (imgBytes img 32) ∧
    t.dev.trust.m4 = t.dev.block4 ∧ t.dev.trust.m5 = sha256 (s.dev.trust.m5 ++ sha256 img) ∧ t.dev.boot.svn = fieldAt img 12 4 % 65536 ∧
    t.dev.boot.fwVersion = fieldAt img 8 4
  let kept (s t : State) : Prop := t.dev.trust.m2 = s.dev.trust.m2 ∧ t.dev.trust.m3 = s.dev.trust.m3 ∧ t.dev.trust.m4 = s.dev.trust.m4 ∧
    t.dev.trust.m5 = s.dev.trust.m5 ∧ t.dev.trust.minSvn = s.dev.trust.minSvn ∧ t.dev.boot.latched = s.dev.boot.latched ∧
    t.dev.boot.latchDone = s.dev.boot.latchDone ∧ t.dev.boot.svn = s.dev.boot.svn ∧ t.dev.boot.fwVersion = s.dev.boot.fwVersion ∧
    t.dev.boot.st = s.dev.boot.st
  (∀ (s : State) (run : FwRun), s.dev.mailFree → let i := images s run
    (s.dev.boot.st ≠ 3 → ∃ t, exec (.fwLoad run) s = .next t ∧ hostFrame s t ∧ mailAnswer s t 1 1 ∧ kept s t) ∧
    (s.dev.boot.st = 3 → run.read ≠ .ok → ∃ t, exec (.fwLoad run) s = .next t ∧ hostFrame s t ∧ mailAnswer s t 1 3 ∧ kept s t) ∧
    (s.dev.boot.st = 3 → run.read = .ok → ∃ t, exec (.fwLoad run) s = .next t ∧ hostFrame s t ∧
      match s.dev.imgVerdict i.1 i.2 none with
      | some code => mailAnswer s t 1 code ∧ kept s t
      | none => t.dev.boot.latched = (if s.dev.boot.latchDone then s.dev.boot.latched else s.dev.boot.injectEnable) ∧
          t.dev.boot.latchDone = true ∧
          (run.startOk = true → mailAnswer s t 1 0 ∧ measured s t i.1 ∧ t.dev.boot.st = 4 ∧ t.dev.boot.served = true) ∧
          (run.startOk = false → mailAnswer s t 1 8 ∧ t.dev.boot.st = 3 ∧ t.dev.trust.m2 = zeros 32 ∧ t.dev.trust.m3 = zeros 32 ∧
            t.dev.boot.svn = 0 ∧ t.dev.trust.m4 = t.dev.block4 ∧ t.dev.trust.m5 = sha256 (s.dev.trust.m5 ++ sha256 i.1)))) ∧
  (∀ (s : State) (run : FwRun), s.dev.mailFree → liveStates s.dev.boot.st = true → exec (.fwUpdate run) s = .next (s.dev! ({ s.dev with
    boot := { s.dev.boot with busy := true, lastCmd := 2, live := 1 },
    trust := { s.dev.trust with update := some ⟨run, s.dev.jobDescsRunning,
      if s.dev.jobDescsRunning.isEmpty then some s.dev.now else none⟩ } } : Dev).noteStalls)) ∧
  (∀ (s : State) (run : FwRun) (ws : List (Nat × Nat)), s.dev.trust.update = some ⟨run, ws, none⟩ → exec .fwUpdateEnd s = .next s) ∧
  (∀ (s : State) (run : FwRun) (ws : List (Nat × Nat)) (b : Nat), s.dev.trust.update = some ⟨run, ws, some b⟩ → liveStates s.dev.boot.st = true →
    s.dev.unarmed = true → s.dev.wells.heldIo = [] →
    let i := images s run
    ∃ t, exec .fwUpdateEnd s = .next t ∧ (run.startOk = true ∨ run.oldRestarts = true → hostFrame s t) ∧ t.dev.trust.update = none ∧
      t.dev.now = max s.dev.now (b + 1000 * run.micros) ∧ (run.read ≠ .ok → mailAnswer s t 2 3 ∧ kept s t) ∧
      (run.read = .ok → match s.dev.imgVerdict i.1 i.2 (some s.dev.boot.handover) with
        | some code => mailAnswer s t 2 code ∧ kept s t
        | none =>
          (run.startOk = true → mailAnswer s t 2 0 ∧ measured s t i.1 ∧ t.dev.boot.updates = s.dev.boot.updates + 1 ∧ t.dev.boot.st = s.dev.boot.st) ∧
          (run.startOk = false → run.oldRestarts = true → mailAnswer s t 2 9 ∧ kept s t) ∧
          (run.startOk = false → run.oldRestarts = false → t.dev.boot.st = 6 ∧ t.dev.er.fatal = true))) ∧
  (∀ s : State, s.dev.mailFree →
    (s.dev.boot.st ≠ 4 → ∃ t, exec .svnCommit s = .next t ∧ hostFrame s t ∧ mailAnswer s t 6 1 ∧ kept s t) ∧
    (s.dev.boot.st = 4 → ∃ t, exec .svnCommit s = .next t ∧ hostFrame s t ∧ mailAnswer s t 6 0 ∧
      t.dev.trust.minSvn = max s.dev.trust.minSvn s.dev.boot.svn ∧ t.dev.trust.m4 = t.dev.block4 ∧ t.dev.trust.m5 = s.dev.trust.m5)) ∧
  (∀ (s : State) (v : Bool), s.dev.pw.state = 0 →
    exec (.injectEnableWrite v) s = .next (if s.dev.boot.st = 3 ∧ s.dev.boot.latchDone = false
      then s.dev! { s.dev with boot := { s.dev.boot with injectEnable := v } } else s))

/-- Live service (R485, R486, R488, R490, R537, R547): a swap freezes the core and takes the lowest spare of its die; the map changes when the copy
ends, and a copy that fails halts the core in place; a port retrains in the width asked for; a failing management core whose partner cannot take its
roles is fatal. Where it rests on the model's choices: log entries 30, 82, 83. -/
def Obligations.ServiceWhileRunning : Prop :=
  (∀ (s : State) (c p : Nat), s.dev.mailFree → liveStates s.dev.boot.st = true →
    let die := dieOfCore s.dev.grade c
    let begins (t : State) (mailbox : Bool) : Prop := (t.dev.core c).frozen = true ∧ (t.dev.core c).items = [] ∧ t.dev.mem = s.dev.mem ∧
      (∀ k, k ≠ c → t.dev.core k = s.dev.core k) ∧ t.pending = s.pending ∧ t.toll = s.toll ∧ t.dev.boot.live = liveWord 5 c ∧
      t.dev.trust = { s.dev.trust with swaps := s.dev.trust.swaps ++ [⟨die, c, some p, mailbox, (s.dev.core c).halted, false⟩] }
    (s.dev.n ≤ c → ∃ t, exec (.spareSwap c) s = .next t ∧ hostFrame s t ∧ mailAnswer s t 3 2 ∧ t.dev.trust = s.dev.trust) ∧
    (c < s.dev.n → c < s.dev.cores.length → (∀ x ∈ s.dev.trust.swaps, x.die ≠ die) →
      ((∀ q ∈ s.dev.trust.spares, dieOfPhys q ≠ die) → exec (.autoSpareSwap c) s = .next s ∧
        ∃ t, exec (.spareSwap c) s = .next t ∧ hostFrame s t ∧ mailAnswer s t 3 0x0A ∧ t.dev.trust = s.dev.trust) ∧
      (p ∈ s.dev.trust.spares → dieOfPhys p = die → (∀ q ∈ s.dev.trust.spares, dieOfPhys q = die → p ≤ q) →
        (∃ t, exec (.spareSwap c) s = .next t ∧ begins t true ∧ t.dev.boot.busy = true ∧ t.dev.boot.lastCmd = 3) ∧
        ((∀ x ∈ s.dev.trust.swaps, x.core ≠ c) → ∃ t, exec (.autoSpareSwap c) s = .next t ∧ begins t false ∧ t.dev.boot.busy = false)))) ∧
  (∀ (s : State) (x : Swap) (p : Nat), s.dev.trust.swaps = [x] → x.spare = some p → x.stopWaits = false → s.dev.restful x.core →
    (s.dev.core x.core).halted = false → (s.dev.core x.core).taking = false → s.dev.unarmed = true → s.dev.bz.rounds = [] → s.dev.bz.waits = [] →
    (∃ t, exec (.spareSwapEnd x.die true) s = .next t ∧ t.dev.core x.core = { s.dev.core x.core with frozen := false } ∧
      t.dev.trust.lmap = s.dev.trust.lmap.set x.core p ∧ t.dev.trust.spares = s.dev.trust.spares.erase p ∧
      t.dev.trust.out = s.dev.trust.out ++ [s.dev.trust.lmap.getD x.core 0] ∧ t.dev.trust.swaps = [] ∧ t.dev.mem = s.dev.mem ∧
      (x.mailbox = true → mailAnswer s t 3 0) ∧ (x.mailbox = false → t.dev.boot.result = s.dev.boot.result)) ∧
    (∃ t, exec (.spareSwapEnd x.die false) s = .next t ∧ (t.dev.core x.core).halted = true ∧ (t.dev.core x.core).frozen = false ∧
      t.dev.trust.lmap = s.dev.trust.lmap ∧ t.dev.trust.swaps = [] ∧ (x.mailbox = true → t.dev.boot.result = 0x0B))) ∧
  (∀ (s : State) (p : Nat) (half trained : Bool), s.dev.mailFree → liveStates s.dev.boot.st = true →
    let back (x : PortSt) : PortSt := { x with training := false, halfRate := false, winReplays := 0, up := trained || !half,
                                               width := if trained && !half then 0 else goodPair x.laneErr }
    (p ∉ presentPorts s.dev.grade → ∃ t, exec (.portRetrain p half trained) s = .next t ∧ hostFrame s t ∧ mailAnswer s t 4 2) ∧
    (p ∈ presentPorts s.dev.grade → (s.dev.port p).failedTest = false → ∃ t, exec (.portRetrain p half trained) s = .next t ∧
      fabricFrame s t ∧ mailAnswer s t 4 (if trained then 0 else 0x0C) ∧ t.dev.fx.ports = s.dev.fx.ports.modify p back) ∧
    (half = false → (s.dev.port p).up = true → (s.dev.port p).width ≠ 0 →
      exec (.fullRetrainTimer p trained) s = .next (s.dev! ((s.dev.awaitStall (dieOfPort p)).setPort p back)))) ∧
  (∀ (s : State) (p lane : Nat), lane < 4 → p < s.dev.fx.ports.length → (s.dev.port p).up = true → ∃ t, exec (.laneFault p lane) s = .next t ∧
    t.pending = s.pending ∧ t.toll = s.toll ∧ t.dev.mem = s.dev.mem ∧ (t.dev.port p).up = false ∧ (t.dev.port p).training = true ∧
    (t.dev.port p).width = goodPair (t.dev.port p).laneErr ∧ laneErrs (t.dev.port p).laneErr lane = 255 ∧
    ∀ q, q ≠ p → t.dev.port q = s.dev.port q) ∧
  (∀ (s : State) (g : Nat), s.dev.mailFree → liveStates s.dev.boot.st = true → ∃ t, exec (.recal g) s = .next t ∧ hostFrame s t ∧
    t.dev.trust = s.dev.trust ∧ mailAnswer s t 5 (if g = 0xFF ∨ g < 20 ∨ (20 ≤ g ∧ g - 20 ∈ presentWells s.dev.grade) then 0 else 2)) ∧
  (∀ (s : State) (m : Nat) (takes : Bool), m < 8 → liveStates s.dev.boot.st = true → m ∉ s.dev.trust.mgmtFailed →
    ∃ t, exec (.mgmtCoreSelfCheckFail m takes) s = .next t ∧ m ∈ t.dev.trust.mgmtFailed ∧ t.pending = s.pending ∧ t.toll = s.toll ∧
      (takes = true → m ^^^ 1 ∉ s.dev.trust.mgmtFailed → hostFrame s t ∧ t.dev.boot = s.dev.boot ∧ ∃ r ∈ t.dev.er.log, r.det = 0x4000 + m ∧ r.sev = 1) ∧
      (takes = false ∨ m ^^^ 1 ∈ s.dev.trust.mgmtFailed → t.dev.boot.st = 6 ∧ t.dev.er.fatal = true))

/-- The SPDM responder (R474, R476): nothing before WAIT_FW; then a request gets its response once the exchange has reached it, with version 1.2,
CTExponent 15, slot 0 alone, and the measurement blocks as they stand; while CHAIN_OK is 0 the chain is not shown. The bytes outside R476 are those
of the SPDM standard (log entry 84). Where it rests on the model's choices: log entry 84. -/
def Obligations.AttestationAnswers : Prop :=
  let noted (s : State) (code : Nat) : Dev := { s.dev with trust := { s.dev.trust with spdm := s.dev.trust.spdm ++ [code] } }
  (∀ s : State, s.dev.pw.state = 0 → s.dev.boot.st < 3 → ∀ c, c ∈ [Instr.getVersion, .getCapabilities, .negotiateAlgorithms 16 1 1 1, .getDigests,
    .getCertificate 0 0 1, .challenge 0 [], .getMeasurements 0 false []] → exec c s = .next s) ∧
  (∀ s : State, s.dev.pw.state = 0 → 3 ≤ s.dev.boot.st →
    exec .getVersion s = .next (s.dev! ({ s.dev with trust := { s.dev.trust with spdm := [0x84] } }.emit (.spdm [0x10, 0x04, 0, 0, 0, 1, 0x00, 0x12]))) ∧
    (0x84 ∈ s.dev.trust.spdm → exec .getCapabilities s = .next (s.dev! ((noted s 0xE1).emit (.spdm ([0x12, 0x61, 0, 0, 0, 15, 0, 0, 0x16, 0, 0, 0] ++
      leBytes 4 Config.spdmTransfer.toNat ++ leBytes 4 Config.spdmMax.toNat)))))) ∧
  (∀ (s : State) (asym hash meas spec : Nat), s.dev.pw.state = 0 → 3 ≤ s.dev.boot.st → 0xE1 ∈ s.dev.trust.spdm →
    asym &&& 0x10 = 0x10 → hash &&& 1 = 1 → spec &&& 1 = 1 → exec (.negotiateAlgorithms asym hash meas spec) s = .next (s.dev! ((noted s 0xE3).emit
      (.spdm ([0x12, 0x63, 0, 0, 36, 0, 1, 0, 2, 0, 0, 0, 0x10, 0, 0, 0, 1, 0, 0, 0] ++ zeros 16))))) ∧
  (∀ (s : State) (off len slot : Nat) (nonce : List Byte), s.dev.pw.state = 0 → 3 ≤ s.dev.boot.st → 0xE3 ∈ s.dev.trust.spdm →
    let own := (List.range 32).map (Config.nonceByte s.dev.draws)
    let n := min len (Config.certChain.length - off)
    exec .getDigests s = .next (s.dev! ((noted s 0x81).emit (.spdm (if s.dev.boot.chainOk then [0x12, 0x01, 0, 1] ++ sha256 Config.certChain
      else [0x12, 0x7F, 5, 0])))) ∧
    (s.dev.boot.chainOk = false → exec (.getCertificate slot off len) s = .next (s.dev! ((noted s 0x82).emit (.spdm [0x12, 0x7F, 5, 0])))) ∧
    (s.dev.boot.chainOk = true → exec (.getCertificate 0 off len) s = .next (s.dev! ((noted s 0x82).emit (.spdm
      (if off < Config.certChain.length then
        [0x12, 0x02, 0, 0] ++ leBytes 2 n ++ leBytes 2 (Config.certChain.length - off - n) ++ slice Config.certChain off n
       else [0x12, 0x7F, 1, 0]))))) ∧
    (slot ≠ 0 → exec (.challenge slot nonce) s = .next (s.dev! ((noted s 0x83).emit (.spdm [0x12, 0x7F, 1, 0])))) ∧
    (∃ t digest, exec (.challenge 0 nonce) s = .next t ∧ hostFrame s t ∧ t.dev.out = .spdm ([0x12, 0x03, 0, 1] ++ sha256 Config.certChain ++ own ++
      [0, 0] ++ Config.ecdsaSign .deviceIdentity digest) :: s.dev.out) ∧
    (∀ (i : Nat) (sign : Bool), 1 ≤ i → i ≤ 6 → ∃ t digest, exec (.getMeasurements i sign nonce) s = .next t ∧ hostFrame s t ∧
      t.dev.out = .spdm ([0x12, 0x60, 0, 0, 1] ++ leBytes 3 (s.dev.measBlock i).length ++ s.dev.measBlock i ++ own ++ [0, 0] ++
        (if sign then Config.ecdsaSign .deviceIdentity digest else [])) :: s.dev.out) ∧
    (s.dev.measBlock 2 = [2, 1] ++ leBytes 2 (3 + s.dev.trust.m2.length) ++ [0x01] ++ leBytes 2 s.dev.trust.m2.length ++ s.dev.trust.m2) ∧
    (s.dev.measBlock 4 = [4, 1] ++ leBytes 2 (3 + s.dev.trust.m4.length) ++ [0x82] ++ leBytes 2 s.dev.trust.m4.length ++ s.dev.trust.m4))

/-! ## The Tollhouse -/

/-- The Tollhouse takes input from its sources alone (R24, R492, R493, R494): no other command changes anything in it; its energy and sequence
change with periodic readings alone, its firmware with an image sent while it is unsealed, its seal with its pin and its power. What the Tollhouse
has counted is never taken back (R498, R503, R506, R512, R515): whatever the command, no energy count falls, and neither do the sequence of
readings, the audit log's, the boots, the unseals, the updates and the SVN; power loss included. -/
def Obligations.TollhouseIsIsolated : Prop :=
  (∀ (c : Instr) (s t : State), exec c s = .next t →
     (tollInput c = false → t.toll = s.toll) ∧
     ((∀ e, c ≠ .periodicReading e) → t.toll.nv.energy = s.toll.nv.energy ∧ t.toll.nv.seq = s.toll.nv.seq ∧ t.toll.nv.lastTt = s.toll.nv.lastTt) ∧
     (s.toll.unsealed = false ∨ (∀ m a b, c ≠ .tollhouseFwImage m a b) → t.toll.nv.fwDigest = s.toll.nv.fwDigest ∧
       t.toll.nv.fwVersion = s.toll.nv.fwVersion ∧ t.toll.nv.fwSvn = s.toll.nv.fwSvn ∧ t.toll.nv.fwUpdates = s.toll.nv.fwUpdates) ∧
     (c ≠ .unseal → c ≠ .tollhouseSeal → c ≠ .tollhousePowerLoss → (∀ h, c ≠ .tollhousePowerUp h) → t.toll.unsealed = s.toll.unsealed) ∧
     (∀ slot r, c ∈ [Instr.getReading slot r, .getLog slot r, .getCert slot r, .getStatus slot r, .smbTollReq true r, .tollhouseResponseReady] →
       t.toll.nv = s.toll.nv ∧ t.toll.readings = s.toll.readings ∧ t.toll.timeSet = s.toll.timeSet ∧ t.toll.work = s.toll.work)) ∧
  (∀ (c : Instr) (s t : State), exec c s = .next t →
     (∀ ch, s.toll.nv.energy.getD ch 0 ≤ t.toll.nv.energy.getD ch 0) ∧ s.toll.nv.seq ≤ t.toll.nv.seq ∧ s.toll.nv.logSeq ≤ t.toll.nv.logSeq ∧
     s.toll.nv.bootCount ≤ t.toll.nv.bootCount ∧ s.toll.nv.unseals ≤ t.toll.nv.unseals ∧ s.toll.nv.fwUpdates ≤ t.toll.nv.fwUpdates ∧
     s.toll.nv.fwSvn ≤ t.toll.nv.fwSvn)

/-- R507: in every state in which the audit log is chained, every step keeps it so: no step loses, reorders or alters an entry that the store keeps.
-/
def Obligations.AuditLogStaysChained : Prop :=
  ∀ (s t : State), s.toll.nv.chained → step s = .next t → t.toll.nv.chained ∧
    ∃ new, t.toll.nv.log = (new ++ s.toll.nv.log).take 65536 ∧ t.toll.nv.logSeq = s.toll.nv.logSeq + new.length

/-- Metering and the audit log (R494, R497, R498, R503, R504, R505, R506, R507, R508, R509, R514): power-up counts the boot and logs a GAP with the
counts as committed; power loss keeps the store alone; a periodic reading adds what each channel integrated, but for one in sense fault, and is
signed; sense faults and the seal are logged. Firmware of the Tollhouse (R513, R514, R515, R516): sealed, the service port does nothing; unsealed,
an image is checked in the order of its result codes, every outcome is logged, a failure leaves the running image, and an image that passes becomes
the running one and is read into block 6. Where it rests on the model's choices: log entries 86, 87. -/
def Obligations.MeteringAndItsFirmware : Prop :=
  ((∀ (s : State) (pin : Bool), s.toll.running = false → ∃ t, exec (.tollhousePowerUp pin) s = .next t ∧ tollFrame s t ∧ t.toll.running = true ∧
     t.toll.mono = 0 ∧ t.toll.tt = 0 ∧ t.toll.timeSet = false ∧ t.toll.nv.bootCount = s.toll.nv.bootCount + 1 ∧ t.toll.nv.energy = s.toll.nv.energy ∧
     t.toll.nv.seq = s.toll.nv.seq ∧ t.toll.start = s.dev.now ∧
     s.toll.loggedOne t.toll 1 (leBytes 8 s.toll.nv.lastTt ++ leBytes 8 s.toll.nv.seq ++ leBytes 4 1000 ++ leBytes 1 (b2n pin))) ∧
   (∀ s : State, ∃ t, exec .tollhousePowerLoss s = .next t ∧ tollFrame s t ∧ t.toll.running = false ∧ t.toll.nv = s.toll.nv ∧ t.toll.tt = 0 ∧
     t.toll.boxes = [⟨0, [], []⟩, ⟨0, [], []⟩]) ∧
   (∀ (s : State) (energy : List Nat), s.toll.running = true → s.toll.nv.energy.length = 8 → ∃ t r, exec (.periodicReading energy) s = .next t ∧
     hostFrame { s with toll := t.toll } t ∧ t.dev.now = max s.dev.now (s.toll.start + 1000000000 * (s.toll.secs + 1)) ∧
     t.toll.nv.seq = s.toll.nv.seq + 1 ∧ t.toll.nv.lastTt = t.toll.tt ∧ t.toll.nv.log = s.toll.nv.log ∧ t.toll.nv.logHash = s.toll.nv.logHash ∧
     (∀ c < 8, t.toll.nv.energy.getD c 0 = s.toll.nv.energy.getD c 0 + (if s.toll.senseFault.getD c false then 0 else energy.getD c 0)) ∧
     t.toll.readings.head? = some ((s.toll.nv.seq + 1) % 16, r) ∧ r.length = 256 ∧ fieldAt r 0 1 = 1 ∧ fieldAt r 1 1 = 1 ∧
     fieldAt r 8 8 = (s.toll.nv.seq + 1) % 2 ^ 64 ∧ fieldAt r 32 8 = 0 ∧ (∀ c < 8, fieldAt r (80 + 8 * c) 8 = t.toll.nv.energy.getD c 0 % 2 ^ 64) ∧
     r.drop 192 = slice (Config.ecdsaSign .tollhouse (sha256 (r.take 192))) 0 64) ∧
   (∀ (s : State) (c kind : Nat), s.toll.running = true → c < s.toll.senseFault.length → s.toll.senseFault.length = 8 →
     (1 ≤ kind → kind ≤ 3 → s.toll.senseFault.getD c false = false → ∃ t, exec (.senseFault c kind) s = .next t ∧ tollFrame s t ∧
       s.toll.keeps t.toll ∧ t.toll.senseFault = s.toll.senseFault.set c true ∧ s.toll.loggedOne t.toll 9 (leBytes 1 c ++ leBytes 1 kind)) ∧
     (s.toll.senseFault.getD c false = true → ∃ t, exec (.senseClear c) s = .next t ∧ tollFrame s t ∧ s.toll.keeps t.toll ∧
       t.toll.senseFault = s.toll.senseFault.set c false ∧ s.toll.loggedOne t.toll 10 (leBytes 1 c))) ∧
   (∀ s : State, s.toll.running = true →
     (s.toll.unsealed = false → ∃ t, exec .unseal s = .next t ∧ tollFrame s t ∧ s.toll.keeps t.toll ∧ t.toll.unsealed = true ∧
       t.toll.nv.unseals = s.toll.nv.unseals + 1 ∧ s.toll.loggedOne t.toll 5 (leBytes 4 (s.toll.nv.unseals + 1))) ∧
     (s.toll.unsealed = true → ∃ t, exec .tollhouseSeal s = .next t ∧ tollFrame s t ∧ s.toll.keeps t.toll ∧ t.toll.unsealed = false ∧
       t.toll.nv.unseals = s.toll.nv.unseals ∧ s.toll.loggedOne t.toll 6 (leBytes 8 ((t.toll.mono - s.toll.unsealMono) / 1000))))) ∧
  (∀ (s : State) (m : List Byte) (selfOk high : Bool), s.toll.running = true →
     let signed := Config.ecdsaVerify (slice m 32 64) (sha256 (m.take (m.length - 64))) (slice m (m.length - 64) 64)
     let code : Nat :=
       if tollImgOk m = false then 2
       else if sha256 (slice m 32 64) ≠ Config.meteringKeyDigest then 3
       else if signed = false then 4
       else if fieldAt m 12 4 < s.toll.nv.fwSvn then 5
       else if high then 1
       else if selfOk = false then 6
       else 0
     (s.toll.unsealed = false → exec (.tollhouseFwImage m selfOk high) s = .next s) ∧
     (s.toll.unsealed = true → ∃ t, exec (.tollhouseFwImage m selfOk high) s = .next t ∧ hostFrame { s with toll := t.toll } t ∧
       t.dev.out = .service code :: s.dev.out ∧ t.toll.nv.energy = s.toll.nv.energy ∧ t.toll.nv.seq = s.toll.nv.seq ∧ t.toll.unsealed = true ∧
       (code = 0 → t.toll.nv.fwVersion = fieldAt m 8 4 ∧ t.toll.nv.fwSvn = fieldAt m 12 4 ∧ t.toll.nv.fwDigest = sha256 m ∧
         t.toll.nv.fwUpdates = s.toll.nv.fwUpdates + 1 ∧ (s.dev.trust.powerGood = true → t.dev.trust.m6 = sha256 m) ∧
         s.toll.loggedOne t.toll 7 (slice s.toll.nv.fwDigest 0 16 ++ slice (sha256 m) 0 16)) ∧
       (code ≠ 0 → s.toll.keeps t.toll ∧ t.dev.trust = s.dev.trust ∧
         s.toll.loggedOne t.toll 8 (leBytes 1 code ++ zeros 15 ++ (if code = 2 then zeros 16 else slice (sha256 m) 0 16)))))

/-- Work counts and the Tollhouse's time (R499, R500, R501, R502): a frame that a die sends is one the Tollhouse takes; one that fails its checks is
counted and changes nothing else; the first locked time sets TT once, and from then on TT is slewed by at most 10 µs in a comparison. Where it rests
on the model's choices: log entry 85. -/
def Obligations.WorkCountsAndTime : Prop :=
  (∀ (s : State) (die : Nat), die ≤ 1 → s.dev.trust.powerGood = true → ∃ t f, exec (.workCountSend die) s = .next t ∧ hostFrame s t ∧
    t.dev.out = .workFrame f :: s.dev.out ∧ frameOk f = true ∧ f.length = 64 ∧ fieldAt f 1 1 = die ∧
    fieldAt f 2 2 = s.dev.work.fseq.getD die 0 % 65536 ∧ fieldAt f 16 8 = s.dev.work.macFp4.getD die 0 % 2 ^ 64 ∧
    fieldAt f 56 8 = s.dev.work.fab.getD die 0 % 2 ^ 64 ∧
    (fieldAt f 8 8 ≥ 2 ^ 63 ↔ s.dev.tm.st = .locked)) ∧
  (∀ (s : State) (f : List Byte), s.toll.running = true →
    let u := s.toll.at s.dev.now
    (frameOk f = false → exec (.workCountFrame f) s = .next { s with toll := { u with workBad := sat32 (u.workBad + 1) } }) ∧
    (frameOk f = true → s.toll.stale.length = 2 → s.toll.work.length = 2 → ∃ t, exec (.workCountFrame f) s = .next t ∧ tollFrame s t ∧
      s.toll.keeps t.toll ∧ t.toll.workBad = s.toll.workBad ∧ t.toll.stale.getD (fieldAt f 1 1) true = false ∧
      (∀ i < 6, (t.toll.work.getD (fieldAt f 1 1) []).getD i 0 = fieldAt f (16 + 8 * i) 8) ∧
      (s.toll.timeSet = true → t.toll.timeSet = true ∧ t.toll.tt = u.tt) ∧
      (s.toll.timeSet = false → fieldAt f 8 8 < 2 ^ 63 → t.toll.timeSet = false ∧ t.toll.tt = 0) ∧
      (s.toll.timeSet = false → 2 ^ 63 ≤ fieldAt f 8 8 → t.toll.timeSet = true ∧ t.toll.tt = (fieldAt f 8 8 - 2 ^ 63) / 1000) ∧
      (s.toll.timeSet = true → s.toll.stale.getD (fieldAt f 1 1) false = false → t.toll.nv = s.toll.nv) ∧
      (s.toll.timeSet = true → s.toll.stale.getD (fieldAt f 1 1) false = true → s.toll.loggedOne t.toll 12 (leBytes 1 (fieldAt f 1 1))))) ∧
  (∀ (s : State) (die : Nat), s.toll.running = true → die ≤ 1 → s.toll.stale.length = 2 → s.toll.stale.getD die false = false →
    ∃ t, exec (.workStaleTimeout die) s = .next t ∧ tollFrame s t ∧ s.toll.keeps t.toll ∧ t.toll.stale = s.toll.stale.set die true ∧
      t.toll.work = s.toll.work ∧ s.toll.loggedOne t.toll 11 (leBytes 1 die)) ∧
  (∀ (s : State) (ns : Nat), s.toll.running = true → s.toll.timeSet = true → s.toll.devTime = some ns →
    let u := s.toll.at s.dev.now
    let diff : Int := (u.tt : Int) - (ns / 1000 : Nat)
    ∃ t, exec .timeCheck s = .next t ∧ tollFrame s t ∧ s.toll.keeps t.toll ∧ t.toll.timeDevUs = max (-2147483647) (min 2147483647 diff) ∧
      ((t.toll.tt : Int) - u.tt).natAbs ≤ 10 ∧
      (100000 < diff.natAbs → t.toll.tt = u.tt ∧ t.toll.timeDev = true ∧ (s.toll.timeDev = true → t.toll.nv = s.toll.nv) ∧
        (s.toll.timeDev = false → ∃ b, s.toll.loggedOne t.toll 3 b)) ∧
      (diff.natAbs ≤ 100000 → s.toll.timeDev = false → t.toll.nv = s.toll.nv ∧ (t.toll.tt : Int) = max 0 ((u.tt : Int) - max (-10) (min 10 diff))) ∧
      (50000 < diff.natAbs → diff.natAbs ≤ 100000 → s.toll.timeDev = true → t.toll.timeDev = true ∧ t.toll.tt = u.tt ∧ t.toll.nv = s.toll.nv) ∧
      (diff.natAbs ≤ 50000 → s.toll.timeDev = true → t.toll.timeDev = false ∧ t.toll.nv.logSeq = s.toll.nv.logSeq + 1))

/-- The mailbox of the Tollhouse (R493 stated; R510): a request selects what is returned, its nonce is signed into the reading, and it changes no
record, count, sequence, log entry or hash; a slot that is free takes it and its response is in the making at once unless the other slot is served;
one still busy answers BUSY to Acwald firmware; a response becomes ready and the other slot's request is served next. Where it rests on the model's
choices: log entries 86, 87. -/
def Obligations.RequestsChangeNoRecord : Prop :=
  let cmds (slot : TollSlot) (r : List Byte) : List (Nat × Instr) := [(1, .getReading slot r), (2, .getLog slot r), (3, .getCert slot r), (4, .getStatus slot r)]
  (∀ (s : State) (slot : TollSlot) (r : List Byte) (x : Nat × Instr), x ∈ cmds slot r → s.toll.running = true → fieldAt r 1 1 = x.1 →
    s.toll.boxes.length = 2 →
    let i := slotIdx slot
    let u := s.toll.at s.dev.now
    let taken : TollBox := ⟨1, r, if (s.toll.box (1 - i)).serving then [] else u.answer r⟩
    ∃ t, exec x.2 s = .next t ∧ t.pending = s.pending ∧ t.toll.nv = s.toll.nv ∧ t.toll.readings = s.toll.readings ∧
      ((s.toll.box i).st ≠ 1 → t.dev = s.dev ∧ t.toll = { u with boxes := s.toll.boxes.set i taken }) ∧
      ((s.toll.box i).st = 1 → slot = .acwald → t.toll = s.toll ∧
        t.dev.out = .mailbox ([1, BitVec.ofNat 8 x.1, 1, 0, 0, 0, 0, 0] ++ zeros 24) :: s.dev.out)) ∧
  (∀ (t : Toll) (r : List Byte),
    (reqOk r = false → t.answer r = [1] ++ leBytes 1 (fieldAt r 1 1) ++ [2] ++ zeros 29) ∧
    (reqOk r = true → fieldAt r 1 1 = 1 → ∃ b, t.answer r = [1, 1, 0, 0, 0, 1, 0, 0] ++ zeros 24 ++ b ∧ b.length = 256 ∧ fieldAt b 1 1 = 2 ∧
      fieldAt b 8 8 = t.nv.seq % 2 ^ 64 ∧ fieldAt b 32 8 = fieldAt r 8 8 ∧
      b.drop 192 = slice (Config.ecdsaSign .tollhouse (sha256 (b.take 192))) 0 64) ∧
    (reqOk r = true → fieldAt r 1 1 = 2 → 1 ≤ fieldAt r 8 8 → fieldAt r 8 8 + t.nv.log.length ≤ t.nv.logSeq → 1 ≤ fieldAt r 2 2 →
      fieldAt r 2 2 ≤ 16 → t.answer r = [1, 2, 3] ++ zeros 29) ∧
    (reqOk r = true → fieldAt r 1 1 = 4 → t.answer r = [1, 4, 0, 0, 128, 0, 0, 0] ++ zeros 24 ++ t.status)) ∧
  (∀ s : State, s.toll.running = true → s.toll.boxes.length = 2 →
    ((s.toll.box 0).serving = false → (s.toll.box 1).serving = false → exec .tollhouseResponseReady s = .next s) ∧
    ((s.toll.box 0).serving = true → ∃ t, exec .tollhouseResponseReady s = .next t ∧ t.toll.nv = s.toll.nv ∧ (t.toll.box 0).st = 2 ∧
      (t.toll.box 0).resp = (s.toll.box 0).resp ∧ t.dev.out = .mailbox (s.toll.box 0).resp :: s.dev.out ∧
      ((s.toll.box 1).waiting = true → (t.toll.box 1).resp = s.toll.answer (s.toll.box 1).req)) ∧
    ((s.toll.box 0).serving = false → (s.toll.box 1).serving = true → ∃ t, exec .tollhouseResponseReady s = .next t ∧ t.toll.nv = s.toll.nv ∧
      (t.toll.box 1).st = 2 ∧ (t.toll.box 1).resp = (s.toll.box 1).resp ∧ t.dev.trust.smbAlert = true ∧ t.dev.out = s.dev.out))

/-! ## Power, time, counters and errors -/

/-- Pacing and power states (R518, R519, R520, R521, R522, R523, R524, R534): a sag lowers the f of its own group alone; f comes back one step at a
time to 16; the limiter keeps its common f within 1 to 16; a power state is entered from the one before where HOST_LATENCY_TOL and AUTO allow it and
its condition holds; any wake event leads to A0; a lower HOST_LATENCY_TOL is obeyed at once. Where it rests on the model's choices: log entries 88,
89. -/
def Obligations.PacingAndPowerStates : Prop :=
  let pwOnly (s t : State) : Prop := t = s.dev! { s.dev with pw := t.dev.pw }
  let awoken (s t : State) : Prop := hostFrame s t ∧ t.dev.job = s.dev.job ∧ t.dev.er = s.dev.er ∧ t.dev.boot = s.dev.boot ∧ t.dev.pw.since = s.dev.now
  (∀ (s : State) (g : Nat), s.dev.boot.st ≠ 0 → s.dev.pw.f.length = 20 →
    (20 ≤ g → exec (.droverSag g) s = .next s ∧ exec (.droverRaise g) s = .next s) ∧
    (g < 20 → (∃ t, exec (.droverSag g) s = .next t ∧ pwOnly s t ∧ t.dev.pw.fOf g = min s.dev.pw.sagFrac.toNat s.dev.pw.fLimit ∧
        t.dev.pw.sagEvents = sat32 (s.dev.pw.sagEvents + 1) ∧ ∀ h, h ≠ g → t.dev.pw.fOf h = s.dev.pw.fOf h) ∧
      (∃ t, exec (.droverRaise g) s = .next t ∧ pwOnly s t ∧ t.dev.pw.f.getD g 0 = min 16 (s.dev.pw.f.getD g 0 + 1) ∧
        ∀ h, h ≠ g → t.dev.pw.fOf h = s.dev.pw.fOf h))) ∧
  (∀ (s : State) (up : Bool) (us : Nat), s.dev.boot.st ≠ 0 → 1 ≤ s.dev.pw.fLimit → s.dev.pw.fLimit ≤ 16 →
    ∃ t, exec (.limiterAdjust up us) s = .next t ∧ pwOnly s t ∧ 1 ≤ t.dev.pw.fLimit ∧ t.dev.pw.fLimit ≤ 16 ∧ t.dev.pw.f = s.dev.pw.f ∧
      t.dev.pw.limitPaced = sat32 (s.dev.pw.limitPaced + us) ∧
      (t.dev.pw.fLimit = s.dev.pw.fLimit + 1 ∨ t.dev.pw.fLimit = s.dev.pw.fLimit ∨ t.dev.pw.fLimit + 1 = s.dev.pw.fLimit)) ∧
  (∀ s : State, let k := s.dev.pw.state + 1
    let allowed : Prop := k ≤ 4 ∧ wbit s.dev.pw.ctrl 0 = true ∧ exitLatency k ≤ s.dev.pw.latencyTol.toNat ∧ 3 ≤ s.dev.boot.st ∧ s.dev.mayEnter k = true
    (¬ allowed → exec .powerStateEnter s = .next s) ∧
    (allowed → ∃ t, exec .powerStateEnter s = .next t ∧ hostFrame s t ∧ t.dev.job = s.dev.job ∧ t.dev.boot = s.dev.boot ∧ t.dev.pw.state = k ∧
      t.dev.pw.since = t.dev.now ∧ t.dev.now = max s.dev.now ((if k = 1 then s.dev.now else s.dev.pw.since) + holdTime k))) ∧
  (∀ (s : State) (e : WakeEvent), (s.dev.pw.state = 0 → exec (.wake e) s = .next s) ∧
    (s.dev.pw.state ≠ 0 → ∃ t, exec (.wake e) s = .next t ∧ awoken s t ∧ t.dev.pw.state = 0 ∧ t.dev.pw.wakes = sat32 (s.dev.pw.wakes + 1) ∧
      t.dev.pw.res = s.dev.pw.res)) ∧
  (∀ (s : State) (v : Word32), s.dev.boot.served = true → s.dev.pw.state ≤ 4 →
    (1000000 < v.toNat → exec (.hostLatencyTolWrite v) s = .next s) ∧
    (v.toNat ≤ 1000000 → ∃ t, exec (.hostLatencyTolWrite v) s = .next t ∧ hostFrame s t ∧ t.dev.pw.latencyTol = v ∧
      t.dev.pw.state ≤ s.dev.pw.state ∧ exitLatency t.dev.pw.state ≤ v.toNat ∧
      (wbit s.dev.pw.ctrl 0 = true → exitLatency s.dev.pw.state ≤ v.toNat → t = s.dev! { s.dev with pw := { s.dev.pw with latencyTol := v } })))

/-- The time counter (R526, R527, R528, R529, R534): the selected source alone is followed; enough offsets within 50 ns in a row lock the counter,
which steps once to the source's time; while LOCKED it does not step; four offsets above 200 ns or silence lead to HOLDOVER; a source that returns
far off makes it step and is recorded; CAPTURE stores its value. Time passes evenly (R526, R528): the time counter never runs backward and is off
the elapsed time by at most 500 ppm of it and a nanosecond; the idle step passes a nanosecond (the model's choice, log entry 2). Where it rests on
the model's choices: log entries 2, 90. -/
def Obligations.TimeFollowsItsSource : Prop :=
  (let est (s t : State) (need : Nat) (o : Int) (source : Nat) : Prop :=
     let a := s.dev.tm
     let b := t.dev.tm
     b.offset = max (-2147483648) (min 2147483647 o) ∧
     (a.st = .free ∨ a.st = .acquiring →
       (o.natAbs ≤ 50 → need ≤ a.good + 1 → b.st = .locked ∧ b.ns = source ∧ b.steps = sat32 (a.steps + 1) ∧ b.everLocked = true ∧
         b.lockTime = sat32 ((s.dev.now - a.since) / 1000)) ∧
       (o.natAbs ≤ 50 → a.good + 1 < need → b.st = .acquiring ∧ b.good = a.good + 1 ∧ b.ns = a.ns) ∧
       (50 < o.natAbs → 0 < need → b.st = .acquiring ∧ b.good = 0 ∧ b.ns = a.ns)) ∧
     (a.st = .locked → b.ns = a.ns ∧ b.steps = a.steps ∧
       (200 < o.natAbs → 3 ≤ a.bad → b.st = .holdover ∧ wbit b.err 0 = true) ∧ (200 < o.natAbs → a.bad < 3 → b.st = .locked ∧ b.bad = a.bad + 1) ∧
       (o.natAbs ≤ 200 → b.st = .locked ∧ b.bad = 0)) ∧
     (a.st = .holdover →
       (o.natAbs ≤ 1000000 → b.ns = a.ns ∧ b.steps = a.steps ∧ (o.natAbs ≤ 50 → b.st = .locked) ∧ (50 < o.natAbs → b.st = .holdover)) ∧
       (1000000 < o.natAbs → b.st = .locked ∧ b.ns = ((a.ns : Int) - o).toNat ∧ b.steps = sat32 (a.steps + 1) ∧ wbit b.err 1 = true ∧
         ∃ r ∈ t.dev.er.coalesce, r.det = 0x4900))
   (∀ (s : State) (sw : Bool) (src port source : Nat) (kind : PtpKind) (o : Int), s.dev.pw.state = 0 → 3 ≤ s.dev.boot.st →
     s.dev.mgmtFrom sw src = true → wbit s.dev.tm.ctrl 1 = true → port = s.dev.fx.ptpPort.toNat →
     (wbit s.dev.tm.ctrl 0 = true → exec (.ptpMessage sw src port kind (some o) source) s =
       .next (s.dev! { s.dev with tm := { s.dev.tm with ignored := sat32 (s.dev.tm.ignored + 1) } })) ∧
     (wbit s.dev.tm.ctrl 0 = false → (kind = .followUp ∨ kind = .delayResp → ∃ t, exec (.ptpMessage sw src port kind (some o) source) s = .next t ∧
       hostFrame s t ∧ t.dev.now = s.dev.now ∧ est s t 8 o source) ∧
       (kind = .sync → ∃ t, exec (.ptpMessage sw src port kind none source) s = .next t ∧ hostFrame s t ∧ t.dev.tm.lastSrc = s.dev.now ∧
         t.dev.tm.ns = s.dev.tm.ns ∧ (s.dev.tm.st = .free → t.dev.tm.st = .acquiring)))) ∧
   (∀ (s : State) (o : Int), s.dev.boot.st ≠ 0 → wbit s.dev.tm.ctrl 1 = true →
     (wbit s.dev.tm.ctrl 0 = false → exec (.ppsEdge o) s =
       .next (s.dev! { s.dev with tm := { s.dev.tm with ignored := sat32 (s.dev.tm.ignored + 1) } })) ∧
     (wbit s.dev.tm.ctrl 0 = true → ∃ t, exec (.ppsEdge o) s = .next t ∧ hostFrame s t ∧ t.dev.tm.lastSrc = s.dev.now ∧
       est s t 4 o ((s.dev.tm.todLo.toNat + s.dev.tm.todHi.toNat % 4 * 2 ^ 32) * 1000000000))) ∧
   (∀ s : State, (s.dev.tm.st ≠ .locked → exec .sourceLoss s = .next s) ∧
     (s.dev.tm.st = .locked → ∃ t, exec .sourceLoss s = .next t ∧ hostFrame s t ∧ t.dev.tm.st = .holdover ∧ wbit t.dev.tm.err 0 = true ∧
       t.dev.now = max s.dev.now (s.dev.tm.lastSrc + if wbit s.dev.tm.ctrl 0 then 2000000000 else 3000000000) ∧
       (wbit s.dev.tm.ctrl 0 = true → wbit t.dev.tm.err 2 = true))) ∧
   (∀ s : State, s.dev.awakeUp = true → exec .capture s =
     .next (s.dev! { s.dev with tm := { s.dev.tm with capture := s.dev.tm.ns / 1000000000 * 2 ^ 30 + s.dev.tm.ns % 1000000000, capDone := true } }))) ∧
  ((∀ (d : Dev) (dt : Nat), d.tm.ns ≤ (d.advance dt).tm.ns ∧ (((d.advance dt).tm.ns : Int) - d.tm.ns - dt).natAbs ≤ dt / 2000 + 1 ∧
     (d.advance dt).now = d.now + dt ∧ (d.advance dt).tm.steps = d.tm.steps) ∧
   (∀ s : State, s.pending = [] → step s = .next (s.dev! s.dev.tick) ∧
     (s.dev.wells.heldIo = [] → s.dev.tick.now = s.dev.now + 1 ∧ s.dev.tick.mem = s.dev.mem ∧ s.dev.tick.cores = s.dev.cores ∧
       s.dev.tick.tm.ns - s.dev.tm.ns ≤ 2)))

/-- Snapshots, clears and bound counters (R302, R334, R365, R366, R405, R531, R532, R533, R534, R535): a snapshot shows every counter as of one
instant, after a clear written with it; each clear zeroes its own block's counts and changes nothing else; a workload is counted by whether it is
covered, and the first above its factor is recorded; BOUND_UPDATE shows, within 10 µs, the ratio of the newest workload in progress in each row that
it names. Where it rests on the model's choices: log entries 26, 91, 105. -/
def Obligations.CountsAreSnapshotAndCleared : Prop :=
  let zeroed (w : WellSt) : WellSt :=
    { w with corrected := 0, uncorr := 0, retrains := 0, sparedRows := 0, laneRepairs := 0, cmds := 0, partsFailed := 0 }
  (∀ s : State, s.dev.awakeUp = true → let d := s.dev
    (∀ clear, ∃ t, exec (.ctSnapshot clear) s = .next t ∧ t = s.dev! { d with ct := t.dev.ct } ∧ t.dev.ct.snapDone = true ∧
      t.dev.ct.snapTime = d.timeStamp ∧ t.dev.ct.snap = (if clear then [] else d.ct.live) ∧ t.dev.ct.live = t.dev.ct.snap ∧
      t.dev.ct.boundsSnap = t.dev.ct.bounds ∧ t.dev.ct.bounds = (if clear then List.replicate 4 BoundRow.zero else d.ct.bounds)) ∧
    exec .ctClear s = .next (s.dev! { d with ct := { d.ct with live := [], bounds := List.replicate 4 BoundRow.zero } }) ∧
    exec .dpClearCounts s = .next (s.dev! { d with depot := { d.depot with invalid := 0, scParity := 0 } }) ∧
    exec .plClearCounts s = .next (s.dev! { d with place := { d.place with denied := 0, replicaReads := 0 } }) ∧
    (∃ t, exec .rdClearCounts s = .next t ∧ t = s.dev! { d with rd := t.dev.rd } ∧ t.dev.rd.channels = d.rd.channels ∧ t.dev.rd.epoch = d.rd.epoch ∧
      t.dev.rd.done = 0 ∧ t.dev.rd.partialCount = 0 ∧ t.dev.rd.late = 0 ∧ t.dev.rd.stale = 0 ∧ t.dev.rd.residueRetry = 0 ∧
      t.dev.rd.residueFail = 0 ∧ t.dev.rd.nanSkipped = 0) ∧
    (∃ t, exec .wlClearCounts s = .next t ∧ t = s.dev! { d with wells := { d.wells with wells := t.dev.wells.wells } } ∧
      t.dev.wells.wells = d.wells.wells.map zeroed) ∧
    (∃ t, exec .fxClearCounts s = .next t ∧ t = s.dev! { d with fx := { d.fx with counts := t.dev.fx.counts, npPeak := d.fx.npOut, ports := t.dev.fx.ports } } ∧
      (∀ n ∈ t.dev.fx.counts, n = 0) ∧ ∀ p, (t.dev.port p).up = (d.port p).up ∧ (t.dev.port p).laneErr = (d.port p).laneErr ∧
        (t.dev.port p).replays = 0 ∧ (t.dev.port p).downEvents = 0 ∧ (t.dev.port p).fecCorr = 0 ∧ (t.dev.port p).fecUncorr = 0) ∧
    (∃ t, exec .pwClearCounts s = .next t ∧ t = s.dev! { d with pw := t.dev.pw, tm := { d.tm with steps := 0, ignored := 0 } } ∧
      t.dev.pw.sagEvents = 0 ∧ t.dev.pw.limitPaced = 0 ∧ t.dev.pw.wakes = 0 ∧ t.dev.pw.res = [0, 0, 0, 0, 0] ∧ t.dev.pw.state = d.pw.state ∧
      t.dev.pw.f = d.pw.f)) ∧
  (∀ (d : Dev) (row achieved : Nat) (b : Bound) (covered : Bool) (r : BoundRow), d.ct.bounds.length = 4 → d.ct.bounds[row]? = some r →
    let e := d.retireWork row achieved b covered
    let above : Bool := covered && decide (b.num * boundFactor row < achieved * b.den * 100)
    e.mem = d.mem ∧ e.cores = d.cores ∧ e.ct.tracks = d.ct.tracks ∧ ∃ r', e.ct.bounds = d.ct.bounds.set row r' ∧ r'.achieved = achieved ∧
      r'.bound = b.num / b.den ∧ r'.lastRatio = boundRatio achieved b ∧ r'.runRatio = r.runRatio ∧
      r'.covered = r.covered + (if covered then 1 else 0) ∧ r'.uncovered = r.uncovered + (if covered then 0 else 1) ∧
      r'.exceeded = r.exceeded + (if above then 1 else 0) ∧
      r'.peak = (if covered then maxRatio r.peak (boundRatio achieved b) else r.peak) ∧
      r'.peakUncov = (if covered then r.peakUncov else maxRatio r.peakUncov (boundRatio achieved b)) ∧
      (r.exceeded = 0 → above = true → ∃ x ∈ e.er.coalesce, x.det = 0x4A00 + row) ∧ (0 < r.exceeded ∨ above = false → e.er = d.er)) ∧
  (∀ (s : State) (dense streaming exchange pass : Bool) (after : Nat), let e := s.dev.advance (min after 10000)
    ∃ t, exec (.boundUpdate dense streaming exchange pass after) s = .next t ∧
    t = s.dev! { e with ct := { e.ct with bounds := t.dev.ct.bounds, tracks := e.ct.tracks.filter e.inProgress } } ∧
    ∀ (row : Nat) (r : BoundRow), e.ct.bounds[row]? = some r → ∃ q, t.dev.ct.bounds[row]? = some { r with runRatio := q } ∧
      ([dense, streaming, exchange, pass].getD row false = false → q = r.runRatio) ∧
      ([dense, streaming, exchange, pass].getD row false = true →
        (row ≠ 1 → ∀ pre x post, e.ct.tracks = pre ++ x :: post → x.row = row → e.inProgress x = true →
          (∀ y ∈ post, ¬ (y.row = row ∧ e.inProgress y = true)) → q = boundRatio x.achieved (e.ct.boundOf e.tm.ns x)) ∧
        (row ≠ 1 → (∀ y ∈ e.ct.tracks, ¬ (y.row = row ∧ e.inProgress y = true)) → q = r.runRatio) ∧
        (∀ t0, row = 1 → e.ct.hbmFirst = some t0 → q = boundRatio (e.ct.hbmLast - t0) e.ct.streamBound) ∧
        (row = 1 → e.ct.hbmFirst = none → q = r.runRatio)))

/-- The physical bounds (R29, R30, R31, R32, R33): the bound of a workload is its MACs over 16,384, the tile bytes of its most loaded port and
direction over 100 GB/s, or the TSV bytes of its slowest Well over what the compute die's traffic, counted up to 2.048 TB/s, leaves of 4.096 TB/s; a
measure in ns grows with the time counter except in the ten idle causes of R31; a streaming interval ends at a multiple of 100 µs. Where it rests on
the model's choices: log entry 105. -/
def Obligations.BoundsAreMeasured : Prop :=
  let largest (b : Bound) (bs : List Bound) : Prop := (b ∈ bs ∨ b = ⟨0, 1⟩) ∧ ∀ x ∈ bs, x.num * b.den ≤ b.num * x.den
  (∀ (c : Counters) (ns : Nat) (t : Track), (t.row = 0 → c.boundOf ns t = ⟨lookNat 0 t.moved, 16384⟩) ∧
    (t.row = 2 → largest (c.boundOf ns t) (t.moved.map fun m => ⟨m.2, 100⟩)) ∧
    (t.row = 3 → largest (c.boundOf ns t) (t.moved.map fun m => tsvBound m.2 (ns - t.began) (c.cdBytes m.1 - t.base.getD m.1 0))) ∧
    largest c.streamBound (c.perStack.map fun x => ⟨x.rd + x.wr, 2048⟩)) ∧
  (∀ bytes len cd : Nat, 0 < len → (tsvBound bytes len cd).num = bytes * len ∧ (cd ≤ 2048 * len → (tsvBound bytes len cd).den + cd = 4096 * len) ∧
    (2048 * len ≤ cd → (tsvBound bytes len cd).den = 2048 * len)) ∧
  (∀ (d : Dev) (dt : Nat), 0 < dt → d.pw.state = 0 → (d.advance dt).ct.tracks =
    (d.ct.tracks.filter d.inProgress).map (d.trackAfter d.causes dt ((d.advance dt).tm.ns - d.tm.ns))) ∧
  (∀ (d : Dev) (causes : List (Nat × Nat)) (dt ns : Nat) (t : Track), let e := d.trackAfter causes dt ns t
    e = { t with achieved := e.achieved, ok := e.ok } ∧ (e.ok = true → t.ok = true) ∧ (t.row = 0 → lookNat t.unit causes ≠ 6 → e = t) ∧
    (t.row ≠ 0 → (lookNat t.unit causes ∈ [1, 2, 3, 4, 5, 7, 8, 9, 10, 11] → e.achieved = t.achieved) ∧
      (lookNat t.unit causes ∉ [1, 2, 3, 4, 5, 7, 8, 9, 10, 11] → e = { t with achieved := t.achieved + ns }))) ∧
  (∀ (d : Dev) (t : Track), d.covers t = true → t.ok = true ∧ (t.row = 0 → 16 ≤ t.parts) ∧
    (t.row = 2 → ∀ p ∈ presentPorts d.grade, 65536 ≤ lookNat (2 * p) t.moved ∧ 65536 ≤ lookNat (2 * p + 1) t.moved)) ∧
  (∀ (d : Dev) (row key : Nat) (t : Track), d.track? row key = some t → (d.retireTrack row key).ct.tracks = d.ct.tracks.filter (fun x => !x.is row key) ∧
    (d.retireTrack row key).ct.bounds = (d.retireWork row t.achieved (d.ct.boundOf d.tm.ns t) (d.covers t)).ct.bounds) ∧
  (∀ (d : Dev) (dt t0 : Nat) (r : BoundRow), 0 < dt → d.ct.hbmFirst = some t0 → d.ct.bounds[1]? = some r → let e := d.advance dt
    (d.tm.ns / 100000 = e.tm.ns / 100000 → e.ct.hbmFirst = some t0 ∧ e.ct.bounds = d.ct.bounds) ∧
    (d.tm.ns / 100000 ≠ e.tm.ns / 100000 → e.ct.hbmFirst = none ∧ (∀ x ∈ e.ct.perStack, x.rd = 0 ∧ x.wr = 0 ∧ x.odd = false) ∧
      ∃ r', e.ct.bounds = d.ct.bounds.set 1 r' ∧ r'.achieved = d.ct.hbmLast - t0 ∧ r'.lastRatio = boundRatio (d.ct.hbmLast - t0) d.ct.streamBound))

/-- Error records (R539, R540, R541, R542, R543, R544, R553): sequence numbers rise and never end in 0x0000; corrected detections of one detector
are joined for 1 ms, others are recorded at once; a record goes to the log and, with the ring enabled, to the store, which drops a corrected record
first; the oldest waiting record is written where the ring has room, and the error vector fires; ER_RING_HEAD frees the slots it passes. The end of
the 1 ms is stated where no HBM streaming interval can end within it. Where it rests on the model's choices: log entry 92. -/
def Obligations.ErrorsAreRecordedAndDelivered : Prop :=
  (∀ n, n < nextSeq n ∧ nextSeq n ≤ n + 2 ∧ nextSeq n % 65536 ≠ 0) ∧
  (∀ (d : Dev) (det sev : Nat) (inj : Bool) (addr : Option Nat) (d0 d1 d2 : Nat), let e := d.detect det sev inj addr d0 d1 d2
    (1 ≤ sev → ∃ r, e.er.log.head? = some r ∧ e.er.seq = nextSeq d.er.seq ∧ r.seq = e.er.seq ∧ r.det = det ∧ r.sev = sev ∧ r.injected = inj ∧
      r.count = 1 ∧ r.time = d.timeStamp ∧ r.jobValid = d.job.isSome ∧ r.addrValid = addr.isSome ∧ r.d0 = d0 ∧ r.d1 = d1 ∧ r.d2 = d2 ∧
      e.er.log.length ≤ 64 ∧ (d.er.ringOn = false → e.er.pending = d.er.pending) ∧
      (d.er.ringOn = true → d.er.pending.length < 256 → e.er.pending = d.er.pending ++ [r] ∧ e.er.lost = sat32 d.er.lost) ∧
      (d.er.ringOn = true → d.er.pending.length = 256 → (∀ x ∈ d.er.pending, x.sev ≠ 0) → e.er.pending = d.er.pending ∧
        e.er.lost = sat32 (d.er.lost + 1) ∧ e.er.overflow = true) ∧
      (∀ pre c post, d.er.ringOn = true → d.er.pending = pre ++ c :: post → d.er.pending.length = 256 → c.sev = 0 → (∀ x ∈ pre, x.sev ≠ 0) →
        c ∉ pre → e.er.pending = pre ++ post ++ [r] ∧ e.er.lost = sat32 (d.er.lost + 1))) ∧
    (sev = 0 → e.er.seq = d.er.seq ∧ e.er.log = d.er.log ∧ e.er.pending = d.er.pending ∧
      (∀ r, d.er.coalesce = [r] → r.det = det → r.injected = inj → e.er.coalesce = [{ r with count := r.count + 1 }]) ∧
      ((∀ r ∈ d.er.coalesce, ¬ (r.det = det ∧ r.injected = inj)) → ∃ r, e.er.coalesce = d.er.coalesce ++ [r] ∧ r.det = det ∧ r.count = 1 ∧
        r.now = d.now ∧ r.d0 = d0))) ∧
  (∀ (s : State) (r : ErrRec) (pre post : List ErrRec), s.dev.er.coalesce = pre ++ r :: post →
    (∀ x ∈ pre ++ post, ¬ (x.det = r.det ∧ x.injected = r.injected)) → s.dev.ct.hbmFirst = none →
    ∃ t, exec (.ceCoalesceEnd r.det r.injected) s = .next t ∧ hostFrame s t ∧ t.dev.now = max s.dev.now (r.now + 1000000) ∧
      t.dev.er.coalesce = pre ++ post ∧ t.dev.er.seq = nextSeq s.dev.er.seq ∧
      t.dev.er.log.head? = some { r with seq := nextSeq s.dev.er.seq }) ∧
  (∀ (s : State) (r : ErrRec) (rest : List ErrRec), s.dev.er.pending = r :: rest →
    (s.dev.er.ringOn = false ∨ s.dev.er.ringSize ≤ s.dev.er.used → exec .errorRecordDeliver s = .next s) ∧
    (s.dev.er.ringOn = true → s.dev.er.used < s.dev.er.ringSize → ∃ t sent, exec .errorRecordDeliver s = .next t ∧ hostFrame s t ∧
      t.dev.er.pending = rest ∧ t.dev.er.used = s.dev.er.used + 1 ∧ t.dev.er.overflow = false ∧
      t.dev.out = sent ++ .hostWrite (s.dev.er.ringLo.toNat + s.dev.er.ringHi.toNat * 2 ^ 32 + 64 * s.dev.er.tail)
        (errBytes r s.dev.er.overflow s.dev.er.phase) :: s.dev.out ∧
      (s.dev.er.tail + 1 = s.dev.er.ringSize → t.dev.er.tail = 0 ∧ t.dev.er.phase = !s.dev.er.phase) ∧
      (s.dev.er.tail + 1 ≠ s.dev.er.ringSize → t.dev.er.tail = s.dev.er.tail + 1 ∧ t.dev.er.phase = s.dev.er.phase) ∧
      (1 ≤ r.sev → (s.dev.msixEntry s.dev.errVector).mask = false → sent = [.msix s.dev.errVector]) ∧
      (r.sev = 0 → s.dev.er.ceInt = 0 → sent = []))) ∧
  (∀ (s : State) (v : Word32), s.dev.awakeUp = true → s.dev.er.head < s.dev.er.ringSize →
    (s.dev.er.ringSize ≤ v.toNat % 65536 → exec (.erRingHeadWrite v) s = .next s) ∧
    (v.toNat % 65536 < s.dev.er.ringSize → ∃ t, exec (.erRingHeadWrite v) s = .next t ∧ hostFrame s t ∧ t.dev.er.head = v.toNat % 65536 ∧
      t.dev.er.used = s.dev.er.used - (if s.dev.er.head ≤ v.toNat % 65536 then v.toNat % 65536 - s.dev.er.head
        else v.toNat % 65536 + s.dev.er.ringSize - s.dev.er.head) ∧ t.dev.er.pending = s.dev.er.pending)) ∧
  (∀ (s : State) (log : Nat), s.dev.awakeUp = true → 6 ≤ log → log ≤ 16 →
    (s.dev.er.ringOn = false → 4 ≤ s.dev.boot.st → ∃ t, exec (.erRingEnable (BitVec.ofNat 32 (log + 256))) s = .next t ∧ hostFrame s t ∧
      t.dev.er.ringOn = true ∧ t.dev.er.ringSize = 2 ^ log ∧ t.dev.er.pending = s.dev.er.pending ∧ t.dev.er.phase = true ∧ t.dev.er.tail = 0) ∧
    (s.dev.boot.st < 4 → exec (.erRingEnable (BitVec.ofNat 32 (log + 256))) s = .next s) ∧
    (∃ t, exec (.erRingEnable (BitVec.ofNat 32 log)) s = .next t ∧ hostFrame s t ∧ t.dev.er.ringOn = false ∧ t.dev.er.pending = s.dev.er.pending))

/-- Injection and the sensors (R536, R537, R548, R549, R550, R551, R552, R559, R569): a slot arms only with the latched INJECT_ENABLE in READY or
JOB_LOADED for an action its detector has; on one event the first slot whose count is up fires, alone; RECORD_ONLY writes its record on arming; low
supply is recorded, and a junction at its trip temperature stops the device. Where it rests on the model's choices: log entries 93, 94. -/
def Obligations.InjectionAndTrips : Prop :=
  (∀ (s : State) (slot : Nat) (v : Word32), s.dev.awakeUp = true → slot < 8 → s.dev.er.slots.length = 8 → wbit v 31 = true →
    let id := v.toNat % 65536
    let action := v.toNat / 65536 % 4
    let may : Prop := s.dev.boot.latched = true ∧ (s.dev.boot.st = 4 ∨ s.dev.boot.st = 5) ∧ (detSeverity s.dev.grade id).isSome = true ∧
      ((action = 0 ∧ id / 256 ∈ mimicTypes) ∨ action = 2 ∨
       (action = 1 ∧ id / 256 ∈ [0x10, 0x11, 0x12, 0x13, 0x14, 0x18] ∧ id % 256 ∈ s.dev.trust.lmap))
    (¬ may → exec (.erInjArm slot v) s =
      .next (s.dev! { s.dev with er := { s.dev.er with refused := sat32 (s.dev.er.refused + 1) } })) ∧
    (may → ∃ t x, exec (.erInjArm slot v) s = .next t ∧ hostFrame s t ∧ t.dev.er.slots = s.dev.er.slots.set slot x ∧
      t.dev.er.refused = s.dev.er.refused ∧
      (action ≠ 2 → x.armedFor id action = true ∧ x.left = x.count.toNat % 65536 ∧ x.fired = 0 ∧ t.dev.er.log = s.dev.er.log) ∧
      (action = 2 → wbit x.ctrl 31 = false ∧ x.fired = 1 ∧ ∃ r, t.dev.er.log.head? = some r ∧ r.det = id ∧ r.injected = true ∧
        r.addrValid = false ∧ r.d0 = 0 ∧ r.sev = (detSeverity s.dev.grade id).getD 0))) ∧
  (∀ (d : Dev) (det : Nat) (pre post : List InjSlot) (x : InjSlot), d.er.slots = pre ++ x :: post → (∀ y ∈ pre, y.armedFor det 0 = false) →
    x.armedFor det 0 = true →
    (x.left ≤ 1 → (d.mimic det).1 = true ∧ ∃ y, (d.mimic det).2.er.slots = pre ++ y :: post ∧ y.fired = sat32 (x.fired + 1) ∧
      (wbit x.ctrl 18 = true → y.ctrl = x.ctrl ∧ y.left = x.count.toNat % 65536) ∧ (wbit x.ctrl 18 = false → y.armedFor det 0 = false)) ∧
    (1 < x.left → (∀ y ∈ post, y.armedFor det 0 = false) → (d.mimic det).1 = false ∧
      (d.mimic det).2.er.slots = pre ++ { x with left := x.left - 1 } :: post)) ∧
  (∀ (s : State) (g mv : Nat), s.dev.boot.st ≠ 0 → s.dev.unarmed = true →
    ((∀ r ∈ s.dev.er.coalesce, r.det ≠ 0x5000 + g) → groupPresent s.dev.grade g = true → mv < 680 → ∃ t r, exec (.supplyLow g mv) s = .next t ∧
      hostFrame s t ∧ t.dev.er.coalesce = s.dev.er.coalesce ++ [r] ∧ r.det = 0x5000 + g ∧ r.sev = 0 ∧ r.d0 = mv ∧ t.dev.boot = s.dev.boot) ∧
    (680 ≤ mv ∨ groupPresent s.dev.grade g = false → exec (.supplyLow g mv) s = .next s)) ∧
  (∀ (s : State) (g celsius : Nat), s.dev.boot.st ≠ 0 → s.dev.unarmed = true →
    (groupPresent s.dev.grade g = true → 115 ≤ celsius → ∃ t, exec (.thermalTrip g celsius) s = .next t ∧ t.pending = s.pending ∧ t.toll = s.toll ∧
      t.dev.boot.st = 6 ∧ t.dev.trust.thermtrip = true ∧ t.dev.trust.smbAlert = true ∧ t.dev.er.fatal = true ∧ t.dev.accepted = [] ∧
      t.dev.inflight = [] ∧ (s.dev.boot.st ≤ 3 → t.dev.er.fatalSeq = nextSeq s.dev.er.seq)) ∧
    (celsius < 115 ∨ groupPresent s.dev.grade g = false → exec (.thermalTrip g celsius) s = .next s))

/-- The SMBus management port and JTAG (R510, R564, R565): the port is served in every state and wakes nothing; each read command answers what its
table says; a write whose code fails has no effect; a Tollhouse request waits its turn, and reading its response changes nothing; JTAG moves balls
only while PERST_N is low. Where it rests on the model's choices: log entries 87, 95. -/
def Obligations.SidebandPorts : Prop :=
  let tells (s : State) (b : List Byte) : State := s.dev! (s.dev.emit (.smbus b))
  (∀ s : State, let d := s.dev
    exec .smbIdent s = .next (tells s (leBytes 4 (Config.vendorId.toNat + deviceId d.grade * 65536) ++ leBytes 4 (gradeWord d.grade) ++
      leBytes 8 Config.serial.toNat)) ∧
    exec .smbState s = .next (tells s [BitVec.ofNat 8 (d.boot.st % 16), BitVec.ofNat 8 (d.pw.state % 8)]) ∧
    exec .smbTemp s = .next (tells s [BitVec.ofNat 8 d.pw.tj, BitVec.ofNat 8 d.hottestWell]) ∧
    exec .smbPower s = .next (tells s (leBytes 2 (min d.pw.power 65535))) ∧
    (d.trust.smbAlert = false → exec .smbAlertResponse s = .next (tells s [])) ∧
    (d.trust.smbAlert = true → exec .smbAlertResponse s =
      .next (tells (s.dev! { d with trust := { d.trust with smbAlert := false } }) [BitVec.ofNat 8 (2 * (0x58 + d.trust.straps.slotId % 8))])) ∧
    (∀ drives, exec (.jtagInstruction drives) s = .next (s.dev! (d.emit (.jtag (drives && d.trust.perstLow)))))) ∧
  (∀ (s : State) (data : List Byte) (off : Nat),
    exec (.smbTod false data) s = .next (tells s []) ∧ exec (.smbTollReq false data) s = .next (tells s []) ∧
    exec (.smbTollOffset false off) s = .next (tells s []) ∧
    exec (.smbTollOffset true off) s = .next (s.dev! { s.dev with trust := { s.dev.trust with tollOffset := off % 65536 } }) ∧
    (data.length = 8 → ∃ t, exec (.smbTod true data) s = .next t ∧ t = s.dev! { s.dev with tm := t.dev.tm } ∧
      t.dev.tm.tod = fieldAt data 0 4 + fieldAt data 4 4 % 4 * 2 ^ 32 ∧ t.dev.tm.ns = s.dev.tm.ns) ∧
    (data.length = 32 → s.toll.running = true → (s.toll.box 1).st = 1 → exec (.smbTollReq true data) s = .next (tells s [])) ∧
    (data.length = 32 → s.toll.running = true → s.toll.boxes.length = 2 → (s.toll.box 1).st ≠ 1 → ∃ t, exec (.smbTollReq true data) s = .next t ∧
      t.pending = s.pending ∧ t.dev = s.dev ∧ t.toll.nv = s.toll.nv ∧ (t.toll.box 1).st = 1 ∧ (t.toll.box 1).req = data ∧
      (t.toll.box 0) = (s.toll.box 0))) ∧
  (∀ (s : State) (len : Nat),
    (s.toll.running = true → exec .smbTollStatus s = .next (tells s [BitVec.ofNat 8 (s.toll.box 1).st])) ∧
    (s.toll.running = false → exec .smbTollStatus s = .next (tells s [])) ∧
    ((s.toll.box 1).st = 2 → len ≤ 240 → exec (.smbTollRead len) s =
      .next (tells s (((s.toll.box 1).resp.drop s.dev.trust.tollOffset).take len))) ∧
    ((s.toll.box 1).st ≠ 2 → exec (.smbTollRead len) s = .next (tells s [])))
end

