-- ==== Sys2Proof/Laws/Memory.lean ====
section
/-! SUPPORT. Memory: every operation keeps the canonical form, a read after a write, and what a write leaves alone. -/

namespace Sys2Proof.Machine

open Sys2Proof

/-- Every address of a memory lies above a bound. -/
def Memory.above (m : Memory) (a : Nat) : Prop := ∀ c ∈ m, a < c.1

theorem Memory.wf_cons (k : Nat) (v : Byte) (m : Memory) :
    Memory.wf ((k, v) :: m) = true ↔ v ≠ 0 ∧ m.wf = true ∧ Memory.above m k := by
  induction m generalizing k v with
  | nil => simp [Memory.wf, Memory.above]
  | cons x m ih =>
    obtain ⟨k', v'⟩ := x
    rw [Memory.wf]
    simp only [Bool.and_eq_true, bne_iff_ne, ne_eq, decide_eq_true_eq, ih k' v']
    constructor
    · rintro ⟨⟨h1, h2⟩, h3, h4, h5⟩
      refine ⟨h1, ⟨h3, h4, h5⟩, ?_⟩
      intro c hc
      rcases List.mem_cons.1 hc with rfl | hc
      · exact h2
      · exact Nat.lt_trans h2 (h5 c hc)
    · rintro ⟨h1, ⟨h3, h4, h5⟩, h6⟩
      exact ⟨⟨h1, h6 _ (List.mem_cons_self ..)⟩, h3, h4, h5⟩

theorem Memory.above_write {m : Memory} {b a : Nat} {v : Byte} (h : Memory.above m b) (hb : b < a) :
    Memory.above (m.write a v) b := by
  induction m with
  | nil =>
    unfold Memory.write
    split
    · exact h
    · intro c hc; simp at hc; subst hc; exact hb
  | cons x m ih =>
    obtain ⟨k, w⟩ := x
    have hk : b < k := h _ (List.mem_cons_self ..)
    have hm : Memory.above m b := fun c hc => h c (List.mem_cons_of_mem _ hc)
    unfold Memory.write
    split
    · split
      · exact h
      · intro c hc
        rcases List.mem_cons.1 hc with rfl | hc
        · exact hb
        · exact h c hc
    · split
      · split
        · exact hm
        · intro c hc
          rcases List.mem_cons.1 hc with rfl | hc
          · exact hk
          · exact hm c hc
      · intro c hc
        rcases List.mem_cons.1 hc with rfl | hc
        · exact hk
        · exact ih hm c hc

/-- A write of one byte keeps the canonical form. -/
theorem Memory.wf_write {m : Memory} (h : m.wf = true) (a : Nat) (v : Byte) : (m.write a v).wf = true := by
  induction m with
  | nil =>
    unfold Memory.write
    split
    · rfl
    · rename_i hv; simpa [Memory.wf] using hv
  | cons x m ih =>
    obtain ⟨k, w⟩ := x
    obtain ⟨hw, hm, hk⟩ := (Memory.wf_cons k w m).1 h
    unfold Memory.write
    split
    · rename_i hak
      split
      · exact h
      · rename_i hv
        refine (Memory.wf_cons _ _ _).2 ⟨hv, h, ?_⟩
        intro c hc
        rcases List.mem_cons.1 hc with rfl | hc
        · exact hak
        · exact Nat.lt_trans hak (hk c hc)
    · split
      · split
        · exact hm
        · rename_i hv; exact (Memory.wf_cons _ _ _).2 ⟨hv, hm, hk⟩
      · rename_i h1 h2
        exact (Memory.wf_cons _ _ _).2 ⟨hw, ih hm, Memory.above_write hk (by omega)⟩

/-- A write of bytes keeps the canonical form. -/
theorem Memory.wf_writes {m : Memory} (h : m.wf = true) (a : Nat) (bs : List Byte) : (m.writes a bs).wf = true := by
  induction bs generalizing m a with
  | nil => exact h
  | cons b bs ih => exact ih (Memory.wf_write h a b) (a + 1)

theorem Memory.above_filter {m : Memory} {b : Nat} (h : Memory.above m b) (p : Host.Cell → Bool) :
    Memory.above (m.filter p) b := fun c hc => h c (List.mem_filter.1 hc).1

/-- Erasing a range keeps the canonical form. -/
theorem Memory.wf_erase {m : Memory} (h : m.wf = true) (lo n : Nat) : (m.erase lo n).wf = true := by
  unfold Memory.erase
  induction m with
  | nil => rfl
  | cons x m ih =>
    obtain ⟨k, w⟩ := x
    obtain ⟨hw, hm, hk⟩ := (Memory.wf_cons k w m).1 h
    rw [List.filter_cons]
    split
    · exact (Memory.wf_cons _ _ _).2 ⟨hw, ih hm, Memory.above_filter hk _⟩
    · exact ih hm

theorem Memory.read_above {m : Memory} {a : Nat} (h : Memory.above m a) : m.read a = 0 := by
  cases m with
  | nil => rfl
  | cons x m =>
    obtain ⟨k, w⟩ := x
    have : a < k := h _ (List.mem_cons_self ..)
    unfold Memory.read
    rw [if_neg (by omega), if_pos this]

/-- A read after a write: the byte written at its address, every other byte as before. -/
theorem Memory.read_write {m : Memory} (h : m.wf = true) (a b : Nat) (v : Byte) :
    (m.write a v).read b = if b = a then v else m.read b := by
  induction m with
  | nil =>
    by_cases hv : v = 0
    · subst hv; simp [Memory.write, Memory.read]
    · have hv2 : ¬ v = 0#8 := hv
      by_cases hb : b = a
      · subst hb; simp [Memory.write, Memory.read, hv2]
      · have hb' : ¬ a = b := fun e => hb e.symm
        simp [Memory.write, Memory.read, hv2, hb, hb']
  | cons x m ih =>
    obtain ⟨k, w⟩ := x
    obtain ⟨hw, hm, hk⟩ := (Memory.wf_cons k w m).1 h
    have ih := ih hm
    unfold Memory.write
    split
    · rename_i hak
      split
      · rename_i hv
        split
        · rename_i hb
          subst hb hv
          unfold Memory.read
          rw [if_neg (by omega), if_pos hak]
        · rfl
      · rename_i hv
        conv_lhs => unfold Memory.read
        split
        · rename_i hab; rw [if_pos hab.symm]
        · rename_i hab
          split
          · rename_i hba
            rw [if_neg (by omega)]
            unfold Memory.read
            rw [if_neg (by omega), if_pos (by omega)]
          · rw [if_neg (by omega)]
    · rename_i hak
      split
      · rename_i hkk
        subst hkk
        split
        · rename_i hv
          subst hv
          by_cases hb : b = a
          · subst hb; rw [if_pos rfl, Memory.read_above hk]
          · have hb' : ¬ a = b := fun e => hb e.symm
            rw [if_neg hb]
            conv_rhs => unfold Memory.read
            rw [if_neg hb']
            by_cases hlt : b < a
            · rw [if_pos hlt]; exact Memory.read_above fun c hc => Nat.lt_trans hlt (hk c hc)
            · rw [if_neg hlt]
        · conv_lhs => unfold Memory.read
          by_cases hb : b = a
          · subst hb; simp
          · have hb' : ¬ a = b := fun e => hb e.symm
            rw [if_neg hb', if_neg hb]
            conv_rhs => unfold Memory.read
            rw [if_neg hb']
      · rename_i hne
        conv_lhs => unfold Memory.read
        by_cases hkb : k = b
        · subst hkb
          rw [if_pos rfl, if_neg (by omega)]
          unfold Memory.read; rw [if_pos rfl]
        · rw [if_neg hkb]
          by_cases hlt : b < k
          · rw [if_pos hlt, if_neg (by omega)]
            unfold Memory.read
            rw [if_neg hkb, if_pos hlt]
          · rw [if_neg hlt, ih]
            conv_rhs => unfold Memory.read
            rw [if_neg hkb, if_neg hlt]

/-- A read after a write of bytes. -/
theorem Memory.read_writes {m : Memory} (h : m.wf = true) (a b : Nat) (bs : List Byte) :
    (m.writes a bs).read b = if a ≤ b ∧ b < a + bs.length then bs.getD (b - a) 0 else m.read b := by
  induction bs generalizing m a with
  | nil =>
    rw [if_neg]
    · rfl
    · simp
  | cons x bs ih =>
    unfold Memory.writes
    rw [ih (Memory.wf_write h a x), Memory.read_write h]
    by_cases hab : b = a
    · subst hab
      rw [if_neg (by omega), if_pos rfl, if_pos (by simp)]
      simp
    · by_cases hin : a + 1 ≤ b ∧ b < a + 1 + bs.length
      · rw [if_pos hin, if_pos (by simp only [List.length_cons]; omega)]
        obtain ⟨k, rfl⟩ : ∃ k, b = a + 1 + k := ⟨b - (a + 1), by omega⟩
        have e1 : a + 1 + k - (a + 1) = k := by omega
        have e2 : a + 1 + k - a = k + 1 := by omega
        rw [e1, e2]; simp
      · rw [if_neg hin, if_neg hab, if_neg (by simp only [List.length_cons]; omega)]

/-- Bytes outside a write read as before. -/
theorem Memory.read_writes_outside {m : Memory} (h : m.wf = true) {a b : Nat} (bs : List Byte)
    (ho : b < a ∨ a + bs.length ≤ b) : (m.writes a bs).read b = m.read b := by
  rw [Memory.read_writes h, if_neg (by omega)]

/-- Bytes written are read back. -/
theorem Memory.reads_writes {m : Memory} (h : m.wf = true) (a : Nat) (bs : List Byte) :
    (m.writes a bs).reads a bs.length = bs := by
  unfold Memory.reads
  apply List.ext_getElem
  · simp
  · intro i h1 h2
    simp only [List.getElem_map, List.getElem_range]
    rw [Memory.read_writes h, if_pos (by omega)]
    simp [h2]

/-- The marks of written lines leave memory alone. -/
theorem Dev.markWritten_mem (d : Dev) (a n : Nat) : (d.markWritten a n).mem = d.mem := by
  unfold Dev.markWritten
  generalize linesOf a n = ls
  induction ls generalizing d with
  | nil => rfl
  | cons l ls ih =>
    rw [List.foldl_cons, ih]
    dsimp only
    split <;> rfl

/-- A write of the device changes memory by `Memory.writes` alone (R327, R330). -/
@[simp] theorem Dev.write_mem (d : Dev) (a : Nat) (bs : List Byte) : (d.write a bs).mem = d.mem.writes a bs := by
  simp [Dev.write, Dev.moveHbm, Dev.land, Dev.markWritten_mem]


end Sys2Proof.Machine
end

