-- ==== Sys2Proof/Laws/State.lean ====
section
/-! SUPPORT. What each update of the state leaves unchanged: one lemma per field per update, so that no proof unfolds a record
update; and for the operations that many commands share, one equation that says which fields they may change. -/

namespace Sys2Proof.Machine

open Sys2Proof

/-! ## The block -/

@[simp] theorem State.dev!_pending (s : State) (d : Dev) : (s.dev! d).pending = s.pending := rfl
@[simp] theorem State.dev!_toll (s : State) (d : Dev) : (s.dev! d).toll = s.toll := rfl
@[simp] theorem State.dev!_dev (s : State) (d : Dev) : (s.dev! d).dev = d := rfl
@[simp] theorem State.atCore_pending (s : State) (c : Nat) (f : CoreSt → CoreSt) : (s.atCore c f).pending = s.pending := rfl
@[simp] theorem State.atCore_toll (s : State) (c : Nat) (f : CoreSt → CoreSt) : (s.atCore c f).toll = s.toll := rfl
@[simp] theorem State.atCore_dev (s : State) (c : Nat) (f : CoreSt → CoreSt) : (s.atCore c f).dev = s.dev.setCore c f := rfl
@[simp] theorem State.atQueue_pending (s : State) (i : Nat) (f : QState → QState) : (s.atQueue i f).pending = s.pending := rfl
@[simp] theorem State.atQueue_toll (s : State) (i : Nat) (f : QState → QState) : (s.atQueue i f).toll = s.toll := rfl
@[simp] theorem State.atQueue_dev (s : State) (i : Nat) (f : QState → QState) : (s.atQueue i f).dev = s.dev.setQ i f := rfl
@[simp] theorem State.atList_pending (s : State) (i : Nat) (f : WorkList → WorkList) : (s.atList i f).pending = s.pending := rfl
@[simp] theorem State.atList_toll (s : State) (i : Nat) (f : WorkList → WorkList) : (s.atList i f).toll = s.toll := rfl
@[simp] theorem State.atList_dev (s : State) (i : Nat) (f : WorkList → WorkList) : (s.atList i f).dev = s.dev.setList i f := rfl

/-- Every command's meaning answers a next state (R1): this names it. -/
@[simp] theorem State.onDev_eq (s : State) (f : Dev → Dev) : s.onDev f = .next (s.dev! (f s.dev)) := rfl
@[simp] theorem State.onHost_eq (s : State) (f : Dev → Dev) : s.onHost f = .next (s.dev! (f s.dev.awake)) := rfl
@[simp] theorem State.onBar_eq (s : State) (f : Dev → Dev) :
    s.onBar f = .next (s.dev! (if s.dev.boot.served then f s.dev.awake else s.dev)) := rfl

/-! ## A core replaced -/

@[simp] theorem Dev.setCore_grade (d : Dev) (c : Nat) (f : CoreSt → CoreSt) : (d.setCore c f).grade = d.grade := rfl
@[simp] theorem Dev.setCore_now (d : Dev) (c : Nat) (f : CoreSt → CoreSt) : (d.setCore c f).now = d.now := rfl
@[simp] theorem Dev.setCore_mem (d : Dev) (c : Nat) (f : CoreSt → CoreSt) : (d.setCore c f).mem = d.mem := rfl
@[simp] theorem Dev.setCore_poison (d : Dev) (c : Nat) (f : CoreSt → CoreSt) : (d.setCore c f).poison = d.poison := rfl
@[simp] theorem Dev.setCore_queues (d : Dev) (c : Nat) (f : CoreSt → CoreSt) : (d.setCore c f).queues = d.queues := rfl
@[simp] theorem Dev.setCore_inflight (d : Dev) (c : Nat) (f : CoreSt → CoreSt) : (d.setCore c f).inflight = d.inflight := rfl
@[simp] theorem Dev.setCore_nextId (d : Dev) (c : Nat) (f : CoreSt → CoreSt) : (d.setCore c f).nextId = d.nextId := rfl
@[simp] theorem Dev.setCore_lists (d : Dev) (c : Nat) (f : CoreSt → CoreSt) : (d.setCore c f).lists = d.lists := rfl
@[simp] theorem Dev.setCore_accepted (d : Dev) (c : Nat) (f : CoreSt → CoreSt) : (d.setCore c f).accepted = d.accepted := rfl
@[simp] theorem Dev.setCore_job (d : Dev) (c : Nat) (f : CoreSt → CoreSt) : (d.setCore c f).job = d.job := rfl
@[simp] theorem Dev.setCore_depot (d : Dev) (c : Nat) (f : CoreSt → CoreSt) : (d.setCore c f).depot = d.depot := rfl
@[simp] theorem Dev.setCore_place (d : Dev) (c : Nat) (f : CoreSt → CoreSt) : (d.setCore c f).place = d.place := rfl
@[simp] theorem Dev.setCore_wells (d : Dev) (c : Nat) (f : CoreSt → CoreSt) : (d.setCore c f).wells = d.wells := rfl
@[simp] theorem Dev.setCore_bz (d : Dev) (c : Nat) (f : CoreSt → CoreSt) : (d.setCore c f).bz = d.bz := rfl
@[simp] theorem Dev.setCore_rd (d : Dev) (c : Nat) (f : CoreSt → CoreSt) : (d.setCore c f).rd = d.rd := rfl
@[simp] theorem Dev.setCore_fx (d : Dev) (c : Nat) (f : CoreSt → CoreSt) : (d.setCore c f).fx = d.fx := rfl
@[simp] theorem Dev.setCore_host (d : Dev) (c : Nat) (f : CoreSt → CoreSt) : (d.setCore c f).host = d.host := rfl
@[simp] theorem Dev.setCore_scale (d : Dev) (c : Nat) (f : CoreSt → CoreSt) : (d.setCore c f).scale = d.scale := rfl
@[simp] theorem Dev.setCore_pw (d : Dev) (c : Nat) (f : CoreSt → CoreSt) : (d.setCore c f).pw = d.pw := rfl
@[simp] theorem Dev.setCore_tm (d : Dev) (c : Nat) (f : CoreSt → CoreSt) : (d.setCore c f).tm = d.tm := rfl
@[simp] theorem Dev.setCore_ct (d : Dev) (c : Nat) (f : CoreSt → CoreSt) : (d.setCore c f).ct = d.ct := rfl
@[simp] theorem Dev.setCore_er (d : Dev) (c : Nat) (f : CoreSt → CoreSt) : (d.setCore c f).er = d.er := rfl
@[simp] theorem Dev.setCore_boot (d : Dev) (c : Nat) (f : CoreSt → CoreSt) : (d.setCore c f).boot = d.boot := rfl
@[simp] theorem Dev.setCore_trust (d : Dev) (c : Nat) (f : CoreSt → CoreSt) : (d.setCore c f).trust = d.trust := rfl
@[simp] theorem Dev.setCore_work (d : Dev) (c : Nat) (f : CoreSt → CoreSt) : (d.setCore c f).work = d.work := rfl
@[simp] theorem Dev.setCore_out (d : Dev) (c : Nat) (f : CoreSt → CoreSt) : (d.setCore c f).out = d.out := rfl
@[simp] theorem Dev.setCore_draws (d : Dev) (c : Nat) (f : CoreSt → CoreSt) : (d.setCore c f).draws = d.draws := rfl

/-! ## A tile queue replaced -/

@[simp] theorem Dev.setQ_grade (d : Dev) (i : Nat) (f : QState → QState) : (d.setQ i f).grade = d.grade := rfl
@[simp] theorem Dev.setQ_now (d : Dev) (i : Nat) (f : QState → QState) : (d.setQ i f).now = d.now := rfl
@[simp] theorem Dev.setQ_mem (d : Dev) (i : Nat) (f : QState → QState) : (d.setQ i f).mem = d.mem := rfl
@[simp] theorem Dev.setQ_poison (d : Dev) (i : Nat) (f : QState → QState) : (d.setQ i f).poison = d.poison := rfl
@[simp] theorem Dev.setQ_cores (d : Dev) (i : Nat) (f : QState → QState) : (d.setQ i f).cores = d.cores := rfl
@[simp] theorem Dev.setQ_inflight (d : Dev) (i : Nat) (f : QState → QState) : (d.setQ i f).inflight = d.inflight := rfl
@[simp] theorem Dev.setQ_nextId (d : Dev) (i : Nat) (f : QState → QState) : (d.setQ i f).nextId = d.nextId := rfl
@[simp] theorem Dev.setQ_lists (d : Dev) (i : Nat) (f : QState → QState) : (d.setQ i f).lists = d.lists := rfl
@[simp] theorem Dev.setQ_accepted (d : Dev) (i : Nat) (f : QState → QState) : (d.setQ i f).accepted = d.accepted := rfl
@[simp] theorem Dev.setQ_job (d : Dev) (i : Nat) (f : QState → QState) : (d.setQ i f).job = d.job := rfl
@[simp] theorem Dev.setQ_depot (d : Dev) (i : Nat) (f : QState → QState) : (d.setQ i f).depot = d.depot := rfl
@[simp] theorem Dev.setQ_place (d : Dev) (i : Nat) (f : QState → QState) : (d.setQ i f).place = d.place := rfl
@[simp] theorem Dev.setQ_wells (d : Dev) (i : Nat) (f : QState → QState) : (d.setQ i f).wells = d.wells := rfl
@[simp] theorem Dev.setQ_bz (d : Dev) (i : Nat) (f : QState → QState) : (d.setQ i f).bz = d.bz := rfl
@[simp] theorem Dev.setQ_rd (d : Dev) (i : Nat) (f : QState → QState) : (d.setQ i f).rd = d.rd := rfl
@[simp] theorem Dev.setQ_fx (d : Dev) (i : Nat) (f : QState → QState) : (d.setQ i f).fx = d.fx := rfl
@[simp] theorem Dev.setQ_host (d : Dev) (i : Nat) (f : QState → QState) : (d.setQ i f).host = d.host := rfl
@[simp] theorem Dev.setQ_scale (d : Dev) (i : Nat) (f : QState → QState) : (d.setQ i f).scale = d.scale := rfl
@[simp] theorem Dev.setQ_pw (d : Dev) (i : Nat) (f : QState → QState) : (d.setQ i f).pw = d.pw := rfl
@[simp] theorem Dev.setQ_tm (d : Dev) (i : Nat) (f : QState → QState) : (d.setQ i f).tm = d.tm := rfl
@[simp] theorem Dev.setQ_ct (d : Dev) (i : Nat) (f : QState → QState) : (d.setQ i f).ct = d.ct := rfl
@[simp] theorem Dev.setQ_er (d : Dev) (i : Nat) (f : QState → QState) : (d.setQ i f).er = d.er := rfl
@[simp] theorem Dev.setQ_boot (d : Dev) (i : Nat) (f : QState → QState) : (d.setQ i f).boot = d.boot := rfl
@[simp] theorem Dev.setQ_trust (d : Dev) (i : Nat) (f : QState → QState) : (d.setQ i f).trust = d.trust := rfl
@[simp] theorem Dev.setQ_work (d : Dev) (i : Nat) (f : QState → QState) : (d.setQ i f).work = d.work := rfl
@[simp] theorem Dev.setQ_out (d : Dev) (i : Nat) (f : QState → QState) : (d.setQ i f).out = d.out := rfl
@[simp] theorem Dev.setQ_draws (d : Dev) (i : Nat) (f : QState → QState) : (d.setQ i f).draws = d.draws := rfl

/-! ## A Well replaced -/

@[simp] theorem Dev.setWell_grade (d : Dev) (w : Nat) (f : WellSt → WellSt) : (d.setWell w f).grade = d.grade := rfl
@[simp] theorem Dev.setWell_now (d : Dev) (w : Nat) (f : WellSt → WellSt) : (d.setWell w f).now = d.now := rfl
@[simp] theorem Dev.setWell_mem (d : Dev) (w : Nat) (f : WellSt → WellSt) : (d.setWell w f).mem = d.mem := rfl
@[simp] theorem Dev.setWell_poison (d : Dev) (w : Nat) (f : WellSt → WellSt) : (d.setWell w f).poison = d.poison := rfl
@[simp] theorem Dev.setWell_cores (d : Dev) (w : Nat) (f : WellSt → WellSt) : (d.setWell w f).cores = d.cores := rfl
@[simp] theorem Dev.setWell_queues (d : Dev) (w : Nat) (f : WellSt → WellSt) : (d.setWell w f).queues = d.queues := rfl
@[simp] theorem Dev.setWell_inflight (d : Dev) (w : Nat) (f : WellSt → WellSt) : (d.setWell w f).inflight = d.inflight := rfl
@[simp] theorem Dev.setWell_nextId (d : Dev) (w : Nat) (f : WellSt → WellSt) : (d.setWell w f).nextId = d.nextId := rfl
@[simp] theorem Dev.setWell_lists (d : Dev) (w : Nat) (f : WellSt → WellSt) : (d.setWell w f).lists = d.lists := rfl
@[simp] theorem Dev.setWell_accepted (d : Dev) (w : Nat) (f : WellSt → WellSt) : (d.setWell w f).accepted = d.accepted := rfl
@[simp] theorem Dev.setWell_job (d : Dev) (w : Nat) (f : WellSt → WellSt) : (d.setWell w f).job = d.job := rfl
@[simp] theorem Dev.setWell_depot (d : Dev) (w : Nat) (f : WellSt → WellSt) : (d.setWell w f).depot = d.depot := rfl
@[simp] theorem Dev.setWell_place (d : Dev) (w : Nat) (f : WellSt → WellSt) : (d.setWell w f).place = d.place := rfl
@[simp] theorem Dev.setWell_bz (d : Dev) (w : Nat) (f : WellSt → WellSt) : (d.setWell w f).bz = d.bz := rfl
@[simp] theorem Dev.setWell_rd (d : Dev) (w : Nat) (f : WellSt → WellSt) : (d.setWell w f).rd = d.rd := rfl
@[simp] theorem Dev.setWell_fx (d : Dev) (w : Nat) (f : WellSt → WellSt) : (d.setWell w f).fx = d.fx := rfl
@[simp] theorem Dev.setWell_host (d : Dev) (w : Nat) (f : WellSt → WellSt) : (d.setWell w f).host = d.host := rfl
@[simp] theorem Dev.setWell_scale (d : Dev) (w : Nat) (f : WellSt → WellSt) : (d.setWell w f).scale = d.scale := rfl
@[simp] theorem Dev.setWell_pw (d : Dev) (w : Nat) (f : WellSt → WellSt) : (d.setWell w f).pw = d.pw := rfl
@[simp] theorem Dev.setWell_tm (d : Dev) (w : Nat) (f : WellSt → WellSt) : (d.setWell w f).tm = d.tm := rfl
@[simp] theorem Dev.setWell_ct (d : Dev) (w : Nat) (f : WellSt → WellSt) : (d.setWell w f).ct = d.ct := rfl
@[simp] theorem Dev.setWell_er (d : Dev) (w : Nat) (f : WellSt → WellSt) : (d.setWell w f).er = d.er := rfl
@[simp] theorem Dev.setWell_boot (d : Dev) (w : Nat) (f : WellSt → WellSt) : (d.setWell w f).boot = d.boot := rfl
@[simp] theorem Dev.setWell_trust (d : Dev) (w : Nat) (f : WellSt → WellSt) : (d.setWell w f).trust = d.trust := rfl
@[simp] theorem Dev.setWell_work (d : Dev) (w : Nat) (f : WellSt → WellSt) : (d.setWell w f).work = d.work := rfl
@[simp] theorem Dev.setWell_out (d : Dev) (w : Nat) (f : WellSt → WellSt) : (d.setWell w f).out = d.out := rfl
@[simp] theorem Dev.setWell_draws (d : Dev) (w : Nat) (f : WellSt → WellSt) : (d.setWell w f).draws = d.draws := rfl

/-! ## A port replaced -/

@[simp] theorem Dev.setPort_grade (d : Dev) (p : Nat) (f : PortSt → PortSt) : (d.setPort p f).grade = d.grade := rfl
@[simp] theorem Dev.setPort_now (d : Dev) (p : Nat) (f : PortSt → PortSt) : (d.setPort p f).now = d.now := rfl
@[simp] theorem Dev.setPort_mem (d : Dev) (p : Nat) (f : PortSt → PortSt) : (d.setPort p f).mem = d.mem := rfl
@[simp] theorem Dev.setPort_poison (d : Dev) (p : Nat) (f : PortSt → PortSt) : (d.setPort p f).poison = d.poison := rfl
@[simp] theorem Dev.setPort_cores (d : Dev) (p : Nat) (f : PortSt → PortSt) : (d.setPort p f).cores = d.cores := rfl
@[simp] theorem Dev.setPort_queues (d : Dev) (p : Nat) (f : PortSt → PortSt) : (d.setPort p f).queues = d.queues := rfl
@[simp] theorem Dev.setPort_inflight (d : Dev) (p : Nat) (f : PortSt → PortSt) : (d.setPort p f).inflight = d.inflight := rfl
@[simp] theorem Dev.setPort_nextId (d : Dev) (p : Nat) (f : PortSt → PortSt) : (d.setPort p f).nextId = d.nextId := rfl
@[simp] theorem Dev.setPort_lists (d : Dev) (p : Nat) (f : PortSt → PortSt) : (d.setPort p f).lists = d.lists := rfl
@[simp] theorem Dev.setPort_accepted (d : Dev) (p : Nat) (f : PortSt → PortSt) : (d.setPort p f).accepted = d.accepted := rfl
@[simp] theorem Dev.setPort_job (d : Dev) (p : Nat) (f : PortSt → PortSt) : (d.setPort p f).job = d.job := rfl
@[simp] theorem Dev.setPort_depot (d : Dev) (p : Nat) (f : PortSt → PortSt) : (d.setPort p f).depot = d.depot := rfl
@[simp] theorem Dev.setPort_place (d : Dev) (p : Nat) (f : PortSt → PortSt) : (d.setPort p f).place = d.place := rfl
@[simp] theorem Dev.setPort_wells (d : Dev) (p : Nat) (f : PortSt → PortSt) : (d.setPort p f).wells = d.wells := rfl
@[simp] theorem Dev.setPort_bz (d : Dev) (p : Nat) (f : PortSt → PortSt) : (d.setPort p f).bz = d.bz := rfl
@[simp] theorem Dev.setPort_rd (d : Dev) (p : Nat) (f : PortSt → PortSt) : (d.setPort p f).rd = d.rd := rfl
@[simp] theorem Dev.setPort_host (d : Dev) (p : Nat) (f : PortSt → PortSt) : (d.setPort p f).host = d.host := rfl
@[simp] theorem Dev.setPort_scale (d : Dev) (p : Nat) (f : PortSt → PortSt) : (d.setPort p f).scale = d.scale := rfl
@[simp] theorem Dev.setPort_pw (d : Dev) (p : Nat) (f : PortSt → PortSt) : (d.setPort p f).pw = d.pw := rfl
@[simp] theorem Dev.setPort_tm (d : Dev) (p : Nat) (f : PortSt → PortSt) : (d.setPort p f).tm = d.tm := rfl
@[simp] theorem Dev.setPort_ct (d : Dev) (p : Nat) (f : PortSt → PortSt) : (d.setPort p f).ct = d.ct := rfl
@[simp] theorem Dev.setPort_er (d : Dev) (p : Nat) (f : PortSt → PortSt) : (d.setPort p f).er = d.er := rfl
@[simp] theorem Dev.setPort_boot (d : Dev) (p : Nat) (f : PortSt → PortSt) : (d.setPort p f).boot = d.boot := rfl
@[simp] theorem Dev.setPort_trust (d : Dev) (p : Nat) (f : PortSt → PortSt) : (d.setPort p f).trust = d.trust := rfl
@[simp] theorem Dev.setPort_work (d : Dev) (p : Nat) (f : PortSt → PortSt) : (d.setPort p f).work = d.work := rfl
@[simp] theorem Dev.setPort_out (d : Dev) (p : Nat) (f : PortSt → PortSt) : (d.setPort p f).out = d.out := rfl
@[simp] theorem Dev.setPort_draws (d : Dev) (p : Nat) (f : PortSt → PortSt) : (d.setPort p f).draws = d.draws := rfl

/-! ## A work list replaced -/

@[simp] theorem Dev.setList_grade (d : Dev) (i : Nat) (f : WorkList → WorkList) : (d.setList i f).grade = d.grade := rfl
@[simp] theorem Dev.setList_now (d : Dev) (i : Nat) (f : WorkList → WorkList) : (d.setList i f).now = d.now := rfl
@[simp] theorem Dev.setList_mem (d : Dev) (i : Nat) (f : WorkList → WorkList) : (d.setList i f).mem = d.mem := rfl
@[simp] theorem Dev.setList_poison (d : Dev) (i : Nat) (f : WorkList → WorkList) : (d.setList i f).poison = d.poison := rfl
@[simp] theorem Dev.setList_cores (d : Dev) (i : Nat) (f : WorkList → WorkList) : (d.setList i f).cores = d.cores := rfl
@[simp] theorem Dev.setList_queues (d : Dev) (i : Nat) (f : WorkList → WorkList) : (d.setList i f).queues = d.queues := rfl
@[simp] theorem Dev.setList_inflight (d : Dev) (i : Nat) (f : WorkList → WorkList) : (d.setList i f).inflight = d.inflight := rfl
@[simp] theorem Dev.setList_nextId (d : Dev) (i : Nat) (f : WorkList → WorkList) : (d.setList i f).nextId = d.nextId := rfl
@[simp] theorem Dev.setList_accepted (d : Dev) (i : Nat) (f : WorkList → WorkList) : (d.setList i f).accepted = d.accepted := rfl
@[simp] theorem Dev.setList_job (d : Dev) (i : Nat) (f : WorkList → WorkList) : (d.setList i f).job = d.job := rfl
@[simp] theorem Dev.setList_depot (d : Dev) (i : Nat) (f : WorkList → WorkList) : (d.setList i f).depot = d.depot := rfl
@[simp] theorem Dev.setList_place (d : Dev) (i : Nat) (f : WorkList → WorkList) : (d.setList i f).place = d.place := rfl
@[simp] theorem Dev.setList_wells (d : Dev) (i : Nat) (f : WorkList → WorkList) : (d.setList i f).wells = d.wells := rfl
@[simp] theorem Dev.setList_bz (d : Dev) (i : Nat) (f : WorkList → WorkList) : (d.setList i f).bz = d.bz := rfl
@[simp] theorem Dev.setList_rd (d : Dev) (i : Nat) (f : WorkList → WorkList) : (d.setList i f).rd = d.rd := rfl
@[simp] theorem Dev.setList_fx (d : Dev) (i : Nat) (f : WorkList → WorkList) : (d.setList i f).fx = d.fx := rfl
@[simp] theorem Dev.setList_host (d : Dev) (i : Nat) (f : WorkList → WorkList) : (d.setList i f).host = d.host := rfl
@[simp] theorem Dev.setList_scale (d : Dev) (i : Nat) (f : WorkList → WorkList) : (d.setList i f).scale = d.scale := rfl
@[simp] theorem Dev.setList_pw (d : Dev) (i : Nat) (f : WorkList → WorkList) : (d.setList i f).pw = d.pw := rfl
@[simp] theorem Dev.setList_tm (d : Dev) (i : Nat) (f : WorkList → WorkList) : (d.setList i f).tm = d.tm := rfl
@[simp] theorem Dev.setList_ct (d : Dev) (i : Nat) (f : WorkList → WorkList) : (d.setList i f).ct = d.ct := rfl
@[simp] theorem Dev.setList_er (d : Dev) (i : Nat) (f : WorkList → WorkList) : (d.setList i f).er = d.er := rfl
@[simp] theorem Dev.setList_boot (d : Dev) (i : Nat) (f : WorkList → WorkList) : (d.setList i f).boot = d.boot := rfl
@[simp] theorem Dev.setList_trust (d : Dev) (i : Nat) (f : WorkList → WorkList) : (d.setList i f).trust = d.trust := rfl
@[simp] theorem Dev.setList_work (d : Dev) (i : Nat) (f : WorkList → WorkList) : (d.setList i f).work = d.work := rfl
@[simp] theorem Dev.setList_out (d : Dev) (i : Nat) (f : WorkList → WorkList) : (d.setList i f).out = d.out := rfl
@[simp] theorem Dev.setList_draws (d : Dev) (i : Nat) (f : WorkList → WorkList) : (d.setList i f).draws = d.draws := rfl

/-! ## The accepted requests replaced -/

@[simp] theorem Dev.withAccepted_grade (d : Dev) (xs : List Accepted) : (d.withAccepted xs).grade = d.grade := rfl
@[simp] theorem Dev.withAccepted_now (d : Dev) (xs : List Accepted) : (d.withAccepted xs).now = d.now := rfl
@[simp] theorem Dev.withAccepted_mem (d : Dev) (xs : List Accepted) : (d.withAccepted xs).mem = d.mem := rfl
@[simp] theorem Dev.withAccepted_poison (d : Dev) (xs : List Accepted) : (d.withAccepted xs).poison = d.poison := rfl
@[simp] theorem Dev.withAccepted_cores (d : Dev) (xs : List Accepted) : (d.withAccepted xs).cores = d.cores := rfl
@[simp] theorem Dev.withAccepted_queues (d : Dev) (xs : List Accepted) : (d.withAccepted xs).queues = d.queues := rfl
@[simp] theorem Dev.withAccepted_inflight (d : Dev) (xs : List Accepted) : (d.withAccepted xs).inflight = d.inflight := rfl
@[simp] theorem Dev.withAccepted_nextId (d : Dev) (xs : List Accepted) : (d.withAccepted xs).nextId = d.nextId := rfl
@[simp] theorem Dev.withAccepted_lists (d : Dev) (xs : List Accepted) : (d.withAccepted xs).lists = d.lists := rfl
@[simp] theorem Dev.withAccepted_job (d : Dev) (xs : List Accepted) : (d.withAccepted xs).job = d.job := rfl
@[simp] theorem Dev.withAccepted_depot (d : Dev) (xs : List Accepted) : (d.withAccepted xs).depot = d.depot := rfl
@[simp] theorem Dev.withAccepted_place (d : Dev) (xs : List Accepted) : (d.withAccepted xs).place = d.place := rfl
@[simp] theorem Dev.withAccepted_wells (d : Dev) (xs : List Accepted) : (d.withAccepted xs).wells = d.wells := rfl
@[simp] theorem Dev.withAccepted_bz (d : Dev) (xs : List Accepted) : (d.withAccepted xs).bz = d.bz := rfl
@[simp] theorem Dev.withAccepted_rd (d : Dev) (xs : List Accepted) : (d.withAccepted xs).rd = d.rd := rfl
@[simp] theorem Dev.withAccepted_fx (d : Dev) (xs : List Accepted) : (d.withAccepted xs).fx = d.fx := rfl
@[simp] theorem Dev.withAccepted_host (d : Dev) (xs : List Accepted) : (d.withAccepted xs).host = d.host := rfl
@[simp] theorem Dev.withAccepted_scale (d : Dev) (xs : List Accepted) : (d.withAccepted xs).scale = d.scale := rfl
@[simp] theorem Dev.withAccepted_pw (d : Dev) (xs : List Accepted) : (d.withAccepted xs).pw = d.pw := rfl
@[simp] theorem Dev.withAccepted_tm (d : Dev) (xs : List Accepted) : (d.withAccepted xs).tm = d.tm := rfl
@[simp] theorem Dev.withAccepted_ct (d : Dev) (xs : List Accepted) : (d.withAccepted xs).ct = d.ct := rfl
@[simp] theorem Dev.withAccepted_er (d : Dev) (xs : List Accepted) : (d.withAccepted xs).er = d.er := rfl
@[simp] theorem Dev.withAccepted_boot (d : Dev) (xs : List Accepted) : (d.withAccepted xs).boot = d.boot := rfl
@[simp] theorem Dev.withAccepted_trust (d : Dev) (xs : List Accepted) : (d.withAccepted xs).trust = d.trust := rfl
@[simp] theorem Dev.withAccepted_work (d : Dev) (xs : List Accepted) : (d.withAccepted xs).work = d.work := rfl
@[simp] theorem Dev.withAccepted_out (d : Dev) (xs : List Accepted) : (d.withAccepted xs).out = d.out := rfl
@[simp] theorem Dev.withAccepted_draws (d : Dev) (xs : List Accepted) : (d.withAccepted xs).draws = d.draws := rfl

/-! ## An MSI-X entry replaced -/

@[simp] theorem Dev.setMsix_grade (d : Dev) (e : Msix) : (d.setMsix e).grade = d.grade := rfl
@[simp] theorem Dev.setMsix_now (d : Dev) (e : Msix) : (d.setMsix e).now = d.now := rfl
@[simp] theorem Dev.setMsix_mem (d : Dev) (e : Msix) : (d.setMsix e).mem = d.mem := rfl
@[simp] theorem Dev.setMsix_poison (d : Dev) (e : Msix) : (d.setMsix e).poison = d.poison := rfl
@[simp] theorem Dev.setMsix_cores (d : Dev) (e : Msix) : (d.setMsix e).cores = d.cores := rfl
@[simp] theorem Dev.setMsix_queues (d : Dev) (e : Msix) : (d.setMsix e).queues = d.queues := rfl
@[simp] theorem Dev.setMsix_inflight (d : Dev) (e : Msix) : (d.setMsix e).inflight = d.inflight := rfl
@[simp] theorem Dev.setMsix_nextId (d : Dev) (e : Msix) : (d.setMsix e).nextId = d.nextId := rfl
@[simp] theorem Dev.setMsix_lists (d : Dev) (e : Msix) : (d.setMsix e).lists = d.lists := rfl
@[simp] theorem Dev.setMsix_accepted (d : Dev) (e : Msix) : (d.setMsix e).accepted = d.accepted := rfl
@[simp] theorem Dev.setMsix_job (d : Dev) (e : Msix) : (d.setMsix e).job = d.job := rfl
@[simp] theorem Dev.setMsix_depot (d : Dev) (e : Msix) : (d.setMsix e).depot = d.depot := rfl
@[simp] theorem Dev.setMsix_place (d : Dev) (e : Msix) : (d.setMsix e).place = d.place := rfl
@[simp] theorem Dev.setMsix_wells (d : Dev) (e : Msix) : (d.setMsix e).wells = d.wells := rfl
@[simp] theorem Dev.setMsix_bz (d : Dev) (e : Msix) : (d.setMsix e).bz = d.bz := rfl
@[simp] theorem Dev.setMsix_rd (d : Dev) (e : Msix) : (d.setMsix e).rd = d.rd := rfl
@[simp] theorem Dev.setMsix_fx (d : Dev) (e : Msix) : (d.setMsix e).fx = d.fx := rfl
@[simp] theorem Dev.setMsix_scale (d : Dev) (e : Msix) : (d.setMsix e).scale = d.scale := rfl
@[simp] theorem Dev.setMsix_pw (d : Dev) (e : Msix) : (d.setMsix e).pw = d.pw := rfl
@[simp] theorem Dev.setMsix_tm (d : Dev) (e : Msix) : (d.setMsix e).tm = d.tm := rfl
@[simp] theorem Dev.setMsix_ct (d : Dev) (e : Msix) : (d.setMsix e).ct = d.ct := rfl
@[simp] theorem Dev.setMsix_er (d : Dev) (e : Msix) : (d.setMsix e).er = d.er := rfl
@[simp] theorem Dev.setMsix_boot (d : Dev) (e : Msix) : (d.setMsix e).boot = d.boot := rfl
@[simp] theorem Dev.setMsix_trust (d : Dev) (e : Msix) : (d.setMsix e).trust = d.trust := rfl
@[simp] theorem Dev.setMsix_work (d : Dev) (e : Msix) : (d.setMsix e).work = d.work := rfl
@[simp] theorem Dev.setMsix_out (d : Dev) (e : Msix) : (d.setMsix e).out = d.out := rfl
@[simp] theorem Dev.setMsix_draws (d : Dev) (e : Msix) : (d.setMsix e).draws = d.draws := rfl

/-! ## An output added -/

@[simp] theorem Dev.emit_grade (d : Dev) (x : Output) : (d.emit x).grade = d.grade := rfl
@[simp] theorem Dev.emit_now (d : Dev) (x : Output) : (d.emit x).now = d.now := rfl
@[simp] theorem Dev.emit_mem (d : Dev) (x : Output) : (d.emit x).mem = d.mem := rfl
@[simp] theorem Dev.emit_poison (d : Dev) (x : Output) : (d.emit x).poison = d.poison := rfl
@[simp] theorem Dev.emit_cores (d : Dev) (x : Output) : (d.emit x).cores = d.cores := rfl
@[simp] theorem Dev.emit_queues (d : Dev) (x : Output) : (d.emit x).queues = d.queues := rfl
@[simp] theorem Dev.emit_inflight (d : Dev) (x : Output) : (d.emit x).inflight = d.inflight := rfl
@[simp] theorem Dev.emit_nextId (d : Dev) (x : Output) : (d.emit x).nextId = d.nextId := rfl
@[simp] theorem Dev.emit_lists (d : Dev) (x : Output) : (d.emit x).lists = d.lists := rfl
@[simp] theorem Dev.emit_accepted (d : Dev) (x : Output) : (d.emit x).accepted = d.accepted := rfl
@[simp] theorem Dev.emit_job (d : Dev) (x : Output) : (d.emit x).job = d.job := rfl
@[simp] theorem Dev.emit_depot (d : Dev) (x : Output) : (d.emit x).depot = d.depot := rfl
@[simp] theorem Dev.emit_place (d : Dev) (x : Output) : (d.emit x).place = d.place := rfl
@[simp] theorem Dev.emit_wells (d : Dev) (x : Output) : (d.emit x).wells = d.wells := rfl
@[simp] theorem Dev.emit_bz (d : Dev) (x : Output) : (d.emit x).bz = d.bz := rfl
@[simp] theorem Dev.emit_rd (d : Dev) (x : Output) : (d.emit x).rd = d.rd := rfl
@[simp] theorem Dev.emit_fx (d : Dev) (x : Output) : (d.emit x).fx = d.fx := rfl
@[simp] theorem Dev.emit_host (d : Dev) (x : Output) : (d.emit x).host = d.host := rfl
@[simp] theorem Dev.emit_scale (d : Dev) (x : Output) : (d.emit x).scale = d.scale := rfl
@[simp] theorem Dev.emit_pw (d : Dev) (x : Output) : (d.emit x).pw = d.pw := rfl
@[simp] theorem Dev.emit_tm (d : Dev) (x : Output) : (d.emit x).tm = d.tm := rfl
@[simp] theorem Dev.emit_ct (d : Dev) (x : Output) : (d.emit x).ct = d.ct := rfl
@[simp] theorem Dev.emit_er (d : Dev) (x : Output) : (d.emit x).er = d.er := rfl
@[simp] theorem Dev.emit_boot (d : Dev) (x : Output) : (d.emit x).boot = d.boot := rfl
@[simp] theorem Dev.emit_trust (d : Dev) (x : Output) : (d.emit x).trust = d.trust := rfl
@[simp] theorem Dev.emit_draws (d : Dev) (x : Output) : (d.emit x).draws = d.draws := rfl

/-! ## A record -/

@[simp] theorem Dev.record_grade (d : Dev) (r : ErrRec) : (d.record r).grade = d.grade := rfl
@[simp] theorem Dev.record_now (d : Dev) (r : ErrRec) : (d.record r).now = d.now := rfl
@[simp] theorem Dev.record_mem (d : Dev) (r : ErrRec) : (d.record r).mem = d.mem := rfl
@[simp] theorem Dev.record_poison (d : Dev) (r : ErrRec) : (d.record r).poison = d.poison := rfl
@[simp] theorem Dev.record_cores (d : Dev) (r : ErrRec) : (d.record r).cores = d.cores := rfl
@[simp] theorem Dev.record_queues (d : Dev) (r : ErrRec) : (d.record r).queues = d.queues := rfl
@[simp] theorem Dev.record_inflight (d : Dev) (r : ErrRec) : (d.record r).inflight = d.inflight := rfl
@[simp] theorem Dev.record_nextId (d : Dev) (r : ErrRec) : (d.record r).nextId = d.nextId := rfl
@[simp] theorem Dev.record_lists (d : Dev) (r : ErrRec) : (d.record r).lists = d.lists := rfl
@[simp] theorem Dev.record_accepted (d : Dev) (r : ErrRec) : (d.record r).accepted = d.accepted := rfl
@[simp] theorem Dev.record_job (d : Dev) (r : ErrRec) : (d.record r).job = d.job := rfl
@[simp] theorem Dev.record_depot (d : Dev) (r : ErrRec) : (d.record r).depot = d.depot := rfl
@[simp] theorem Dev.record_place (d : Dev) (r : ErrRec) : (d.record r).place = d.place := rfl
@[simp] theorem Dev.record_wells (d : Dev) (r : ErrRec) : (d.record r).wells = d.wells := rfl
@[simp] theorem Dev.record_bz (d : Dev) (r : ErrRec) : (d.record r).bz = d.bz := rfl
@[simp] theorem Dev.record_rd (d : Dev) (r : ErrRec) : (d.record r).rd = d.rd := rfl
@[simp] theorem Dev.record_fx (d : Dev) (r : ErrRec) : (d.record r).fx = d.fx := rfl
@[simp] theorem Dev.record_host (d : Dev) (r : ErrRec) : (d.record r).host = d.host := rfl
@[simp] theorem Dev.record_scale (d : Dev) (r : ErrRec) : (d.record r).scale = d.scale := rfl
@[simp] theorem Dev.record_pw (d : Dev) (r : ErrRec) : (d.record r).pw = d.pw := rfl
@[simp] theorem Dev.record_tm (d : Dev) (r : ErrRec) : (d.record r).tm = d.tm := rfl
@[simp] theorem Dev.record_ct (d : Dev) (r : ErrRec) : (d.record r).ct = d.ct := rfl
@[simp] theorem Dev.record_boot (d : Dev) (r : ErrRec) : (d.record r).boot = d.boot := rfl
@[simp] theorem Dev.record_trust (d : Dev) (r : ErrRec) : (d.record r).trust = d.trust := rfl
@[simp] theorem Dev.record_work (d : Dev) (r : ErrRec) : (d.record r).work = d.work := rfl
@[simp] theorem Dev.record_out (d : Dev) (r : ErrRec) : (d.record r).out = d.out := rfl
@[simp] theorem Dev.record_draws (d : Dev) (r : ErrRec) : (d.record r).draws = d.draws := rfl

/-! ## A fresh identifier -/

@[simp] theorem Dev.fresh_grade (d : Dev)  : (d.fresh.2).grade = d.grade := rfl
@[simp] theorem Dev.fresh_now (d : Dev)  : (d.fresh.2).now = d.now := rfl
@[simp] theorem Dev.fresh_mem (d : Dev)  : (d.fresh.2).mem = d.mem := rfl
@[simp] theorem Dev.fresh_poison (d : Dev)  : (d.fresh.2).poison = d.poison := rfl
@[simp] theorem Dev.fresh_cores (d : Dev)  : (d.fresh.2).cores = d.cores := rfl
@[simp] theorem Dev.fresh_queues (d : Dev)  : (d.fresh.2).queues = d.queues := rfl
@[simp] theorem Dev.fresh_inflight (d : Dev)  : (d.fresh.2).inflight = d.inflight := rfl
@[simp] theorem Dev.fresh_lists (d : Dev)  : (d.fresh.2).lists = d.lists := rfl
@[simp] theorem Dev.fresh_accepted (d : Dev)  : (d.fresh.2).accepted = d.accepted := rfl
@[simp] theorem Dev.fresh_job (d : Dev)  : (d.fresh.2).job = d.job := rfl
@[simp] theorem Dev.fresh_depot (d : Dev)  : (d.fresh.2).depot = d.depot := rfl
@[simp] theorem Dev.fresh_place (d : Dev)  : (d.fresh.2).place = d.place := rfl
@[simp] theorem Dev.fresh_wells (d : Dev)  : (d.fresh.2).wells = d.wells := rfl
@[simp] theorem Dev.fresh_bz (d : Dev)  : (d.fresh.2).bz = d.bz := rfl
@[simp] theorem Dev.fresh_rd (d : Dev)  : (d.fresh.2).rd = d.rd := rfl
@[simp] theorem Dev.fresh_fx (d : Dev)  : (d.fresh.2).fx = d.fx := rfl
@[simp] theorem Dev.fresh_host (d : Dev)  : (d.fresh.2).host = d.host := rfl
@[simp] theorem Dev.fresh_scale (d : Dev)  : (d.fresh.2).scale = d.scale := rfl
@[simp] theorem Dev.fresh_pw (d : Dev)  : (d.fresh.2).pw = d.pw := rfl
@[simp] theorem Dev.fresh_tm (d : Dev)  : (d.fresh.2).tm = d.tm := rfl
@[simp] theorem Dev.fresh_ct (d : Dev)  : (d.fresh.2).ct = d.ct := rfl
@[simp] theorem Dev.fresh_er (d : Dev)  : (d.fresh.2).er = d.er := rfl
@[simp] theorem Dev.fresh_boot (d : Dev)  : (d.fresh.2).boot = d.boot := rfl
@[simp] theorem Dev.fresh_trust (d : Dev)  : (d.fresh.2).trust = d.trust := rfl
@[simp] theorem Dev.fresh_work (d : Dev)  : (d.fresh.2).work = d.work := rfl
@[simp] theorem Dev.fresh_out (d : Dev)  : (d.fresh.2).out = d.out := rfl
@[simp] theorem Dev.fresh_draws (d : Dev)  : (d.fresh.2).draws = d.draws := rfl

/-! ## Injection slots examined -/

@[simp] theorem Dev.mimic_grade (d : Dev) (det : Nat) : ((d.mimic det).2).grade = d.grade := rfl
@[simp] theorem Dev.mimic_now (d : Dev) (det : Nat) : ((d.mimic det).2).now = d.now := rfl
@[simp] theorem Dev.mimic_mem (d : Dev) (det : Nat) : ((d.mimic det).2).mem = d.mem := rfl
@[simp] theorem Dev.mimic_poison (d : Dev) (det : Nat) : ((d.mimic det).2).poison = d.poison := rfl
@[simp] theorem Dev.mimic_cores (d : Dev) (det : Nat) : ((d.mimic det).2).cores = d.cores := rfl
@[simp] theorem Dev.mimic_queues (d : Dev) (det : Nat) : ((d.mimic det).2).queues = d.queues := rfl
@[simp] theorem Dev.mimic_inflight (d : Dev) (det : Nat) : ((d.mimic det).2).inflight = d.inflight := rfl
@[simp] theorem Dev.mimic_nextId (d : Dev) (det : Nat) : ((d.mimic det).2).nextId = d.nextId := rfl
@[simp] theorem Dev.mimic_lists (d : Dev) (det : Nat) : ((d.mimic det).2).lists = d.lists := rfl
@[simp] theorem Dev.mimic_accepted (d : Dev) (det : Nat) : ((d.mimic det).2).accepted = d.accepted := rfl
@[simp] theorem Dev.mimic_job (d : Dev) (det : Nat) : ((d.mimic det).2).job = d.job := rfl
@[simp] theorem Dev.mimic_depot (d : Dev) (det : Nat) : ((d.mimic det).2).depot = d.depot := rfl
@[simp] theorem Dev.mimic_place (d : Dev) (det : Nat) : ((d.mimic det).2).place = d.place := rfl
@[simp] theorem Dev.mimic_wells (d : Dev) (det : Nat) : ((d.mimic det).2).wells = d.wells := rfl
@[simp] theorem Dev.mimic_bz (d : Dev) (det : Nat) : ((d.mimic det).2).bz = d.bz := rfl
@[simp] theorem Dev.mimic_rd (d : Dev) (det : Nat) : ((d.mimic det).2).rd = d.rd := rfl
@[simp] theorem Dev.mimic_fx (d : Dev) (det : Nat) : ((d.mimic det).2).fx = d.fx := rfl
@[simp] theorem Dev.mimic_host (d : Dev) (det : Nat) : ((d.mimic det).2).host = d.host := rfl
@[simp] theorem Dev.mimic_scale (d : Dev) (det : Nat) : ((d.mimic det).2).scale = d.scale := rfl
@[simp] theorem Dev.mimic_pw (d : Dev) (det : Nat) : ((d.mimic det).2).pw = d.pw := rfl
@[simp] theorem Dev.mimic_tm (d : Dev) (det : Nat) : ((d.mimic det).2).tm = d.tm := rfl
@[simp] theorem Dev.mimic_ct (d : Dev) (det : Nat) : ((d.mimic det).2).ct = d.ct := rfl
@[simp] theorem Dev.mimic_boot (d : Dev) (det : Nat) : ((d.mimic det).2).boot = d.boot := rfl
@[simp] theorem Dev.mimic_trust (d : Dev) (det : Nat) : ((d.mimic det).2).trust = d.trust := rfl
@[simp] theorem Dev.mimic_work (d : Dev) (det : Nat) : ((d.mimic det).2).work = d.work := rfl
@[simp] theorem Dev.mimic_out (d : Dev) (det : Nat) : ((d.mimic det).2).out = d.out := rfl
@[simp] theorem Dev.mimic_draws (d : Dev) (det : Nat) : ((d.mimic det).2).draws = d.draws := rfl

/-! ## A HALT slot examined -/

@[simp] theorem Dev.haltInject_grade (d : Dev) (c : Nat) : ((d.haltInject c).2).grade = d.grade := rfl
@[simp] theorem Dev.haltInject_now (d : Dev) (c : Nat) : ((d.haltInject c).2).now = d.now := rfl
@[simp] theorem Dev.haltInject_mem (d : Dev) (c : Nat) : ((d.haltInject c).2).mem = d.mem := rfl
@[simp] theorem Dev.haltInject_poison (d : Dev) (c : Nat) : ((d.haltInject c).2).poison = d.poison := rfl
@[simp] theorem Dev.haltInject_cores (d : Dev) (c : Nat) : ((d.haltInject c).2).cores = d.cores := rfl
@[simp] theorem Dev.haltInject_queues (d : Dev) (c : Nat) : ((d.haltInject c).2).queues = d.queues := rfl
@[simp] theorem Dev.haltInject_inflight (d : Dev) (c : Nat) : ((d.haltInject c).2).inflight = d.inflight := rfl
@[simp] theorem Dev.haltInject_nextId (d : Dev) (c : Nat) : ((d.haltInject c).2).nextId = d.nextId := rfl
@[simp] theorem Dev.haltInject_lists (d : Dev) (c : Nat) : ((d.haltInject c).2).lists = d.lists := rfl
@[simp] theorem Dev.haltInject_accepted (d : Dev) (c : Nat) : ((d.haltInject c).2).accepted = d.accepted := rfl
@[simp] theorem Dev.haltInject_job (d : Dev) (c : Nat) : ((d.haltInject c).2).job = d.job := rfl
@[simp] theorem Dev.haltInject_depot (d : Dev) (c : Nat) : ((d.haltInject c).2).depot = d.depot := rfl
@[simp] theorem Dev.haltInject_place (d : Dev) (c : Nat) : ((d.haltInject c).2).place = d.place := rfl
@[simp] theorem Dev.haltInject_wells (d : Dev) (c : Nat) : ((d.haltInject c).2).wells = d.wells := rfl
@[simp] theorem Dev.haltInject_bz (d : Dev) (c : Nat) : ((d.haltInject c).2).bz = d.bz := rfl
@[simp] theorem Dev.haltInject_rd (d : Dev) (c : Nat) : ((d.haltInject c).2).rd = d.rd := rfl
@[simp] theorem Dev.haltInject_fx (d : Dev) (c : Nat) : ((d.haltInject c).2).fx = d.fx := rfl
@[simp] theorem Dev.haltInject_host (d : Dev) (c : Nat) : ((d.haltInject c).2).host = d.host := rfl
@[simp] theorem Dev.haltInject_scale (d : Dev) (c : Nat) : ((d.haltInject c).2).scale = d.scale := rfl
@[simp] theorem Dev.haltInject_pw (d : Dev) (c : Nat) : ((d.haltInject c).2).pw = d.pw := rfl
@[simp] theorem Dev.haltInject_tm (d : Dev) (c : Nat) : ((d.haltInject c).2).tm = d.tm := rfl
@[simp] theorem Dev.haltInject_ct (d : Dev) (c : Nat) : ((d.haltInject c).2).ct = d.ct := rfl
@[simp] theorem Dev.haltInject_boot (d : Dev) (c : Nat) : ((d.haltInject c).2).boot = d.boot := rfl
@[simp] theorem Dev.haltInject_trust (d : Dev) (c : Nat) : ((d.haltInject c).2).trust = d.trust := rfl
@[simp] theorem Dev.haltInject_work (d : Dev) (c : Nat) : ((d.haltInject c).2).work = d.work := rfl
@[simp] theorem Dev.haltInject_out (d : Dev) (c : Nat) : ((d.haltInject c).2).out = d.out := rfl
@[simp] theorem Dev.haltInject_draws (d : Dev) (c : Nat) : ((d.haltInject c).2).draws = d.draws := rfl

/-! ## A detection (R541) changes the recorder alone -/

theorem Dev.detect_eq (d : Dev) (det sev : Nat) (inj : Bool) (addr : Option Nat) (d0 d1 d2 : Nat) :
    d.detect det sev inj addr d0 d1 d2 = { d with er := (d.detect det sev inj addr d0 d1 d2).er } := by
  unfold Dev.detect; dsimp only; split <;> (try split) <;> rfl

@[simp] theorem Dev.detect_grade (d : Dev) (det sev : Nat) (inj : Bool) (addr : Option Nat) (d0 d1 d2 : Nat) : (d.detect det sev inj addr d0 d1 d2).grade = d.grade := by rw [Dev.detect_eq]
@[simp] theorem Dev.detect_now (d : Dev) (det sev : Nat) (inj : Bool) (addr : Option Nat) (d0 d1 d2 : Nat) : (d.detect det sev inj addr d0 d1 d2).now = d.now := by rw [Dev.detect_eq]
@[simp] theorem Dev.detect_mem (d : Dev) (det sev : Nat) (inj : Bool) (addr : Option Nat) (d0 d1 d2 : Nat) : (d.detect det sev inj addr d0 d1 d2).mem = d.mem := by rw [Dev.detect_eq]
@[simp] theorem Dev.detect_poison (d : Dev) (det sev : Nat) (inj : Bool) (addr : Option Nat) (d0 d1 d2 : Nat) : (d.detect det sev inj addr d0 d1 d2).poison = d.poison := by rw [Dev.detect_eq]
@[simp] theorem Dev.detect_cores (d : Dev) (det sev : Nat) (inj : Bool) (addr : Option Nat) (d0 d1 d2 : Nat) : (d.detect det sev inj addr d0 d1 d2).cores = d.cores := by rw [Dev.detect_eq]
@[simp] theorem Dev.detect_queues (d : Dev) (det sev : Nat) (inj : Bool) (addr : Option Nat) (d0 d1 d2 : Nat) : (d.detect det sev inj addr d0 d1 d2).queues = d.queues := by rw [Dev.detect_eq]
@[simp] theorem Dev.detect_inflight (d : Dev) (det sev : Nat) (inj : Bool) (addr : Option Nat) (d0 d1 d2 : Nat) : (d.detect det sev inj addr d0 d1 d2).inflight = d.inflight := by rw [Dev.detect_eq]
@[simp] theorem Dev.detect_nextId (d : Dev) (det sev : Nat) (inj : Bool) (addr : Option Nat) (d0 d1 d2 : Nat) : (d.detect det sev inj addr d0 d1 d2).nextId = d.nextId := by rw [Dev.detect_eq]
@[simp] theorem Dev.detect_lists (d : Dev) (det sev : Nat) (inj : Bool) (addr : Option Nat) (d0 d1 d2 : Nat) : (d.detect det sev inj addr d0 d1 d2).lists = d.lists := by rw [Dev.detect_eq]
@[simp] theorem Dev.detect_accepted (d : Dev) (det sev : Nat) (inj : Bool) (addr : Option Nat) (d0 d1 d2 : Nat) : (d.detect det sev inj addr d0 d1 d2).accepted = d.accepted := by rw [Dev.detect_eq]
@[simp] theorem Dev.detect_job (d : Dev) (det sev : Nat) (inj : Bool) (addr : Option Nat) (d0 d1 d2 : Nat) : (d.detect det sev inj addr d0 d1 d2).job = d.job := by rw [Dev.detect_eq]
@[simp] theorem Dev.detect_depot (d : Dev) (det sev : Nat) (inj : Bool) (addr : Option Nat) (d0 d1 d2 : Nat) : (d.detect det sev inj addr d0 d1 d2).depot = d.depot := by rw [Dev.detect_eq]
@[simp] theorem Dev.detect_place (d : Dev) (det sev : Nat) (inj : Bool) (addr : Option Nat) (d0 d1 d2 : Nat) : (d.detect det sev inj addr d0 d1 d2).place = d.place := by rw [Dev.detect_eq]
@[simp] theorem Dev.detect_wells (d : Dev) (det sev : Nat) (inj : Bool) (addr : Option Nat) (d0 d1 d2 : Nat) : (d.detect det sev inj addr d0 d1 d2).wells = d.wells := by rw [Dev.detect_eq]
@[simp] theorem Dev.detect_bz (d : Dev) (det sev : Nat) (inj : Bool) (addr : Option Nat) (d0 d1 d2 : Nat) : (d.detect det sev inj addr d0 d1 d2).bz = d.bz := by rw [Dev.detect_eq]
@[simp] theorem Dev.detect_rd (d : Dev) (det sev : Nat) (inj : Bool) (addr : Option Nat) (d0 d1 d2 : Nat) : (d.detect det sev inj addr d0 d1 d2).rd = d.rd := by rw [Dev.detect_eq]
@[simp] theorem Dev.detect_fx (d : Dev) (det sev : Nat) (inj : Bool) (addr : Option Nat) (d0 d1 d2 : Nat) : (d.detect det sev inj addr d0 d1 d2).fx = d.fx := by rw [Dev.detect_eq]
@[simp] theorem Dev.detect_host (d : Dev) (det sev : Nat) (inj : Bool) (addr : Option Nat) (d0 d1 d2 : Nat) : (d.detect det sev inj addr d0 d1 d2).host = d.host := by rw [Dev.detect_eq]
@[simp] theorem Dev.detect_scale (d : Dev) (det sev : Nat) (inj : Bool) (addr : Option Nat) (d0 d1 d2 : Nat) : (d.detect det sev inj addr d0 d1 d2).scale = d.scale := by rw [Dev.detect_eq]
@[simp] theorem Dev.detect_pw (d : Dev) (det sev : Nat) (inj : Bool) (addr : Option Nat) (d0 d1 d2 : Nat) : (d.detect det sev inj addr d0 d1 d2).pw = d.pw := by rw [Dev.detect_eq]
@[simp] theorem Dev.detect_tm (d : Dev) (det sev : Nat) (inj : Bool) (addr : Option Nat) (d0 d1 d2 : Nat) : (d.detect det sev inj addr d0 d1 d2).tm = d.tm := by rw [Dev.detect_eq]
@[simp] theorem Dev.detect_ct (d : Dev) (det sev : Nat) (inj : Bool) (addr : Option Nat) (d0 d1 d2 : Nat) : (d.detect det sev inj addr d0 d1 d2).ct = d.ct := by rw [Dev.detect_eq]
@[simp] theorem Dev.detect_boot (d : Dev) (det sev : Nat) (inj : Bool) (addr : Option Nat) (d0 d1 d2 : Nat) : (d.detect det sev inj addr d0 d1 d2).boot = d.boot := by rw [Dev.detect_eq]
@[simp] theorem Dev.detect_trust (d : Dev) (det sev : Nat) (inj : Bool) (addr : Option Nat) (d0 d1 d2 : Nat) : (d.detect det sev inj addr d0 d1 d2).trust = d.trust := by rw [Dev.detect_eq]
@[simp] theorem Dev.detect_work (d : Dev) (det sev : Nat) (inj : Bool) (addr : Option Nat) (d0 d1 d2 : Nat) : (d.detect det sev inj addr d0 d1 d2).work = d.work := by rw [Dev.detect_eq]
@[simp] theorem Dev.detect_out (d : Dev) (det sev : Nat) (inj : Bool) (addr : Option Nat) (d0 d1 d2 : Nat) : (d.detect det sev inj addr d0 d1 d2).out = d.out := by rw [Dev.detect_eq]
@[simp] theorem Dev.detect_draws (d : Dev) (det sev : Nat) (inj : Bool) (addr : Option Nat) (d0 d1 d2 : Nat) : (d.detect det sev inj addr d0 d1 d2).draws = d.draws := by rw [Dev.detect_eq]

/-! ## A vector that fires (R455) changes the host table or the outputs -/

theorem Dev.fire_eq (d : Dev) (v : Nat) :
    d.fire v = { d with host := (d.fire v).host, out := (d.fire v).out, work := (d.fire v).work } := by
  unfold Dev.fire; dsimp only; split <;> rfl

@[simp] theorem Dev.fire_grade (d : Dev) (v : Nat) : (d.fire v).grade = d.grade := by rw [Dev.fire_eq]
@[simp] theorem Dev.fire_now (d : Dev) (v : Nat) : (d.fire v).now = d.now := by rw [Dev.fire_eq]
@[simp] theorem Dev.fire_mem (d : Dev) (v : Nat) : (d.fire v).mem = d.mem := by rw [Dev.fire_eq]
@[simp] theorem Dev.fire_poison (d : Dev) (v : Nat) : (d.fire v).poison = d.poison := by rw [Dev.fire_eq]
@[simp] theorem Dev.fire_cores (d : Dev) (v : Nat) : (d.fire v).cores = d.cores := by rw [Dev.fire_eq]
@[simp] theorem Dev.fire_queues (d : Dev) (v : Nat) : (d.fire v).queues = d.queues := by rw [Dev.fire_eq]
@[simp] theorem Dev.fire_inflight (d : Dev) (v : Nat) : (d.fire v).inflight = d.inflight := by rw [Dev.fire_eq]
@[simp] theorem Dev.fire_nextId (d : Dev) (v : Nat) : (d.fire v).nextId = d.nextId := by rw [Dev.fire_eq]
@[simp] theorem Dev.fire_lists (d : Dev) (v : Nat) : (d.fire v).lists = d.lists := by rw [Dev.fire_eq]
@[simp] theorem Dev.fire_accepted (d : Dev) (v : Nat) : (d.fire v).accepted = d.accepted := by rw [Dev.fire_eq]
@[simp] theorem Dev.fire_job (d : Dev) (v : Nat) : (d.fire v).job = d.job := by rw [Dev.fire_eq]
@[simp] theorem Dev.fire_depot (d : Dev) (v : Nat) : (d.fire v).depot = d.depot := by rw [Dev.fire_eq]
@[simp] theorem Dev.fire_place (d : Dev) (v : Nat) : (d.fire v).place = d.place := by rw [Dev.fire_eq]
@[simp] theorem Dev.fire_wells (d : Dev) (v : Nat) : (d.fire v).wells = d.wells := by rw [Dev.fire_eq]
@[simp] theorem Dev.fire_bz (d : Dev) (v : Nat) : (d.fire v).bz = d.bz := by rw [Dev.fire_eq]
@[simp] theorem Dev.fire_rd (d : Dev) (v : Nat) : (d.fire v).rd = d.rd := by rw [Dev.fire_eq]
@[simp] theorem Dev.fire_fx (d : Dev) (v : Nat) : (d.fire v).fx = d.fx := by rw [Dev.fire_eq]
@[simp] theorem Dev.fire_scale (d : Dev) (v : Nat) : (d.fire v).scale = d.scale := by rw [Dev.fire_eq]
@[simp] theorem Dev.fire_pw (d : Dev) (v : Nat) : (d.fire v).pw = d.pw := by rw [Dev.fire_eq]
@[simp] theorem Dev.fire_tm (d : Dev) (v : Nat) : (d.fire v).tm = d.tm := by rw [Dev.fire_eq]
@[simp] theorem Dev.fire_ct (d : Dev) (v : Nat) : (d.fire v).ct = d.ct := by rw [Dev.fire_eq]
@[simp] theorem Dev.fire_er (d : Dev) (v : Nat) : (d.fire v).er = d.er := by rw [Dev.fire_eq]
@[simp] theorem Dev.fire_boot (d : Dev) (v : Nat) : (d.fire v).boot = d.boot := by rw [Dev.fire_eq]
@[simp] theorem Dev.fire_trust (d : Dev) (v : Nat) : (d.fire v).trust = d.trust := by rw [Dev.fire_eq]
@[simp] theorem Dev.fire_draws (d : Dev) (v : Nat) : (d.fire v).draws = d.draws := by rw [Dev.fire_eq]

/-! ## A workload that retires (R533) changes the counters, and the recorder at the first excess -/

theorem Dev.retireWork_eq (d : Dev) (row achieved : Nat) (b : Bound) (covered : Bool) :
    d.retireWork row achieved b covered = { d with ct := (d.retireWork row achieved b covered).ct, er := (d.retireWork row achieved b covered).er } := by
  unfold Dev.retireWork; split
  · rfl
  · dsimp only; split
    · rw [Dev.detect_eq]
    · rfl

@[simp] theorem Dev.retireWork_grade (d : Dev) (row achieved : Nat) (b : Bound) (covered : Bool) : (d.retireWork row achieved b covered).grade = d.grade := by rw [Dev.retireWork_eq]
@[simp] theorem Dev.retireWork_now (d : Dev) (row achieved : Nat) (b : Bound) (covered : Bool) : (d.retireWork row achieved b covered).now = d.now := by rw [Dev.retireWork_eq]
@[simp] theorem Dev.retireWork_mem (d : Dev) (row achieved : Nat) (b : Bound) (covered : Bool) : (d.retireWork row achieved b covered).mem = d.mem := by rw [Dev.retireWork_eq]
@[simp] theorem Dev.retireWork_poison (d : Dev) (row achieved : Nat) (b : Bound) (covered : Bool) : (d.retireWork row achieved b covered).poison = d.poison := by rw [Dev.retireWork_eq]
@[simp] theorem Dev.retireWork_cores (d : Dev) (row achieved : Nat) (b : Bound) (covered : Bool) : (d.retireWork row achieved b covered).cores = d.cores := by rw [Dev.retireWork_eq]
@[simp] theorem Dev.retireWork_queues (d : Dev) (row achieved : Nat) (b : Bound) (covered : Bool) : (d.retireWork row achieved b covered).queues = d.queues := by rw [Dev.retireWork_eq]
@[simp] theorem Dev.retireWork_inflight (d : Dev) (row achieved : Nat) (b : Bound) (covered : Bool) : (d.retireWork row achieved b covered).inflight = d.inflight := by rw [Dev.retireWork_eq]
@[simp] theorem Dev.retireWork_nextId (d : Dev) (row achieved : Nat) (b : Bound) (covered : Bool) : (d.retireWork row achieved b covered).nextId = d.nextId := by rw [Dev.retireWork_eq]
@[simp] theorem Dev.retireWork_lists (d : Dev) (row achieved : Nat) (b : Bound) (covered : Bool) : (d.retireWork row achieved b covered).lists = d.lists := by rw [Dev.retireWork_eq]
@[simp] theorem Dev.retireWork_accepted (d : Dev) (row achieved : Nat) (b : Bound) (covered : Bool) : (d.retireWork row achieved b covered).accepted = d.accepted := by rw [Dev.retireWork_eq]
@[simp] theorem Dev.retireWork_job (d : Dev) (row achieved : Nat) (b : Bound) (covered : Bool) : (d.retireWork row achieved b covered).job = d.job := by rw [Dev.retireWork_eq]
@[simp] theorem Dev.retireWork_depot (d : Dev) (row achieved : Nat) (b : Bound) (covered : Bool) : (d.retireWork row achieved b covered).depot = d.depot := by rw [Dev.retireWork_eq]
@[simp] theorem Dev.retireWork_place (d : Dev) (row achieved : Nat) (b : Bound) (covered : Bool) : (d.retireWork row achieved b covered).place = d.place := by rw [Dev.retireWork_eq]
@[simp] theorem Dev.retireWork_wells (d : Dev) (row achieved : Nat) (b : Bound) (covered : Bool) : (d.retireWork row achieved b covered).wells = d.wells := by rw [Dev.retireWork_eq]
@[simp] theorem Dev.retireWork_bz (d : Dev) (row achieved : Nat) (b : Bound) (covered : Bool) : (d.retireWork row achieved b covered).bz = d.bz := by rw [Dev.retireWork_eq]
@[simp] theorem Dev.retireWork_rd (d : Dev) (row achieved : Nat) (b : Bound) (covered : Bool) : (d.retireWork row achieved b covered).rd = d.rd := by rw [Dev.retireWork_eq]
@[simp] theorem Dev.retireWork_fx (d : Dev) (row achieved : Nat) (b : Bound) (covered : Bool) : (d.retireWork row achieved b covered).fx = d.fx := by rw [Dev.retireWork_eq]
@[simp] theorem Dev.retireWork_host (d : Dev) (row achieved : Nat) (b : Bound) (covered : Bool) : (d.retireWork row achieved b covered).host = d.host := by rw [Dev.retireWork_eq]
@[simp] theorem Dev.retireWork_scale (d : Dev) (row achieved : Nat) (b : Bound) (covered : Bool) : (d.retireWork row achieved b covered).scale = d.scale := by rw [Dev.retireWork_eq]
@[simp] theorem Dev.retireWork_pw (d : Dev) (row achieved : Nat) (b : Bound) (covered : Bool) : (d.retireWork row achieved b covered).pw = d.pw := by rw [Dev.retireWork_eq]
@[simp] theorem Dev.retireWork_tm (d : Dev) (row achieved : Nat) (b : Bound) (covered : Bool) : (d.retireWork row achieved b covered).tm = d.tm := by rw [Dev.retireWork_eq]
@[simp] theorem Dev.retireWork_boot (d : Dev) (row achieved : Nat) (b : Bound) (covered : Bool) : (d.retireWork row achieved b covered).boot = d.boot := by rw [Dev.retireWork_eq]
@[simp] theorem Dev.retireWork_trust (d : Dev) (row achieved : Nat) (b : Bound) (covered : Bool) : (d.retireWork row achieved b covered).trust = d.trust := by rw [Dev.retireWork_eq]
@[simp] theorem Dev.retireWork_work (d : Dev) (row achieved : Nat) (b : Bound) (covered : Bool) : (d.retireWork row achieved b covered).work = d.work := by rw [Dev.retireWork_eq]
@[simp] theorem Dev.retireWork_out (d : Dev) (row achieved : Nat) (b : Bound) (covered : Bool) : (d.retireWork row achieved b covered).out = d.out := by rw [Dev.retireWork_eq]
@[simp] theorem Dev.retireWork_draws (d : Dev) (row achieved : Nat) (b : Bound) (covered : Bool) : (d.retireWork row achieved b covered).draws = d.draws := by rw [Dev.retireWork_eq]

/-! ## The end of an HBM streaming interval (R533) -/

theorem Dev.streamRoll_eq (d : Dev) (before : Nat) :
    d.streamRoll before = { d with ct := (d.streamRoll before).ct, er := (d.streamRoll before).er } := by
  unfold Dev.streamRoll Dev.streamEnd; split
  · rfl
  · split
    · rfl
    · dsimp only; rw [Dev.retireWork_eq]

@[simp] theorem Dev.streamRoll_grade (d : Dev) (before : Nat) : (d.streamRoll before).grade = d.grade := by rw [Dev.streamRoll_eq]
@[simp] theorem Dev.streamRoll_now (d : Dev) (before : Nat) : (d.streamRoll before).now = d.now := by rw [Dev.streamRoll_eq]
@[simp] theorem Dev.streamRoll_mem (d : Dev) (before : Nat) : (d.streamRoll before).mem = d.mem := by rw [Dev.streamRoll_eq]
@[simp] theorem Dev.streamRoll_poison (d : Dev) (before : Nat) : (d.streamRoll before).poison = d.poison := by rw [Dev.streamRoll_eq]
@[simp] theorem Dev.streamRoll_cores (d : Dev) (before : Nat) : (d.streamRoll before).cores = d.cores := by rw [Dev.streamRoll_eq]
@[simp] theorem Dev.streamRoll_queues (d : Dev) (before : Nat) : (d.streamRoll before).queues = d.queues := by rw [Dev.streamRoll_eq]
@[simp] theorem Dev.streamRoll_inflight (d : Dev) (before : Nat) : (d.streamRoll before).inflight = d.inflight := by rw [Dev.streamRoll_eq]
@[simp] theorem Dev.streamRoll_nextId (d : Dev) (before : Nat) : (d.streamRoll before).nextId = d.nextId := by rw [Dev.streamRoll_eq]
@[simp] theorem Dev.streamRoll_lists (d : Dev) (before : Nat) : (d.streamRoll before).lists = d.lists := by rw [Dev.streamRoll_eq]
@[simp] theorem Dev.streamRoll_accepted (d : Dev) (before : Nat) : (d.streamRoll before).accepted = d.accepted := by rw [Dev.streamRoll_eq]
@[simp] theorem Dev.streamRoll_job (d : Dev) (before : Nat) : (d.streamRoll before).job = d.job := by rw [Dev.streamRoll_eq]
@[simp] theorem Dev.streamRoll_depot (d : Dev) (before : Nat) : (d.streamRoll before).depot = d.depot := by rw [Dev.streamRoll_eq]
@[simp] theorem Dev.streamRoll_place (d : Dev) (before : Nat) : (d.streamRoll before).place = d.place := by rw [Dev.streamRoll_eq]
@[simp] theorem Dev.streamRoll_wells (d : Dev) (before : Nat) : (d.streamRoll before).wells = d.wells := by rw [Dev.streamRoll_eq]
@[simp] theorem Dev.streamRoll_bz (d : Dev) (before : Nat) : (d.streamRoll before).bz = d.bz := by rw [Dev.streamRoll_eq]
@[simp] theorem Dev.streamRoll_rd (d : Dev) (before : Nat) : (d.streamRoll before).rd = d.rd := by rw [Dev.streamRoll_eq]
@[simp] theorem Dev.streamRoll_fx (d : Dev) (before : Nat) : (d.streamRoll before).fx = d.fx := by rw [Dev.streamRoll_eq]
@[simp] theorem Dev.streamRoll_host (d : Dev) (before : Nat) : (d.streamRoll before).host = d.host := by rw [Dev.streamRoll_eq]
@[simp] theorem Dev.streamRoll_scale (d : Dev) (before : Nat) : (d.streamRoll before).scale = d.scale := by rw [Dev.streamRoll_eq]
@[simp] theorem Dev.streamRoll_pw (d : Dev) (before : Nat) : (d.streamRoll before).pw = d.pw := by rw [Dev.streamRoll_eq]
@[simp] theorem Dev.streamRoll_tm (d : Dev) (before : Nat) : (d.streamRoll before).tm = d.tm := by rw [Dev.streamRoll_eq]
@[simp] theorem Dev.streamRoll_boot (d : Dev) (before : Nat) : (d.streamRoll before).boot = d.boot := by rw [Dev.streamRoll_eq]
@[simp] theorem Dev.streamRoll_trust (d : Dev) (before : Nat) : (d.streamRoll before).trust = d.trust := by rw [Dev.streamRoll_eq]
@[simp] theorem Dev.streamRoll_work (d : Dev) (before : Nat) : (d.streamRoll before).work = d.work := by rw [Dev.streamRoll_eq]
@[simp] theorem Dev.streamRoll_out (d : Dev) (before : Nat) : (d.streamRoll before).out = d.out := by rw [Dev.streamRoll_eq]
@[simp] theorem Dev.streamRoll_draws (d : Dev) (before : Nat) : (d.streamRoll before).draws = d.draws := by rw [Dev.streamRoll_eq]

/-! ## Time that passes -/

theorem Dev.advance_eq (d : Dev) (dt : Nat) :
    d.advance dt = { d with now := (d.advance dt).now, tm := (d.advance dt).tm, pw := (d.advance dt).pw, wells := (d.advance dt).wells, ct := (d.advance dt).ct, er := (d.advance dt).er } := by
  unfold Dev.advance; split
  · rfl
  · rw [Dev.streamRoll_eq]; rfl

@[simp] theorem Dev.advance_grade (d : Dev) (dt : Nat) : (d.advance dt).grade = d.grade := by rw [Dev.advance_eq]
@[simp] theorem Dev.advance_mem (d : Dev) (dt : Nat) : (d.advance dt).mem = d.mem := by rw [Dev.advance_eq]
@[simp] theorem Dev.advance_poison (d : Dev) (dt : Nat) : (d.advance dt).poison = d.poison := by rw [Dev.advance_eq]
@[simp] theorem Dev.advance_cores (d : Dev) (dt : Nat) : (d.advance dt).cores = d.cores := by rw [Dev.advance_eq]
@[simp] theorem Dev.advance_queues (d : Dev) (dt : Nat) : (d.advance dt).queues = d.queues := by rw [Dev.advance_eq]
@[simp] theorem Dev.advance_inflight (d : Dev) (dt : Nat) : (d.advance dt).inflight = d.inflight := by rw [Dev.advance_eq]
@[simp] theorem Dev.advance_nextId (d : Dev) (dt : Nat) : (d.advance dt).nextId = d.nextId := by rw [Dev.advance_eq]
@[simp] theorem Dev.advance_lists (d : Dev) (dt : Nat) : (d.advance dt).lists = d.lists := by rw [Dev.advance_eq]
@[simp] theorem Dev.advance_accepted (d : Dev) (dt : Nat) : (d.advance dt).accepted = d.accepted := by rw [Dev.advance_eq]
@[simp] theorem Dev.advance_job (d : Dev) (dt : Nat) : (d.advance dt).job = d.job := by rw [Dev.advance_eq]
@[simp] theorem Dev.advance_depot (d : Dev) (dt : Nat) : (d.advance dt).depot = d.depot := by rw [Dev.advance_eq]
@[simp] theorem Dev.advance_place (d : Dev) (dt : Nat) : (d.advance dt).place = d.place := by rw [Dev.advance_eq]
@[simp] theorem Dev.advance_bz (d : Dev) (dt : Nat) : (d.advance dt).bz = d.bz := by rw [Dev.advance_eq]
@[simp] theorem Dev.advance_rd (d : Dev) (dt : Nat) : (d.advance dt).rd = d.rd := by rw [Dev.advance_eq]
@[simp] theorem Dev.advance_fx (d : Dev) (dt : Nat) : (d.advance dt).fx = d.fx := by rw [Dev.advance_eq]
@[simp] theorem Dev.advance_host (d : Dev) (dt : Nat) : (d.advance dt).host = d.host := by rw [Dev.advance_eq]
@[simp] theorem Dev.advance_scale (d : Dev) (dt : Nat) : (d.advance dt).scale = d.scale := by rw [Dev.advance_eq]
@[simp] theorem Dev.advance_boot (d : Dev) (dt : Nat) : (d.advance dt).boot = d.boot := by rw [Dev.advance_eq]
@[simp] theorem Dev.advance_trust (d : Dev) (dt : Nat) : (d.advance dt).trust = d.trust := by rw [Dev.advance_eq]
@[simp] theorem Dev.advance_work (d : Dev) (dt : Nat) : (d.advance dt).work = d.work := by rw [Dev.advance_eq]
@[simp] theorem Dev.advance_out (d : Dev) (dt : Nat) : (d.advance dt).out = d.out := by rw [Dev.advance_eq]
@[simp] theorem Dev.advance_draws (d : Dev) (dt : Nat) : (d.advance dt).draws = d.draws := by rw [Dev.advance_eq]

/-! ## Waking (R524) -/

theorem Dev.awake_eq (d : Dev)  :
    d.awake = { d with pw := (d.awake).pw, wells := (d.awake).wells } := by
  unfold Dev.awake; split <;> rfl

@[simp] theorem Dev.awake_grade (d : Dev)  : (d.awake).grade = d.grade := by rw [Dev.awake_eq]
@[simp] theorem Dev.awake_now (d : Dev)  : (d.awake).now = d.now := by rw [Dev.awake_eq]
@[simp] theorem Dev.awake_mem (d : Dev)  : (d.awake).mem = d.mem := by rw [Dev.awake_eq]
@[simp] theorem Dev.awake_poison (d : Dev)  : (d.awake).poison = d.poison := by rw [Dev.awake_eq]
@[simp] theorem Dev.awake_cores (d : Dev)  : (d.awake).cores = d.cores := by rw [Dev.awake_eq]
@[simp] theorem Dev.awake_queues (d : Dev)  : (d.awake).queues = d.queues := by rw [Dev.awake_eq]
@[simp] theorem Dev.awake_inflight (d : Dev)  : (d.awake).inflight = d.inflight := by rw [Dev.awake_eq]
@[simp] theorem Dev.awake_nextId (d : Dev)  : (d.awake).nextId = d.nextId := by rw [Dev.awake_eq]
@[simp] theorem Dev.awake_lists (d : Dev)  : (d.awake).lists = d.lists := by rw [Dev.awake_eq]
@[simp] theorem Dev.awake_accepted (d : Dev)  : (d.awake).accepted = d.accepted := by rw [Dev.awake_eq]
@[simp] theorem Dev.awake_job (d : Dev)  : (d.awake).job = d.job := by rw [Dev.awake_eq]
@[simp] theorem Dev.awake_depot (d : Dev)  : (d.awake).depot = d.depot := by rw [Dev.awake_eq]
@[simp] theorem Dev.awake_place (d : Dev)  : (d.awake).place = d.place := by rw [Dev.awake_eq]
@[simp] theorem Dev.awake_bz (d : Dev)  : (d.awake).bz = d.bz := by rw [Dev.awake_eq]
@[simp] theorem Dev.awake_rd (d : Dev)  : (d.awake).rd = d.rd := by rw [Dev.awake_eq]
@[simp] theorem Dev.awake_fx (d : Dev)  : (d.awake).fx = d.fx := by rw [Dev.awake_eq]
@[simp] theorem Dev.awake_host (d : Dev)  : (d.awake).host = d.host := by rw [Dev.awake_eq]
@[simp] theorem Dev.awake_scale (d : Dev)  : (d.awake).scale = d.scale := by rw [Dev.awake_eq]
@[simp] theorem Dev.awake_tm (d : Dev)  : (d.awake).tm = d.tm := by rw [Dev.awake_eq]
@[simp] theorem Dev.awake_ct (d : Dev)  : (d.awake).ct = d.ct := by rw [Dev.awake_eq]
@[simp] theorem Dev.awake_er (d : Dev)  : (d.awake).er = d.er := by rw [Dev.awake_eq]
@[simp] theorem Dev.awake_boot (d : Dev)  : (d.awake).boot = d.boot := by rw [Dev.awake_eq]
@[simp] theorem Dev.awake_trust (d : Dev)  : (d.awake).trust = d.trust := by rw [Dev.awake_eq]
@[simp] theorem Dev.awake_work (d : Dev)  : (d.awake).work = d.work := by rw [Dev.awake_eq]
@[simp] theorem Dev.awake_out (d : Dev)  : (d.awake).out = d.out := by rw [Dev.awake_eq]
@[simp] theorem Dev.awake_draws (d : Dev)  : (d.awake).draws = d.draws := by rw [Dev.awake_eq]

/-! ## Delivery of a record (R542, R544) -/

theorem Dev.deliverOne_eq (d : Dev)  :
    d.deliverOne = { d with er := (d.deliverOne).er, host := (d.deliverOne).host, out := (d.deliverOne).out, work := (d.deliverOne).work } := by
  have key : ∀ e : Dev, e = { d with er := e.er, host := e.host, out := e.out, work := e.work } → ∀ (b : Bool),
      let x := if b = true then e.fire e.errVector else e
      x = { d with er := x.er, host := x.host, out := x.out, work := x.work } := by
    intro e he b
    cases b
    · exact he
    · show e.fire e.errVector = _
      simp only [if_true]
      unfold Dev.fire
      dsimp only
      split <;> simp only [Dev.setMsix, Dev.emit] <;> rw [he]
  unfold Dev.deliverOne
  split
  · rfl
  · dsimp only
    by_cases h : (d.er.ringOn && decide (d.er.used < d.er.ringSize)) = true
    · simp only [h, if_true]
      apply key
      rfl
    · simp only [h, Bool.false_eq_true, if_false]

@[simp] theorem Dev.deliverOne_grade (d : Dev)  : (d.deliverOne).grade = d.grade := by rw [Dev.deliverOne_eq]
@[simp] theorem Dev.deliverOne_now (d : Dev)  : (d.deliverOne).now = d.now := by rw [Dev.deliverOne_eq]
@[simp] theorem Dev.deliverOne_mem (d : Dev)  : (d.deliverOne).mem = d.mem := by rw [Dev.deliverOne_eq]
@[simp] theorem Dev.deliverOne_poison (d : Dev)  : (d.deliverOne).poison = d.poison := by rw [Dev.deliverOne_eq]
@[simp] theorem Dev.deliverOne_cores (d : Dev)  : (d.deliverOne).cores = d.cores := by rw [Dev.deliverOne_eq]
@[simp] theorem Dev.deliverOne_queues (d : Dev)  : (d.deliverOne).queues = d.queues := by rw [Dev.deliverOne_eq]
@[simp] theorem Dev.deliverOne_inflight (d : Dev)  : (d.deliverOne).inflight = d.inflight := by rw [Dev.deliverOne_eq]
@[simp] theorem Dev.deliverOne_nextId (d : Dev)  : (d.deliverOne).nextId = d.nextId := by rw [Dev.deliverOne_eq]
@[simp] theorem Dev.deliverOne_lists (d : Dev)  : (d.deliverOne).lists = d.lists := by rw [Dev.deliverOne_eq]
@[simp] theorem Dev.deliverOne_accepted (d : Dev)  : (d.deliverOne).accepted = d.accepted := by rw [Dev.deliverOne_eq]
@[simp] theorem Dev.deliverOne_job (d : Dev)  : (d.deliverOne).job = d.job := by rw [Dev.deliverOne_eq]
@[simp] theorem Dev.deliverOne_depot (d : Dev)  : (d.deliverOne).depot = d.depot := by rw [Dev.deliverOne_eq]
@[simp] theorem Dev.deliverOne_place (d : Dev)  : (d.deliverOne).place = d.place := by rw [Dev.deliverOne_eq]
@[simp] theorem Dev.deliverOne_wells (d : Dev)  : (d.deliverOne).wells = d.wells := by rw [Dev.deliverOne_eq]
@[simp] theorem Dev.deliverOne_bz (d : Dev)  : (d.deliverOne).bz = d.bz := by rw [Dev.deliverOne_eq]
@[simp] theorem Dev.deliverOne_rd (d : Dev)  : (d.deliverOne).rd = d.rd := by rw [Dev.deliverOne_eq]
@[simp] theorem Dev.deliverOne_fx (d : Dev)  : (d.deliverOne).fx = d.fx := by rw [Dev.deliverOne_eq]
@[simp] theorem Dev.deliverOne_scale (d : Dev)  : (d.deliverOne).scale = d.scale := by rw [Dev.deliverOne_eq]
@[simp] theorem Dev.deliverOne_pw (d : Dev)  : (d.deliverOne).pw = d.pw := by rw [Dev.deliverOne_eq]
@[simp] theorem Dev.deliverOne_tm (d : Dev)  : (d.deliverOne).tm = d.tm := by rw [Dev.deliverOne_eq]
@[simp] theorem Dev.deliverOne_ct (d : Dev)  : (d.deliverOne).ct = d.ct := by rw [Dev.deliverOne_eq]
@[simp] theorem Dev.deliverOne_boot (d : Dev)  : (d.deliverOne).boot = d.boot := by rw [Dev.deliverOne_eq]
@[simp] theorem Dev.deliverOne_trust (d : Dev)  : (d.deliverOne).trust = d.trust := by rw [Dev.deliverOne_eq]
@[simp] theorem Dev.deliverOne_draws (d : Dev)  : (d.deliverOne).draws = d.draws := by rw [Dev.deliverOne_eq]

/-! ## The valid bits that a write sets (R333) -/

theorem Dev.markWritten_eq (d : Dev) (a n : Nat) :
    d.markWritten a n = { d with wells := (d.markWritten a n).wells } := by
  unfold Dev.markWritten
  generalize linesOf a n = ls
  suffices h : ∀ (f : Dev → Nat → Dev), (∀ d l, f d l = { d with wells := (f d l).wells }) → ∀ d : Dev, ls.foldl f d = { d with wells := (ls.foldl f d).wells } by
    apply h
    intro d l
    dsimp only
    split <;> rfl
  intro f hf
  induction ls with
  | nil => intro d; rfl
  | cons l ls ih => intro d; simp only [List.foldl_cons]; rw [ih (f d l), hf d l]

@[simp] theorem Dev.markWritten_grade (d : Dev) (a n : Nat) : (d.markWritten a n).grade = d.grade := by rw [Dev.markWritten_eq]
@[simp] theorem Dev.markWritten_now (d : Dev) (a n : Nat) : (d.markWritten a n).now = d.now := by rw [Dev.markWritten_eq]
@[simp] theorem Dev.markWritten_poison (d : Dev) (a n : Nat) : (d.markWritten a n).poison = d.poison := by rw [Dev.markWritten_eq]
@[simp] theorem Dev.markWritten_cores (d : Dev) (a n : Nat) : (d.markWritten a n).cores = d.cores := by rw [Dev.markWritten_eq]
@[simp] theorem Dev.markWritten_queues (d : Dev) (a n : Nat) : (d.markWritten a n).queues = d.queues := by rw [Dev.markWritten_eq]
@[simp] theorem Dev.markWritten_inflight (d : Dev) (a n : Nat) : (d.markWritten a n).inflight = d.inflight := by rw [Dev.markWritten_eq]
@[simp] theorem Dev.markWritten_nextId (d : Dev) (a n : Nat) : (d.markWritten a n).nextId = d.nextId := by rw [Dev.markWritten_eq]
@[simp] theorem Dev.markWritten_lists (d : Dev) (a n : Nat) : (d.markWritten a n).lists = d.lists := by rw [Dev.markWritten_eq]
@[simp] theorem Dev.markWritten_accepted (d : Dev) (a n : Nat) : (d.markWritten a n).accepted = d.accepted := by rw [Dev.markWritten_eq]
@[simp] theorem Dev.markWritten_job (d : Dev) (a n : Nat) : (d.markWritten a n).job = d.job := by rw [Dev.markWritten_eq]
@[simp] theorem Dev.markWritten_depot (d : Dev) (a n : Nat) : (d.markWritten a n).depot = d.depot := by rw [Dev.markWritten_eq]
@[simp] theorem Dev.markWritten_place (d : Dev) (a n : Nat) : (d.markWritten a n).place = d.place := by rw [Dev.markWritten_eq]
@[simp] theorem Dev.markWritten_bz (d : Dev) (a n : Nat) : (d.markWritten a n).bz = d.bz := by rw [Dev.markWritten_eq]
@[simp] theorem Dev.markWritten_rd (d : Dev) (a n : Nat) : (d.markWritten a n).rd = d.rd := by rw [Dev.markWritten_eq]
@[simp] theorem Dev.markWritten_fx (d : Dev) (a n : Nat) : (d.markWritten a n).fx = d.fx := by rw [Dev.markWritten_eq]
@[simp] theorem Dev.markWritten_host (d : Dev) (a n : Nat) : (d.markWritten a n).host = d.host := by rw [Dev.markWritten_eq]
@[simp] theorem Dev.markWritten_scale (d : Dev) (a n : Nat) : (d.markWritten a n).scale = d.scale := by rw [Dev.markWritten_eq]
@[simp] theorem Dev.markWritten_pw (d : Dev) (a n : Nat) : (d.markWritten a n).pw = d.pw := by rw [Dev.markWritten_eq]
@[simp] theorem Dev.markWritten_tm (d : Dev) (a n : Nat) : (d.markWritten a n).tm = d.tm := by rw [Dev.markWritten_eq]
@[simp] theorem Dev.markWritten_ct (d : Dev) (a n : Nat) : (d.markWritten a n).ct = d.ct := by rw [Dev.markWritten_eq]
@[simp] theorem Dev.markWritten_er (d : Dev) (a n : Nat) : (d.markWritten a n).er = d.er := by rw [Dev.markWritten_eq]
@[simp] theorem Dev.markWritten_boot (d : Dev) (a n : Nat) : (d.markWritten a n).boot = d.boot := by rw [Dev.markWritten_eq]
@[simp] theorem Dev.markWritten_trust (d : Dev) (a n : Nat) : (d.markWritten a n).trust = d.trust := by rw [Dev.markWritten_eq]
@[simp] theorem Dev.markWritten_work (d : Dev) (a n : Nat) : (d.markWritten a n).work = d.work := by rw [Dev.markWritten_eq]
@[simp] theorem Dev.markWritten_out (d : Dev) (a n : Nat) : (d.markWritten a n).out = d.out := by rw [Dev.markWritten_eq]
@[simp] theorem Dev.markWritten_draws (d : Dev) (a n : Nat) : (d.markWritten a n).draws = d.draws := by rw [Dev.markWritten_eq]

/-! ## A write to device memory (R327, R330, R333, R398) -/

theorem Dev.write_eq (d : Dev) (a : Nat) (bs : List Byte) :
    d.write a bs = { d with mem := (d.write a bs).mem, poison := (d.write a bs).poison, wells := (d.write a bs).wells, work := (d.write a bs).work, fx := (d.write a bs).fx, depot := (d.write a bs).depot, ct := (d.write a bs).ct } := by
  unfold Dev.write Dev.land Dev.moveHbm; rw [Dev.markWritten_eq]

@[simp] theorem Dev.write_grade (d : Dev) (a : Nat) (bs : List Byte) : (d.write a bs).grade = d.grade := by rw [Dev.write_eq]
@[simp] theorem Dev.write_now (d : Dev) (a : Nat) (bs : List Byte) : (d.write a bs).now = d.now := by rw [Dev.write_eq]
@[simp] theorem Dev.write_cores (d : Dev) (a : Nat) (bs : List Byte) : (d.write a bs).cores = d.cores := by rw [Dev.write_eq]
@[simp] theorem Dev.write_queues (d : Dev) (a : Nat) (bs : List Byte) : (d.write a bs).queues = d.queues := by rw [Dev.write_eq]
@[simp] theorem Dev.write_inflight (d : Dev) (a : Nat) (bs : List Byte) : (d.write a bs).inflight = d.inflight := by rw [Dev.write_eq]
@[simp] theorem Dev.write_nextId (d : Dev) (a : Nat) (bs : List Byte) : (d.write a bs).nextId = d.nextId := by rw [Dev.write_eq]
@[simp] theorem Dev.write_lists (d : Dev) (a : Nat) (bs : List Byte) : (d.write a bs).lists = d.lists := by rw [Dev.write_eq]
@[simp] theorem Dev.write_accepted (d : Dev) (a : Nat) (bs : List Byte) : (d.write a bs).accepted = d.accepted := by rw [Dev.write_eq]
@[simp] theorem Dev.write_job (d : Dev) (a : Nat) (bs : List Byte) : (d.write a bs).job = d.job := by rw [Dev.write_eq]
@[simp] theorem Dev.write_place (d : Dev) (a : Nat) (bs : List Byte) : (d.write a bs).place = d.place := by rw [Dev.write_eq]
@[simp] theorem Dev.write_bz (d : Dev) (a : Nat) (bs : List Byte) : (d.write a bs).bz = d.bz := by rw [Dev.write_eq]
@[simp] theorem Dev.write_rd (d : Dev) (a : Nat) (bs : List Byte) : (d.write a bs).rd = d.rd := by rw [Dev.write_eq]
@[simp] theorem Dev.write_host (d : Dev) (a : Nat) (bs : List Byte) : (d.write a bs).host = d.host := by rw [Dev.write_eq]
@[simp] theorem Dev.write_scale (d : Dev) (a : Nat) (bs : List Byte) : (d.write a bs).scale = d.scale := by rw [Dev.write_eq]
@[simp] theorem Dev.write_pw (d : Dev) (a : Nat) (bs : List Byte) : (d.write a bs).pw = d.pw := by rw [Dev.write_eq]
@[simp] theorem Dev.write_tm (d : Dev) (a : Nat) (bs : List Byte) : (d.write a bs).tm = d.tm := by rw [Dev.write_eq]
@[simp] theorem Dev.write_er (d : Dev) (a : Nat) (bs : List Byte) : (d.write a bs).er = d.er := by rw [Dev.write_eq]
@[simp] theorem Dev.write_boot (d : Dev) (a : Nat) (bs : List Byte) : (d.write a bs).boot = d.boot := by rw [Dev.write_eq]
@[simp] theorem Dev.write_trust (d : Dev) (a : Nat) (bs : List Byte) : (d.write a bs).trust = d.trust := by rw [Dev.write_eq]
@[simp] theorem Dev.write_out (d : Dev) (a : Nat) (bs : List Byte) : (d.write a bs).out = d.out := by rw [Dev.write_eq]
@[simp] theorem Dev.write_draws (d : Dev) (a : Nat) (bs : List Byte) : (d.write a bs).draws = d.draws := by rw [Dev.write_eq]

end Sys2Proof.Machine
end

