-- ==== Sys2Proof/Laws/Ops.lean ====
section
/-! SUPPORT. The shared operations: what a halt writes, injection slots with none armed, cores with nothing to start, and the way of an
accepted request from its station to its end. -/

namespace Sys2Proof.Machine

open Sys2Proof

/-! ## Memory at reset -/

theorem State.reset_mem_wf : State.reset.dev.mem.wf = true := rfl

/-! ## Bytes and the snapshot of a halt (R103) -/

theorem length_leBytes (n v : Nat) : (leBytes n v).length = n := by
  induction n generalizing v with
  | zero => rfl
  | succ n ih => simp [leBytes, ih]

theorem length_slice (bs : List Byte) (o n : Nat) : (slice bs o n).length = n := by
  simp [slice]

theorem length_haltRecord (d : Dev) (c : Nat) (h : HaltInfo) : (d.haltRecord c h).length = 128 := by
  simp [Dev.haltRecord, length_leBytes, length_slice]

theorem length_snapQueue (d : Dev) (c q : Nat) : (d.snapQueue c q).length = 8 := by
  unfold Dev.snapQueue
  split <;> simp [length_leBytes, zeros]

theorem length_snapshot (d : Dev) (c : Nat) (h : HaltInfo) (hc : (d.core c).counters.length = 64) : (d.snapshot c h).length = 1024 := by
  simp only [Dev.snapshot, List.length_append, length_haltRecord, length_leBytes, List.length_flatMap, length_snapQueue, zeros, List.length_replicate]
  simp [hc]

theorem stopFailing_facts (s : CoreSt) (u n) : (s.stopFailing u n).flags = s.flags ∧ (s.stopFailing u n).counters = s.counters ∧ (s.stopFailing u n).seqs = s.seqs := by
  unfold CoreSt.stopFailing
  split
  · simp
  · split
    · simp
    · split <;> cases u <;> simp [CoreSt.setQueue]

/-! ## Cores and queues -/

theorem core_setCore (d : Dev) (c f) (h : c < d.cores.length) : (d.setCore c f).core c = f (d.core c) := by
  simp [Dev.core, Dev.setCore, List.getD_eq_getElem?_getD, h]

theorem core_setCore_ne (d : Dev) (c i f) (h : i ≠ c) : (d.setCore c f).core i = d.core i := by
  simp [Dev.core, Dev.setCore, List.getD_eq_getElem?_getD, Ne.symm h]

theorem q_setQ (d : Dev) (i : Nat) (f) (s : QState) (h : d.q? i = some s) : (d.setQ i f).q? i = some (f s) := by
  simp only [Dev.q?] at h
  simp [Dev.q?, Dev.setQ, h]

/-! ## No slot armed (R549) -/

theorem examine_none (p : InjSlot → Bool) (ss : List InjSlot) (h : ∀ s ∈ ss, p s = false) : examineSlots p ss = (none, ss) := by
  induction ss with
  | nil => rfl
  | cons s ss ih =>
    unfold examineSlots
    rw [if_neg (by simp [h s (by simp)]), ih (fun x hx => h x (List.mem_cons_of_mem _ hx))]

theorem mimic_unarmed (d : Dev) (det : Nat) (h : d.unarmed = true) : d.mimic det = (false, d) := by
  unfold Dev.mimic
  rw [examine_none]
  · rfl
  · intro s hs
    have := List.all_eq_true.1 h s hs
    simp only [Bool.not_eq_true'] at this
    simp [InjSlot.armedFor, this]

theorem haltInject_unarmed (d : Dev) (c : Nat) (h : d.unarmed = true) : d.haltInject c = (none, d) := by
  unfold Dev.haltInject
  dsimp only
  rw [examine_none]
  · rfl
  · intro s hs
    have := List.all_eq_true.1 h s hs
    simp only [Bool.not_eq_true'] at this
    simp [this]

theorem bridge_unarmed (d : Dev) (die : Nat) (h : d.unarmed = true) : d.bridgeCheck die = (true, d) := by
  simp [Dev.bridgeCheck, mimic_unarmed _ _ h]

theorem fire_out (d : Dev) (v : Nat) (h : (d.msixEntry v).mask = false) : Output.msix v ∈ (d.fire v).out := by
  unfold Dev.fire; simp [h, Dev.emit]

/-! ## Nothing to start or to go on -/

theorem setQueue_consume (k : CoreSt) (ws : List WaitField) (u : EngUnit) : (k.consumeAll ws).queue u = k.queue u := by
  unfold CoreSt.consumeAll
  induction ws generalizing k with
  | nil => rfl
  | cons w ws ih =>
    rw [List.foldl_cons, ih]
    unfold CoreSt.consume
    split
    · rfl
    · split <;> cases u <;> rfl

theorem atRest_iff (k : CoreSt) (h : k.atRest = true) : k.mx = [] ∧ k.pipe = [] ∧ k.vx = [] ∧ k.ls = [] ∧ k.st = [] ∧ k.waiting = none ∧ k.ending = none := by
  simpa [CoreSt.atRest, List.isEmpty_iff, Option.isNone_iff_eq_none, and_assoc] using h

theorem reevaluate_rest (d : Dev) (c : Nat) (h : (d.core c).atRest = true) : d.reevaluate c = d := by
  obtain ⟨a, pp, b, e, f, g, i⟩ := atRest_iff _ h
  have hs (u) : d.tryStart c u = d := by
    unfold Dev.tryStart; cases u <;> simp [CoreSt.queue, a, b, e, f]
  simp [Dev.reevaluate, hs, Dev.tryWait, g]

theorem settleCore_rest (d : Dev) (c : Nat) (h : (d.core c).atRest = true) : d.settleCore c = d := by
  obtain ⟨a, pp, b, e, f, g, i⟩ := atRest_iff _ h
  have hs (u) : d.settleCmd c u = d := by
    unfold Dev.settleCmd Dev.running; cases u <;> simp [CoreSt.queue, a, b, e, f]
  have hj : d.settleJob c = d := by simp [Dev.settleJob, pp]
  simp [Dev.settleCore, hs, hj]

/-! ## Accepted requests -/

theorem serves_oldest {d : Dev} {c a pre post} (h : d.serves c a pre post) (p : Op → Bool) (hp : p a.cmd.op = true) :
    d.oldest c p = some a := by
  obtain ⟨h1, h2, h3, h4, _⟩ := h
  unfold Dev.oldest
  rw [h1, List.find?_append, List.find?_eq_none.2]
  · simp [h2, h3, hp]
  · intro x hx; simp [h4 x hx]

theorem finishEnd_none {d : Dev} {c} (h : (d.core c).ending = none) : d.finishEnd c = d := by
  unfold Dev.finishEnd; simp [h]

theorem acc_at {d : Dev} {a : Accepted} {pre post} (h : d.accepted = pre ++ a :: post) (hn : ∀ x ∈ pre ++ post, x.id ≠ a.id) :
    d.acc a.id = some a := by
  unfold Dev.acc
  rw [h, List.find?_append, List.find?_eq_none.2]
  · simp
  · intro x hx; simp [hn x (by simp [hx])]

theorem dropAcc_at {d : Dev} {a : Accepted} {pre post} (h : d.accepted = pre ++ a :: post) (hn : ∀ x ∈ pre ++ post, x.id ≠ a.id)
    (hr : a.refs = []) : d.dropAcc a.id = d.withAccepted (pre ++ post) := by
  unfold Dev.dropAcc
  rw [acc_at h hn]
  simp only [hr, Dev.dropRefs, List.foldl_nil, Dev.withAccepted, h]
  congr 1
  rw [List.filter_append, List.filter_cons_of_neg (by simp), List.filter_eq_self.2, List.filter_eq_self.2]
  · intro x hx; simp [hn x (by simp [hx])]
  · intro x hx; simp [hn x (by simp [hx])]

theorem completeAcc_at {d : Dev} {c : Nat} {a : Accepted} {pre post} (h : d.accepted = pre ++ a :: post)
    (hn : ∀ x ∈ pre ++ post, x.id ≠ a.id) (hr : a.refs = []) (hc : a.core = c) (hs : a.cmd.signals = [])
    (he : (d.core c).ending = none) : d.completeAcc a.id = d.withAccepted (pre ++ post) := by
  subst hc
  unfold Dev.completeAcc
  rw [acc_at h hn]
  simp only [hs, Dev.raiseSignals, List.foldl_nil]
  rw [dropAcc_at h hn hr, finishEnd_none]
  exact he

theorem beginAcc_at {d : Dev} {c a pre post} (h : d.serves c a pre post) :
    d.beginAcc a.id [] = { d with accepted := pre ++ { a with begun := true, refs := [] } :: post } := by
  obtain ⟨h1, h2, h3, h4, h5, _⟩ := h
  unfold Dev.beginAcc
  simp only [List.foldl_nil, h1]
  congr 1
  simp only [List.map_append, List.map_cons, beq_self_eq_true, if_true]
  congr 1
  · conv_rhs => rw [← List.map_id pre]
    apply List.map_congr_left; intro x hx; simp [h5 x (by simp [hx])]
  · congr 1
    conv_rhs => rw [← List.map_id post]
    apply List.map_congr_left; intro x hx; simp [h5 x (by simp [hx])]

theorem markWritten_indep (d : Dev) (xs : List Accepted) (a n : Nat) :
   (d.withAccepted xs).markWritten a n = (d.markWritten a n).withAccepted xs := by
  unfold Dev.markWritten
  generalize linesOf a n = ls
  induction ls generalizing d with
  | nil => rfl
  | cons l ls ih =>
    rw [List.foldl_cons, List.foldl_cons, ← ih]
    congr 1
    refine Eq.trans ?_ (apply_ite (fun e : Dev => e.withAccepted xs) _ _ _).symm
    rfl

theorem write_indep (d : Dev) (xs : List Accepted) (a bs) : (d.withAccepted xs).write a bs = (d.write a bs).withAccepted xs := by
  unfold Dev.write Dev.land
  rw [markWritten_indep]; rfl

theorem allocIn_eq {d : Dev} {p n k f k0 pin b e} (h : d.allocIn p n k f k0 pin = some (b, e)) :
   e = { d with depot := e.depot } := by
  unfold Dev.allocIn at h
  split at h
  · cases h
  · dsimp only at h; split at h
    · cases h
    · cases h; rfl

theorem allocIn_indep (d : Dev) (xs : List Accepted) {p n k f k0 pin} : (d.withAccepted xs).allocIn p n k f k0 pin =
   (d.allocIn p n k f k0 pin).map fun x => (x.1, x.2.withAccepted xs) := by
  unfold Dev.allocIn
  simp only [Dev.withAccepted]
  split
  · simp [*]
  · split <;> simp_all <;> rfl

theorem allocTry_indep (d : Dev) (xs : List Accepted) (x) : (d.withAccepted xs).allocTry x =
   (d.allocTry x).map fun x => (x.1, x.2.withAccepted xs) := by
  unfold Dev.allocTry
  have : (d.withAccepted xs).allocCheck x = d.allocCheck x := rfl
  rw [this]
  split
  · rfl
  · exact allocIn_indep d xs

theorem allocTry_eq {d : Dev} {x b e} (h : d.allocTry x = some (b, e)) : e = { d with depot := e.depot } := by
  unfold Dev.allocTry at h
  split at h
  · cases h
  · exact allocIn_eq h

end Sys2Proof.Machine
end

