-- ==== Sys2Proof/WellFormed.lean ====
section
/-! DEFINITION. Well-formed commands: every operand lies in the range that the manual gives the thing it names. A command
that is not well formed names a core, a queue, a port or a field value that the part cannot carry. What the part itself
checks (BAD_OPERAND, BAD_REFERENCE, BAD_FIELD and the checks of arriving messages) is not asked here. -/

namespace Sys2Proof

/-- Logical cores of the largest grade: 0 to 127 (R2). -/
def coreOk (c : Nat) : Bool := decide (c < 128)

/-- Physical cores: 0 to 143 (R2, R104). -/
def physOk (c : Nat) : Bool := decide (c < 144)

/-- Compute dies: 0 and 1 (R21). -/
def dieOk (d : Nat) : Bool := decide (d < 2)

/-- Tile queues of a core: 0 to 63 (R77). -/
def queueOk (q : Nat) : Bool := decide (q < 64)

/-- Fabric ports: 0 to 17 (R2). -/
def portOk (p : Nat) : Bool := decide (p < 18)

/-- Wells: 0 to 7 (R2). -/
def wellOk (w : Nat) : Bool := decide (w < 8)

/-- The microcode stalls of an UPDATE: of Wells in ascending order, one after another, at most 5 ms each (R481). -/
def stallsOk : List (Nat × Nat × Nat) → Bool
  | [] => true
  | [(w, a, b)] => wellOk w && decide (a ≤ b) && decide (b ≤ a + 5000)
  | (w, a, b) :: (w', a', b') :: ss =>
    wellOk w && decide (a ≤ b) && decide (b ≤ a + 5000) && decide (w < w') && decide (b ≤ a') && stallsOk ((w', a', b') :: ss)

/-- Channels of a stack: 0 to 31 (R332). -/
def stackChannelOk (c : Nat) : Bool := decide (c < 32)

/-- Collective channels: 0 to 15 (R273). -/
def collChannelOk (c : Nat) : Bool := decide (c < 16)

/-- Rings: 0 to 511 (R435). -/
def ringOk (r : Nat) : Bool := decide (r < 512)

/-- A value of `n` bits. -/
def bitsOk (n v : Nat) : Bool := decide (v < 2 ^ n)

/-- A fabric ID or rank: 13 bits (R381, R211). -/
def idOk (v : Nat) : Bool := bitsOk 13 v

/-- A command queue of a core: every unit but the control core (R73). -/
def unitOk (u : EngUnit) : Bool := u != .cc

/-- A wait field: flags 0 to 255, counters 0 to 63 (R83), thresholds below 2^32 (R84). -/
def waitOk (w : WaitField) : Bool :=
  (match w.obj with
   | .flag i => bitsOk 8 i && bitsOk 1 w.value
   | .counter i => bitsOk 6 i && bitsOk 32 w.value)

/-- A signal field: ADD values 1 to 65,535 (R86). -/
def signalOk (g : SigField) : Bool :=
  (match g.obj with
   | .flag i => bitsOk 8 i
   | .counter i => bitsOk 6 i) &&
  (match g.op with
   | .add v => decide (1 ≤ v) && bitsOk 16 v
   | _ => true)

/-- A command carries up to two wait and two signal fields (R84); its operation index is 32 bits (R104). The ranges of flag
and counter numbers are checked at run (R90), so they are not asked here. -/
def cmdOk (c : Cmd) : Bool :=
  bitsOk 32 c.opIndex && decide (c.waits.length ≤ 2) && decide (c.signals.length ≤ 2)

/-- The transport fields of a message: fabric ID, 24-bit JOB_ID, 15-bit REQ_TAG, port (R381). -/
def viaOk (v : Via) : Bool := idOk v.srcId && bitsOk 24 v.jobId && bitsOk 15 v.reqTag && portOk v.port

/-- A packet whose fields fit the header of R381 and whose payload has at most 4,096 bytes. -/
def packetOk (p : Packet) : Bool :=
  bitsOk 8 p.version && bitsOk 8 p.cls && bitsOk 8 p.op && bitsOk 8 p.flags && bitsOk 16 p.destId && bitsOk 16 p.srcId &&
  bitsOk 32 p.jobId && bitsOk 16 p.reqTag && bitsOk 16 p.stream && bitsOk 32 p.crc && bitsOk 32 p.len && bitsOk 64 p.addr &&
  decide (p.payload.length ≤ 4096)

/-- A Bazaar message whose head fields fit R211. -/
def bzMsgOk (m : BzMsg) : Bool :=
  bitsOk 8 m.version && bitsOk 8 m.kind && bitsOk 8 m.phase && bitsOk 8 m.format && bitsOk 16 m.layer &&
  bitsOk 8 m.microBatch && bitsOk 8 m.resv && bitsOk 16 m.src && bitsOk 16 m.dst && bitsOk 32 m.epoch && bitsOk 32 m.crc &&
  bitsOk 16 m.hTiles && bitsOk 48 m.resvHi && decide (m.body.length % 32 = 0)

/-- A reduction message whose head fields fit R292. -/
def redMsgOk (m : RedMsg) : Bool :=
  bitsOk 8 m.version && bitsOk 8 m.kind && bitsOk 8 m.channel && bitsOk 8 m.level && bitsOk 16 m.src && bitsOk 16 m.dst &&
  bitsOk 32 m.collId && bitsOk 32 m.epoch && bitsOk 32 m.crc && bitsOk 16 m.segment && bitsOk 48 m.resv &&
  decide (m.body.length % 32 = 0)

/-- A queue message whose head fields fit R410; only a TILE carries a tile. -/
def queueMsgOk (kind : Nat) (m : QMsg) : Bool :=
  bitsOk 8 m.version && decide (m.kind = kind) && bitsOk 8 m.queue && bitsOk 16 m.consumer && bitsOk 16 m.producer &&
  bitsOk 32 m.count && (kind == 1 || m.tile.isEmpty)

/-- A command all of whose operands lie in the ranges of the things they name. -/
def Instr.wf : Instr → Bool
  | .commandPush core unit cmd => coreOk core && unitOk unit && cmdOk cmd
  | .commandQueueRoom core => coreOk core
  | .commandStart core unit => coreOk core && unitOk unit
  | .signalArrival core _ => coreOk core
  | .tileArrival core queue => coreOk core && queueOk queue
  | .creditReturn core queue => coreOk core && queueOk queue
  | .close core unit => coreOk core && unitOk unit
  | .wait core opIndex _ waits => coreOk core && bitsOk 32 opIndex && decide (waits.length ≤ 2) && waits.all waitOk
  | .signal core opIndex _ sigs => coreOk core && bitsOk 32 opIndex && decide (sigs.length ≤ 2) && sigs.all signalOk
  | .listPush core => coreOk core
  | .listTake core opIndex => coreOk core && bitsOk 32 opIndex
  | .listTakeServed die => dieOk die
  | .affinityExpire die _ => dieOk die
  | .reservedSlotEnd core => coreOk core
  | .endRoutine core opIndex => coreOk core && bitsOk 32 opIndex
  | .load core => coreOk core
  | .store core => coreOk core
  | .gatherRows core => coreOk core
  | .scatterRows core => coreOk core
  | .matmul core => coreOk core
  | .matmulTopk core => coreOk core
  | .matmulLse core => coreOk core
  | .accPassEnd core => coreOk core
  | .drainEnd core => coreOk core
  | .map core => coreOk core
  | .reduce core => coreOk core
  | .broadcast core => coreOk core
  | .convert core => coreOk core
  | .amax core => coreOk core
  | .jobStop => true
  | .waitCycle core => coreOk core
  | .gate core => coreOk core
  | .tagReserveServed => true
  | .roundOpenServed => true
  | .dispatch core => coreOk core
  | .combine core => coreOk core
  | .header via m => viaOk via && bzMsgOk m
  | .rows via m => viaOk via && bzMsgOk m
  | .request via m => viaOk via && bzMsgOk m
  | .grant via m => viaOk via && bzMsgOk m
  | .dropList via m => viaOk via && bzMsgOk m
  | .bazaarAbort via m => viaOk via && bzMsgOk m
  | .phaseDeadline layer microBatch phase => bitsOk 16 layer && bitsOk 8 microBatch && decide (phase ≤ 4)
  | .replicaCopyDone slot => bitsOk 20 slot
  | .bzClearCounts => true
  | .bzDisable => true
  | .stashAlloc core => coreOk core
  | .versionTake core => coreOk core
  | .versionDrop core => coreOk core
  | .optUpdate core => coreOk core
  | .updateAdmit _ => true
  | .holdMaxExpire _ => true
  | .allReduce core => coreOk core
  | .reduceScatter core => coreOk core
  | .globalNorm core => coreOk core
  | .permute core => coreOk core
  | .collectiveStart channel => collChannelOk channel
  | .up via m _ => viaOk via && redMsgOk m
  | .result via m => viaOk via && redMsgOk m
  | .refuse via m => viaOk via && redMsgOk m
  | .reductionAbort via m => viaOk via && redMsgOk m
  | .normUp via m => viaOk via && redMsgOk m
  | .normResult via m => viaOk via && redMsgOk m
  | .edgeDeadline channel segment level => collChannelOk channel && bitsOk 16 segment && bitsOk 8 level
  | .segmentDeadline channel segment => collChannelOk channel && bitsOk 16 segment
  | .normDeadline channel => collChannelOk channel
  | .epochAheadTimeout channel => collChannelOk channel
  | .permuteTile via t => viaOk via && collChannelOk t.channel
  | .permuteDeadline channel => collChannelOk channel
  | .rdClearCounts => true
  | .rdDisable => true
  | .sumsq core => coreOk core
  | .requant core => coreOk core
  | .scatterAdd core => coreOk core
  | .fold core => coreOk core
  | .fill core => coreOk core
  | .scrubRange core => coreOk core
  | .wellCommandStart _ => true
  | .wellPartEnd _ _ _ _ => true
  | .wellFillDone start => wellOk start.well
  | .backgroundFillLine well _ => wellOk well
  | .droneLine well _ => wellOk well
  | .laneRepair well channel => wellOk well && stackChannelOk channel
  | .retrainPreserve well channel => wellOk well && stackChannelOk channel
  | .retrainReset well channel => wellOk well && stackChannelOk channel
  | .rowSpare well channel _ => wellOk well && stackChannelOk channel
  | .channelRepairEnd well => wellOk well
  | .wlClearCounts => true
  | .alloc core => coreOk core
  | .allocGranted pool => bitsOk 8 pool
  | .allocTimeout _ => true
  | .retain core => coreOk core
  | .release core => coreOk core
  | .prefetchRead die _ => dieOk die
  | .prefetchStreamFree die _ => dieOk die
  | .dpClearCounts => true
  | .plClearCounts => true
  | .read port p => portOk port && packetOk p
  | .write port p => portOk port && packetOk p
  | .atomic port p => portOk port && packetOk p
  | .signalPacket port p => portOk port && packetOk p
  | .completion port p => portOk port && packetOk p
  | .ack port p => portOk port && packetOk p
  | .coherentPacket port p => portOk port && packetOk p
  | .frameReplay port => portOk port
  | .requestTimeout _ => true
  | .tagQuarantineEnd dest tag => idOk dest && bitsOk 15 tag
  | .cohMemberLost fabricId => idOk fabricId
  | .fxClearCounts => true
  | .fxDisable => true
  | .queueTile via m => viaOk via && queueMsgOk 1 m
  | .queueCredit via m => viaOk via && queueMsgOk 2 m
  | .queueCloseMsg via m => viaOk via && queueMsgOk 3 m
  | .creditTimer core queue => coreOk core && queueOk queue
  | .creditResend core queue => coreOk core && queueOk queue
  | .remoteWaitExpire core queue => coreOk core && queueOk queue
  | .announce => true
  | .assignId _ src fabricId managerId => idOk src && idOk fabricId && idOk managerId
  | .group _ src members => idOk src && members.all (bitsOk 16)
  | .assignRank _ src rank => idOk src && bitsOk 16 rank
  | .fmCommand _ src _ => idOk src
  | .ptpMessage _ src port _ _ _ => idOk src && portOk port
  | .ppsEdge _ => true
  | .sourceLoss => true
  | .sqTail ring value => ringOk ring && bitsOk 32 value
  | .cqHead ring value => ringOk ring && bitsOk 32 value
  | .ringEnable ring _ => ringOk ring
  | .ringDisable ring _ => ringOk ring
  | .nop ring => ringOk ring
  | .jobLoad ring _ => ringOk ring
  | .jobStart ring => ringOk ring
  | .jobHalt ring => ringOk ring
  | .jobUnload ring => ringOk ring
  | .copy ring => ringOk ring
  | .hostAlloc ring => ringOk ring
  | .hostRelease ring => ringOk ring
  | .wellCmd ring => ringOk ring
  | .intTimer ring => ringOk ring
  | .msixUnmask vector => decide (vector < 2048)
  | .flr => true
  | .bar2Read _ _ => true
  | .bar2Write _ _ => true
  | .pcieCompletion tag _ _ => bitsOk 10 tag
  | .hostReadTimeout tag => bitsOk 10 tag
  | .registerWrite _ size _ => size == 1 || size == 2 || size == 4 || size == 8
  | .powerGood straps => bitsOk 3 straps.slotId && bitsOk 2 straps.coreSet
  | .powerGoodLoss => true
  | .perstFall straps => bitsOk 3 straps.slotId && bitsOk 2 straps.coreSet
  | .perstRelease => true
  | .staggerEnd => true
  | .selftestDone r => r.cores.all physOk && r.wells.all wellOk && r.ports.all portOk
  | .linkTrained port _ _ => portOk port
  | .fwLoad _ => true
  | .fwUpdate run => stallsOk run.stalls
  | .spareSwap core => coreOk core
  | .autoSpareSwap core => coreOk core
  | .portRetrain port _ _ => portOk port
  | .laneFault port _ => portOk port
  | .fullRetrainTimer port _ => portOk port
  | .recal _ => true
  | .svnCommit => true
  | .injectEnableWrite _ => true
  | .getVersion => true
  | .getCapabilities => true
  | .negotiateAlgorithms a h m sp => bitsOk 32 a && bitsOk 32 h && bitsOk 32 m && bitsOk 8 sp
  | .getDigests => true
  | .getCertificate slot off len => bitsOk 4 slot && bitsOk 16 off && bitsOk 16 len
  | .challenge slot nonce => bitsOk 8 slot && decide (nonce.length = 32)
  | .getMeasurements index _ nonce => bitsOk 8 index && decide (nonce.length = 32)
  | .tollhousePowerUp _ => true
  | .workCountSend die => dieOk die
  | .workCountFrame frame => decide (frame.length = 64)
  | .workStaleTimeout die => dieOk die
  | .periodicReading energy => decide (energy.length = 8)
  | .timeCheck => true
  | .senseFault channel _ => decide (channel < 8)
  | .senseClear channel => decide (channel < 8)
  | .getReading _ req => decide (req.length = 32)
  | .getLog _ req => decide (req.length = 32)
  | .getCert _ req => decide (req.length = 32)
  | .getStatus _ req => decide (req.length = 32)
  | .unseal => true
  | .tollhouseFwImage _ _ _ => true
  | .droverSag _ => true
  | .droverRaise _ => true
  | .limiterAdjust _ _ => true
  | .powerStateEnter => true
  | .wake _ => true
  | .hostLatencyTolWrite _ => true
  | .capture => true
  | .pwClearCounts => true
  | .forceWarm => true
  | .stSnapshot => true
  | .ctSnapshot _ => true
  | .ctClear => true
  | .boundUpdate _ _ _ _ after => decide (after ≤ 10000)
  | .errorRecordDeliver => true
  | .ceCoalesceEnd detector _ => bitsOk 16 detector
  | .erRingHeadWrite _ => true
  | .erRingEnable _ => true
  | .erInjArm slot _ => decide (slot < 8)
  | .supplyLow _ _ => true
  | .thermalTrip _ _ => true
  | .smbIdent => true
  | .smbState => true
  | .smbTemp => true
  | .smbPower => true
  | .smbTod _ data => decide (data.length = 8)
  | .smbTollReq _ data => decide (data.length = 32)
  | .smbTollStatus => true
  | .smbTollOffset _ off => bitsOk 16 off
  | .smbTollRead len => decide (len ≤ 240)
  | .smbAlertResponse => true
  | .jtagInstruction _ => true
  | .tollhouseSeal => true
  | .tollhousePowerLoss => true
  | .tollhouseResponseReady => true
  | .spareSwapEnd die _ => dieOk die
  | .fwUpdateEnd => true
  | .mgmtCoreSelfCheckFail core _ => bitsOk 8 core

end Sys2Proof
end

