-- ==== Sys2Proof/Tests/Slice0.lean ====
section
/-! SUPPORT. Tests: ill-formed commands refused, single steps on small devices, and a witness for every statement with hypotheses. -/

open Sys2Proof Sys2Proof.Machine

namespace Sys2Proof.Tests

set_option maxRecDepth 100000
set_option Elab.async false

/-! ## A small device to test on -/

/-- The next state's device, if the command goes on. -/
def after (c : Instr) (d : Dev) : Option Dev :=
  match exec c { pending := [], toll := Toll.reset, dev := d } with
  | .next t => some t.dev
  | _ => none

/-- A job without program. -/
def tJob : Job :=
  { prog := ⟨[], [], [], [], []⟩, stash := ⟨0, 0, false, 0, 0⟩, mgi := 0x0100, start := none, started := true, primary := none,
    fatalSeq := 0, stopped := false, hostHalt := false, errSeq := 0, halters := [] }

/-- A fabric block with fabric ID 5 of domain 0, rank 0 of a job of two, and port 0 up. -/
def tFx : Fabric :=
  { Fabric.reset with fid := some 5, jobId := 1, rankSelf := 0, ctrl := 1, ranks := [some 5, some 6],
                      ports := { PortSt.reset with up := true, width := 18 } :: List.replicate 17 PortSt.reset }

/-- A ZX9440 in JOB_LOADED with every control core running. -/
def tDev : Dev :=
  { Dev.reset .zx9440 with
    boot := { Boot.reset with st := 5, served := true }, job := some tJob, fx := tFx,
    cores := List.replicate 8 { CoreSt.reset with cc := .running } }

/-- A command with an operation and nothing else. -/
def tCmd (op : Op) : Cmd := { opIndex := 7, raw := 0, waits := [], signals := [], nanTrap := false, op := op }

/-- A queued command that has started. -/
def tRun (op : Op) : QCmd :=
  { seq := 3, cmd := tCmd op, started := true, asked := false, inputs := [], ran := false, hold := [], trap := none }

/-- A declared queue of one core's units. -/
def tQueue (num cap core : Nat) (fmt : Fmt) (p c : EngUnit) : QState :=
  { decl := ⟨num, fmt, cap, ⟨none, core, p⟩, ⟨none, core, c⟩, 0⟩, ring := [], transit := [], back := 0, credits := cap, closed := false,
    pushed := 0, creditSeen := 0, popped := 0, creditSent := 0, received := 0, firstPop := 0, closeAt := none, crossed := 0,
    quiet := false, compared := false, resend := none }

/-- An FP4 tile of one row and two columns: codes 1 and 2. -/
def tTile : List Byte := mkTile .fp4 1 2 ⟨false, false, false, false⟩ [0x7F, 0x7F, 0x7F, 0x7F] 9 fun _ c => c + 1

/-- How a message of rank 1 comes. -/
def tVia : Via := { srcId := 6, jobId := 1, reqTag := 7, port := 0 }

/-! ## Ill-formed commands are refused -/

/-- Every command that names a core alone refuses core 128. -/
theorem wf_refuses_cores : ∀ mk ∈ [Instr.commandQueueRoom, .listPush, .reservedSlotEnd, .load, .store, .gatherRows, .scatterRows, .matmul,
    .matmulTopk, .matmulLse, .accPassEnd, .drainEnd, .map, .reduce, .broadcast, .convert, .amax, .waitCycle, .gate, .dispatch, .combine,
    .stashAlloc, .versionTake, .versionDrop, .optUpdate, .allReduce, .reduceScatter, .globalNorm, .permute, .sumsq, .requant, .scatterAdd, .fold,
    .fill, .scrubRange, .alloc, .retain, .release, .spareSwap, .autoSpareSwap], (mk 128).wf = false ∧ (mk 127).wf = true := by decide

/-- Messages of the transport with nothing in them. -/
def wVia : Via := ⟨0, 0, 0, 0⟩
def wBz : BzMsg := ⟨0, 0, 0, 0, 0, 0, 0, 0, 0, 0, 0, 0, 0, []⟩
def wRed : RedMsg := ⟨0, 0, 0, 0, 0, 0, 0, 0, 0, 0, 0, []⟩
def wQ (kind : Nat) : QMsg := ⟨0, kind, 0, 0, 0, 0, []⟩
def wPk : Packet := ⟨0, 0, 0, 0, 0, 0, 0, 0, 0, 0, 0, 0, []⟩
def wPt : PermTile := ⟨0, 0, 0, 0, 0, 0, 0, false, []⟩

/-- Commands of a core with one operand too large, one per check. -/
theorem wf_refuses_core_operands : ∀ i ∈ [Instr.commandPush 128 .mx (tCmd (.close 1)), .commandPush 0 .cc (tCmd (.close 1)),
    .commandPush 0 .mx { tCmd (.close 1) with opIndex := 2 ^ 32 },
    .commandPush 0 .mx { tCmd (.close 1) with waits := List.replicate 3 ⟨.flag 1, 0, false⟩ },
    .commandPush 0 .mx { tCmd (.close 1) with signals := List.replicate 3 ⟨.flag 1, .set, none, none⟩ },
    .commandStart 128 .mx, .commandStart 0 .cc, .signalArrival 128 [], .tileArrival 128 0, .tileArrival 0 64, .creditReturn 128 0,
    .creditReturn 0 64, .close 128 .mx, .wait 128 0 0 [], .wait 0 (2 ^ 32) 0 [], .wait 0 0 0 (List.replicate 3 ⟨.flag 1, 0, false⟩),
    .wait 0 0 0 [⟨.flag 256, 0, false⟩], .wait 0 0 0 [⟨.flag 0, 2, false⟩], .wait 0 0 0 [⟨.counter 64, 0, false⟩],
    .wait 0 0 0 [⟨.counter 0, 2 ^ 32, false⟩], .signal 128 0 0 [], .signal 0 (2 ^ 32) 0 [], .signal 0 0 0 (List.replicate 3 ⟨.flag 1, .set, none, none⟩),
    .signal 0 0 0 [⟨.flag 256, .set, none, none⟩], .signal 0 0 0 [⟨.counter 64, .set, none, none⟩], .signal 0 0 0 [⟨.counter 0, .add 0, none, none⟩],
    .signal 0 0 0 [⟨.counter 0, .add 65536, none, none⟩], .listTake 128 0, .listTake 0 (2 ^ 32), .listTakeServed 2, .affinityExpire 2 0,
    .endRoutine 128 0, .endRoutine 0 (2 ^ 32), .creditTimer 128 0, .creditTimer 0 64, .creditResend 128 0, .creditResend 0 64,
    .remoteWaitExpire 128 0, .remoteWaitExpire 0 64], i.wf = false := by decide

/-- Messages, packets and deadlines, one per check; the fields of a message head are checked by one function each. -/
theorem wf_refuses_messages :
    (∀ mk ∈ [Instr.header, .rows, .request, .grant, .dropList, .bazaarAbort], (mk { wVia with port := 18 } wBz).wf = false ∧
      (mk wVia { wBz with body := [0] }).wf = false ∧ (mk wVia wBz).wf = true) ∧
    (∀ mk ∈ [(fun v m => Instr.up v m .clean), .result, .refuse, .reductionAbort, .normUp, .normResult],
      (mk { wVia with srcId := 8192 } wRed).wf = false ∧ (mk wVia { wRed with body := [0] }).wf = false ∧ (mk wVia wRed).wf = true) ∧
    (∀ mk ∈ [Instr.read, .write, .atomic, .signalPacket, .completion, .ack, .coherentPacket], (mk 18 wPk).wf = false ∧
      (mk 0 { wPk with version := 256 }).wf = false ∧ (mk 0 wPk).wf = true) ∧
    (∀ m ∈ [{ wBz with version := 256 }, { wBz with kind := 256 }, { wBz with phase := 256 }, { wBz with format := 256 }, { wBz with layer := 65536 },
      { wBz with microBatch := 256 }, { wBz with resv := 256 }, { wBz with src := 65536 }, { wBz with dst := 65536 }, { wBz with epoch := 2 ^ 32 },
      { wBz with crc := 2 ^ 32 }, { wBz with hTiles := 65536 }, { wBz with resvHi := 2 ^ 48 }, { wBz with body := [0] }], bzMsgOk m = false) ∧
    (∀ m ∈ [{ wRed with version := 256 }, { wRed with kind := 256 }, { wRed with channel := 256 }, { wRed with level := 256 },
      { wRed with src := 65536 }, { wRed with dst := 65536 }, { wRed with collId := 2 ^ 32 }, { wRed with epoch := 2 ^ 32 },
      { wRed with crc := 2 ^ 32 }, { wRed with segment := 65536 }, { wRed with resv := 2 ^ 48 }, { wRed with body := [0] }], redMsgOk m = false) ∧
    (∀ v ∈ [{ wVia with srcId := 8192 }, { wVia with jobId := 2 ^ 24 }, { wVia with reqTag := 2 ^ 15 }, { wVia with port := 18 }], viaOk v = false) ∧
    (∀ p ∈ [{ wPk with version := 256 }, { wPk with cls := 256 }, { wPk with op := 256 }, { wPk with flags := 256 }, { wPk with destId := 65536 },
      { wPk with srcId := 65536 }, { wPk with jobId := 2 ^ 32 }, { wPk with reqTag := 65536 }, { wPk with stream := 65536 },
      { wPk with crc := 2 ^ 32 }, { wPk with len := 2 ^ 32 }, { wPk with addr := 2 ^ 64 }, { wPk with payload := List.replicate 4097 0 }],
      packetOk p = false) ∧
    (∀ m ∈ [{ wQ 2 with version := 256 }, wQ 3, { wQ 2 with queue := 256 }, { wQ 2 with consumer := 65536 }, { wQ 2 with producer := 65536 },
      { wQ 2 with count := 2 ^ 32 }, { wQ 2 with tile := [0] }], queueMsgOk 2 m = false) ∧
    (∀ i ∈ [Instr.queueTile wVia (wQ 2), .queueTile { wVia with port := 18 } (wQ 1), .queueCredit wVia (wQ 1), .queueCredit { wVia with port := 18 } (wQ 2),
      .queueCloseMsg wVia (wQ 1), .queueCloseMsg { wVia with port := 18 } (wQ 3), .phaseDeadline 65536 0 0, .phaseDeadline 0 256 0, .phaseDeadline 0 0 5,
      .replicaCopyDone (2 ^ 20), .collectiveStart 16, .edgeDeadline 16 0 0, .edgeDeadline 0 65536 0, .edgeDeadline 0 0 256, .segmentDeadline 16 0,
      .segmentDeadline 0 65536, .normDeadline 16, .epochAheadTimeout 16, .permuteTile { wVia with port := 18 } wPt,
      .permuteTile wVia { wPt with channel := 16 }, .permuteDeadline 16, .frameReplay 18, .tagQuarantineEnd 8192 0, .tagQuarantineEnd 0 (2 ^ 15),
      .cohMemberLost 8192, .assignId true 8192 0 0, .assignId true 0 8192 0, .assignId true 0 0 8192, .group true 8192 [], .group true 0 [65536],
      .assignRank true 8192 0, .assignRank true 0 65536, .fmCommand true 8192 [], .ptpMessage true 8192 0 .sync none 0,
      .ptpMessage true 0 18 .sync none 0], i.wf = false) := by decide

/-- Commands of the Wells, the Depot, the host, start-up, the Tollhouse and the sidebands, one per check. -/
theorem wf_refuses_the_rest : ∀ i ∈ [Instr.wellFillDone ⟨8, false⟩, .backgroundFillLine 8 0, .droneLine 8 .clean, .laneRepair 8 0, .laneRepair 0 32,
    .retrainPreserve 8 0, .retrainPreserve 0 32, .retrainReset 8 0, .retrainReset 0 32, .rowSpare 8 0 [], .rowSpare 0 32 [], .channelRepairEnd 8,
    .allocGranted 256, .prefetchRead 2 0, .prefetchStreamFree 2 0, .sqTail 512 0, .sqTail 0 (2 ^ 32), .cqHead 512 0, .cqHead 0 (2 ^ 32),
    .ringEnable 512 0, .ringDisable 512 0, .nop 512, .jobLoad 512 (.malformed 0), .jobStart 512, .jobHalt 512, .jobUnload 512, .copy 512, .hostAlloc 512,
    .hostRelease 512, .wellCmd 512, .intTimer 512, .msixUnmask 2048, .pcieCompletion 1024 .ok [], .hostReadTimeout 1024, .registerWrite 0 3 0,
    .powerGood ⟨false, 8, false, 0, false⟩, .powerGood ⟨false, 0, false, 4, false⟩, .perstFall ⟨false, 8, false, 0, false⟩,
    .perstFall ⟨false, 0, false, 4, false⟩, .selftestDone ⟨[144], [], false, [], 0⟩, .selftestDone ⟨[], [8], false, [], 0⟩,
    .selftestDone ⟨[], [], false, [18], 0⟩, .linkTrained 18 0 false, .portRetrain 18 false false, .laneFault 18 0, .fullRetrainTimer 18 false,
    .negotiateAlgorithms (2 ^ 32) 0 0 0, .negotiateAlgorithms 0 (2 ^ 32) 0 0, .negotiateAlgorithms 0 0 (2 ^ 32) 0, .negotiateAlgorithms 0 0 0 256,
    .getCertificate 16 0 0, .getCertificate 0 65536 0, .getCertificate 0 0 65536, .challenge 256 (zeros 32), .challenge 0 [],
    .getMeasurements 256 true (zeros 32), .getMeasurements 0 true [], .workCountSend 2, .workCountFrame [], .workStaleTimeout 2, .periodicReading [],
    .senseFault 8 0, .senseClear 8, .getReading .acwald [], .getLog .acwald [], .getCert .acwald [], .getStatus .acwald [],
    .ceCoalesceEnd 65536 false, .erInjArm 8 0, .smbTod true [], .smbTollReq true [], .smbTollOffset true 65536,
    .smbTollRead 241, .spareSwapEnd 2 true, .mgmtCoreSelfCheckFail 256 true], i.wf = false := by decide

/-- Stalls of an UPDATE: a Well that is not there, an end before its begin, one above 5 ms, Wells out of order, stalls that overlap (R481). -/
theorem wf_refuses_stalls : ∀ ss ∈ [[(8, 0, 0)], [(0, 2, 1)], [(0, 0, 5001)], [(1, 0, 1), (0, 2, 3)], [(0, 0, 2), (1, 1, 3)]],
    (Instr.fwUpdate ⟨.ok, [], true, true, 10, ss⟩).wf = false := by decide

/-- And well-formed ones are not. -/
theorem wf_accepts : ∀ i ∈ [Instr.commandPush 127 .st (tCmd (.close 1)), .tileArrival 127 63, .wait 0 7 0 [⟨.counter 63, 5, true⟩],
    .signal 0 7 0 [⟨.flag 255, .set, none, none⟩], .queueTile tVia { wQ 1 with tile := tTile }, .copy 511,
    .fwUpdate ⟨.ok, [], true, true, 20000, [(0, 0, 5000), (3, 5000, 9000)]⟩, .periodicReading (List.replicate 8 1),
    .registerWrite 0x300000 4 1, .smbTollRead 240], i.wf = true := by decide
/-! ## Caravans, Stations and Queues -/

/-- R74: the 65th push stalls. -/
theorem test_push_stalls :
    (after (.commandPush 2 .mx (tCmd (.close 1))) (tDev.setCore 2 fun k => { k with mx := List.replicate 64 (tRun (.close 0)) })).map
      (fun d => ((d.core 2).mx.length, (d.core 2).pushStall.isSome)) = some (64, true) := by decide +kernel

theorem witness_PushesEnterStallOrHalt_a :
    tDev.ccRuns 2 = true ∧ (tDev.core 2).depth .mx < 64 ∧
    ((tDev.setCore 2 fun k => { k with mx := List.replicate 64 (tRun (.close 0)) }).core 2 |>.depth .mx) ≥ 64 ∧
    (tDev.setCore 2 fun k => { k with mx := List.replicate 64 (tRun (.close 0)) }).ccRuns 2 = true ∧
    ((tDev.setCore 2 fun k => { k with pushStall := some (.mx, tCmd (.close 1)) }).core 2).pushStall = some (.mx, tCmd (.close 1)) := by
  decide +kernel

theorem witness_PushesEnterStallOrHalt_b :
    tDev.ccRuns 2 = true ∧ 3 ∉ presentWells tDev.grade ∧ 6 ∉ presentPorts tDev.grade := by decide +kernel

theorem witness_HaltsSnapshotAndStop_a :
    2 < tDev.cores.length ∧ (tDev.core 2).halted = false ∧ tDev.mem.wf = true ∧ (tDev.core 2).counters.length = 64 := by decide +kernel

/-- R104: the REASON byte and the KIND of a halt, and its snapshot's flag bytes, in the halt area of core 2. -/
theorem test_halt_record :
    ((tDev.setCore 2 fun k => { k with flags := 0x05 }).haltBase 2 { reason := 4, unit := 1, kind := 2 }).mem.reads (haltArea .zx9440 2 + 0) 8
      = [4, 0, 2, 0, 2, 0, 1, 2] ∧
    ((tDev.setCore 2 fun k => { k with flags := 0x05 }).haltBase 2 { reason := 4, unit := 1, kind := 2 }).mem.read (haltArea .zx9440 2 + 128)
      = 5 := by decide +kernel

/-- A command that waits for flag 3 with CONSUME and for counter 1. -/
def tWaiting : QCmd := { tRun (.close 4) with started := false, cmd := { tCmd (.close 4) with
  waits := [⟨.flag 3, 1, true⟩, ⟨.counter 1, 2, true⟩] } }

/-- The test device with that command on VX. -/
def tWait (flags : BitVec 256) (n : Nat) : Dev :=
  { tDev.setCore 2 (fun k => { k with vx := [tWaiting], flags := flags, counters := k.counters.set 1 (BitVec.ofNat 32 n) }) with
    queues := [tQueue 4 8 2 .fp4 .vx .ls] }

/-- R85: both waits hold, and both are consumed in one step; with one of them missing nothing happens. -/
theorem test_start_consumes :
    (after (.commandStart 2 .vx) (tWait 8 5)).map (fun d => ((d.core 2).flags, (d.core 2).counters.getD 1 0, (d.core 2).vx.map (·.started)))
      = some (0, 3, [true]) ∧
    (after (.commandStart 2 .vx) (tWait 8 1)).map (fun d => ((d.core 2).flags, (d.core 2).vx.map (·.started))) = some (8, [false]) := by
  decide +kernel

theorem witness_StartConsumesTogether :
    (tWait 8 5).unarmed = true ∧ ((tWait 8 5).core 2).halted = false ∧ ((tWait 8 5).core 2).frozen = false ∧
    ((tWait 8 5).core 2).queue .vx = [tWaiting] ∧ tWaiting.started = false ∧ (tWait 8 5).startFault 2 .vx tWaiting.cmd = none ∧
    (tWait 8 5).channelFull tWaiting.cmd.op = false ∧ (tWait 8 5).popShort 2 .vx (opPops tWaiting.cmd.op) = none ∧
    ((tWait 8 5).core 2).behindPipe .vx tWaiting.cmd.op = false ∧
    ((tWait 8 5).core 2).holdsAll tWaiting.cmd.waits = true ∧ ((tWait 8 1).core 2).holdsAll tWaiting.cmd.waits = false := by decide +kernel

theorem witness_WaitsAndSignals_a :
    tDev.ccRuns 2 = true ∧ 2 < tDev.cores.length ∧ tDev.fieldFault 0 [⟨.flag 3, 1, true⟩] [] = none ∧
    (tDev.core 2).holdsAll [⟨.flag 3, 0, true⟩] = true ∧ (tDev.core 2).holdsAll [⟨.flag 3, 1, true⟩] = false := by decide +kernel

/-- R84: a WAIT for flag 3 = 0 with CONSUME inverts it. -/
theorem test_wait :
    (after (.wait 2 0 0 [⟨.flag 3, 0, true⟩]) tDev).map (fun d => ((d.core 2).flags, (d.core 2).waiting.isNone)) = some (8, true) := by
  decide +kernel

/-- An update of counter 1 of core 2 by 7. -/
def tUpdate : InFlight := ⟨40, 2, .core 3, .counter 1, .add 7⟩

/-- R89: the update arrives. -/
theorem test_signal_arrives :
    (after (.signalArrival 2 [40]) { tDev with inflight := [tUpdate] }).map (fun d => ((d.core 2).counters.getD 1 0, d.inflight.length))
      = some (7, 0) := by decide +kernel

theorem witness_WaitsAndSignals_c :
    tDev.sigFault 0 ⟨.flag 3, .set, some 4, none⟩ = none ∧ tUpdate.core < tDev.cores.length ∧ (tDev.core 2).halted = false ∧
    (tDev.core 2).frozen = false ∧ (tDev.core 2).atRest = true ∧ ((tDev.core 2).counters.getD 1 0).toNat + 7 ≤ 0xFFFFFFFF := by
  decide +kernel

theorem witness_WaitsAndSignals_d :
    let d := tDev.setCore 2 fun k => { k with counters := k.counters.set 1 0xFFFFFFFF }
    tUpdate.core < d.cores.length ∧ (d.core 2).halted = false ∧ ((d.core 2).counters.getD 1 0).toNat + 7 > 0xFFFFFFFF := by decide +kernel

/-- A queue from core 2's MX to core 5's VX with a tile in transit and a credit on its way back. -/
def tCross : QState :=
  { tQueue 4 8 2 .fp4 .mx .ls with decl := ⟨4, .fp4, 8, ⟨none, 2, .mx⟩, ⟨none, 5, .vx⟩, 0⟩, transit := [tTile], back := 1, credits := 6 }

theorem witness_TilesAndCreditsConserved_a :
    let d := { tDev with queues := [tCross] }
    d.q? 0 = some tCross ∧ d.farCons tCross = false ∧ d.farProd tCross = false ∧ tCross.decl.prod.core ≠ tCross.decl.cons.core ∧
    0 < tCross.credits := by decide +kernel

theorem witness_TilesAndCreditsConserved_b :
    let d := { tDev with queues := [tCross] }
    d.crossIdx 5 4 = some 0 ∧ d.q? 0 = some tCross ∧ d.unarmed = true ∧ (d.core 5).halted = false ∧ (d.core 5).frozen = false ∧
    (d.core 2).frozen = false ∧ (d.core 5).atRest = true ∧ (d.core 2).atRest = true ∧ 0 < tCross.back := by decide +kernel

/-- A work item of class 1 with an AFFINITY. -/
def tItem (k : Nat) (g : Option Nat) : WorkItem := ⟨0, k, none, 0, g, none, #v[0, 0, 0, 0, 0, 0]⟩

/-- R93: an item of the taker's group comes before one of a higher class for another group. -/
theorem test_list_order :
    (pickItem [⟨1, tItem 0 (some 3), 0⟩, ⟨2, tItem 1 (some 0), 0⟩, ⟨3, tItem 1 none, 0⟩] 0).map (·.id) = some 2 := by decide +kernel

theorem witness_ListsSlotsAndEndings_a :
    (∀ x ∈ [(⟨1, tItem 0 (some 3), 0⟩ : WorkEntry), ⟨2, tItem 1 (some 0), 0⟩], x.item.cls ≤ 3) ∧
    pickItem [⟨1, tItem 0 (some 3), 0⟩, ⟨2, tItem 1 (some 0), 0⟩] 0 = some ⟨2, tItem 1 (some 0), 0⟩ := by decide +kernel

theorem witness_ListsSlotsAndEndings_e :
    let d := { tDev.setCore 2 (fun k => { k with vx := [tRun (.close 4)] }) with queues := [tQueue 4 8 2 .fp4 .vx .ls] }
    (d.core 2).queue .vx = [tRun (.close 4)] ∧ 2 < d.cores.length ∧ (d.core 2).queue .mx = [] ∧ (d.core 2).queue .ls = [] ∧
    (d.core 2).queue .st = [] ∧ (d.core 2).queue .cc = [] ∧ (d.core 2).waiting = none ∧ (d.core 2).ending = none ∧
    d.tailIdx 2 .vx 4 = some 0 ∧ d.q? 0 = some (tQueue 4 8 2 .fp4 .vx .ls) ∧ d.farCons (tQueue 4 8 2 .fp4 .vx .ls) = false ∧
    d.landed 2 .vx = true ∧ d.writesOut 2 = false ∧ (d.core 2).pipe = [] := by decide +kernel

/-- R80: CLOSE closes its queue and leaves the engine's queue. -/
theorem test_close :
    (after (.close 2 .vx) { tDev.setCore 2 (fun k => { k with vx := [tRun (.close 4)] }) with queues := [tQueue 4 8 2 .fp4 .vx .ls] }).map
      (fun d => (d.queues.map (·.closed), (d.core 2).vx.length)) = some ([true], 0) := by decide +kernel

/-- The test device with a program that declares routine 0, and an item on the list of die 0. -/
def tList : Dev :=
  { tDev with job := some { tJob with prog := { tJob.prog with routines := [⟨0, []⟩] } },
              lists := [⟨[⟨2, tItem 1 none, 0⟩], [], []⟩, ⟨[], [], []⟩] }

theorem test_list_push :
    (after (.listPush 2) (tList.setCore 2 fun k => { k with st := [tRun (.listPush none (tItem 1 none))] })).map
      (fun d => ((d.list 0).items.length, (d.core 2).st.length, (d.core 2).halted)) = some (2, 0, false) := by decide +kernel

theorem test_list_take :
    (after (.listTake 2 0) tList).map (fun d => ((d.list 0).items.length, (d.core 2).items.map (·.1))) = some (0, [2]) := by decide +kernel

theorem witness_ListsSlotsAndEndings_b :
    let d := tList.setCore 2 fun k => { k with st := [tRun (.listPush none (tItem 1 none))] }
    (d.core 2).st = [tRun (.listPush none (tItem 1 none))] ∧ 2 < d.cores.length ∧ (d.core 2).ending = none ∧ d.unarmed = true ∧
    d.itemFault (tItem 1 none) = none ∧ (d.list 0).items.length < 16384 ∧
    tList.ccRuns 2 = true ∧ (tList.core 2).slots = [] ∧ (tList.list 0).back = [] ∧ tList.bz.rounds = [] ∧ tList.slotsDue 2 = false ∧
    tList.servable 2 = true ∧ (tList.list 0).takes = [] ∧
    pickItem (tList.list 0).items (2 / 8) = some ⟨2, tItem 1 none, 0⟩ ∧ (tDev.list 0).items = [] ∧ (tDev.list 0).back = [] ∧
    tDev.bz.rounds = [] ∧ tDev.slotsDue 2 = false ∧ (tDev.core 2).slots = [] ∧ tDev.ccRuns 2 = true ∧
    ((tList.setList 0 fun l => { l with takes := [2] }).list 0).takes = [2] ∧
    ((tList.list 0).items.find? fun x => x.id == 2) = some ⟨2, tItem 1 none, 0⟩ ∧ 0 + 2000 ≤ ({ tList with now := 5000 } : Dev).now := by
  decide +kernel

/-- R97: the EMPTY slot of 2,800 steps ends; the FILLED one after it stays. -/
theorem test_empty_slot :
    (after (.reservedSlotEnd 2) (tDev.setCore 2 fun k => { k with slots := [⟨none, 2800, none, false⟩, ⟨some (tItem 0 none), 2800, none, false⟩] })).map
      (fun d => ((d.core 2).slots.map (·.ended), (d.core 2).emptySteps)) = some ([true, false], 2800) := by decide +kernel

theorem witness_ListsSlotsAndEndings_c :
    (⟨none, 2800, none, false⟩ : SlotMark) = ⟨none, 2800, none, false⟩ ∧
    (∃ x ∈ ([] : List SlotMark) ++ [⟨some (tItem 0 none), 2800, none, false⟩], x.ended = false) ∧ (tDev.core 2).taking = false := by
  decide +kernel

/-- R114, R91: END raises the item's DONE. -/
theorem test_end_done :
    (after (.endRoutine 2 0) (tDev.setCore 2 fun k => { k with items := [(1, { tItem 0 none with done := some ⟨4, 6, 1⟩ })] })).map
      (fun d => ((d.core 2).items.length, d.inflight.map fun f => (f.core, f.obj, f.op))) = some (0, [(4, .counter 6, .add 1)]) := by
  decide +kernel

theorem witness_ListsSlotsAndEndings_d :
    tDev.ccRuns 2 = true ∧ tDev.coreQuiet 2 = true ∧ (tDev.core 2).slots = [] ∧ 2 < tDev.cores.length ∧ (tDev.core 2).items = [] ∧
    (∃ p ∈ [(⟨3, none, 100, 0, []⟩ : CoreProg)], p.core ≠ 2 ∧ (tDev.core p.core).cc ≠ .ended) := by decide +kernel

/-- The tile of the tests passes the checks of R65 and R61 (for the witnesses of LOAD and STORE). -/
theorem tTile_good : tileGood (fun g => g == .fp4) tTile = true := by decide +kernel

/-- The test device with a LOAD of one tile. -/
def tLoad : Dev :=
  { tDev.setCore 2 (fun k => { k with ls := [tRun (.load (.addr 0x1000) none false 1 4)] }) with
    queues := [tQueue 4 8 2 .fp4 .ls .vx], mem := Memory.writes [] 0x1000 tTile }

/-- R572: LOAD of one tile. -/
theorem test_load :
    (after (.load 2) tLoad).map (fun d => (d.queues.map (·.ring), (d.core 2).ls.length, (d.core 2).halted)) = some ([[tTile]], 0, false) := by
  decide +kernel

theorem witness_LoadStoreAndRows_a :
    engAlone tLoad 2 .ls (tRun (.load (.addr 0x1000) none false 1 4)) ∧ tLoad.tailIdx 2 .ls 4 = some 0 ∧
    tLoad.q? 0 = some (tQueue 4 8 2 .fp4 .ls .vx) ∧ tLoad.farCons (tQueue 4 8 2 .fp4 .ls .vx) = false ∧
    inJobMem tLoad.grade 0x1000 (1 * tileTotal .fp4) = true ∧ tLoad.poisonedIn 0x1000 (1 * tileTotal .fp4) = none ∧
    tLoad.heldAt 0x1000 (1 * tileTotal .fp4) = false ∧
    tLoad.peek 0x1000 (tileTotal .fp4) = tTile := by
  unfold engAlone; decide +kernel

/-- The test device with a STORE of one tile. -/
def tStore : Dev :=
  { tDev.setCore 2 (fun k => { k with ls := [tRun (.store 4 false false (.addr 0x1000) none 1)] }) with
    queues := [{ tQueue 4 8 2 .fp4 .vx .ls with ring := [tTile] }] }

theorem test_store :
    (after (.store 2) tStore).map (fun d => (d.peek 0x1000 544 == tTile, d.queues.map (·.ring), (d.core 2).ls.length)) =
      some (true, [[]], 0) := by decide +kernel

theorem witness_LoadStoreAndRows_b :
    engAlone tStore 2 .ls (tRun (.store 4 false false (.addr 0x1000) none 1)) ∧ tStore.headIdx 2 .ls 4 = some 0 ∧
    tStore.q? 0 = some { tQueue 4 8 2 .fp4 .vx .ls with ring := [tTile] } ∧ inJobMem tStore.grade 0x1000 (1 * tileTotal .fp4) = true ∧
    tStore.mem.wf = true ∧ tStore.heldAt 0x1000 (1 * tileTotal .fp4) = false ∧ tTile.length = tileTotal .fp4 := by
  unfold engAlone; decide +kernel

/-- A ZX9440 whose cores have all halted but core 3, core 2 as the primary halt. -/
def tStop : Dev :=
  { tDev with cores := (List.replicate 96 { CoreSt.reset with halted := true }).set 3 { CoreSt.reset with cc := .running },
              job := some { tJob with primary := some 2 } }

theorem witness_HaltsSnapshotAndStop_b :
    tStop.bz.rounds = [] ∧ tStop.bz.waits = [] ∧ tStop.rd.channels = [] ∧ tStop.cores.length = tStop.n ∧ (tStop.core 3).frozen = false ∧
    (tStop.core 3).halted = false := by decide +kernel

theorem test_job_stop :
    (after .jobStop tStop).map (fun d => (d.cores.all (·.halted), d.job.map (·.stopped))) = some (true, some true) := by decide +kernel

/-- A core whose control core waits for counter 3 and whose engines have nothing (the example of R112, cut down). -/
def tCycle : Dev := tDev.setCore 2 fun k => { k with waiting := some (0, 0, [⟨.counter 3, 1, false⟩]) }

theorem witness_WaitsAndSignals_b :
    2 < tCycle.n ∧ (tCycle.core 2).halted = false ∧ (tCycle.core 2).frozen = false ∧
    tCycle.blockCc 2 = some { state := 2, obj := 3, awaited := 1 } ∧ tCycle.blockEng 2 .mx = some { state := 0 } ∧
    tCycle.blockEng 2 .vx = some { state := 0 } ∧ tCycle.blockEng 2 .ls = some { state := 0 } ∧ tCycle.pendingToward 2 = false := by
  decide +kernel

/-! ## Matrix and vector engines -/

/-- An FP4 tile of two rows and one column: codes 1 and 2, so 0.5 and 1.0. -/
def tColTile : List Byte := mkTile .fp4 2 1 ⟨false, false, false, false⟩ [0x7F, 0x7F, 0x7F, 0x7F] 9 fun r _ => r + 1

/-- A product of one tile pair from queues 4 and 5 into queue 6. -/
def tProd (k : DrainKind) : MatmulArgs :=
  { a := .queue 4 false false, b := .queue 5 false false, kt := 1, out := some 6, outFmt := .fp32, entry := none, chain := false, kind := k }

/-- The test device with a product running on core 2, (0.5, 1.0) by (0.5, 1.0). -/
def tMx (k : DrainKind) : Dev :=
  { tDev.setCore 2 (fun s => { s with mx := [tRun (.matmul (tProd k))] }) with
    queues := [{ tQueue 4 8 2 .fp4 .ls .mx with ring := [tTile] }, { tQueue 5 8 2 .fp4 .ls .mx with ring := [tColTile] },
               tQueue 6 8 2 .fp32 .mx .vx, tQueue 7 8 2 .fp32 .mx .vx, tQueue 8 8 2 .int32 .mx .vx] }

theorem witness_AccumulationsTakeAndMove_a :
    engAlone (tMx .plain) 2 .mx (tRun (.matmul (tProd .plain))) ∧ (tMx .plain).nearQueues ∧
    (tMx .plain).tilesAt 2 .mx 0 (.queue 4 false false) 0 1 [tTile] ∧ (tMx .plain).tilesAt 2 .mx 1 (.queue 5 false false) 0 1 [tColTile] ∧
    tileGood mxTakes tTile = true ∧ tileGood mxTakes tColTile = true ∧ pairOk (tileFmt tTile) (tileFmt tColTile) = true ∧
    tileCols tTile = tileRows tColTile ∧ (tMx .plain).outFault 2 (tProd .plain) = none ∧
    spanFault ((tMx .plain).core 2).span .plain 1 1 = none := by
  refine ⟨by unfold engAlone; decide +kernel, by unfold Dev.nearQueues; decide +kernel, ⟨{ tQueue 4 8 2 .fp4 .ls .mx with ring := [tTile] }, ?_⟩,
    ⟨{ tQueue 5 8 2 .fp4 .ls .mx with ring := [tColTile] }, ?_⟩, ?_⟩ <;> decide +kernel

theorem witness_AccumulationsTakeAndMove_a_topk :
    (tMx (.topk 1 1 0 false 7 8 0)).outFault 2 (tProd (.topk 1 1 0 false 7 8 0)) = none ∧
    spanFault ((tMx (.topk 1 1 0 false 7 8 0)).core 2).span (.topk 1 1 0 false 7 8 0) 1 1 = none ∧
    (tMx (.lse 1 0 7)).outFault 2 (tProd (.lse 1 0 7)) = none ∧ spanFault ((tMx (.lse 1 0 7)).core 2).span (.lse 1 0 7) 1 1 = none := by
  decide +kernel

/-- After MATMUL the pairs are in the operand store, its accumulation is in the pipe, and the queues are empty (R119, R140). -/
theorem test_matmul :
    (after (.matmul 2) (tMx .plain)).map (fun d => ((d.core 2).pipe.map (fun j => j.acc.pairs == [(tTile, tColTile)]), (d.core 2).mx.length,
      (d.core 2).acc.bank, d.queues.map (·.ring.length), d.work.macFp4)) = some ([true], 0, 1, [0, 0, 0, 0, 0], [2, 0]) := by decide +kernel

theorem test_matmul_topk : (after (.matmulTopk 2) (tMx (.topk 1 1 0 false 7 8 0))).map (fun d => (d.core 2).pipe.length) = some 1 := by
  decide +kernel

theorem test_matmul_lse : (after (.matmulLse 2) (tMx (.lse 1 0 7))).map (fun d => (d.core 2).pipe.length) = some 1 := by
  decide +kernel

/-- The product after its operands are in. -/
def tAcc (k : DrainKind) : Dev :=
  (tMx k).setCore 2 fun s =>
    { s with mx := [], pipe := [⟨tRun (.matmul (tProd k)), { AccSt.empty with pairs := [(tTile, tColTile)], closedAcc := true }⟩] }

theorem witness_AccumulationsTakeAndMove_b :
    ((tAcc .plain).core 2).passing = some { AccSt.empty with pairs := [(tTile, tColTile)], closedAcc := true } ∧
    2 < (tAcc .plain).cores.length ∧ (∀ x ∈ passAll [(tTile, tColTile)] (placeAll [(tTile, tColTile)]), x.2.ovf = false) := by decide +kernel

/-- 0.5 × 0.5 + 1.0 × 1.0 = 5 × 2^−2: L is −2 and V is 5 (R128). -/
theorem test_pass :
    (after (.accPassEnd 2) (tAcc .plain)).map (fun d => (d.core 2).pipe.map fun j => (j.acc.lpos.getD 0 0, j.acc.cells)) =
      some [(-2, some [⟨5, 0, 5⟩])] := by decide +kernel

/-- The accumulation after its pass, with the residue of its cell. -/
def tPassed (rho : Nat) : AccSt :=
  { AccSt.empty with pairs := [(tTile, tColTile)], closedAcc := true, placed := true, lpos := [-2, 0, 0, 0], retry := [0, 0, 0, 0],
                     cells := some [⟨5, 0, rho⟩] }

/-- The product after its pass. -/
def tDrain (k : DrainKind) : Dev := (tMx k).setCore 2 fun s => { s with mx := [], pipe := [⟨tRun (.matmul (tProd k)), tPassed 5⟩] }

theorem witness_ResultsLeaveWhole_b :
    pipeAlone (tDrain .plain) 2 (tRun (.matmul (tProd .plain))) (tPassed 5) ∧ (tPassed 5).cells.isSome = true ∧
    (tPassed 5).residueFail 1 1 = none ∧ (tDrain .plain).mem.wf = true ∧
    (tDrain .plain).tailRoom 2 .mx 6 2 1 (tQueue 6 8 2 .fp32 .mx .vx) := by
  unfold pipeAlone Dev.tailRoom; decide +kernel

/-- 1.25 in FP32 (R137), and the command is complete (R150). -/
theorem test_drain :
    (after (.drainEnd 2) (tDrain .plain)).map (fun d => ((d.core 2).pipe.length,
      ((d.q? 2).map fun x => x.ring.map fun t => (tileFmt t, fieldAt t 32 4)))) = some (0, some [(Fmt.fp32, 0x3FA00000)]) := by decide +kernel

/-- Top-k emits the product, its value and position 0 (R144). -/
theorem test_drain_topk :
    (after (.drainEnd 2) (tDrain (.topk 1 1 0 false 7 8 0))).map (fun d => ((d.core 2).pipe.length,
      [2, 3, 4].map fun i => ((d.q? i).map fun x => x.ring.map fun t => fieldAt t 32 4))) =
      some (0, [some [0x3FA00000], some [0x3FA00000], some [0]]) := by decide +kernel

/-- An accumulator whose residue does not agree halts with RESIDUE_FAIL, expected 6 and computed 5 (R135). -/
theorem test_residue :
    (after (.drainEnd 2) ((tDrain .plain).setCore 2 fun s => { s with pipe := [⟨tRun (.matmul (tProd .plain)), tPassed 6⟩] })).map (fun d =>
      ((d.core 2).halted, fieldAt (d.peek (haltArea .zx9440 2) 64) 0 1, fieldAt (d.peek (haltArea .zx9440 2) 64) 40 8)) =
      some (true, 0x0D, 0x506) := by decide +kernel

theorem witness_AccumulatorIsExact_a :
    pairOk .fp4 .fp4 = true ∧
    (cellPass .fp4 .fp4 [(tTile, tColTile)] (placeWindow (chunksOf .fp4 .fp4 [(tTile, tColTile)] 0 0)) 0 0).ovf = false := by decide +kernel

theorem witness_AccumulatorIsExact_b : (cellPass .fp4 .fp4 [(tTile, tColTile)] (-2) 0 0).ovf = false := by decide +kernel

theorem witness_ResultsLeaveWhole_a :
    engAlone (tMx .plain) 2 .mx (tRun (.matmul (tProd .plain))) ∧
    (tMx .plain).tailRoom 2 .mx 6 2 1 (tQueue 6 8 2 .fp32 .mx .vx) ∧ (tMx .plain).nearQueues := by
  unfold engAlone Dev.tailRoom Dev.nearQueues; decide +kernel

/-- A scale table of one valid entry for FP8 E4M3 at address 0x8000, SCALE 0x7F, ITER 1, HEADROOM 1. -/
def tEntry : ScaleEntry :=
  { unpackEntry 0 with format := BitVec.ofNat 8 (fmtCode .e4m3), valid := 1, window := 15, headroom := 1, scale := 0x7F, span := 32, iter := 1,
                       srcA := 0xFFFF, srcB := 0xFFFF }

/-- The test device with that table. -/
def tScaled (d : Dev) : Dev :=
  { d with mem := d.mem.writes 0x8020 (entryBytes tEntry), scale := { ScaleRegs.reset with baseLo := 0x8000, count := 1, ctrl := 1 } }

/-- An FP4 tile of one element. -/
def tOne (code : Nat) : List Byte := mkTile .fp4 1 1 ⟨false, false, false, false⟩ [0x7F, 0x7F, 0x7F, 0x7F] 9 fun _ _ => code

/-- The test device with a command on VX of core 2: queues 4 and 5 hold one FP4 tile each, 1.0 and 2.0; queues 6 and 7 take results. -/
def tVx (op : Op) : Dev :=
  tScaled { tDev.setCore 2 (fun s => { s with vx := [tRun op] }) with
    queues := [{ tQueue 4 8 2 .fp4 .ls .vx with ring := [tOne 2] },
               { tQueue 5 8 2 .fp4 .ls .vx with ring := [tOne 4] },
               tQueue 6 8 2 .fp32 .vx .ls, tQueue 7 8 2 .e4m3 .vx .ls] }

def tMap : Op := .map .add [.queue 4 false false, .queue 5 false false] 6 none 1
def tBroad : Op := .broadcast .mul (.queue 4 false false) (.queue 5 false false) 7 (some ⟨0, 1⟩)
def tReduce : Op := .reduce .sum true (.queue 5 false false) 6
def tConvert : Op := .convert (.queue 5 false false) 7 .e4m3 (some ⟨0, 1⟩) false 0
def tAmax : Op := .amax (.queue 5 false false) ⟨0, 1⟩

theorem witness_VectorOperationsOnTiles_a :
    engAlone (tVx tMap) 2 .vx (tRun tMap) ∧ (tVx tMap).nearQueues ∧ (tVx tMap).mem.wf = true ∧
    (tVx tMap).tailRoom 2 .vx 6 2 1 (tQueue 6 8 2 .fp32 .vx .ls) ∧ (tVx tMap).ruleAt none = some (.fixed 0x7F) ∧
    (tVx tMap).tilesAt 2 .vx 0 (.queue 4 false false) 0 1 [tOne 2] ∧
    tileGood vxTakes (tOne 2) = true ∧
    engAlone (tVx tBroad) 2 .vx (tRun tBroad) ∧ (tVx tBroad).ruleAt (some ⟨0, 1⟩) = some (.fixed 0x7F) ∧
    (tVx tBroad).tailRoom 2 .vx 7 3 1 (tQueue 7 8 2 .e4m3 .vx .ls) ∧
    (vectorAt (tOne 2) (tOne 4)).isSome = true := by
  unfold engAlone Dev.tailRoom Dev.nearQueues
  refine ⟨?_, ?_, ?_, ?_, ?_, ⟨{ tQueue 4 8 2 .fp4 .ls .vx with ring := [tOne 2] }, ?_⟩, ?_⟩ <;>
    decide +kernel

theorem test_map : (after (.map 2) (tVx tMap)).map (fun d => ((d.q? 2).map fun x => x.ring.map fun t => fieldAt t 32 4)) =
    some (some [0x40400000]) := by decide +kernel

/-- 1.0 × 2.0 in FP8 E4M3 under SCALE 0x7F is code 0x40 (R51); CUR_AMAX takes 2.0 (R163). -/
theorem test_broadcast : (after (.broadcast 2) (tVx tBroad)).map (fun d =>
    (((d.q? 3).map fun x => x.ring.map fun t => (fieldAt t 4 1, fieldAt t 32 1)), (d.entry 0).curAmax)) =
      some (some [(0x7F, 0x40)], 0x40000000#32) := by decide +kernel

theorem witness_VectorOperationsOnTiles_b :
    engAlone (tVx tReduce) 2 .vx (tRun tReduce) ∧ engAlone (tVx tConvert) 2 .vx (tRun tConvert) ∧ engAlone (tVx tAmax) 2 .vx (tRun tAmax) ∧
    (tVx tReduce).tailRoom 2 .vx 6 2 1 (tQueue 6 8 2 .fp32 .vx .ls) ∧ (tVx tConvert).tailRoom 2 .vx 7 3 1 (tQueue 7 8 2 .e4m3 .vx .ls) ∧
    (tVx tAmax).ruleAt (some ⟨0, 1⟩) = some (.fixed 0x7F) := by
  unfold engAlone Dev.tailRoom
  refine ⟨?_, ?_, ?_, ?_, ?_, ?_⟩ <;> decide +kernel

theorem test_reduce : (after (.reduce 2) (tVx tReduce)).map (fun d => ((d.q? 2).map fun x => x.ring.map fun t => fieldAt t 32 4)) =
    some (some [0x40000000]) := by decide +kernel

theorem test_convert : (after (.convert 2) (tVx tConvert)).map (fun d => ((d.q? 3).map fun x => x.ring.map fun t => fieldAt t 32 1)) =
    some (some [0x40]) := by decide +kernel

theorem test_amax : (after (.amax 2) (tVx tAmax)).map (fun d => ((d.core 2).vx.length, (d.entry 0).curAmax)) = some (0, 0x40000000#32) := by
  decide +kernel

/-- A seal (R157): the maximum 40 of the previous iteration enters the history as 133, and SCALE is 133 − 8 + 1 (the example of R164). -/
theorem test_seal :
    let e := ({ tEntry with prevAmax := 0x42200000, curAmax := 0x42180000, prevOvf := 212 } : ScaleEntry).seal
    (e.hist 0, e.scale, e.ovfLast, e.iter, e.prevAmax) = (133, 0x7E#8, 1#1, 2#16, 0x42180000#32) := by decide +kernel

theorem witness_ScaleTablesSealWarmSnapshot_a :
    (tScaled tDev).mem.wf = true ∧ (tScaled tDev).unarmed = true ∧ (tScaled tDev).poison = [] ∧ (tScaled tDev).tableIn = true ∧ 0 < (tScaled tDev).scale.count.toNat ∧
    ((tScaled tDev).entry 0).valid = 1 ∧ (2 : Nat) % 65536 = (((tScaled tDev).entry 0).iter.toNat + 1) % 65536 ∧
    ((tScaled tDev).entry 0).srcA.toNat ≠ 0 ∧ ((tScaled tDev).entry 0).srcB.toNat ≠ 0 := by decide +kernel

theorem witness_ScaleTablesSealWarmSnapshot_b :
    (tScaled tDev).awakeUp = true ∧ (tScaled tDev).unarmed = true ∧ (tScaled tDev).poison = [] ∧ (tScaled tDev).mem.wf = true ∧ (tScaled tDev).tableIn = true := by
  decide +kernel

theorem test_force_warm :
    (after .forceWarm (tScaled tDev)).map (fun d => ((d.entry 0).warm, (d.entry 0).warmLeft, (d.entry 0).span)) = some (1#1, 16#5, 32#8) := by
  decide +kernel

theorem test_st_snapshot :
    (after .stSnapshot (tScaled tDev)).map (fun d => (wbit d.scale.status 2, leNat (d.peek 0x800C 4) == crc32c (entryBytes tEntry))) =
      some (true, true) := by decide +kernel

/-! ## Expert routing and the Bazaar -/

/-- A pool and a live buffer of it, 4,096 bytes at an address. -/
def tPool : Pool :=
  { num := 1, kind := 0, spread := 0, pageLog2 := 12, mask := 1, tilesPerExtent := 1, capacity := 64, waitMax := 0, regions := [(0, 0x10000, 64)] }
def tBuf (slot : Nat) : Buf :=
  { slot := slot, pool := 1, kind := 0, gen := 0, bytes := 4096, fmt := none, k0 := 0, eb := 4096, extents := [0x10000 + 4096 * slot],
    refs := 1, torn := false, tornTiles := 0 }

/-- The handle of the test buffer of a slot. -/
def tHandle (slot : Nat) : Word64 := tDev.handleOf (tBuf slot)

/-- A device with eight buffers and the Bazaar enabled. -/
def tBz (d : Dev) : Dev :=
  { d with depot := { Depot.reset with pools := [tPool], bufs := (List.range 8).map tBuf }, bz := { d.bz with ctrl := 1 } }

/-- A GATE of one token, two columns and one expert, its operands in queues 4 and 5. -/
def tGateArgs : GateArgs :=
  { x := .queue 4 false false, wg := .queue 5 false false, tokens := 1, hidden := 2, experts := 1, k := 1, fn := .sigmoid, negotiated := false,
    renorm := false, routeTable := 0x8000, members := 0, group := 2, pos := 0, layer := 3, microBatch := 2, choices := tHandle 0, summary := tHandle 1 }

/-- The device with that GATE running on core 2: routing table of capacity 32, owner rank 1, LOCAL 0. -/
def tGate (xs : List (List Byte)) : Dev :=
  tBz { tDev.setCore 2 (fun s => { s with mx := [tRun (.gate tGateArgs)] }) with
    mem := Memory.writes [] 0x8000 (leBytes 8 (1 + 2 ^ 16)),
    queues := [{ tQueue 4 8 2 .fp4 .ls .mx with ring := xs }, { tQueue 5 8 2 .fp4 .ls .mx with ring := [tColTile] }] }

theorem witness_GatesReserveInOrder_a :
    engAlone (tGate [tTile]) 2 .mx (tRun (.gate tGateArgs)) ∧ wbit (tGate [tTile]).bz.ctrl 0 = true ∧ (tGate [tTile]).gateLimits tGateArgs = none ∧
    (tGate [tTile]).gateHandle tGateArgs.choices 24 = none ∧ (tGate [tTile]).gateHandle tGateArgs.summary 80 = none ∧
    (tGate [tTile]).readable 0x8000 8 = true ∧ ((tGate [tTile]).routeEntry (leNat ((tGate [tTile]).peek 0x8000 8))).toOption = some (32, 1, 0) ∧
    (tGate [tTile]).bz.waits = [] ∧ (tGate [tTile]).bzRoom false 1 = true ∧
    (tGate [tTile]).gateTilesAt 2 0 (.queue 4 false false) 0 [0] [tTile] ∧
    (gatePairs tGateArgs 0 0 [tTile] [tColTile]).toOption = some [(tTile, tColTile)] := by
  refine ⟨?_, ?_, ?_, ?_, ?_, ?_, ?_, ?_, ?_, ⟨{ tQueue 4 8 2 .fp4 .ls .mx with ring := [tTile] }, ?_⟩, ?_⟩ <;> (try unfold engAlone) <;> decide +kernel

theorem test_gate :
    (after (.gate 2) (tGate [tTile])).map (fun d => (d.bz.rounds.map fun r => r.entries, (d.core 2).acc.closedAcc,
      (d.core 2).gate.elim 0 fun g => g.phase)) = some ([1], true, 1) := by decide +kernel

theorem witness_GatesReserveInOrder_a_noRoom :
    let d := { tGate [] with bz := { (tGate []).bz with waits := [⟨5, false, 0, 9, 9, 70000⟩] } }
    ¬ (d.bz.waits = [] ∧ d.bzRoom false 1 = true) := by decide +kernel

/-- The state of that GATE while it waits. -/
def tGateSt : GateSt :=
  { args := tGateArgs, since := 0, route := [(32, 1, 0)], x := [], rowTile := 0, colTile := 0, nanRows := [], phase := 0, admitted := [0], tokens := [] }

/-- The GATE waits in line, its X queue empty. -/
def tWaits : Dev :=
  { (tGate []).setCore 2 (fun s => { s with gate := some tGateSt }) with bz := { (tGate []).bz with waits := [⟨2, false, 0, 3, 2, 1⟩] } }

theorem witness_GatesReserveInOrder_b :
    tWaits.bzRoom false 1 = true ∧ (tWaits.core 2).gate = some tGateSt ∧ tWaits.round? false 3 2 = none ∧
    tWaits.poisonedIn tGateArgs.members 4 = none ∧ (tWaits.core 2).acc.closedAcc = false ∧ tWaits.bz.rounds = [] ∧
    tWaits.popShort 2 .mx (srcPop (gateKt tGateArgs) 0 tGateArgs.x ++ srcPop (gateKt tGateArgs) 1 tGateArgs.wg) = some (false, 4, 1, 0) := by
  decide +kernel

theorem test_tag_reserve_served :
    (after .tagReserveServed tWaits).map (fun d => (d.bz.waits.length, d.bz.rounds.map (·.layer), d.bz.tagsInUse)) = some (0, [3], 1) := by
  decide +kernel

theorem test_round_open_served : (after .roundOpenServed tWaits).map (fun d => d.bz.rounds.length) = some 1 := by decide +kernel

/-- A forward round of layer 3 whose GATE is done. -/
def tRound : Round :=
  { bwd := false, layer := 3, mb := 2, core := 2, tokens := 1, k := 1, epoch := 0, members := [], pos := 0, negotiated := false, route := [],
    gateDone := true, fmt := .fp4, hTiles := 1, requests := [], granted := false, shares := [], grants := [], reqMissing := [], entries := 1, gateStart := 0,
    opener := none, early := [], disp := none, comb := none, arranged := [] }

/-- Operands of its DISPATCH and COMBINE: ranks 0 and 1 at 0x8100, routing table at 0x8000. -/
def tRoundArgs : RoundArgs :=
  { bwd := false, layer := 3, microBatch := 2, epoch := 0, members := 0x8100, group := 2, pos := 0, tokens := 1, k := 1, hidden := 2,
    choices := tHandle 0, record := tHandle 1 }
def tDisp : DispatchArgs :=
  { r := tRoundArgs, experts := 1, negotiated := false, routeTable := 0x8000, rowsIn := .addr 0x9000, rowsFmt := .fp4, recv := tHandle 2,
    expertIn := tHandle 3, routine := 1, cls := 0, done := none, reservation := none }
def tComb : CombineArgs :=
  { r := tRoundArgs, expertOut := tHandle 3, expFmt := .fp4, ret := tHandle 4, unitWeight := true, out := tHandle 5, outFmt := .bf16, outEntry := none }

/-- An accepted station command. -/
def tAccepted (core : Nat) (op : Op) : Accepted :=
  { id := 1, core := core, seq := 0, cmd := tCmd op, begun := false, asked := false, inputs := [], refs := [], since := 0, stamp := 0 }

/-- A device whose core 2 has a station command of the round of layer 3; the routine 1 is in the program. -/
def tSta (op : Op) (r : Round) : Dev :=
  let d := tBz tDev
  { d with accepted := [tAccepted 2 op], nextId := 2, bz := { d.bz with rounds := [r] },
           job := some { tJob with prog := { tJob.prog with routines := [⟨1, []⟩] } },
           mem := ((Memory.writes [] 0x8000 (leBytes 8 (1 + 2 ^ 16))).writes 0x8100 [0#8, 0#8, 1#8, 0#8]).writes 0x9000 tTile }

theorem witness_PhasesBeginAndSend_a :
    let d := tSta (.dispatch tDisp) tRound
    d.unarmed = true ∧ d.place.replicas = [] ∧ d.oldest 2 (fun op => match op with | .dispatch _ => true | _ => false) = some (tAccepted 2 (.dispatch tDisp)) ∧
    d.dispatchFault tDisp = none ∧ d.round? false 3 2 = some tRound ∧ (d.rowsSpans tDisp).toOption = some [(0, .mem [(0x9000, 544)])] ∧
    (d.handleSpan (tHandle 0) 24 false).toOption = some (.mem [(0x10000, 24)]) ∧ d.readable 0x8100 4 = true ∧
    d.rankValid (leNat (d.peek 0x8100 2)) = true ∧ d.rankValid (leNat (d.peek 0x8102 2)) = true ∧ d.readable 0x8000 8 = true ∧
    (d.routeEntry (leNat (d.peek 0x8000 8))).toOption = some (32, 1, 0) ∧ (d.handleSpan (tHandle 2) 0 true).toOption = some (.mem []) ∧
    (d.handleSpan (tHandle 3) 0 true).toOption = some (.mem []) ∧ (d.handleSpan (tHandle 1) 96 true).toOption = some (.mem [(0x11000, 96)]) := by decide +kernel

theorem test_dispatch :
    (after (.dispatch 2) (tSta (.dispatch tDisp) tRound)).map (fun d => (d.bz.rounds.map fun r => r.disp.elim 9 fun p =>
      p.rowsSent + b2n p.arranged, d.out.length)) = some ([1], 2) := by decide +kernel

/-- The phase of an arranged dispatch that brought no row. -/
def tArranged : PhaseSt :=
  { phase := 0, acc := 9, reservation := none, epoch := 0, fmt := .fp4, hTiles := 1, members := [], rows := [], sentHeaders := true,
    arranged := true, rowsSent := 1, overrun := 0, dup := 0, reexpr := 0, torn := 0, dropTags := [], choices := [], outDone := [],
    retired := [], toPush := [], nan := none, since := 0, tOpen := 0 }

theorem witness_PhasesBeginAndSend_b :
    let d := tSta (.combine tComb) { tRound with disp := some tArranged }
    d.oldest 2 (fun op => match op with | .combine _ => true | _ => false) = some (tAccepted 2 (.combine tComb)) ∧
    roundLimits tRoundArgs 1 5 = none ∧ outBad .bf16 none = false ∧ (d.handleSpan (tHandle 4) 64 true).toOption = some (.mem [(0x14000, 64)]) ∧
    (d.handleSpan (tHandle 5) 2080 true).toOption = some (.mem [(0x15000, 2080)]) ∧ (d.handleSpan (tHandle 1) 96 true).toOption = some (.mem [(0x11000, 96)]) ∧
    (d.handleSpan (tHandle 0) 24 true).toOption = some (.mem [(0x10000, 24)]) ∧ d.goodSpan (.mem [(0x10000, 24)]) ∧
    (∀ l ∈ choicesOf (d.peek 0x10000 24) 1 1, ∃ y ∈ l, y.1 = true) := by
  refine ⟨?_, ?_, ?_, ?_, ?_, ?_, ?_, ⟨[(0x10000, 24)], rfl, ?_⟩, ?_⟩ <;> (try unfold Dev.clean) <;> decide +kernel

theorem test_combine :
    (after (.combine 2) (tSta (.combine tComb) { tRound with disp := some tArranged })).map (fun d =>
      (d.bz.rounds.map fun r => r.comb.map fun p => (p.phase, p.sentHeaders, p.arranged), d.out.length)) =
      some ([some (1, true, false)], 1) := by decide +kernel

/-- A Bazaar message of rank 1 for the round, with its CRC. -/
def tBzMsg (kind phase : Nat) (body : List Byte) : BzMsg :=
  let m : BzMsg := { version := 1, kind := kind, phase := phase, format := fmtCode .fp4, layer := 3, microBatch := 2, resv := 0, src := 1, dst := 0, epoch := 0, crc := 0, hTiles := 1, resvHi := 0, body := body }
  { m with crc := bzCrc m }

/-- The DISPATCH of the round has begun; rank 1 and rank 0 are its members. -/
def tPhase : PhaseSt :=
  { tArranged with acc := 1, arranged := false,
                   members := [⟨0, false, 0, 0, 0, [], false, false⟩, ⟨1, false, 0, 0, 0, [], false, false⟩] }
def tBegun : Dev := tSta (.dispatch tDisp) { tRound with members := [0, 1], disp := some tPhase }

/-- HEADER body of a sender without rows. -/
def tNoRows : List Byte := leBytes 8 0 ++ leBytes 8 0x4000000004001 ++ zeros 16

theorem witness_RoundMessagesAndUpkeep_a :
    ({ pending := [], toll := Toll.reset, dev := tBegun } : State).takesMsg tVia ∧ tBegun.fidRank 6 = some 1 ∧
    tBegun.headOk 1 (tBzMsg 1 0 tNoRows) = true ∧ tBegun.headOk 2 (tBzMsg 2 0 []) = true ∧ tBegun.headOk 5 (tBzMsg 5 1 (zeros 32)) = true ∧
    tBegun.headOk 6 (tBzMsg 6 0 (zeros 32)) = true ∧ tBegun.round? true 3 2 = none ∧
    (tSta (.dispatch tDisp) tRound).round? false 3 2 = some tRound ∧ tRound.phase? false = none := by
  unfold State.takesMsg; decide +kernel

theorem test_header :
    (after (.header tVia (tBzMsg 1 0 tNoRows)) tBegun).map (fun d => d.bz.rounds.map fun r => r.disp.map fun p => p.members.map (·.header)) =
      some [some [false, true]] := by decide +kernel

theorem test_messages_kept :
    ([Instr.header tVia (tBzMsg 1 0 tNoRows), .rows tVia (tBzMsg 2 0 []), .dropList tVia (tBzMsg 5 1 (zeros 32)), .bazaarAbort tVia (tBzMsg 6 0 (zeros 32))].map
      fun i => (after i (tSta (.dispatch tDisp) tRound)).map fun d => d.bz.rounds.map (·.early.length)) = List.replicate 4 (some [1]) := by decide +kernel

/-- A NEGOTIATED round of three, whose requests and grants are out. -/
def tNeg : Dev := tSta (.dispatch tDisp) { tRound with members := [0, 1, 2], negotiated := true, gateDone := false }

theorem witness_RoundMessagesAndUpkeep_b :
    ({ pending := [], toll := Toll.reset, dev := tNeg } : State).takesMsg tVia ∧ tNeg.headOk 3 (tBzMsg 3 0 (zeros 32)) = true ∧
    tNeg.headOk 4 (tBzMsg 4 0 (zeros 32)) = true ∧ (tNeg.round? false 3 2).map (·.negotiated) = some true := by
  unfold State.takesMsg; decide +kernel

theorem test_request :
    (after (.request tVia (tBzMsg 3 0 (leBytes 2 1 ++ zeros 30 ++ leBytes 2 5 ++ zeros 30))) tNeg).map (fun d => d.bz.rounds.map (·.requests)) =
      some [[(1, [5])]] := by decide +kernel

theorem test_grant :
    (after (.grant tVia (tBzMsg 4 0 (leBytes 2 1 ++ zeros 30 ++ leBytes 2 5 ++ leBytes 2 9 ++ zeros 28))) tNeg).map (fun d => d.bz.rounds.map (·.grants)) =
      some [[(1, [(5, 9)])]] := by decide +kernel

/-- A ROWS message of rank 1 with one row: its side column and its tile. -/
def tRowsBody : List Byte := bzSide 3 0 [⟨0, 0, 0, 0, 0, 0x3C00, [], [], 2, []⟩] ++ tTile
theorem witness_RoundsRunThrough_a :
    ({ pending := [], toll := Toll.reset, dev := tBegun } : State).takesMsg tVia ∧ tBegun.headOk 2 (tBzMsg 2 0 tRowsBody) = true ∧
    tBegun.headOk 5 (tBzMsg 5 0 (zeros 32)) = true ∧ tBegun.headOk 6 (tBzMsg 6 0 (zeros 32)) = true ∧
    tBegun.round? false 3 2 = some { tRound with members := [0, 1], disp := some tPhase } ∧
    tPhase.members.find? (fun y => y.pos == 1) = some ⟨1, false, 0, 0, 0, [], false, false⟩ ∧ fmtCode .fp4 = fmtCode tPhase.fmt ∧
    (∃ y ∈ tPhase.members, y.pos ≠ 1 ∧ y.header = false ∧ y.missing = false) ∧ tRowsBody.length = 544 + 1 * tileTotal .fp4 ∧
    sideGood (tRowsBody.take 544) = true ∧ fieldAt (tRowsBody.take 544) 2 2 = 3 ∧ fieldAt (tRowsBody.take 544) 4 4 = tPhase.epoch ∧
    tileGood (fun g => g == .fp4) ((tRowsBody.drop 544).take (tileTotal .fp4)) = true := by
  unfold State.takesMsg; decide +kernel

/-- R219, R230: the row of a ROWS message is kept at local expert 0; an ABORT makes its sender missing. -/
theorem test_rows :
    (after (.rows tVia (tBzMsg 2 0 tRowsBody)) { tBegun with bz := { tBegun.bz with rounds :=
      [{ tRound with members := [0, 1], route := [(32, 0, 0)], disp := some tPhase }] } }).map (fun d => d.bz.rounds.map fun r =>
        r.disp.elim [] fun p => p.rows.map fun y => (y.pos, y.key, y.codes.take 3)) = some [[(1, 0, [1, 2, 0])]] := by decide +kernel

theorem test_bazaar_abort :
    (after (.bazaarAbort tVia (tBzMsg 6 0 (zeros 32))) tBegun).map (fun d => d.bz.rounds.map fun r =>
      r.disp.map fun p => p.members.map (·.missing)) = some [some [false, true]] := by decide +kernel

/-- R220: a DROP_LIST of the return phase marks the choice (token 0, rank 0) as dropped, in CHOICES too. -/
def tDropped : Option Dev :=
  after (.dropList tVia (tBzMsg 5 1 (leBytes 4 1 ++ zeros 60)))
    (tSta (.combine tComb) { tRound with
      members := [0, 1], disp := some tArranged, comb := some { tPhase with phase := 1, choices := [[(true, 0x3C00)]] } })

theorem test_drop_list :
    tDropped.map (fun d => d.bz.rounds.flatMap fun r => r.comb.elim [] fun p => p.choices.flatten.map (·.1)) = some [false] ∧
    tDropped.map (fun d => d.bz.rounds.flatMap fun r => r.comb.elim [] fun p => p.members.map (·.drops)) = some [0, 1] ∧
    tDropped.map (fun d => d.peek 0x10006 1) = some [1#8] := by decide +kernel

/-- The device alone in its exchange group, its one choice dropped. -/
def tAloneArgs : RoundArgs := { tRoundArgs with group := 1 }
def tAloneDisp : DispatchArgs := { tDisp with r := tAloneArgs }
def tAloneComb : CombineArgs := { tComb with r := tAloneArgs }
def tAlone (op : Op) (r : Round) : Dev := let d := tSta op r; { d with mem := d.mem.writes 0x10006 [1#8] }

theorem witness_RoundsRunThrough_b :
    let d := tAlone (.dispatch tAloneDisp) tRound
    d.oldest 2 (fun op => match op with | .dispatch _ => true | _ => false) = some (tAccepted 2 (.dispatch tAloneDisp)) ∧ (d.core 2).ending = none ∧
    d.dispatchFault tAloneDisp = none ∧ d.round? false 3 2 = some tRound ∧ (d.rowsSpans tAloneDisp).toOption = some [(0, .mem [(0x9000, 544)])] ∧
    (d.handleSpan (tHandle 0) 24 false).toOption = some (.mem [(0x10000, 24)]) ∧ d.readable 0x8100 2 = true ∧
    d.rankValid (leNat (d.peek 0x8100 2)) = true ∧ d.readable 0x8000 8 = true ∧ d.heldAt 0x9000 544 = false ∧ d.heldAt 0x10000 24 = false ∧
    (d.routeEntry (leNat (d.peek 0x8000 8))).toOption = some (32, 1, 0) ∧ (d.handleSpan (tHandle 2) 0 true).toOption = some (.mem []) ∧
    (d.handleSpan (tHandle 1) 96 true).toOption = some (.mem [(0x11000, 96)]) ∧
    (∀ l ∈ choicesOf (d.peek 0x10000 24) 1 1, ∀ y ∈ l, y.1 = false) := by decide +kernel

theorem witness_RoundsRunThrough_b_combine :
    let d := tAlone (.combine tAloneComb) { tRound with disp := some tArranged }
    d.oldest 2 (fun op => match op with | .combine _ => true | _ => false) = some (tAccepted 2 (.combine tAloneComb)) ∧
    roundLimits tAloneArgs 1 5 = none ∧ outBad .bf16 none = false ∧ (d.handleSpan (tHandle 4) 64 true).toOption = some (.mem [(0x14000, 64)]) ∧
    (d.handleSpan (tHandle 5) 2080 true).toOption = some (.mem [(0x15000, 2080)]) ∧ (d.handleSpan (tHandle 1) 96 true).toOption = some (.mem [(0x11000, 96)]) ∧
    (d.handleSpan (tHandle 0) 24 true).toOption = some (.mem [(0x10000, 24)]) := by decide +kernel

/-- R223: the dispatch of a group of one is arranged and has completed; R225: its combine writes OUT and ends the round. -/
theorem test_dispatch_alone :
    (after (.dispatch 2) (tAlone (.dispatch tAloneDisp) tRound)).map (fun d => (d.bz.rounds.map fun r => r.disp.map (·.arranged),
      d.accepted.length, d.peek 0x11000 3)) = some ([some true], 0, [1#8, 0#8, 0#8]) := by decide +kernel
theorem test_combine_alone :
    (after (.combine 2) (tAlone (.combine tAloneComb) { tRound with disp := some tArranged })).map (fun d => (d.bz.rounds.length,
      d.accepted.length, tileFmt (d.peek 0x15000 2080), d.peek 0x11000 3)) = some (0, 0, .bf16, [1#8, 1#8, 0#8]) := by decide +kernel

theorem witness_KeptRowsWithinShare :
    tRound.bwd = false ∧ ∀ e ∈ List.range 3, (tArranged.rows.filter fun y => y.pos == 0 && y.key == e).length ≤ tBegun.shareOf tRound none e 0 := by
  decide +kernel

theorem witness_AdmissionAndShares_b : (∀ c ∈ [(⟨0, 0, 0, false, false⟩ : Choice)], c.expert < ([0] : List Nat).length) := by decide +kernel

/-- The deadline of the phase passes: rank 1 and rank 0 without HEADER are missing, and the DISPATCH is over (R230, R231). -/
theorem test_phase_deadline :
    (after (.phaseDeadline 3 2 0) tBegun).map (fun d => (d.bz.missing, d.accepted.length, decide (d.now ≥ 20000000))) =
      some (2, 0, true) := by decide +kernel

/-- A round without phases and without a command of its own. -/
def tBare : Dev := { tSta (.dispatch tDisp) tRound with accepted := [] }

theorem witness_RoundMessagesAndUpkeep_c :
    tBegun.round? false 3 2 = some { tRound with members := [0, 1], disp := some tPhase } ∧ tBare.awakeUp = true ∧ tBare.bz.waits = [] ∧
    (∀ r ∈ tBare.bz.rounds, r.gateDone = true ∧ r.members = [] ∧ r.disp = none ∧ r.comb = none ∧ ∀ a ∈ tBare.accepted, r.owns a = false) ∧
    (∀ t ∈ tBare.ct.tracks, t.row ≠ 2) ∧
    (({ tNeg with bz := { tNeg.bz with rounds := tNeg.bz.rounds.map fun r => { r with granted := true } } } : Dev).round? false 3 2).map
      (fun r => (r.negotiated, r.gateDone, r.granted)) = some (true, false, true) := by decide +kernel

theorem test_bz_clear_disable :
    ((after .bzClearCounts { tBegun with bz := { tBegun.bz with late := 5, tagsPeak := 9 } }).map fun d => (d.bz.late, d.bz.tagsPeak),
     (after .bzDisable (tSta (.dispatch tDisp) tRound)).map fun d => (d.bz.rounds.length, d.bz.ctrl)) = (some (0, 0), some (0, 0#32)) := by
  decide +kernel

/-- A replica in slot 7 of the 64 bytes at the start of the version in slot 6. -/
def tReplica : Dev :=
  let d := tBz tDev
  { d with place := { d.place with replicas := [⟨7, 6, 0, 64, 0, 0, 1, 4, false, 0⟩] }, mem := Memory.writes [] 0x16000 [5#8] }

theorem witness_RoundMessagesAndUpkeep_c_replica :
    (tReplica.place.replicas.find? fun x => x.slot == 7 && !x.complete) = some ⟨7, 6, 0, 64, 0, 0, 1, 4, false, 0⟩ ∧
    tReplica.depot.buf 6 = some (tBuf 6) ∧ tReplica.depot.buf 7 = some (tBuf 7) ∧ tReplica.unarmed = true ∧
    (∀ x ∈ (tBuf 6).pieces 0 64, x.1 < hostBase ∧ tReplica.poisonedIn x.1 x.2 = none) := by decide +kernel

theorem test_replica :
    (after (.replicaCopyDone 7) tReplica).map (fun d => (d.place.replicas.map (·.complete), d.peek 0x17000 1)) = some ([true], [5#8]) := by
  decide +kernel

/-! ## The stash and weight versions -/

/-- An accepted station command of core 2. -/
def tAcc1 (op : Op) : Accepted := ⟨50, 2, 9, tCmd op, false, false, [], [], 0, 0⟩

/-- A device whose station has that command, with the Depot enabled. -/
def tServe (op : Op) : Dev := { tDev with accepted := [tAcc1 op], depot := { Depot.reset with ctrl := 1 } }

/-- A reservation of two lines of Well 0 and one of Well 1, and a spill ring that is declared or not. -/
def tStash (bytes : Nat) (spill : Bool) : Dev :=
  { tServe (.stashAlloc 3 bytes 0x100) with
    job := some { tJob with stash := ⟨6144, 1, spill, 0x100000000, 0x200000⟩ },
    depot := { Depot.reset with ctrl := 1, stash := [(0, 0x4000, 2), (1, 0xC00004000, 1)] } }

theorem serves_stash (b : Nat) (sp : Bool) : (tStash b sp).serves 2 (tAcc1 (.stashAlloc 3 b 0x100)) [] [] := by
  refine ⟨rfl, rfl, rfl, ?_, ?_, rfl, rfl⟩ <;> simp

/-- R248: three lines fit although no Well has three; the third comes from Well 1. -/
theorem test_stash_alloc :
    (after (.stashAlloc 2) (tStash 6144 false)).map (fun d => (d.depot.bufs.map (·.extents), d.accepted.length, (d.core 2).halted)) =
      some ([[0x4000, 0xC00004000, 0x4800]], 0, false) := by decide +kernel

/-- R250: with one line too much the allocation spills or halts the core. -/
theorem test_stash_spills :
    (after (.stashAlloc 2) (tStash 6176 true)).map (fun d => (d.depot.bufs.map (·.extents), d.depot.spill.map (·.bytes))) =
      some ([[0x100000000]], [8192]) ∧
    (after (.stashAlloc 2) (tStash 6176 false)).map (fun d => ((d.core 2).halted, d.mem.read (haltArea .zx9440 2))) = some (true, 0x0A) := by
  decide +kernel

theorem witness_StashAndVersions_a :
    wbit (tStash 6144 false).depot.ctrl 0 = true ∧ (tStash 6144 false).resultFault 2 0x100 = none ∧
    (tStash 6144 false).depot.freeSlot = some 0 ∧ roundUp 6144 2048 ≤ 2048 * ((tStash 6144 false).depot.stashLines - (tStash 6144 false).depot.stashUsed) ∧
    takeLines 3 (((tStash 6144 false).pool 255).elim 0 fun p => (tStash 6144 false).depot.leastWell .zx9440 p) (tStash 6144 false).stashFree =
      some [0x4000, 0xC00004000, 0x4800] ∧
    2048 * ((tStash 6176 true).depot.stashLines - (tStash 6176 true).depot.stashUsed) < roundUp 6176 2048 ∧
    (tStash 6176 true).depot.spillAt 0x200000 8192 = some 0 := by decide +kernel

/-- One TRAINED or FROZEN dense group whose record lies at 0x3000, version 5 current with two references. -/
def tGroup (op : Op) (mode : Byte) (holds : List Hold) : Dev :=
  { tServe op with
    mem := Memory.writes (Memory.writes [] 0x3002 [mode]) 0x3040 (leBytes 4 5 ++ zeros 4 ++ leBytes 8 0x8000000000000007),
    wells := { (tServe op).wells with baseLo := 0x3000, count := 1, versions := [⟨0, 5, 7, 2⟩], holds := holds } }

/-- R265: a take writes CUR_HANDLE to RESULT and raises the count; a drop lowers it. -/
theorem test_version_take :
    (after (.versionTake 2) (tGroup (.versionTake 0 24 0x100) 0 [])).map (fun d => (leNat (d.peek 0x100 8), d.wells.versions.map (·.count),
      d.wells.holds.map (·.num))) = some (0x8000000000000007, [3], [5]) ∧
    (after (.versionDrop 2) (tGroup (.versionDrop 0 24) 0 [⟨0, 24, 5⟩])).map (fun d => (d.wells.versions.map (·.count), d.wells.holds.length,
      d.accepted.length)) = some ([1], 0, 0) := by decide +kernel

/-- R268: a second take of a hold halts with VERSION_LIMIT. -/
theorem test_version_limit :
    (after (.versionTake 2) (tGroup (.versionTake 0 24 0x100) 0 [⟨0, 24, 5⟩])).map (fun d => (d.mem.read (haltArea .zx9440 2),
      d.wells.versions.map (·.count))) = some (0x10, [2]) := by decide +kernel

theorem witness_StashAndVersions_b :
    (tGroup (.versionTake 0 24 0x100) 0 []).serves 2 (tAcc1 (.versionTake 0 24 0x100)) [] [] ∧
    (tGroup (.versionDrop 0 24) 0 [⟨0, 24, 5⟩]).serves 2 (tAcc1 (.versionDrop 0 24)) [] [] ∧
    wbit (tGroup (.versionTake 0 24 0x100) 0 []).depot.ctrl 0 = true ∧ 0 < (tGroup (.versionTake 0 24 0x100) 0 []).groupCount ∧
    (tGroup (.versionTake 0 24 0x100) 0 []).resultFault 2 0x100 = none ∧ (tGroup (.versionTake 0 24 0x100) 0 []).trainMode 0 ≠ 1 ∧
    (tGroup (.versionTake 0 24 0x100) 0x10 []).trainMode 0 = 1 ∧ (tGroup (.versionTake 0 24 0x100) 0 []).hold? 0 24 = none ∧
    (tGroup (.versionDrop 0 24) 0 [⟨0, 24, 5⟩]).hold? 0 24 = some ⟨0, 24, 5⟩ := by
  refine ⟨⟨rfl, rfl, rfl, ?_, ?_, rfl, rfl⟩, ⟨rfl, rfl, rfl, ?_, ?_, rfl, rfl⟩, ?_, ?_, ?_, ?_, ?_, ?_, ?_⟩ <;> first | decide +kernel | simp

/-! ## Gradient reduction -/

/-- R276, the example of R300: 600 tiles over six members; position 3 is the parent of position 4 and the child of position 1 in segment 1. -/
theorem test_tree :
    (segLo 600 6 1, segHi 600 6 1, redDepth 6, relPos 6 3 1, relPos 6 4 1, relPos 6 1 1) = (100, 200, 3, 2, 3, 0) ∧
    (hasChild 6 2 0, hasChild 6 0 1, upLevel 2, upLevel 3) = (true, true, 1, 0) := by decide +kernel

theorem witness_ReductionTree : 1 ≤ 6 ∧ 6 ≤ 8192 ∧ 1 < 6 ∧ 3 < 6 ∧ 0 < relPos 6 3 1 := by decide +kernel

/-- Four buffers of four FP32 tiles in a GENERAL pool. -/
def tRBuf (slot : Nat) : Buf :=
  { slot := slot, pool := 1, kind := 0, gen := 0, bytes := 16512, fmt := some .fp32, k0 := 0, eb := 0x8000, extents := [0x10000 + 0x8000 * slot],
    refs := 1, torn := false, tornTiles := 0 }
def tRHandle (slot : Nat) : Word64 := tDev.handleOf (tRBuf slot)

/-- A collective of four members, this device at position 0, over four tiles. -/
def tColl (op : CollOp) (norm : Bool) : CollArgs :=
  { op := op, leadPort := 0, channel := 2, collId := 40, epoch := 7, members := 0x2000, n := 4, pos := 0, src := tRHandle 0, nTiles := 4, dst := tRHandle 1,
    scratch := tRHandle 2, divMode := .sum, nanSkip := false, itemTiles := 4, counts := none, countsOut := none, norm := norm, normOut := 0x100,
    buffers := [], deadline := 1000, record := tRHandle 3 }

/-- The device of the reduction tests: the block enabled, RD_EPOCH 7, the members' ranks in memory, and what stands in channel 2. -/
def tRd (op : Op) (q : List CollSt) : Dev :=
  { tDev with
    accepted := [⟨50, 2, 9, tCmd op, false, false, [], [], 0, 0⟩], mem := Memory.writes [] 0x2002 [1, 0, 1, 0, 1],
    depot := { Depot.reset with ctrl := 1, bufs := (List.range 4).map tRBuf,
                                pools := [⟨1, 1, 0, 14, 1, 1, 64, 0, [(0, 0x10000, 64)]⟩] },
    rd := { tDev.rd with ctrl := 1, epoch := 7, channels := [(2, q)] } }

/-- A running collective: an edge of level 0 of segment 0 is awaited. -/
def tSeg (i level : Nat) : SegSt := { SegSt.fresh (tColl .allReduce false) i with level := level }
def tRunColl (a : CollArgs) : CollSt :=
  { CollSt.fresh ⟨50, 2, 9, tCmd (.collective a), true, false, [], [], 0, 0⟩ [0, 1, 1, 1] with
    coll := some a, started := true, segs := if a.op = .globalNorm then [] else (List.range 4).map fun i => tSeg i 0 }

/-- A message of rank 1 for it, with its CRC. -/
def tRedMsg (kind level seg : Nat) (body : List Byte) : RedMsg :=
  let m : RedMsg := { version := 1, kind := kind, channel := 2, level := level, src := 1, dst := 0, collId := 40, epoch := 7, crc := 0, segment := seg,
                      resv := 0, body := body }
  { m with crc := redCrc m }

/-- A message with its CRC filled in has the right CRC. -/
theorem redCrc_self (m : RedMsg) (c : Nat) : redCrc { m with crc := c } = redCrc m := rfl

theorem tRedMsg_crc (kind level seg : Nat) (body : List Byte) : (tRedMsg kind level seg body).crc = redCrc (tRedMsg kind level seg body) := by
  unfold tRedMsg
  rw [redCrc_self]

def tTrail : Trailer := ⟨[], [1], 0, 0, [0], 0⟩

/-- The device while the ALL_REDUCE runs. -/
def tRun9 : Dev := tRd (.close 0) [tRunColl (tColl .allReduce false)]

theorem test_all_reduce_enters :
    (after (.allReduce 2) (tRd (.collective (tColl .allReduce false)) [])).map (fun d => ((d.chan 2).map (·.members), (d.chan 2).map (·.segs.length))) =
      some ([[0, 1, 1, 1]], [4]) := by decide +kernel

/-- A PERMUTE with empty maps. -/
def tPerm : PermuteArgs :=
  { leadPort := 0, channel := 2, collId := 41, epoch := 8, members := 0x2000, n := 4, pos := 0, sendMap := 0, sendCount := 0, recvMap := 0, recvCount := 0,
    deadline := 1000, record := tRHandle 3 }

theorem witness_CollectivesEnterAndStart_a :
    let d := tRd (.collective (tColl .allReduce false)) []
    d.serves 2 ⟨50, 2, 9, tCmd (.collective (tColl .allReduce false)), false, false, [], [], 0, 0⟩ [] [] ∧ d.unarmed = true ∧ wbit d.rd.ctrl 0 = true ∧
    collLimits (tColl .allReduce false) = none ∧ d.readable 0x2000 8 = true ∧
    (∀ r ∈ (List.range 4).map (fun i => fieldAt (d.peek 0x2000 8) (2 * i) 2), d.rankValid r = true) ∧
    ((List.range 4).map fun i => fieldAt (d.peek 0x2000 8) (2 * i) 2).getD 0 0 = d.fx.rankSelf ∧
    (d.collRanges (tColl .allReduce false)).toOption = some [0, 1, 2, 3] ∧ permLimits tPerm = none ∧
    d.fetching 50 = false ∧ (d.redBuf 0 tPerm.record 0 (collRecordBytes 4 0) 8 true).toOption = some (tRBuf 3) := by
  refine ⟨⟨rfl, rfl, rfl, ?_, ?_, rfl, rfl⟩, ?_, ?_, ?_, ?_, ?_, ?_, ?_, ?_, ?_, ?_⟩ <;> first | decide +kernel | simp

/-- The collective of the tests before its start, and one of another epoch. -/
def tHead (e : Nat) : CollSt := { tRunColl { tColl .allReduce false with epoch := e } with started := false }

/-- R296: an older epoch halts the core; a newer one waits. -/
theorem test_epochs :
    (after (.collectiveStart 2) { tRd (.close 0) [tHead 6] with accepted := [⟨50, 2, 9, tCmd (.close 0), true, false, [], [], 0, 0⟩] }).map
      (fun d => ((d.core 2).halted, (d.chan 2).length)) = some (true, 0) ∧
    (after (.collectiveStart 2) (tRd (.close 0) [tHead 8])).map (fun d => (d.chan 2).map (·.ahead)) = some [some 0] := by decide +kernel

theorem witness_CollectivesEnterAndStart_b :
    let d := tRd (.close 0) [tHead 7]
    d.coll 2 = some (tHead 7) ∧ (tHead 7).started = false ∧ (tHead 7).members.length = 4 ∧ wbit d.rd.ctrl 0 = true ∧ d.unarmed = true ∧
    d.liveBuf (tRHandle 0) = some (tRBuf 0) ∧ d.fetching (tHead 7).acc = false ∧ d.rd.held.isEmpty = true ∧
    (∀ i, i < 4 → ∀ p ∈ (tRBuf 0).pieces (i * fp32Tile) fp32Tile, p.1 < hostBase ∧ d.poisonedIn p.1 p.2 = none) ∧
    (∀ x ∈ ({ tRd (.close 0) [tHead 8] with accepted := [] } : Dev).accepted, x.id ≠ (tHead 8).acc) ∧
    epochOlder 6 7 = true ∧ epochOlder 8 7 = false ∧
    ({ tHead 8 with ahead := some 0 } : CollSt).nanTrap = false ∧ tDev.awakeUp = true := by
  refine ⟨?_, ?_, ?_, ?_, ?_, ?_, ?_, ?_, ?_, ?_, ?_, ?_, ?_, ?_⟩ <;> decide +kernel

theorem test_epoch_ahead :
    (after (.epochAheadTimeout 2) (tRd (.close 0) [{ tHead 8 with ahead := some 0 }])).map
      (fun d => ((d.chan 2).length, d.now, d.rd.done, d.rd.partialCount, wbit d.rd.err 6)) = some (0, 1000000, 1, 1, true) := by decide +kernel

theorem test_rd_disable :
    (after .rdDisable { tRd (.close 0) [tHead 7, tHead 8] with accepted := [] }).map (fun d => ((d.chan 2).length, d.rd.ctrl)) = some (0, 0) := by
  decide +kernel

/-- A reduction message is taken in. -/
theorem takes_red (kind level seg : Nat) (body : List Byte) (q : List CollSt) :
    ({ pending := [], toll := Toll.reset, dev := tRd (.close 0) q } : State).takesRed tVia (tRedMsg kind level seg body) kind := by
  refine ⟨⟨rfl, ?_, rfl, ?_, ?_⟩, ?_, rfl, rfl, rfl, rfl⟩
  · rfl
  · show (1 : Nat) ≠ 0
    decide
  · show wbit 1 0 = true
    decide
  · rfl

theorem witness_EdgesResolveWhole_a :
    (tRd (.close 0) []).runningColl 2 = none ∧ (⟨2, 40, 1, 0, 0⟩ : ClosedEdge) ∉ (tRd (.close 0) []).rd.closed ∧
    (⟨2, 40, 1, 0, 0⟩ : ClosedEdge) ∈ ({ (tRd (.close 0) []) with rd := { (tRd (.close 0) []).rd with closed := [⟨2, 40, 1, 0, 0⟩] } } : Dev).rd.closed ∧
    (tRedMsg 4 1 0 []).crc = redCrc (tRedMsg 4 1 0 []) := by
  refine ⟨?_, ?_, ?_, tRedMsg_crc _ _ _ _⟩ <;> decide +kernel

theorem test_held :
    (after (.up tVia (tRedMsg 1 0 0 []) .clean) (tRd (.close 0) [])).map (fun d => (d.rd.held.length, d.out.length)) = some (1, 1) := by decide +kernel

/-- The running collective of the tests. -/
theorem runs_tree (op : CollOp) (norm : Bool) : (tRd (.close 0) [tRunColl (tColl op norm)]).runsTree 2 (tRunColl (tColl op norm)) (tColl op norm) := by
  refine ⟨rfl, rfl, rfl, rfl, rfl, ?_, ?_, rfl⟩
  · show (0 : Nat) < 4
    decide
  · intro x h
    cases h

theorem witness_EdgesResolveWhole_b :
    (tRunColl (tColl .allReduce false)).segAt 0 = some (tSeg 0 0) ∧ waitsEdge (tColl .allReduce false) (tSeg 0 0) ∧
    waitsEdge (tColl .allReduce false) { tSeg 0 0 with level := 1 } ∧ [0, 1, 1, 1].getD 1 0 = 1 ∧ redDepth 4 = 2 ∧
    readBody 4 1 1 false (tRedMsg 1 0 0 (trailerBytes 4 false tTrail)) = some ([], tTrail) ∧ edgeGood (tSeg 0 0) [] = true ∧
    readBody 4 1 1 false (tRedMsg 1 0 0 [7]) = none ∧ hasChild 4 0 1 = true ∧ (relPos 4 0 3).testBit 0 = true ∧ [0, 1, 1, 1].getD 3 0 = 1 := by
  refine ⟨?_, ⟨rfl, rfl, rfl, ?_⟩, ⟨rfl, rfl, rfl, ?_⟩, ?_, ?_, ?_, ?_, ?_, ?_, ?_, ?_⟩ <;> first | decide +kernel | (intro x h; cases h)

theorem test_up :
    (after (.up tVia (tRedMsg 1 0 0 (trailerBytes 4 false tTrail)) .clean) tRun9).map (fun d => (d.coll 2).bind fun k => (k.segAt 0).map fun g =>
      (g.level, g.nanMap, g.failed)) = some (some (1, [1], [])) := by decide +kernel

theorem test_edge_deadline :
    (after (.edgeDeadline 2 0 1) tRun9).map (fun d => (((d.coll 2).bind fun k => (k.segAt 0).map (·.failed)), d.now, d.rd.late)) =
      some (some [(1, 1)], 2000000, 1) := by decide +kernel

/-- A result tile. -/
def tF32 : List Byte := f32Tile 1 1 7 false false fun _ _ => 0x3F800000

/-- It passes its checks. -/
theorem tF32_good : redGood tF32 = true := by decide +kernel

theorem witness_ResultsAndNorm :
    tSeg 3 0 ∈ (tRunColl (tColl .allReduce false)).segs ∧ (tRunColl (tColl .allReduce false)).segAt 1 = some (tSeg 1 0) ∧
    (∀ i, i < 4 → ((tRunColl (tColl .allReduce false)).segAt i).map (·.seg) = some i) ∧ tRun9.liveBuf (tRHandle 1) = some (tRBuf 1) ∧
    (readBody 4 1 1 false (tRedMsg 2 0xFF 1 (tF32 ++ trailerBytes 4 false tTrail))).map (·.1) = some [tF32] ∧ [tF32].all redGood = true ∧
    readBody 4 0 0 true (tRedMsg 5 0 0 (trailerBytes 4 true ⟨[1], [], 0, 0, [], 5⟩)) = some ([], ⟨[1], [], 0, 0, [], 5⟩) := by
  refine ⟨?_, ?_, ?_, ?_, ?_, ?_, ?_⟩
  · decide +kernel
  · decide +kernel
  · decide +kernel
  · decide +kernel
  · simp only [readBody, tRedMsg_crc, ne_eq, not_true_eq_false, decide_false, Bool.false_or]
    decide +kernel
  · simpa using tF32_good
  · decide +kernel

theorem test_norm_up :
    (after (.normUp tVia (tRedMsg 5 0 0 (trailerBytes 4 true ⟨[1], [], 0, 0, [], 0x4000000000000000⟩)))
      (tRd (.close 0) [{ tRunColl (tColl .globalNorm true) with normReady := true, normHas := true, normPresent := [0] }])).map
      (fun d => (d.coll 2).map fun k => (k.normQ, k.normLevel, k.normPresent)) = some (some (0x4000000000000000, 1, [0, 1])) := by decide +kernel

theorem test_segment_deadline :
    (after (.segmentDeadline 2 1) tRun9).map (fun d => ((d.coll 2).map (·.tornTiles), d.now)) = some (some 1, 3000000) := by decide +kernel

theorem test_norm_deadline :
    (after (.normDeadline 2) (tRd (.close 0) [tRunColl (tColl .allReduce true)])).map (fun d => (leNat (d.peek 0x100 16), d.now)) =
      some (0x7FC00000 * 2 ^ 64, 4000000) := by decide +kernel

/-! ## The Wells -/

/-- A FILL of a 4 KiB buffer with zero, on a device with that buffer and one for the record. -/
def tWBuf (slot : Nat) : Buf :=
  { slot := slot, pool := 1, kind := 0, gen := 0, bytes := 4096, fmt := none, k0 := 0, eb := 4096, extents := [0x10000 + 4096 * slot], refs := 1,
    torn := false, tornTiles := 0 }
def tWHandle (slot : Nat) : Word64 := tDev.handleOf (tWBuf slot)
def tFill : WellOp := .fill (tWHandle 0) 0 2048 (.word 0x01020304)

/-- The device of the Well tests: one dense group at 0x3000, version 5 current, MAX_VERSIONS 2. -/
def tWell (op : WellOp) (mode : Byte) (cmds : List WellCmd) : Dev :=
  { tDev with
    nextId := 90, accepted := [⟨50, 2, 9, tCmd (.well 0 (tWHandle 1) op), false, false, [], [], 0, 0⟩],
    mem := Memory.writes (Memory.writes [] 0x3001 [1, mode, 0x0C, 8, 2]) 0x3024 (leBytes 4 5000 ++ zeros 24 ++ leBytes 4 5),
    depot := { Depot.reset with ctrl := 1, bufs := [tWBuf 0, tWBuf 1], pools := [⟨1, 1, 0, 12, 1, 1, 64, 0, [(0, 0x10000, 64)]⟩] },
    wells := { tDev.wells with ctrl := 1, baseLo := 0x3000, count := 1, cmds := cmds, versions := [⟨0, 5, 7, 2⟩, ⟨0, 4, 6, 1⟩] } }

theorem test_fill_accepted :
    (after (.fill 2) (tWell tFill 0 [])).map (fun d => (d.wells.cmds.map fun k => (k.id, k.parts.length, k.started), d.accepted.map (·.refs))) =
      some ([(90, 1, false)], [[1, 0]]) := by decide +kernel

/-- R306, R88: a FILL of no bytes is REJECTED. -/
theorem test_fill_rejected :
    (after (.fill 2) (tWell (.fill (tWHandle 0) 0 0 .zero) 0 [])).map (fun d => ((d.core 2).halted, d.accepted.length)) =
      some (true, 0) := by decide +kernel

/-- A fold that closes its pair with no part, held or not. -/
def tFold (use : Nat) : FoldArgs := ⟨0, none, 7, 0, use, 0, true, 0, none⟩

theorem witness_WellCommandsAdmitted_a :
    (tWell tFill 0 []).serves 2 ⟨50, 2, 9, tCmd (.well 0 (tWHandle 1) tFill), false, false, [], [], 0, 0⟩ [] [] ∧
    ((tWell tFill 0 []).wellPlan 0 tFill).toOption.map (·.parts.length) = some 1 ∧ (tWell tFill 0 []).opEntry tFill = none ∧
    ((tWell tFill 0 []).wRange (tWHandle 1) 0 (wellRecordBytes 1) 8 true).toOption = some (tWBuf 1) ∧
    ((tWell (.fill (tWHandle 0) 0 0 .zero) 0 []).wellPlan 0 (.fill (tWHandle 0) 0 0 .zero)).toOption = none ∧
    ((tWell tFill 0 []).wRange 0 0 96 8 true).toOption = none ∧
    (tWell (.optUpdate 0 7 0 none none) 0x10 []).trainMode 0 = 1 ∧
    ((tWell (.optUpdate 0 7 0 none none) 0x10 []).wellPlan 0 (.optUpdate 0 7 0 none none)).toOption = some ⟨[], []⟩ ∧
    (tWell (.fold (tFold 0)) 0 []).accLive 0 = false ∧ (∀ k ∈ (tWell tFill 0 []).wells.cmds, k.id < (tWell tFill 0 []).nextId) := by
  refine ⟨⟨rfl, rfl, rfl, ?_, ?_, rfl, rfl⟩, ?_, ?_, ?_, ?_, ?_, ?_, ?_, ?_, ?_⟩ <;> first | decide +kernel | simp

/-- R262: an update of a FROZEN group writes its record and ends. -/
theorem test_frozen_update :
    (after (.optUpdate 2) (tWell (.optUpdate 0 7 0 none none) 0x10 [])).map (fun d => (d.accepted.length, d.peek 0x11000 4, leNat (d.peek 0x11030 4))) =
      some (0, [1, 1, 0, 0], 5) := by decide +kernel

/-- A Well command of core 2 in progress. -/
def tWcmd (op : WellOp) (held : Option Nat) (started : Bool) (parts : List WPart) : WellCmd :=
  { (tWell op 0 []).newWell 80 (.core 2 50) 0 (tWHandle 1) op false ⟨parts, []⟩ with heldSince := held, started := started }

/-- Two versions live: the update is held; after HOLD_MAX its core halts with VERSION_LIMIT. -/
def tHeldUpd : WellCmd := tWcmd (.optUpdate 0 7 0 none none) (some 0) false []

theorem witness_WellCommandsAdmitted_b :
    let d := tWell (.optUpdate 0 7 0 none none) 0 [tHeldUpd]
    d.wcmd 80 = some tHeldUpd ∧ d.gField 0 5 1 ≤ (d.liveVersions 0).length ∧ tHeldUpd.nanAt = none ∧ 2 < d.cores.length ∧ (d.core 2).halted = false ∧
    d.bz.rounds = [] ∧ d.mem.wf = true ∧ (d.core 2).ending = none := by
  refine ⟨?_, ?_, ?_, ?_, ?_, ?_, ?_, ?_⟩ <;> decide +kernel

theorem test_hold_max :
    (after (.holdMaxExpire 80) (tWell (.optUpdate 0 7 0 none none) 0 [tHeldUpd])).map (fun d => (d.now, d.wells.cmds.length, (d.core 2).halted,
      d.wells.versions.length)) = some (5000000, 0, true, 2) := by decide +kernel

/-- With one version live and no room in the pool the update still waits; with room it is admitted. -/
theorem test_update_admit :
    let d := { tWell (.optUpdate 0 7 0 none none) 0 [tHeldUpd] with mem := Memory.writes (tWell (.optUpdate 0 7 0 none none) 0 []).mem 0x3028 (zeros 4 ++ leBytes 4 1) }
    (after (.updateAdmit 80) { d with wells := { d.wells with versions := [⟨0, 5, 7, 2⟩] }, depot := { d.depot with pools := [⟨0, 2, 0, 14, 1, 0, 64, 0, [(0, 0x40000, 4)]⟩] } }).map
      (fun d => d.wells.cmds.map fun k => (k.newSlot, k.heldSince)) = some [(some 2, none)] := by decide +kernel

theorem witness_WellCommandsAdmitted_b_room :
    let d := { tWell (.optUpdate 0 7 0 none none) 0 [tHeldUpd] with mem := Memory.writes (tWell (.optUpdate 0 7 0 none none) 0 []).mem 0x3028 (zeros 4 ++ leBytes 4 1) }
    let d := { d with wells := { d.wells with versions := [⟨0, 5, 7, 2⟩] }, depot := { d.depot with pools := [⟨0, 2, 0, 14, 1, 0, 64, 0, [(0, 0x40000, 4)]⟩] } }
    (d.liveVersions 0).length < d.gField 0 5 1 ∧ (d.allocVersion 0).map (·.1.slot) = some 2 := by decide +kernel

/-- R256: after the LAST chunk of USE 0 of micro-batch 0 comes USE 1, and after it micro-batch 1. -/
theorem test_fold_order :
    nextKey 2 [(0, 0, 0, true)] = (0, 1, 0) ∧ nextKey 2 [(0, 0, 0, true), (0, 1, 0, true)] = (1, 0, 0) ∧ nextKey 2 [(0, 0, 0, false)] = (0, 0, 1) := by
  decide +kernel

theorem witness_FoldsInKeyOrder :
    (∀ i, i < 2 → (fun x : Nat × Nat × Nat × Bool => (x.1, x.2.1, x.2.2.1)) ([(0, 0, 0, true), (0, 1, 0, true)].getD i (0, 0, 0, false)) =
      nextKey 2 ([(0, 0, 0, true), (0, 1, 0, true)].take i)) ∧ 0 < 1 ∧ 1 < 2 := by decide +kernel

/-- The part of the FILL, and the part of a tile FILL of another. -/
def tPart (i : Nat) : WPart := ⟨i, 0, none, i, 1, false, false, 0⟩

theorem witness_WellPartsRun :
    let d (o : WellOp) (st : Bool) (ps : List WPart) := tWell o 0 [tWcmd o none st ps]
    (d tFill false [tPart 0]).wcmd 80 = some (tWcmd tFill none false [tPart 0]) ∧ (d tFill false [tPart 0]).unarmed = true ∧
    (d tFill false [tPart 0]).wellBusy 0 = false ∧ (d tFill false [tPart 0]).wellBlocked (tWcmd tFill none false [tPart 0]) = false ∧
    (d (.fold (tFold 0)) false []).foldNext (tFold 0) = true ∧ (d (.optUpdate 0 7 0 none none) false []).gExperts 0 = 0 ∧
    ((d (.optUpdate 0 7 0 none none) false []).gField 0 2 1).testBit 6 = false ∧
    ((d tFill true [tPart 0, tPart 1]).partRun (tWcmd tFill none true [tPart 0, tPart 1]) (tPart 0)).1.toOption.map (·.counts) = some [2048] ∧
    ((d tFill true [tPart 0, tPart 1]).partRun (tWcmd tFill none true [tPart 0, tPart 1]) (tPart 0)).2.wells.cmds.length = 1 ∧
    ((d (.fill (tWHandle 9) 0 2048 .zero) true [tPart 0, tPart 1]).partRun (tWcmd (.fill (tWHandle 9) 0 2048 .zero) none true [tPart 0, tPart 1])
      (tPart 0)).1.toOption.isNone = true ∧ (d tFill true [tPart 0]).depot.buf (slotOf (tWHandle 0)) = some (tWBuf 0) ∧
    (d tFill false [tPart 0]).partHeld (tWcmd tFill none false [tPart 0]) (tPart 0) = false ∧ (d tFill false [tPart 0]).fetching 80 = false ∧
    (d tFill true [tPart 0, tPart 1]).partBehind (tWcmd tFill none true [tPart 0, tPart 1]) (tPart 0) = false ∧
    ((d tFill true [tPart 0]).well 0).ucode = false ∧ tDev.heldAt 0 16 = false := by
  refine ⟨?_, ?_, ?_, ?_, ?_, ?_, ?_, ?_, ?_, ?_, ?_, ?_, ?_, ?_, ?_, ?_⟩ <;> decide +kernel

/-- A fold of one tile into the accumulator of a group of one tile, and a scrub: their parts before they end. -/
def tFold1 : FoldArgs := ⟨0, none, 7, 0, 0, 0, true, 1, some (tRHandle 1)⟩
def tFoldDev : Dev :=
  let d := tWell (.fold tFold1) 0 [tWcmd (.fold tFold1) none true [tPart 0, tPart 1]]
  { d with mem := (d.mem.writes 0x302C [1]).writes 0x3060 (leBytes 8 (tRHandle 0).toNat),
           depot := { Depot.reset with ctrl := 1, bufs := (List.range 2).map tRBuf, pools := [⟨1, 1, 0, 14, 1, 1, 64, 0, [(0, 0x10000, 64)]⟩] } }

theorem witness_WellPartsRun_folds :
    (tFoldDev.maskBytes 0 0).1 = some [] ∧ (tFoldDev.wTiles (tFoldDev.gHandle 0 96) .fp32 0 (tFoldDev.gTiles 0) true).toOption.map (·.n) = some 1 ∧
    (tFoldDev.wTiles (tFold1.part.getD 0) .fp32 0 (tFoldDev.gTiles 0) false).toOption.map (·.n) = some 1 ∧
    ((tFoldDev.maskBytes 0 0).2.foldGo 0 ⟨tRBuf 0, .fp32, 0, 1⟩ ⟨tRBuf 1, .fp32, 0, 1⟩ tFold1 [] 0 1 [0] (0, 0, 0, none)).1.1 = 1 ∧
    ((tFoldDev.maskBytes 0 0).2.foldGo 0 ⟨tRBuf 0, .fp32, 0, 1⟩ ⟨tRBuf 1, .fp32, 0, 1⟩ tFold1 [] 0 1 [0] (0, 0, 0, none)).2.wells.cmds.length = 1 ∧
    (tFoldDev.partHeld (tWcmd (.fold tFold1) none true [tPart 0, tPart 1]) (tPart 0)) = false ∧
    ((tWell (.scrub 0x8000 4096) 0 [tWcmd (.scrub 0x8000 4096) none true [tPart 0, tPart 1]]).partScrub (tPart 0) 0x8000 [] []).2.wells.cmds.length = 1 := by
  refine ⟨?_, ?_, ?_, ?_, ?_, ?_, ?_⟩ <;> decide +kernel

/-- R329: the part of a WORD fill writes its line, and the command ends with its record. -/
theorem test_fill :
    let op : WellOp := .fill (tWHandle 0) 0 16 (.word 0x01020304)
    (after (.wellPartEnd 80 0 false []) (tWell op 0 [tWcmd op none true [tPart 0]])).map (fun d =>
      (d.peek 0x10000 5, d.peek 0x1000C 5, d.peek 0x11000 4, d.wells.cmds.length)) =
      some ([4, 3, 2, 1, 4], [4, 3, 2, 1, 0], [1, 5, 0, 0], 0) := by decide +kernel

/-- One FP4 tile in slot 0, the record in slot 3, and a command whose last part ends. -/
def tLastCmd (op : WellOp) (p : WPart) : WellCmd := { tWcmd op none true [p] with record := tRHandle 3 }
def tLast (op : WellOp) (p : WPart) : Dev :=
  { tWell op 0 [tLastCmd op p] with
    mem := Memory.writes [] 0x10000 tTile,
    depot := { Depot.reset with ctrl := 1, bufs := (List.range 4).map tRBuf, pools := [⟨1, 1, 0, 14, 1, 1, 64, 0, [(0, 0x10000, 64)]⟩] } }
def tWSumsq : WellOp := .sumsq [(tRHandle 0, .fp4, 1)] 0x100
def tWRequant : WellOp := .requant (.tiled (tRHandle 0) .fp4) (.tiled (tRHandle 2) .bf16) .bf16 none false 7 1 1
def tWScatter : WellOp := .scatterRows (tRHandle 0) (tRHandle 1) (tRHandle 2) 1 1 1

/-- The device after the last part of a command. -/
def tEnded (op : WellOp) (p : WPart) : Option Dev := after (.wellPartEnd 80 0 false []) (tLast op p)

/-- R321: 0.5² + 1.0² = 1.25 goes to RESULT with its norm and VALID, and the record says OPCODE and OK. -/
theorem test_sumsq : (tEnded tWSumsq (tPart 0)).map (fun d => (leNat (d.peek 0x100 8), d.peek 0x10C 1, d.peek 0x28000 3, d.wells.cmds.length)) =
    some (0x3FF4000000000000, [1], [1, 2, 0], 0) := by decide +kernel

/-- R325, R331: a SCATTER_ADD whose part has no tile, and a scrub. -/
theorem test_last_records : (tEnded tWScatter { tPart 0 with count := 0 }).map (fun d => d.peek 0x28000 3) = some [1, 4, 0] ∧
    (tEnded (.scrub 0x8000 4096) (tPart 0)).map (fun d => d.peek 0x28000 3) = some [1, 6, 0] := by decide +kernel

theorem witness_WellPartsRun_ends :
    ((tLast tWSumsq (tPart 0)).partRun (tLastCmd tWSumsq (tPart 0)) (tPart 0)).1.toOption.isSome = true ∧
    ((tLast tWRequant (tPart 0)).partRun (tLastCmd tWRequant (tPart 0)) (tPart 0)).1.toOption.isSome = true ∧
    ((tLast tWScatter { tPart 0 with count := 0 }).partRun (tLastCmd tWScatter { tPart 0 with count := 0 }) { tPart 0 with count := 0 }).1.toOption.isSome = true ∧
    ((tLast tWSumsq (tPart 0)).partRun (tLastCmd tWSumsq (tPart 0)) (tPart 0)).2.accepted.map (fun y => (y.id, y.cmd.signals.length)) = [(50, 0)] ∧
    ((tLast tWSumsq (tPart 0)).partRun (tLastCmd tWSumsq (tPart 0)) (tPart 0)).2.wells.cmds.length = 1 ∧
    (tLast tWSumsq (tPart 0)).partBehind (tLastCmd tWSumsq (tPart 0)) (tPart 0) = false := by
  refine ⟨?_, ?_, ?_, ?_, ?_, ?_⟩ <;> decide +kernel

/-- R258: a ZERO fold completes its pair. -/
theorem test_zero_fold :
    (after (.wellCommandStart 80) (tWell (.fold (tFold 0)) 0 [tWcmd (.fold (tFold 0)) none false []])).map (fun d =>
      (d.wells.cmds.length, (d.foldSt 0 none 7).done.length)) = some (0, 1) := by decide +kernel

theorem witness_WritesPoisonAndStackCare_a : (Memory.writes [] 0x100 [1, 2]).wf = true := by decide +kernel

/-- R330: a write of part of a poisoned line leaves the mark; one of the whole line clears it. -/
theorem test_poison :
    (({ tDev with poison := [2] } : Dev).write 0x1000 (zeros 2047)).poison = [2] ∧ (({ tDev with poison := [2] } : Dev).write 0x1000 (zeros 2048)).poison = [] := by
  decide +kernel

/-- A device in service whose Well 0 has been filled. -/
def tCare : Dev := tDev.setWell 0 fun w => { w with filled := true }

theorem witness_WritesPoisonAndStackCare_b :
    0 ∈ presentWells tCare.grade ∧ 0 < tCare.wells.wells.length ∧ (tCare.well 0).filled = true ∧ wbit (tCare.well 0).droneCtrl 0 = true ∧
    (tCare.well 0).retraining = false ∧ (tCare.well 0).sparing = false ∧ (tCare.well 0).laneRepair = false ∧ (tCare.well 0).ucode = false ∧
    (tCare.well 0).dronePos ∉ tCare.poison ∧ (tCare.well 0).track.invalid 0 = false ∧ tCare.boot.st = 5 ∧ tCare.pw.state = 0 ∧
    ({ (tCare.well 0) with track := ⟨true, [], [], []⟩ } : WellSt).track.invalid 7 = true ∧
    (∃ v ∈ presentWells tDev.grade, v ≠ 0 ∧ (tDev.well v).there = false) ∧ (tDev.well 0).there = false ∧ tDev.trust.staggerWait = false ∧ tCare.heldAt 0 2048 = false ∧
    ((tCare.setWell 0 fun w => { w with track := ⟨false, [], [7, 9], []⟩ }).well 0).track.invalid 7 = true ∧ tCare.wells.heldIo.isEmpty = true := by
  refine ⟨?_, ?_, ?_, ?_, ?_, ?_, ?_, ?_, ?_, ?_, ?_, ?_, ?_, ?_, ?_, ?_, ?_, ?_, ?_⟩ <;> decide +kernel

theorem test_drone :
    (after (.droneLine 0 .uncorrectable) tCare).map (fun d => (d.poison, (d.well 0).uncorr, (d.well 0).dronePos, d.er.seq)) = some ([0], 1, 1, 1) := by
  decide +kernel

theorem test_retrain_reset :
    (after (.retrainReset 0 3) { tCare with mem := [(0x1800, 7), (0x2000, 8)] }).map (fun d => (d.mem, (d.well 0).track.invalid 3, (d.well 0).track.invalid 4)) =
      some ([(0x2000, 8)], true, false) := by decide +kernel

theorem test_background_fill :
    (after (.backgroundFillLine 0 7) (tCare.setWell 0 fun w => { w with track := ⟨false, [], [7, 9], []⟩ })).map (fun d => (d.well 0).track.valid) =
      some [7] := by decide +kernel

/-! ## The Depot -/

/-- A GENERAL pool of four pages of 2 KiB in Well 0. -/
def tAllocPool : Pool :=
  { num := 3, kind := 1, spread := 0, pageLog2 := 11, mask := 1, tilesPerExtent := 0, capacity := 8192, waitMax := 10,
    regions := [(0, 0x8000, 4)] }

/-- A live buffer of the pool in slot 0. -/
def tLive (refs : Nat) : Buf := ⟨0, 3, 0, 36, 2048, none, 0, 2048, [0x8000], refs, false, 0, none⟩

/-- A device with that pool and buffer, and a Depot command. -/
def tPoolDev (op : Op) (refs : Nat) : Dev :=
  let d := tServe op
  { d with depot := { d.depot with pools := [tAllocPool], bufs := [tLive refs], gens := [(0, 36)] } }

/-- The handle of that buffer. -/
def tLiveHandle : Word64 := (tPoolDev (.retain 0) 1).handleOf (tLive 1)

/-- An ALLOC of some bytes with its result at 0x100. -/
def tAlloc (bytes : Nat) : AllocArgs := ⟨3, bytes, none, 0, 0, some 0x100⟩

/-- R350: the first free page goes to the buffer, whose handle goes to RESULT. -/
theorem test_alloc :
    (after (.alloc 2) (tPoolDev (.alloc (tAlloc 4096)) 1)).map (fun d => (d.depot.bufs.map (·.extents), d.peek 0x100 8)) =
      some ([[0x8000], [0x8800, 0x9000]], [1, 0, 0x30, 0, 0, 0, 0x01, 0x80]) := by decide +kernel

/-- R350: a fourth page is not free; the ALLOC waits until WAIT_MAX and fails check 10. -/
theorem test_alloc_waits :
    (after (.alloc 2) (tPoolDev (.alloc (tAlloc 8192)) 1)).map (fun d => (d.depot.waits.map (·.id), d.accepted.length)) = some ([50], 1) ∧
    ((after (.alloc 2) (tPoolDev (.alloc (tAlloc 8192)) 1)).bind fun d => (after (.allocTimeout 50) d).map fun d =>
      ((d.core 2).halted, d.depot.invalid, d.mem.read (haltArea .zx9440 2), d.now)) = some (true, 1, 0x0C, 10000) := by decide +kernel

/-- R351: the count that reaches zero frees the buffer, and GEN goes up. -/
theorem test_release :
    (after (.release 2) (tPoolDev (.release tLiveHandle) 1)).map (fun d => (d.depot.bufs.length, d.depot.gens)) = some (0, [(0, 37)]) ∧
    (after (.release 2) (tPoolDev (.release tLiveHandle) 2)).map (fun d => (d.depot.bufs.map (·.refs), d.depot.gens)) =
      some ([1], [(0, 36)]) := by decide +kernel

/-- What an ALLOC that waits sees. -/
def tAllocWaits (bytes : Nat) : Dev :=
  let d := tPoolDev (.alloc (tAlloc bytes)) 1
  { d with depot := { d.depot with waits := [⟨50, tAlloc bytes, 0, none⟩] } }

theorem serves_pool (op : Op) (n : Nat) : (tPoolDev op n).serves 2 (tAcc1 op) [] [] := by
  refine ⟨rfl, rfl, rfl, ?_, ?_, rfl, rfl⟩ <;> simp

theorem witness_BuffersAndStreams_a :
    let d := fun b => tPoolDev (.alloc (tAlloc b)) 1
    wbit (d 4096).depot.ctrl 0 = true ∧ (d 4096).resultFault 5 0x100 = none ∧ ((d 4096).allocCheck (tAlloc 4096)).toOption.isSome = true ∧
    ((d 4096).allocTry (tAlloc 4096)).map (·.1.refs) = some 1 ∧ (d 4096).behind (d 4096).depot.waits 3 = false ∧
    (d 8192).allocTry (tAlloc 8192) = none ∧ ((d 4097).allocCheck (tAlloc 4097)).toOption = none ∧ (tAllocWaits 4096).accepted = [tAcc1 (.alloc (tAlloc 4096))] ∧
    ((tAllocWaits 4096).allocTry (tAlloc 4096)).isSome = true ∧ (tAllocWaits 8192).allocTry (tAlloc 8192) = none := by
  refine ⟨?_, ?_, ?_, ?_, ?_, ?_, ?_, ?_, ?_, ?_⟩ <;> decide +kernel

/-- A trained stream over that buffer, at a line. -/
def tStream (next last : Nat) : Dev :=
  let d := tPoolDev (.retain 0) 1
  { d with depot := { d.depot with pfDepth := 4, bufs := [⟨0, 3, 0, 36, 4096, none, 0, 2048, [0x8000, 0x8800], 1, false, 0, none⟩],
                                    streams := [⟨0, 2, 0, 36, 1024, next, last, 3, 7⟩] } }

theorem witness_BuffersAndStreams_b :
    ((tPoolDev (.retain 0) 1).countCheck tLiveHandle true).toOption = some (tLive 1) ∧
    ((tPoolDev (.retain 0) 65535).countCheck tLiveHandle true).toOption = none ∧
    ((tPoolDev (.release 0) 2).countCheck tLiveHandle false).toOption = some (tLive 2) ∧
    ((tPoolDev (.release 0) 2).countCheck 0 false).toOption = none ∧
    ((tStream 2048 1024).depot.streams.filter fun x => x.die == 0)[0]? = some ⟨0, 2, 0, 36, 1024, 2048, 1024, 3, 7⟩ ∧
    ((tStream 2048 1024).depot.buf 0).map (fun b => (b.gen, (b.pieces 2048 1).map (·.1))) = some (36, [0x8800]) ∧
    (((2048 / 2048 : Nat) : Int) - (1024 / 2048 : Nat)).natAbs = 1 ∧ (tStream 2048 1024).poison = [] ∧
    inJobMem .zx9440 0x8800 2048 = true := by refine ⟨?_, ?_, ?_, ?_, ?_, ?_, ?_, ?_, ?_⟩ <;> decide +kernel

/-- R341: the trained stream reads the next line of its buffer into the cache of its die. -/
theorem test_prefetch :
    (after (.prefetchRead 0 0) (tStream 2048 1024)).map (fun d => (d.depot.cached, d.depot.streams.map (·.next))) = some ([(0, 17)], [3072]) := by
  decide +kernel

/-! ## Zelxa Fabric and inter-device queues -/

/-- A device with an identity window over job memory. -/
def tFab : Dev := { tDev with fx := { tFx with windows := [⟨0, 0x1000000, 0x2000000, 7⟩] } }

/-- A packet of rank 1 to this device, with its CRC. -/
def tPkt (op len addr stream : Nat) (body : List Byte) : Packet := sealPacket ⟨1, 0, op, 0, 5, 6, 1, 9, stream, 0, len, addr, body⟩

/-- Thirty-two bytes of an atomic: KIND, OPERAND, COMPARE. -/
def tAtomBody (kind v cmp : Nat) : List Byte := leBytes 8 kind ++ leBytes 8 v ++ leBytes 8 cmp ++ zeros 8

/-- The kind and status of the newest packet sent. -/
def lastOut (d : Dev) : Option (Nat × Nat × List Byte) :=
  match d.out.head? with
  | some (.packet _ p) => some (p.op, p.addr, p.payload)
  | _ => none

/-- R378: a write through a window lands at the translated address; a span that leaves the window, or another job, is refused. -/
theorem test_write_packet :
    (after (.write 0 (tPkt 2 32 0x40 0 (List.replicate 32 7))) tFab).map (fun d => (d.mem.read 0x2000040, d.mem.read 0x2000060)) =
      some (7, 0) ∧
    (after (.write 0 (tPkt 2 32 0x40 0 (List.replicate 32 7))) tFab).bind lastOut = some (7, 0, []) ∧
    (after (.write 0 (tPkt 2 32 0xFFFFF0 0 (List.replicate 32 7))) tFab).bind lastOut = some (7, 2, []) ∧
    (after (.write 0 (tPkt 2 32 0xFFFFF0 0 (List.replicate 32 7))) tFab).map (fun d => (d.mem.length, d.fx.counts)) =
      some (0, [0, 1, 0, 0, 0, 0, 0, 0]) := by refine ⟨?_, ?_, ?_, ?_⟩ <;> decide +kernel

/-- R382: CAS_U64 stores only where the location equals COMPARE, and answers the old value. -/
theorem test_atomic_cas :
    (after (.atomic 0 (tPkt 3 32 0x40 0 (tAtomBody 3 9 0))) tFab).map (fun d => (d.peek 0x2000040 8, lastOut d)) =
      some (leBytes 8 9, some (6, 0, zeros 8)) ∧
    (after (.atomic 0 (tPkt 3 32 0x40 0 (tAtomBody 3 9 1))) tFab).map (fun d => (d.peek 0x2000040 8, lastOut d)) =
      some (zeros 8, some (6, 0, zeros 8)) := by decide +kernel

/-- R382, R400: bytes 24 to 31 of a SIGNAL name core 2, ACTION 3, counter 4, VALUE 5. -/
theorem test_signal_packet :
    (after (.signalPacket 0 (tPkt 4 0 0x0000000504030002 1 [])) tFab).map (fun d => ((d.core 2).counters.getD 4 0, lastOut d)) =
      some (5, some (7, 0, [])) := by decide +kernel

/-- R390: an answer for a tag that is not in use is counted in FX_LATE_CPL. -/
theorem test_late_answer :
    (after (.ack 0 (tPkt 7 0 0 0 [])) tFab).map (fun d => d.fx.counts) = some [0, 0, 0, 0, 0, 1, 0, 0] := by decide +kernel

/-- An unacknowledged message of the adders with tag 9 toward fabric ID 6. -/
def tOut (quarantined : Bool) : OutReq := ⟨3, 6, 9, false, false, 100, some 0, 0, false, 0, [], 0, quarantined, .adder 0⟩

/-- The device with that message out. -/
def tFabOut (quarantined : Bool) : Dev := { tFab with fx := { tFab.fx with outs := [tOut quarantined] } }

/-- R389, R390: after FX_CPL_TIMEOUT the request times out, and its tag stays in quarantine for as long again. -/
theorem test_timeout :
    (after (.requestTimeout 3) (tFabOut false)).map (fun d => (d.now, d.fx.outs.map (·.quarantined), d.fx.counts.getD 4 0)) =
      some (10000100, [true], 1) ∧
    (after (.tagQuarantineEnd 6 9) (tFabOut true)).map (fun d => (d.now, d.fx.outs.length)) = some (10000100, 0) := by decide +kernel

theorem witness_RequestsAndSignalsServed_a :
    let r := tPkt 1 64 0x40 0 []
    let w := tPkt 2 32 0x40 0 (List.replicate 32 7)
    let x := tPkt 3 32 0x40 0 (tAtomBody 1 9 0)
    tFab.pw.state = 0 ∧ tFab.unarmed = true ∧ r.crc = packetCrc r ∧ w.crc = packetCrc w ∧ x.crc = packetCrc x ∧ tFab.fx.fid = some r.destId ∧
    (tFab.rxAddr 1 0x40 64 0 false).toOption = some 0x2000040 ∧ tFab.lostIn 0x2000040 64 = false ∧ tFab.poisonedIn 0x2000040 64 = none ∧
    ({ tFab with poison := [0x4000] } : Dev).poisonedIn 0x2000040 64 = some 0x4000 ∧ (tFab.rxAddr 1 0xFFFFF0 64 0 false).toOption = none ∧
    (tFab.rxAddr 1 0x40 32 1 false).toOption = some 0x2000040 ∧ (tFab.rxAddr 1 0x40 8 2 false).toOption = some 0x2000040 ∧
    tFab.inCoh 0x2000040 8 = false ∧ atomicNew (fieldAt x.payload 0 1) 0 (fieldAt x.payload 8 8) (fieldAt x.payload 16 8) = some 9 ∧
    tFab.heldAt 0x2000040 64 = false ∧ (tFab.setWell 0 fun w => { w with laneRepair := true, channel := 0 }).heldAt 0x2000040 64 = true := by
  refine ⟨?_, ?_, ?_, ?_, ?_, ?_, ?_, ?_, ?_, ?_, ?_, ?_, ?_, ?_, ?_, ?_, ?_⟩ <;> decide +kernel

theorem witness_RequestsAndSignalsServed_b :
    let p := tPkt 4 0 0x0000000504030002 1 []
    tFab.takesPkt p ∧ bits p.addr 15 0 = 2 ∧ bits p.addr 23 16 = 3 ∧ bits p.addr 31 24 = 4 ∧ bits p.addr 63 32 = 5 ∧ 2 < tFab.n ∧
    tFab.restful 2 ∧ (tFab.core 2).halted = false := by
  refine ⟨⟨rfl, ?_, ?_, rfl, rfl⟩, ?_, ?_, ?_, ?_, ?_, ⟨?_, ?_⟩, ?_⟩ <;> decide +kernel

theorem witness_AnswersMatchRequests :
    tFab.takesPkt (tPkt 7 0 0 0 []) ∧ tFab.fx.outOf 6 9 false = none ∧ (tFabOut false).fx.outOf 6 9 false = some (tOut false) ∧
    (tFabOut false).fx.stalled = [] ∧ (tFabOut true).fx.outs = [] ++ tOut true :: [] ∧ (tOut false).use = .adder 0 ∧
    ({ tFab.fx with outs := [{ tOut false with use := .store 2 }] } : Fabric).outOf 6 9 false = some { tOut false with use := .store 2 } ∧
    tFab.bz.rounds.length = 0 ∧ tFab.bz.waits.length = 0 ∧ (tFab.core 2).halted = false := by
  refine ⟨⟨rfl, ?_, ?_, rfl, rfl⟩, ?_, ?_, ?_, ?_, ?_, ?_, ?_, ?_, ?_⟩ <;> decide +kernel

/-- A device whose coherent window begins at 1 GiB, and a directory. -/
def tHome (dir : List (Nat × Nat × Bool)) : Dev :=
  let f : Fabric := { tFx with ctrl := 5, windows := [⟨0, 0x80000000, 0, 7⟩], cohLo := 0x40000000, cohSize := 1 }
  { tDev with fx := { f with dir := dir, cohMembers := [0x80000005, 0x80000006, 0x80000007, 0, 0, 0, 0, 0] } }

/-- A coherent request of device 6 for the line at 1 GiB. -/
def tCohPkt (op : Nat) (body : List Byte) : Packet := sealPacket ⟨1, 2, op, 0, 5, 6, 1, 9, 0, 0, 128, 0x40000000, body⟩

/-- R395: a clean line is given for writing; one that device 7 holds for writing is recalled first. -/
theorem test_read_own :
    (after (.coherentPacket 0 (tCohPkt 9 [])) (tHome [])).map (fun d => (d.fx.dir, d.fx.recalls.length)) = some ([(6, 0x800000, true)], 0) ∧
    (after (.coherentPacket 0 (tCohPkt 9 [])) (tHome [(7, 0x800000, true)])).map (fun d => (d.fx.dir, d.fx.recalls.map (·.holders))) =
      some ([(7, 0x800000, true)], [[7]]) := by decide +kernel

/-- R398: a line that a lost member held for writing is poisoned, one held for reading leaves the directory. -/
theorem test_member_lost :
    (after (.cohMemberLost 7) (tHome [(7, 0x800000, true), (7, 0x800001, false), (6, 0x800002, false)])).map
      (fun d => (d.fx.dir, d.fx.lostLines, d.poison)) = some ([(6, 0x800002, false)], [0x800000], [0x80000]) := by decide +kernel

theorem witness_CoherentLinesHaveOneWriter :
    (tHome []).takesPkt (tCohPkt 9 []) ∧ ((tHome []).rxAddr 1 0x40000000 128 1 true).toOption = some 0x40000000 ∧
    ((tHome []).rxAddr 1 0x40000000 128 0 true).toOption = some 0x40000000 ∧
    (tHome []).fx.holders (0x40000000 / 128) 6 true = [] ∧ (tHome [(7, 0x800000, true)]).fx.holders (0x40000000 / 128) 6 true = [7] ∧
    (tHome []).lostIn 0x40000000 128 = false ∧ (tHome []).poisonedIn 0x40000000 128 = none ∧ 7 ∈ (tHome []).fx.peers ∧ 9 ∉ (tHome []).fx.peers ∧
    (tHome []).heldAt 0x40000000 128 = false ∧ (tHome []).takesPkt (tCohPkt 10 (zeros 128)) := by
  refine ⟨⟨rfl, ?_, ?_, rfl, rfl⟩, ?_, ?_, ?_, ?_, ?_, ?_, ?_, ?_, ?_, ⟨rfl, ?_, ?_, rfl, rfl⟩⟩ <;> decide +kernel

/-- A device without a fabric ID in LINK_TRAIN. -/
def tNoId : Dev := { tDev with boot := { tDev.boot with st := 3 }, fx := { tFx with fid := none } }

/-- R467: ASSIGN_ID from a switch port sets the ID, slot 96 is refused, and another sender is not heard. -/
theorem test_assign_id :
    (after (.assignId true 0 0x125 0x7F) tNoId).map (fun d => (d.fx.fid, d.fx.fmId)) = some (some 0x125, some 0x7F) ∧
    (after (.assignId true 0 0x160 0x7F) tNoId).map (fun d => (d.fx.fid, d.fx.counts.getD 7 0)) = some (none, 1) ∧
    (after (.assignId false 3 0x125 0x7F) tNoId).map (fun d => (d.fx.fid, d.fx.counts.getD 7 0)) = some (none, 1) := by decide +kernel

theorem witness_ManagementAndPorts :
    (tFab.port 0).up = true ∧ 0 < tFab.fx.ports.length ∧ tFab.unarmed = true ∧ (tFab.port 1).up = false ∧ tFab.awakeUp = true ∧
    tFab.fx.fid.isSome = true ∧ tNoId.fx.fid = none ∧ tNoId.mgmtFrom true 0 = true ∧ tNoId.mgmtFrom false 0 = false ∧ tNoId.boot.st = 3 := by
  refine ⟨?_, ?_, ?_, ?_, ?_, ?_, ?_, ?_, ?_, ?_⟩ <;> decide +kernel

/-- An FP4 queue whose producer is core 4 of rank 1 and whose consumer is core 2 here, or the reverse. -/
def tFarQ (out : Bool) : Dev :=
  let q := tQueue 9 4 2 .fp4 .mx .mx
  let far : QEndpoint := ⟨some 1, 4, .mx⟩
  let near : QEndpoint := ⟨none, 2, .mx⟩
  { tFab with queues := [{ q with decl := { q.decl with prod := if out then near else far, cons := if out then far else near, remoteWaitMs := 5 },
                                  pushed := 3, popped := 3 }] }

/-- A message of that queue. -/
def tQMsg (kind count : Nat) (out : Bool) : QMsg := ⟨1, kind, 9, if out then 4 else 2, if out then 2 else 4, count, tTile⟩

/-- R412: a tile enters the ring; a CLOSE that counts it closes the queue. -/
theorem test_queue_tile :
    (after (.queueTile tVia (tQMsg 1 0 false)) (tFarQ false)).map (fun d => (d.queues.map (fun q => q.ring.length), lastOut d)) =
      some ([1], some (7, 0, [])) ∧
    ((after (.queueTile tVia (tQMsg 1 0 false)) (tFarQ false)).bind (after (.queueCloseMsg tVia (tQMsg 3 1 false)))).map
      (fun d => d.queues.map (·.closed)) = some [true] := by decide +kernel

/-- R411: a CREDIT past what was pushed is not believed; the timer sends a CREDIT with the count of pops. -/
theorem test_queue_credit :
    (after (.queueCredit tVia (tQMsg 2 2 true)) (tFarQ true)).map (fun d => d.queues.map (·.creditSeen)) = some [2] ∧
    (after (.queueCredit tVia (tQMsg 2 4 true)) (tFarQ true)).map (fun d => d.queues.map (·.creditSeen)) = some [0] ∧
    (after (.creditTimer 2 9) (tFarQ false)).map (fun d => (d.queues.map (·.creditSent), d.now)) = some ([3], 2000) := by decide +kernel

theorem witness_QueueAndPermuteMessages_a :
    tVia.jobId = (tFarQ false).fx.jobId ∧ (tFarQ false).unarmed = true ∧ wbit (tFarQ false).fx.ctrl 0 = true ∧
    ((tFarQ false).q? 0).map (fun x => ((tFarQ false).fromEnd tVia x.decl.prod, x.decl.cons.core, x.compared)) = some (true, 2, false) ∧
    (tFarQ false).queues.findIdx? (fun y => y.decl.num == 9 && (tFarQ false).isHere y.decl.cons && y.decl.cons.core == 2 &&
      (tFarQ false).farProd y) = some 0 ∧
    (tFarQ true).queues.findIdx? (fun y => y.decl.num == 9 && (tFarQ true).isHere y.decl.prod && y.decl.prod.core == 2 &&
      (tFarQ true).farCons y) = some 0 ∧
    ((tFarQ true).q? 0).map (fun x => ((tFarQ true).fromEnd tVia x.decl.cons, x.decl.cons.core)) = some (true, 4) ∧
    tTile.length = tileTotal .fp4 ∧ (tFarQ false).restful 2 ∧ (tFarQ false).farQueue 2 9 = some 0 ∧ (tFarQ false).noRoute 1 = none ∧
    ((tFarQ false).q? 0).map (·.quiet) = some false ∧ (tFarQ true).restful 2 ∧
    ((tFarQ true).q? 0).map (fun x => decide (x.creditSeen ≤ 2 ∧ 2 ≤ x.pushed)) = some true := by
  refine ⟨?_, ?_, ?_, ?_, ?_, ?_, ?_, ?_, ⟨?_, ?_⟩, ?_, ?_, ?_, ⟨?_, ?_⟩, ?_⟩ <;> decide +kernel

/-! ## Re-sharded tiles -/

/-- An FP4 buffer of four tiles for them. -/
def tPBuf : Buf := { tRBuf 0 with fmt := some .fp4, bytes := 2176 }

/-- A PERMUTE that awaits two tiles of KEY 11 from position 1. -/
def tRunPerm : CollSt :=
  { tRunColl (tColl .globalNorm false) with coll := none, perm := some tPerm, segs := [], recv := [⟨tRHandle 0, 1, 2, 1, 11, [], false⟩] }

/-- The device that runs it. -/
def tPermDev (q : List CollSt) : Dev :=
  let d := tRd (.close 0) q
  { d with depot := { d.depot with bufs := [tPBuf, tRBuf 3] }, accepted := [⟨50, 2, 9, tCmd (.close 0), true, false, [], [], 0, 0⟩] }

/-- Its first tile as it arrives. -/
def tPermTile : PermTile := ⟨2, 41, 8, 1, 11, 0, 2, false, tTile⟩

/-- R419: the tile lands at its index of the range under the new epoch. -/
theorem test_permute_tile :
    (after (.permuteTile tVia tPermTile) (tPermDev [tRunPerm])).map (fun d =>
      (d.mem.read (0x10000 + 544 + 2), leNat (d.peek (0x10000 + 544 + 8) 4), d.rd.channels.map fun c => c.2.map fun k => k.recv.map (·.got))) =
    some (2, 8, [[[[0]]]]) := by decide +kernel

/-- R420: at the deadline the missing tiles are torn and the record says PARTIAL or FAILED. -/
theorem test_permute_deadline :
    (after (.permuteDeadline 2) (tPermDev [tRunPerm])).map (fun d => (d.depot.bufs.map (·.tornTiles), d.rd.done, d.rd.partialCount, d.accepted.length)) =
      some ([2, 0], 1, 1, 0) := by decide +kernel

theorem witness_QueueAndPermuteMessages_b :
    (tPermDev [tRunPerm]).runningColl 2 = some tRunPerm ∧ tRunPerm.perm = some tPerm ∧ (tPermDev [tRunPerm]).liveBuf (tRHandle 0) = some tPBuf ∧
    tRunPerm.recv.find? (fun y => y.srcPos == 1 && y.key == 11) = some ⟨tRHandle 0, 1, 2, 1, 11, [], false⟩ ∧ (tPermDev [tRunPerm]).fidRank 6 = some 1 ∧
    tTile.length = tileTotal .fp4 ∧ (tileHdr tTile).format.toNat = fmtCode .fp4 ∧ (tPermDev []).runningColl 2 = none ∧
    tRunPerm.recv.all RecvRange.full = false ∧ ((tPermDev [tRunPerm]).acc tRunPerm.acc).map (·.cmd.signals) = some [] ∧
    ((tPermDev [tRunPerm]).core 2).ending = none ∧ tRunPerm.members.getD 1 0 = 1 ∧ tPBuf.kind ≠ 1 ∧
    (tPermDev [{ tRunPerm with recv := [⟨tRHandle 0, 1, 2, 1, 11, [0], false⟩] }]).runningColl 2 =
      some { tRunPerm with recv := [⟨tRHandle 0, 1, 2, 1, 11, [0], false⟩] } ∧ tRunPerm.nanTrap = false := by
  refine ⟨?_, ?_, ?_, ?_, ?_, ?_, ?_, ?_, ?_, ?_, ?_, ?_, ?_, ?_, ?_⟩ <;> decide +kernel

/-! ## Rings and descriptors -/

/-- A descriptor of ring 3 at SQ slot 4 with COOKIE 0x77, that has started. -/
def tDesc (op : Nat) (flags argLen : Nat) (args : Option (List Byte)) (inl : List Byte) : Desc :=
  { slot := 4, bytes := leBytes 1 op ++ leBytes 1 flags ++ leBytes 2 argLen ++ zeros 4 ++ leBytes 8 0x77 ++ leBytes 8 0x40000 ++ inl,
    args := args, argsAsked := true, started := true, off := 0, failLine := none, good := 0, errSeq := 0 }

/-- Ring 3, enabled, its queues at 0x10000 and 0x20000, five descriptors taken. -/
def tRing (ds : List Desc) : Ring :=
  { Ring.reset 3 with sqLo := 0x10000, cqLo := 0x20000, ctrl := 1, enabled := true, fetch := 5, sqTail := 5, sqHead := 5, cqTail := 63, phase := true, descs := ds }

/-- A device with that ring and no job, or with one. -/
def tHost (ds : List Desc) : Dev := { tDev with job := none, host := { tDev.host with rings := [tRing ds] } }
def tHostJob (j : Job) (ds : List Desc) : Dev := { tHost ds with job := some j }

/-- The newest completion record: its address, STATUS, REASON, RESULT, DETAIL and PHASE. -/
def lastRecord (d : Dev) : Option (Nat × Nat × Nat × Nat × Nat × Nat) :=
  d.out.findSome? fun o => match o with
    | .hostWrite a bs => if bs.length = 32 then some (a, fieldAt bs 0 1, fieldAt bs 1 1, fieldAt bs 16 8, fieldAt bs 24 4, fieldAt bs 31 1) else none
    | _ => none

/-- R448, R451: the record of a NOP goes to the last CQ slot of the first pass with PHASE 1, and the phase turns. -/
theorem test_nop :
    (after (.nop 3) (tHost [tDesc 0 0 0 none (zeros 40)])).map (fun d => ((d.ring 3).cqTail, (d.ring 3).phase)) = some (0, false) ∧
    ((after (.nop 3) (tHost [tDesc 0 0 0 none (zeros 40)])).bind lastRecord).map (fun r => (r.1, r.2.1, r.2.2.1)) = some (0x20000 + 32 * 63, 0, 0) ∧
    ((after (.nop 3) (tHost [tDesc 0 0 0 none (zeros 40)])).bind lastRecord).map (·.2.2.2.2.2) = some 1 := by
  refine ⟨?_, ?_, ?_⟩ <;> decide +kernel

/-- R444: without a job JOB_START is REJECTED with NO_JOB; R445: a second start with JOB_STARTED. -/
theorem test_job_start :
    ((after (.jobStart 3) (tHost [tDesc 2 0 0 none (zeros 40)])).bind lastRecord).map (fun r => (r.2.1, r.2.2.1)) = some (3, 0x03) ∧
    ((after (.jobStart 3) (tHostJob tJob [tDesc 2 0 0 none (zeros 40)])).bind lastRecord).map (fun r => (r.2.1, r.2.2.1)) = some (3, 0x14) ∧
    (after (.jobStart 3) (tHostJob { tJob with started := false, prog := { tJob.prog with cores := [⟨2, none, 100, 0, []⟩] } }
      [tDesc 2 0 0 none (zeros 40)])).map (fun d => (d.out.length, d.job.map (·.start))) = some (0, some (some (3, 4))) := by
  refine ⟨?_, ?_, ?_⟩ <;> decide +kernel

/-- R354, R377: an unload clears the job ID. -/
theorem test_job_unload :
    (after (.jobUnload 3) (tHostJob tJob [tDesc 4 0 0 none (zeros 40)])).map (fun d => (d.job.isSome, d.fx.jobId, d.boot.st)) = some (false, 0, 4) := by
  decide +kernel

/-- Operands of COPY: 32 bytes at device address 0x7F0 to or from host address 0x9000. -/
def tCopy (dir : Nat) : Desc := tDesc 5 0 0 none (leBytes 8 0x9000 ++ leBytes 8 0x7F0 ++ leBytes 8 32 ++ leBytes 8 dir ++ zeros 8)

/-- R444: a copy to the host that crosses a line goes out in two writes; one to the device asks for its first piece. -/
theorem test_copy :
    ((after (.copy 3) { tHost [tCopy 1] with mem := [⟨0x7FF, 3⟩, ⟨0x800, 4⟩] }).bind lastRecord).map (fun r => (r.2.1, r.2.2.2.1, r.2.2.2.2.1)) =
      some (0, 32, 0xFFFFFFFF) ∧
    (after (.copy 3) { tHost [tCopy 1] with mem := [⟨0x7FF, 3⟩, ⟨0x800, 4⟩] }).map (fun d => d.out.drop 1) =
      some [.hostWrite 0x9010 (4 :: zeros 15), .hostWrite 0x9000 (zeros 15 ++ [3])] ∧
    (after (.copy 3) (tHost [tCopy 0])).map (·.out) = some [.hostRead 0 0x9000 16] := by
  refine ⟨?_, ?_, ?_⟩ <;> decide +kernel

/-- The read behind it comes in. -/
def tCopyIn : Dev :=
  let d := tHost [{ tCopy 0 with off := 16, good := 16 }]
  { d with host := { d.host with reads := [⟨0, 0x9010, 16, 100, .copy 3 4⟩] } }

theorem test_copy_in :
    (after (.pcieCompletion 0 .ok (List.replicate 16 9)) tCopyIn).map (fun d => (d.mem.read 0x800, d.mem.read 0x7FF, d.host.reads.length)) =
      some (9, 0, 0) ∧
    ((after (.pcieCompletion 0 .ok (List.replicate 16 9)) tCopyIn).bind lastRecord).map (fun r => (r.2.1, r.2.2.2.1)) = some (0, 32) := by
  refine ⟨?_, ?_⟩ <;> decide +kernel

/-- R440: a descriptor read that fails sets fault 4. -/
def tDescRead : Dev :=
  let d := tHost []
  { d with host := { d.host with reads := [⟨0, 0x10140, 64, 100, .desc 3 5⟩] } }

theorem test_desc_read_fails :
    (after (.pcieCompletion 0 .abort []) tDescRead).map (fun d => ((d.ring 3).faultCode, d.er.seq)) = some (4, 1) ∧
    (after (.hostReadTimeout 0) tDescRead).map (fun d => ((d.ring 3).faultCode, d.now)) = some (4, 50000100) := by decide +kernel

theorem witness_RingsRunDescriptors_a :
    (tHost []).awakeUp = true ∧ ((tHost []).ring 3).enabled = true ∧ ((tHost []).ring 3).draining = false ∧ ((tHost []).ring 3).sqSize = 64 ∧
    ((tHost []).ring 2).enabled = false ∧ ({ (tHost []).ring 2 with ctrl := 1 } : Ring).setUpOk = true ∧
    ({ (tHost []).ring 2 with sqLo := 8 } : Ring).setUpOk = false ∧ ((tHost [tDesc 0 0 0 none (zeros 40)]).ring 3).startedCount = 1 ∧
    ((tHost []).ring 3).startedCount = 0 := by
  refine ⟨?_, ?_, ?_, ?_, ?_, ?_, ?_, ?_, ?_⟩ <;> decide +kernel

/-- R437, R439, R435: the faults of a ring. -/
theorem test_ring_faults :
    (after (.sqTail 3 64) (tHost [])).map (fun d => (d.ring 3).faultCode) = some 2 ∧
    (after (.cqHead 3 64) (tHost [])).map (fun d => (d.ring 3).faultCode) = some 3 ∧
    (after (.sqTail 2 1) (tHost [])).map (fun d => d.host.dbDrops) = some 1 ∧
    (after (.ringDisable 3 0) (tHost [])).map (fun d => ((d.ring 3).enabled, (d.ring 3).sqHead)) = some (false, 0) := by
  refine ⟨?_, ?_, ?_, ?_⟩ <;> decide +kernel

theorem witness_RingsRunDescriptors_b :
    (tHost [tDesc 0 0 0 none (zeros 40)]).nextIs 3 0 (tDesc 0 0 0 none (zeros 40)) ∧
    (tHost [tDesc 2 0 0 none (zeros 40)]).nextIs 3 2 (tDesc 2 0 0 none (zeros 40)) ∧
    (tHostJob tJob [tDesc 3 0 0 none (zeros 40)]).nextIs 3 3 (tDesc 3 0 0 none (zeros 40)) ∧
    (tHostJob tJob [tDesc 4 0 0 none (zeros 40)]).nextIs 3 4 (tDesc 4 0 0 none (zeros 40)) ∧
    (tHostJob tJob [tDesc 6 0 0 none (zeros 40)]).nextIs 3 6 (tDesc 6 0 0 none (zeros 40)) ∧
    (tHostJob tJob [tDesc 7 0 0 none (zeros 40)]).nextIs 3 7 (tDesc 7 0 0 none (zeros 40)) := by
  refine ⟨⟨?_, ?_, rfl⟩, ⟨?_, ?_, rfl⟩, ⟨?_, ?_, rfl⟩, ⟨?_, ?_, rfl⟩, ⟨?_, ?_, rfl⟩, ⟨?_, ?_, rfl⟩⟩ <;> decide +kernel

theorem witness_RingsRunDescriptors_b_jobs :
    tJob.started = true ∧ tJob.hostHalt = false ∧ tJob.stopped = false ∧ tJob.primary = none ∧ tJob.runs = false ∧
    ({ tJob with start := some (3, 9) } : Job).runs = true ∧ tJob.halters = [] ∧ (tHostJob tJob []).trust.swaps = [] ∧
    (tHostJob tJob []).bz.rounds = [] ∧ (tHostJob tJob []).jobDescs = [] ∧ ((tHostJob tJob []).core 3).frozen = false ∧
    (tHostJob tJob []).releaseCheck [] = none ∧ fieldAt (tDesc 6 0 0 none (zeros 40)).bytes 25 1 = 0 ∧
    ((tHostJob tJob []).allocCheck (hostAllocArgs (tDesc 6 0 0 none (zeros 40)))).toOption = none := by
  refine ⟨?_, ?_, ?_, ?_, ?_, ?_, ?_, ?_, ?_, ?_, ?_, ?_, ?_, ?_⟩ <;> decide +kernel

/-- A WELL_CMD that fills a buffer through Well 0, its RECORD in slot 1 of the table. -/
def tFillArgs : List Byte := leBytes 32 0x0500 ++ leBytes 8 0x8001000000100000 ++ leBytes 8 0 ++ leBytes 8 0x8001000000100003 ++ zeros 8

theorem witness_CopiesMoveEveryByte :
    (tHost [tCopy 1]).nextIs 3 5 (tCopy 1) ∧ copyBad .zx9440 (tCopy 1) = none ∧ copyBad .zx9440 (tCopy 2) = some 48 ∧ (tCopy 1).copyDir = 1 ∧
    (tCopy 0).copyDir = 0 ∧ (tHost [tCopy 1]).poisonedIn 0x7F0 32 = none ∧ (tHost [tCopy 1]).unarmed = true ∧
    (tHostJob tJob [tDesc 8 0 64 (some tFillArgs) (zeros 40)]).nextIs 3 8 (tDesc 8 0 64 (some tFillArgs) (zeros 40)) ∧
    wellArgBad .zx9440 tFillArgs = none ∧ wellArgBad .zx9440 (zeros 64) = some 0x101 ∧
    tCopyIn.host.reads.find? (fun r => r.tag == 0) = some ⟨0, 0x9010, 16, 100, .copy 3 4⟩ ∧
    tDescRead.host.reads.find? (fun r => r.tag == 0) = some ⟨0, 0x10140, 64, 100, .desc 3 5⟩ ∧
    tCopyIn.host.queued.length = 0 ∧ (∀ r ∈ (tHost []).host.reads, r.tag ≠ 0) := by
  refine ⟨⟨?_, ?_, rfl⟩, ?_, ?_, ?_, ?_, ?_, ?_, ⟨?_, ?_, rfl⟩, ?_, ?_, ?_, ?_, ?_, ?_⟩ <;> decide +kernel

/-- The operands of a FILL with zero of a buffer of the Well tests. -/
def tFillGood : List Byte := leBytes 32 0x0500 ++ leBytes 8 (tWHandle 0).toNat ++ leBytes 8 0 ++ leBytes 8 (tWHandle 1).toNat ++ zeros 8
def tFillWhole : WellOp := .fill (tWHandle 0) 0 4096 .zero

theorem witness_CopiesMoveEveryByte_wells :
    let d := tWell tFill 0 []
    wellArgBad .zx9440 tFillGood = none ∧ (d.wellArg 5 tFillGood).toOption = some (tFillWhole, 2) ∧
    (d.wellPlan 0 tFillWhole).toOption.map (·.parts.length) = some 1 ∧ d.opEntry tFillWhole = none ∧
    (d.wRange (tWHandle 1) 0 (wellRecordBytes 1) 8 true).toOption = some (tWBuf 1) := by
  refine ⟨?_, ?_, ?_, ?_, ?_⟩ <;> decide +kernel

/-- A vector that is pending, and a ring whose record nobody has signalled. -/
def tIrq : Dev :=
  let d := tHost []
  { d with host := { d.host with rings := [{ tRing [] with intMod := 0x00050004, unsignalled := 2, firstAt := 10 }], msix := [⟨0, 1, 2, 3, false, false⟩, ⟨9, 1, 2, 3, true, true⟩] } }

theorem test_interrupts :
    (after (.msixUnmask 9) tIrq).map (·.out) = some [.msix 9] ∧ (after (.msixUnmask 0) tIrq).map (·.out) = some [] ∧
    (after (.intTimer 3) tIrq).map (fun d => (d.out, d.now)) = some ([.msix 0], 5010) := by
  refine ⟨?_, ?_, ?_⟩ <;> decide +kernel

/-- R428: a Function Level Reset disables every ring and leaves memory. -/
theorem test_flr :
    (after .flr { tHost [tCopy 1] with mem := [⟨5, 6⟩] }).map (fun d => (d.host.rings.length, d.mem.read 5, d.out.length)) = some (0, 6, 0) := by
  decide +kernel

/-- R431: a 16-bit write is ignored; EVENT_VECTOR keeps its fields; DP_ERR is written one to clear. -/
theorem test_register_write :
    (after (.registerWrite 0x1800C 2 0xFFFFFFFF) tIrq).map (·.host.eventVector) = some 0 ∧
    (after (.registerWrite 0x1800C 4 0xFFFFFFFF) tIrq).map (·.host.eventVector) = some 0x07FF07FF ∧
    (after (.registerWrite 0x32001C 4 0x2) { tIrq with depot := { tIrq.depot with err := 3 } }).map (·.depot.err) = some 1 ∧
    (after (.registerWrite 0x18008 8 0xFFFFFFFF00000001) tIrq).map (fun d => (d.host.bar2Hi, d.host.eventVector)) = some (1, 0x07FF07FF) := by
  refine ⟨?_, ?_, ?_, ?_⟩ <;> decide +kernel

theorem witness_HostAccessesLand :
    tIrq.awakeUp = true ∧ tIrq.unarmed = true ∧ inJobMem .zx9440 (tIrq.bar2Addr (2 ^ 47)) 4 = false ∧ tIrq.readable (tIrq.bar2Addr 64) 4 = true ∧
    tIrq.localConflicts false (.mem [(64, 4)]) = [] ∧ tIrq.unsignalled (tIrq.ring 3).vector ≠ [] ∧ 65536 ≤ (tIrq.ring 3).intMod.toNat ∧
    (tIrq.msixEntry 0).mask = false ∧ tNoId.boot.served = true ∧ (Dev.reset .zx9440).boot.served = false ∧
    tIrq.heldAt (tIrq.bar2Addr 64) 4 = false ∧ (tIrq.setWell 0 fun w => { w with retraining := true, channel := 0 }).heldAt 64 4 = true := by
  refine ⟨?_, ?_, ?_, ?_, ?_, ?_, ?_, ?_, ?_, ?_, ?_, ?_⟩ <;> decide +kernel

/-! ## JOB_LOAD -/

/-- A load block for job 0x00407B with epoch 3 and an image of 32 zero bytes at 2 KiB. -/
def tBlock : List Byte :=
  leBytes 4 0x407B ++ leBytes 4 3 ++ leBytes 8 0x800 ++ leBytes 4 32 ++ leBytes 4 (crc32c (zeros 32)) ++ leBytes 4 0x0100 ++ zeros 36

/-- The load that stands at the head of ring 3, in READY. -/
def tLoadJob (b : List Byte) : Dev :=
  let d := tHost [tDesc 1 0 64 (some b) (zeros 40)]
  { d with boot := { d.boot with st := 4 } }

/-- An empty program. -/
def tImage : ImageBody := .program ⟨[], [], [], [], []⟩

/-- A load that passed its checks fits in job memory. -/
def tFits : Except LoadErr LoadPlan × Dev → Bool
  | (.ok l, d) =>
    let dp := d.withPlacement l.overrides l.pools
    decide ((dp.reservePools (l.pools ++ [dp.stashPool (lbStash tBlock)])).2.1 = 0)
  | _ => false

/-- R444, R575: a bad CRC is IMAGE, a reserved bit of JOB_ID BAD_FIELD. -/
theorem test_job_load :
    ((after (.jobLoad 3 tImage) (tLoadJob (tBlock.set 20 1))).bind lastRecord).map (fun r => (r.2.1, r.2.2.1)) = some (3, 0x11) ∧
    ((after (.jobLoad 3 tImage) (tLoadJob (tBlock.set 3 1))).bind lastRecord).map (fun r => (r.2.1, r.2.2.1, r.2.2.2.2.1)) = some (3, 0x02, 0x100) := by
  refine ⟨?_, ?_⟩ <;> decide +kernel

theorem witness_LoadsPassEveryCheck :
    (tLoadJob tBlock).nextIs 3 1 (tDesc 1 0 64 (some tBlock) (zeros 40)) ∧ loadBlockBad .zx9440 tBlock = none ∧
    loadBlockBad .zx9440 (tBlock.set 3 1) = some 0 ∧ lbMgi tBlock = 0x0100 ∧ tFits ((tLoadJob tBlock).loadChecks tBlock tImage) = true ∧
    ((tLoadJob tBlock).loadChecks (tBlock.set 20 1) tImage).1.toOption = none ∧ (tHostJob tJob [tDesc 1 0 64 (some tBlock) (zeros 40)]).nextIs 3 1
      (tDesc 1 0 64 (some tBlock) (zeros 40)) := by
  refine ⟨⟨?_, ?_, rfl⟩, ?_, ?_, ?_, ?_, ?_, ⟨?_, ?_, rfl⟩⟩ <;> decide +kernel

/-! ### Start-up, trust and live service -/

/-- A ZX9440 with power, in a state of the start-up sequence. -/
def tBoot (st : Nat) : Dev :=
  let d := Dev.reset .zx9440
  { d with boot := { Boot.reset with st := st, served := decide (4 ≤ st) }, trust := { d.trust with powerGood := true, linkUp := true } }

/-- The state of a device alone. -/
def tState (d : Dev) : State := { pending := [], toll := Toll.reset, dev := d }

/-- Straps with STAGGER and slot 5 (the example of R466). -/
def tStraps : Straps := ⟨true, 5, false, 1, false⟩

/-- A self-test in which core 3 fails. -/
def tTest : SelfTest := ⟨[3], [], false, [2], 310000⟩

/-- R461: POWER_GOOD enters FILL with the stagger wait, and PCIe trains at once where PERST# is high. -/
theorem test_power_good : (after (.powerGood tStraps) (Dev.reset .zx9440)).map
    (fun d => (d.boot.st, d.trust.staggerWait, d.trust.linkUp, d.pw.setPoint)) = some (1, true, true, 700) := by decide +kernel

/-- R462: the wait of slot 5 is 200 ms. -/
theorem test_stagger : ((after (.powerGood tStraps) (Dev.reset .zx9440)).bind (after .staggerEnd)).map (fun d => d.now) =
    some 200000000 := by decide +kernel

/-- R464: a passing spare of the same die takes the failing core's number; the lowest spare of die 0 of a ZX9440 as fused is 48. -/
theorem test_self_test : (after (.selftestDone tTest) (tBoot 2)).map
    (fun d => (d.boot.st, d.trust.lmap.getD 3 0, d.trust.lmap.getD 4 0, (d.port 2).training, (d.port 1).training, d.boot.tSelftest)) =
    some (3, 48, 4, false, true, 310000) := by decide +kernel

/-- R462, R464, R367: hypotheses of the resets and of self-test. -/
theorem witness_ResetsAndSelfTest_a :
    (Dev.reset .zx9440).trust.powerGood = false ∧ (Dev.reset .zx9440).trust.perstLow = false ∧ (tBoot 2).boot.st = 2 ∧
    (tBoot 2).trust.powerGood = true ∧
    (let d : Dev := { tBoot 1 with trust := { (tBoot 1).trust with staggerWait := true, perstLow := true } }
     d.boot.st = 1 ∧ d.trust.staggerWait = true ∧ d.trust.perstLow = true) ∧
    (let d := (tBoot 3).setPort 1 fun x => { x with training := true }
     3 ≤ d.boot.st ∧ 1 ∈ presentPorts d.grade ∧ 1 < d.fx.ports.length ∧ (d.port 1).training = true ∧ (d.port 1).up = false) := by
  decide +kernel

theorem witness_ResetsAndSelfTest_b : (tBoot 2).boot.st = 2 ∧ (tBoot 2).trust.lmap = fusedMap .zx9440 ∧
    (tBoot 2).trust.spares = fusedSpares .zx9440 ∧ selfTestOk .zx9440 tTest = true := by decide +kernel

/-- The run of an image whose read times out, and of one that is read. -/
def tFail : FwRun := ⟨.timeout, [], true, true, 5, []⟩
def tRead : FwRun := ⟨.ok, [], true, true, 5, []⟩

/-- R471: a read that fails leaves the device in WAIT_FW, with READ_FAIL. -/
theorem test_load_read_fail : (after (.fwLoad tFail) (tBoot 3)).map (fun d => (d.boot.st, d.boot.result, d.boot.tLoad, d.er.seq)) =
    some (3, 3, 5, 1) := by decide +kernel

/-- R471: an image without MAGIC is BAD_FORMAT, and nothing is latched. -/
theorem test_load_bad : (after (.fwLoad tRead) (tBoot 3)).map (fun d => (d.boot.st, d.boot.result, d.boot.latchDone)) =
    some (3, 4, false) := by decide +kernel

/-- R479: LOAD is not allowed in READY. -/
theorem test_load_state : (after (.fwLoad tRead) (tBoot 4)).map (fun d => d.boot.result) = some 1 := by decide +kernel

theorem witness_ImagesAreCheckedAndMeasured : (tBoot 3).mailFree ∧ (tBoot 3).boot.st = 3 ∧ (tBoot 4).mailFree ∧
    liveStates (tBoot 4).boot.st = true ∧ tFail.read ≠ .ok ∧ tRead.read = .ok ∧ tRead.startOk = true ∧
    (let d : Dev := { tBoot 4 with trust := { (tBoot 4).trust with update := some ⟨tFail, [], some 0⟩ } }
     d.trust.update = some ⟨tFail, [], some 0⟩ ∧ d.wells.heldIo = [] ∧ liveStates d.boot.st = true ∧ d.unarmed = true) := by
  unfold Dev.mailFree; decide +kernel

/-- R482: an UPDATE whose image cannot be read ends READ_FAIL and frees the mailbox. -/
theorem test_update : ((after (.fwUpdate tFail) (tBoot 4)).bind (after .fwUpdateEnd)).map (fun d => (d.boot.busy, d.boot.result, d.boot.st)) =
    some (false, 3, 4) := by decide +kernel

/-- A swap of core 1 begun. -/
def tSwap : Option Dev := after (.spareSwap 1) (tBoot 4)

/-- R485: the core freezes, then runs on spare 48. -/
theorem test_swap : tSwap.map (fun d => ((d.core 1).frozen, d.boot.busy, d.boot.live)) = some (true, true, 21) ∧
    (tSwap.bind (after (.spareSwapEnd 0 true))).map (fun d => ((d.core 1).frozen, d.trust.lmap.getD 1 0, d.boot.result, d.trust.out)) =
      some (false, 48, 0, [1]) := by decide +kernel

/-- R486: a copy that meets an uncorrectable error halts the core in place with BUS_ERROR. -/
theorem test_swap_fail : (tSwap.bind (after (.spareSwapEnd 0 false))).map (fun d => ((d.core 1).halted, d.trust.lmap.getD 1 0, d.boot.result)) =
    some (true, 1, 0x0B) := by decide +kernel

theorem witness_ServiceWhileRunning : (tBoot 4).mailFree ∧ liveStates (tBoot 4).boot.st = true ∧ (tBoot 4).trust.swaps = [] ∧
    48 ∈ (tBoot 4).trust.spares ∧ dieOfPhys 48 = dieOfCore .zx9440 1 ∧
    (∀ q ∈ (tBoot 4).trust.spares, dieOfPhys q = dieOfCore .zx9440 1 → 48 ≤ q) ∧
    tSwap.elim false (fun d => decide (d.trust.swaps = [⟨0, 1, some 48, true, false, false⟩]) && (d.core 1).atRest && decide (1 < d.cores.length) &&
      !(d.core 1).halted && !(d.core 1).taking && d.unarmed && d.bz.rounds.isEmpty) = true ∧
    2 ∈ presentPorts (tBoot 4).grade ∧ ((tBoot 4).port 2).failedTest = false ∧ 2 < (tBoot 4).fx.ports.length ∧
    (let d := (tBoot 4).setPort 2 fun x => { x with up := true, width := 1 }; (d.port 2).up = true ∧ (d.port 2).width ≠ 0) ∧
    0 ∉ (tBoot 4).trust.mgmtFailed := by
  unfold Dev.mailFree; decide +kernel

/-- R488: a port whose lane 0 fails trains on the pair of lanes 2 and 3. -/
theorem test_lane_fault : (after (.laneFault 2 0) ((tBoot 4).setPort 2 fun x => { x with up := true })).map
    (fun d => ((d.port 2).up, (d.port 2).training, (d.port 2).width)) = some (false, true, 2) := by decide +kernel

/-- R477: INJECT_ENABLE can be written only in WAIT_FW. -/
theorem test_inject_enable : (after (.injectEnableWrite true) (tBoot 3)).map (fun d => d.boot.injectEnable) = some true ∧
    (after (.injectEnableWrite true) (tBoot 4)).map (fun d => d.boot.injectEnable) = some false := by decide +kernel

/-- R537: the partner takes the roles of a management core that fails, and the device goes on. -/
theorem test_mgmt_core : (after (.mgmtCoreSelfCheckFail 2 true) (tBoot 4)).map
    (fun d => (d.boot.st, d.er.fatal, d.er.log.map fun r => (r.det, r.sev))) = some (4, false, [(0x4002, 1)]) := by decide +kernel

/-- R474: GET_VERSION reports version 1.2 alone. -/
theorem test_get_version : (after .getVersion (tBoot 3)).map (fun d => d.out.head?) =
    some (some (.spdm [0x10, 0x04, 0, 0, 0, 1, 0x00, 0x12])) := by decide +kernel

theorem witness_AttestationAnswers : (tBoot 2).pw.state = 0 ∧ (tBoot 2).boot.st < 3 ∧ 3 ≤ (tBoot 3).boot.st ∧
    (let d : Dev := { tBoot 3 with trust := { (tBoot 3).trust with spdm := [0x84, 0xE1, 0xE3] } }
     0x84 ∈ d.trust.spdm ∧ 0xE1 ∈ d.trust.spdm ∧ 0xE3 ∈ d.trust.spdm ∧ d.boot.chainOk = false) ∧ (0x10 &&& 0x10 = 0x10) := by decide +kernel

/-! ### The Tollhouse -/

/-- A Tollhouse that runs, in a state of its mailbox and seal. -/
def tToll : Toll := { Toll.reset with running := true }

/-- The next state's Tollhouse. -/
def toll (c : Instr) (t : Toll) : Option Toll :=
  match exec c { pending := [], toll := t, dev := Dev.reset .zx9440 } with
  | .next u => some u.toll
  | _ => none

/-- R509: power-up counts the boot and logs GAP (event 1) with TT 0. -/
theorem test_power_up : (toll (.tollhousePowerUp true) Toll.reset).map (fun t => (t.running, t.nv.bootCount, t.nv.logSeq,
    t.nv.log.map fun e => fieldAt e.1 28 2, t.nv.log.map fun e => fieldAt e.1 52 1)) = some (true, 1, 1, [1], [1]) := by decide +kernel

/-- R497, R498: a channel in sense fault adds nothing. -/
theorem test_sense_fault : ((toll (.senseFault 2 3) tToll).bind (toll (.periodicReading [1, 2, 3, 4, 5, 6, 7, 8]))).map
    (fun t => (t.nv.energy, t.nv.seq, t.nv.logSeq)) = some ([1, 2, 0, 4, 5, 6, 7, 8], 1, 1) := by decide +kernel

/-- R514: opening and closing the seal are logged. -/
theorem test_toll_seal : ((toll .unseal tToll).bind (toll .tollhouseSeal)).map
    (fun t => (t.unsealed, t.nv.unseals, t.nv.log.map fun e => fieldAt e.1 28 2)) = some (false, 1, [6, 5]) := by decide +kernel

theorem witness_MeteringAndItsFirmware_a : Toll.reset.running = false ∧ tToll.running = true ∧ tToll.nv.energy.length = 8 ∧
    tToll.senseFault.length = 8 ∧ tToll.senseFault.getD 7 false = false ∧ tToll.unsealed = false ∧
    ({ tToll with senseFault := List.replicate 8 true } : Toll).senseFault.getD 0 false = true ∧
    ({ tToll with unsealed := true } : Toll).unsealed = true := by decide

/-- A frame as die 1 sends it, with the time locked at 5 µs. -/
def tFrame : List Byte :=
  let d := Dev.reset .zx9440
  let d := { d with tm := { d.tm with st := .locked, ns := 5000 }, work := { d.work with hbm := [0, 77] } }
  d.workFrame 1 (crc32c (d.workFrame 1 0))

/-- R500, R501: a good frame sets TT; a broken one is counted. -/
theorem test_frame : (toll (.workCountFrame tFrame) tToll).map (fun t => (t.tt, t.timeSet, (t.work.getD 1 []).getD 4 0, t.workBad)) =
      some (5, true, 77, 0) ∧
    (toll (.workCountFrame (2 :: tFrame.drop 1)) tToll).map (fun t => (t.timeSet, t.workBad)) = some (false, 1) := by decide +kernel

/-- R502: a difference of 60 µs is slewed by 10 µs; one of 200 ms sets TIME_DEV. -/
theorem test_time_check : (toll .timeCheck { tToll with timeSet := true, tt := 60, devTime := some 0 }).map (fun t => (t.tt, t.timeDevUs)) =
      some (50, 60) ∧
    (toll .timeCheck { tToll with timeSet := true, tt := 200000, devTime := some 0 }).map (fun t => (t.tt, t.timeDev, t.nv.logSeq)) =
      some (200000, true, 1) := by decide +kernel

theorem witness_WorkCountsAndTime : frameOk tFrame = true ∧ frameOk [] = false ∧ tToll.stale.length = 2 ∧ tToll.work.length = 2 ∧
    tToll.stale.getD 1 false = false ∧ tToll.timeSet = false ∧ 2 ^ 63 ≤ fieldAt tFrame 8 8 ∧
    (let t : Toll := { tToll with timeSet := true, devTime := some 0 }; t.running = true ∧ t.timeSet = true ∧ t.devTime = some 0) ∧
    (tBoot 3).trust.powerGood = true := by decide +kernel

/-- A GET_STATUS request. -/
def tReq : List Byte := [1, 4] ++ zeros 30

/-- R510: GET_STATUS puts the status registers into the response. -/
theorem test_get_status : (toll (.getStatus .acwald tReq) tToll).map (fun t => ((t.box 0).st, (t.box 0).resp.take 8)) =
    some (1, [1, 4, 0, 0, 128, 0, 0, 0]) := by decide +kernel

/-- R510: one request is served at a time; the other follows when its response is ready. -/
theorem test_order : ((toll (.getStatus .acwald tReq) tToll).bind (toll (.getStatus .smbus tReq))).map (fun t => (t.box 1).waiting) = some true ∧
    (((toll (.getStatus .acwald tReq) tToll).bind (toll (.getStatus .smbus tReq))).bind (toll .tollhouseResponseReady)).map
      (fun t => ((t.box 0).st, (t.box 1).serving)) = some (2, true) := by decide +kernel

theorem witness_RequestsChangeNoRecord : tToll.running = true ∧ tToll.boxes.length = 2 ∧ fieldAt tReq 1 1 = 4 ∧ reqOk tReq = true ∧
    reqOk [] = false ∧ (tToll.box 0).st ≠ 1 ∧
    (let t : Toll := { tToll with boxes := [⟨1, tReq, [0]⟩, ⟨1, tReq, []⟩] }
     (t.box 0).serving = true ∧ (t.box 1).waiting = true ∧ (t.box 0).st = 1) ∧
    (let r : List Byte := [1, 2, 1, 0, 0, 0, 0, 0, 1] ++ zeros 23
     let t : Toll := { tToll with nv := { tToll.nv with logSeq := 2, log := [([], [])] } }
     reqOk r = true ∧ fieldAt r 1 1 = 2 ∧ 1 ≤ fieldAt r 8 8 ∧ fieldAt r 8 8 + t.nv.log.length ≤ t.nv.logSeq ∧ fieldAt r 2 2 = 1) := by decide +kernel

/-- R514, R516: an image without MAGIC answers FORMAT and is logged as FW_UPDATE_FAIL. -/
theorem test_fw_image : (toll (.tollhouseFwImage [] true false) { tToll with unsealed := true }).map
    (fun t => (t.nv.fwUpdates, t.nv.log.map fun e => (fieldAt e.1 28 2, fieldAt e.1 32 1))) = some (0, [(8, 2)]) := by decide +kernel

theorem witness_MeteringAndItsFirmware_b : tToll.running = true ∧ tToll.unsealed = false ∧
    ({ tToll with unsealed := true } : Toll).unsealed = true := by decide

/-! ### Power, time and counters -/

/-- A ZX9440 in READY with HOST_LATENCY_TOL of 100 µs. -/
def tPower : Dev := { tBoot 4 with pw := { Power.reset with latencyTol := 100 } }

/-- R520: the example of a sag on group 5, with PW_SAG_FRAC 8: 8, then 9. -/
theorem test_sag : (after (.droverSag 5) tPower).map (fun d => (d.pw.fOf 5, d.pw.fOf 4, d.pw.sagEvents)) = some (8, 16, 1) ∧
    ((after (.droverSag 5) tPower).bind (after (.droverRaise 5))).map (fun d => d.pw.fOf 5) = some 9 := by decide +kernel

/-- R522, R523: with 100 µs tolerated the device goes to A2 and no deeper; a BAR access wakes it. -/
theorem test_power_states :
    ((((after .powerStateEnter tPower).bind (after .powerStateEnter)).bind (after .powerStateEnter)).map fun d => (d.pw.state, d.now)) =
      some (2, 1010000) ∧
    ((((after .powerStateEnter tPower).bind (after .powerStateEnter)).bind (after (.wake .barAccess))).map fun d => (d.pw.state, d.pw.wakes)) =
      some (0, 1) := by decide +kernel

theorem witness_PacingAndPowerStates : tPower.boot.st ≠ 0 ∧ tPower.pw.f.length = 20 ∧ tPower.pw.fLimit = 16 ∧ wbit tPower.pw.ctrl 0 = true ∧
    exitLatency 1 ≤ tPower.pw.latencyTol.toNat ∧ tPower.mayEnter 1 = true ∧ tPower.boot.served = true ∧
    (let d : Dev := { tPower with pw := { tPower.pw with state := 2 } }; d.pw.state ≠ 0 ∧ d.pw.state ≤ 4) := by decide +kernel

/-- A ZX9440 in READY whose PTP runs on port 0, with 7 good offsets so far. -/
def tTime : Dev := { tBoot 4 with tm := { TimeCtr.reset with st := .acquiring, good := 7, ns := 1000 } }

/-- R527, R528: the eighth offset within 50 ns locks the counter, which steps to the source's time. -/
theorem test_lock : (after (.ptpMessage true 0 0 .followUp (some 50) 777) tTime).map (fun d => (decide (d.tm.st = .locked), d.tm.ns, d.tm.steps)) =
      some (true, 777, 1) ∧
    (after (.ptpMessage true 0 0 .followUp (some 51) 777) tTime).map (fun d => (decide (d.tm.st = .acquiring), d.tm.ns, d.tm.good)) =
      some (true, 1000, 0) := by decide +kernel

/-- R529: a source that returns more than 1 ms off makes the counter step. -/
theorem test_step : (after (.ptpMessage true 0 0 .followUp (some (-1000001)) 0) { tTime with tm := { tTime.tm with st := .holdover } }).map
    (fun d => (d.tm.ns, d.tm.steps, d.tm.err)) = some (1001001, 1, 2) := by decide +kernel

/-- R527: an edge of PPS_IN with PTP selected is counted in TM_IGNORED. -/
theorem test_ignored : (after (.ppsEdge 0) tTime).map (fun d => d.tm.ignored) = some 1 := by decide +kernel

theorem witness_TimeFollowsItsSource_a : tTime.pw.state = 0 ∧ 3 ≤ tTime.boot.st ∧ tTime.mgmtFrom true 0 = true ∧ wbit tTime.tm.ctrl 1 = true ∧
    tTime.fx.ptpPort.toNat = 0 ∧ wbit tTime.tm.ctrl 0 = false ∧ tTime.awakeUp = true ∧ tTime.tm.st = .acquiring ∧ 8 ≤ tTime.tm.good + 1 ∧
    (let d : Dev := { tTime with tm := { tTime.tm with ctrl := 3, st := .locked, bad := 3 } }
     wbit d.tm.ctrl 0 = true ∧ wbit d.tm.ctrl 1 = true ∧ d.tm.st = .locked ∧ 3 ≤ d.tm.bad) ∧ (200 < (201 : Int).natAbs) := by decide +kernel

/-- R532: a snapshot after a clear shows zeros. -/
theorem test_snapshot : (after (.ctSnapshot true) { tTime with ct := { Counters.reset with live := [(0x390000, 5)] } }).map
    (fun d => (d.ct.snap, d.ct.snapDone)) = some ([], true) := by decide +kernel

/-- R533: 115 steps against a bound of 100 is above the factor 1.12 of R29, and is recorded. -/
theorem test_bound : (tTime.retireWork 0 115 ⟨100, 1⟩ true).er.coalesce.map (·.det) = [0x4A00] ∧
    (tTime.retireWork 0 112 ⟨100, 1⟩ true).er.coalesce = [] := by decide +kernel

/-- An exchange round of unit 0x201 that has moved 1 MB out of port 0 and 500 kB into it, and a run of core 2. -/
def tPhaseTrack : Track := ⟨2, 40, 0x201, 0, 10000, [(0, 1000000), (1, 500000)], [], 0, none, true⟩
def tRunTrack : Track := ⟨0, 2, 2, 0, 1000, [(0, 16384000)], [], 16, none, true⟩

/-- The device with both, and an HBM streaming interval that began at 500 ns. -/
def tTracked : Dev :=
  { tTime with ct := { tTime.ct with tracks := [tRunTrack], hbmFirst := some 500, hbmLast := 900, perStack := [⟨2048, 2048, false, 4096, 0⟩] } }

/-- R29: 1 MB over 100 GB/s is 10 µs; 16,384,000 MACs are 1,000 steps; 4,096 bytes over 2.048 TB/s are 2 ns. -/
theorem test_bounds : (tTracked.ct.boundOf 1000 tPhaseTrack, tTracked.ct.boundOf 1000 tRunTrack, tTracked.ct.streamBound) =
    (⟨1000000, 100⟩, ⟨16384000, 16384⟩, ⟨4096, 2048⟩) := by decide +kernel

/-- R533: BOUND_UPDATE shows the ratio of the run in progress and drops what has ended. -/
theorem test_bound_update : (after (.boundUpdate true false true true 0) { tTracked with ct := { tTracked.ct with tracks := [tRunTrack, tPhaseTrack] } }).map
    (fun d => (d.ct.tracks.map (·.row), d.ct.bounds.map fun r => decide (r.runRatio = boundRatio 1000 ⟨16384000, 16384⟩))) =
      some ([0], [true, false, false, false]) := by decide +kernel

theorem witness_CountsAreSnapshotAndCleared : tTime.awakeUp = true ∧ tTime.ct.bounds.length = 4 ∧ tTime.ct.bounds[0]? = some BoundRow.zero ∧
    tTracked.ct.tracks = [] ++ tRunTrack :: [] ∧ tTracked.inProgress tRunTrack = true ∧ tTracked.ct.hbmFirst = some 500 ∧ tTime.ct.hbmFirst = none := by
  decide +kernel

theorem witness_BoundsAreMeasured : tTracked.pw.state = 0 ∧ 0 < 100 ∧ tTracked.track? 0 2 = some tRunTrack ∧ tTracked.covers tRunTrack = true ∧
    tTracked.ct.hbmFirst = some 500 ∧ tTracked.ct.bounds[1]? = some BoundRow.zero ∧ tTracked.tm.ns / 100000 = 0 ∧
    (tTracked.advance 1).tm.ns / 100000 = 0 ∧ (tTracked.advance 200000).tm.ns / 100000 ≠ 0 ∧ tTracked.wells.heldIo.length = 0 := by
  refine ⟨?_, ?_, ?_, ?_, ?_, ?_, ?_, ?_, ?_, ?_⟩ <;> decide +kernel

/-- R534: the power and time block's counts are cleared with PW_CTRL.CLEAR_COUNTS. -/
theorem test_pw_clear : (after .pwClearCounts { tTime with tm := { tTime.tm with steps := 4 } }).map (fun d => d.tm.steps) = some 0 := by
  decide +kernel

/-! ### Errors, injection, SMBus and JTAG -/

/-- A record of a contained error. -/
def tRec : ErrRec :=
  { seq := 9, time := 0, det := 0x0203, sev := 1, injected := false, jobValid := false, addrValid := false, jobId := 0, addr := 0, count := 1,
    d0 := 0, d1 := 0, d2 := 0, now := 0 }

/-- A ZX9440 in READY with the error ring of 64 records enabled, its vector unmasked, and one record waiting. -/
def tErr : Dev :=
  let d := (tBoot 4).setMsix ⟨0, 0, 0, 0, false, false⟩
  { d with er := { Errors.reset with ringCtrl := 262, pending := [tRec], tail := 63, phase := true, used := 5 } }

/-- R542, R544: the last slot is written, the phase flips and the vector fires after the record. -/
theorem test_deliver : (after .errorRecordDeliver tErr).map (fun d => (d.er.tail, d.er.phase, d.er.used, d.out.length, d.out.head?)) =
    some (0, false, 6, 2, some (.msix 0)) := by decide +kernel

/-- R540: the sequence skips 65,536. -/
theorem test_next_seq : nextSeq 65535 = 65537 ∧ nextSeq 116 = 117 := by decide

/-- R541: two corrected detections within 1 ms become one record with COUNT 2. -/
theorem test_coalesce : ((after (.supplyLow 3 670) (tBoot 4)).bind (after (.supplyLow 3 660))).map
      (fun d => d.er.coalesce.map fun r => (r.count, r.d0)) = some [(2, 670)] ∧
    (((after (.supplyLow 3 670) (tBoot 4)).bind (after (.supplyLow 3 660))).bind (after (.ceCoalesceEnd 0x5003 false))).map
      (fun d => (d.er.seq, d.now, d.er.coalesce.length)) = some (1, 1000000, 0) := by decide +kernel

theorem witness_ErrorsAreRecordedAndDelivered : tErr.er.ringOn = true ∧ tErr.er.used < tErr.er.ringSize ∧ tErr.er.pending = tRec :: [] ∧
    tErr.awakeUp = true ∧ tErr.er.head < tErr.er.ringSize ∧ 4 ≤ tErr.boot.st ∧ (tBoot 4).er.ringOn = false ∧ (tBoot 4).awakeUp = true ∧
    (tErr.msixEntry tErr.errVector).mask = false ∧ 1 ≤ tRec.sev ∧
    (let ps := List.replicate 255 tRec ++ [{ tRec with sev := 0 }]
     ps.length = 256 ∧ (∀ x ∈ List.replicate 255 tRec, x.sev ≠ 0) ∧ { tRec with sev := 0 } ∉ List.replicate 255 tRec) ∧
    (∀ x ∈ List.replicate 256 tRec, x.sev ≠ 0) ∧ (tBoot 4).ct.hbmFirst = none := by decide +kernel

/-- A ZX9440 in READY with injection latched. -/
def tInject : Dev := { tBoot 4 with boot := { (tBoot 4).boot with latched := true } }

/-- R549, R550: HBM_UE of Well 0 arms with N of the slot; HALT is not allowed for it; RECORD_ONLY records at once. -/
theorem test_arm : (after (.erInjArm 0 0x80000200) tInject).map (fun d => (d.er.slots.map fun s => s.left).head?) = some (some 1) ∧
    (after (.erInjArm 0 0x80010200) tInject).map (fun d => d.er.refused) = some 1 ∧
    (after (.erInjArm 0 0x80020200) tInject).map (fun d => d.er.log.map fun r => (r.det, r.injected)) = some [(0x0200, true)] ∧
    (after (.erInjArm 0 0x80000200) (tBoot 4)).map (fun d => d.er.refused) = some 1 := by decide +kernel

theorem witness_InjectionAndTrips : tInject.awakeUp = true ∧ tInject.er.slots.length = 8 ∧ wbit 0x80000200 31 = true ∧
    (detSeverity tInject.grade 0x0200).isSome = true ∧ 2 ∈ mimicTypes ∧ ({ ctrl := 0x80000200, count := 5, left := 5, fired := 0 } : InjSlot).armedFor 0x0200 0 = true ∧
    tInject.unarmed = true ∧ groupPresent tInject.grade 19 = true ∧ tInject.er.coalesce = [] ∧ tInject.boot.st ≠ 0 := by decide +kernel

/-- R569: the trip of a device in WAIT_FW. -/
theorem test_trip : (after (.thermalTrip 0 115) (tBoot 3)).map (fun d => (d.boot.st, d.trust.thermtrip, d.er.fatal)) = some (6, true, true) ∧
    (after (.thermalTrip 0 114) (tBoot 3)).map (fun d => (d.boot.st, d.trust.thermtrip)) = some (3, false) := by decide +kernel

/-- R564: STATE gives IDC_STATE and the power state; a request with a bad code is not acknowledged. -/
theorem test_smb_state : (after .smbState (tBoot 4)).map (fun d => d.out) = some [.smbus [4, 0]] ∧
    (after (.smbTollReq false tReq) (tBoot 4)).map (fun d => d.out) = some [.smbus []] := by decide +kernel

theorem witness_SidebandPorts : tReq.length = 32 ∧ tToll.running = true ∧ tToll.boxes.length = 2 ∧ (tToll.box 1).st ≠ 1 ∧
    (({ tToll with boxes := [⟨0, [], []⟩, ⟨2, tReq, [1]⟩] } : Toll).box 1).st = 2 ∧
    (({ tToll with boxes := [⟨0, [], []⟩, ⟨1, tReq, [1]⟩] } : Toll).box 1).st = 1 ∧ ([0, 0, 0, 0, 0, 0, 0, 0] : List Byte).length = 8 := by decide

/-- R565: no ball moves while PERST_N is high. -/
theorem test_jtag : (after (.jtagInstruction true) (tBoot 4)).map (fun d => d.out) = some [.jtag false] := by decide +kernel

/-- Memory with an INT32 tile of one element, 0, at 0x1000, and the FP4 tile of the tests at 0x4000 (the bytes that are not zero). -/
def tRowsMem : Memory :=
  [(0x1000, 0x0D), (0x1001, 1), (0x1002, 1), (0x1004, 0x7F), (0x1005, 0x7F), (0x1006, 0x7F), (0x1007, 0x7F), (0x1008, 9), (0x1011, 0xAD),
   (0x1012, 0x71), (0x1013, 0xA9), (0x4000, 1), (0x4001, 1), (0x4002, 2), (0x4004, 0x7F), (0x4005, 0x7F), (0x4006, 0x7F), (0x4007, 0x7F),
   (0x4008, 9), (0x4010, 0x59), (0x4011, 0xB5), (0x4012, 0x9D), (0x4013, 0x49), (0x4020, 0x21)]

/-- The test device with a GATHER_ROWS of one row, the index tile at 0x1000 and the rows at 0x4000. -/
def tGather : Dev :=
  { tDev.setCore 2 (fun k => { k with ls := [tRun (.gatherRows (.addr 0x4000) .fp4 false 1 (.mem (.addr 0x1000) none .int32 false) 4)] }) with
    queues := [tQueue 4 8 2 .fp4 .ls .vx], mem := tRowsMem }

/-- R114: the row named by the index tile is gathered. -/
theorem test_gather :
    (after (.gatherRows 2) tGather).map (fun d => (d.queues.map fun x => x.ring.map fun t => (tileRows t, codeAt .fp4 t 0 1), (d.core 2).ls.length)) =
      some ([[(1, 2)]], 0) := by decide +kernel

/-- The test device with a SCATTER_ROWS of one row. -/
def tScatter : Dev :=
  { tDev.setCore 2 (fun k => { k with ls := [tRun (.scatterRows 4 false false (.mem (.addr 0x1000) none .int32 false) (.addr 0x4000) .fp4 1 1)] }) with
    queues := [{ tQueue 4 8 2 .fp4 .vx .ls with ring := [tTile] }], mem := tRowsMem }

theorem witness_LoadStoreAndRows_c :
    (engAlone tGather 2 .ls (tRun (.gatherRows (.addr 0x4000) .fp4 false 1 (.mem (.addr 0x1000) none .int32 false) 4)) ∧
      tGather.tailIdx 2 .ls 4 = some 0 ∧ tGather.q? 0 = some (tQueue 4 8 2 .fp4 .ls .vx) ∧
      inJobMem tGather.grade 0x1000 (tileTotal .int32) = true ∧ tGather.poison = [] ∧ tGather.someHeld = false ∧
      inJobMem tGather.grade 0x4000 (tileTotal .fp4) = true ∧ tileGood (fun g => g == .int32) (tGather.peek 0x1000 (tileTotal .int32)) = true ∧
      indexRows (tGather.peek 0x1000 (tileTotal .int32)) = [((0 : Nat) : Int)] ∧
      tileGood (fun g => g == .fp4) (tGather.peek 0x4000 (tileTotal .fp4)) = true ∧
      (rowOf .fp4 (turned false (tGather.peek 0x4000 (tileTotal .fp4))) 0).isSome = true) ∧
    engAlone tScatter 2 .ls (tRun (.scatterRows 4 false false (.mem (.addr 0x1000) none .int32 false) (.addr 0x4000) .fp4 1 1)) ∧
      tScatter.headIdx 2 .ls 4 = some 0 ∧ tScatter.q? 0 = some { tQueue 4 8 2 .fp4 .vx .ls with ring := [tTile] } ∧
      tScatter.mem.wf = true ∧ inJobMem tScatter.grade 0x1000 (tileTotal .int32) = true ∧ tScatter.poison = [] ∧ tScatter.someHeld = false ∧
      indexRows (tScatter.peek 0x1000 (tileTotal .int32)) = [((0 : Nat) : Int)] ∧
      tileGood (fun g => g == .fp4) (tScatter.peek 0x4000 (tileTotal .fp4)) = true ∧ tileGood (fun g => g == .fp4) tTile = true ∧
      (replaceRow .fp4 (tScatter.peek 0x4000 (tileTotal .fp4)) 0 (rowOf .fp4 (turned false tTile) 0)).isSome = true := by
  unfold engAlone; refine ⟨⟨?_, ?_⟩, ?_, ?_⟩ <;> decide +kernel

/-- A step with a command waiting, and one without. -/
theorem witness_StepRunsFront : ({ State.reset with pending := [.perstRelease] }).pending = .perstRelease :: [] := rfl
theorem witness_TimeFollowsItsSource_b : State.reset.pending = [] := rfl

/-- A powered Tollhouse takes its periodic reading, and the step keeps the log chained. -/
def tMeter : State := { State.reset with pending := [.periodicReading (List.replicate 8 5)], toll := { Toll.reset with running := true } }

theorem witness_TollhouseIsIsolated_a :
    (match exec (.periodicReading (List.replicate 8 5)) tMeter with
     | .next t => t.toll.nv.seq == 1 && t.toll.nv.energy == List.replicate 8 5
     | _ => false) = true := by decide +kernel
theorem witness_AuditLogStaysChained :
    State.reset.toll.nv.chained ∧
    (match step { State.reset with pending := [.tollhousePowerUp true] } with | .next t => t.toll.nv.logSeq == 1 | _ => false) = true := by
  refine ⟨?_, by decide +kernel⟩
  unfold TollNv.chained; simp [State.reset, Toll.reset, TollNv.made, logChained, zeros]

theorem witness_TilesSealTearTranspose : 32 ≤ tTile.length ∧ (0 : Nat) < 32 := by decide +kernel
theorem witness_AdmissionAndShares_a : 1 ≤ 3 ∧ 2 < [4, 5, 6].length := by decide

theorem witness_ResetValues :
    State.reset.dev.boot.served = false ∧ State.reset.dev.boot.st ≠ 6 ∧ (0x10000 : Nat) ≤ 0x300000 ∧ 0x300000 < 0x3F0000 := by decide
theorem witness_ChecksumAndFormatVectors : 32 ≤ tTile.length := by decide +kernel

end Sys2Proof.Tests
end

section
/-! The step of the block, by what stands in its queue. -/

namespace Sys2Proof.Machine

open Sys2Proof

/-- The branch of `step` with a command waiting. -/
theorem step_of_pending_cons {s : State} {c : Instr} {rest : List Instr} (hqueue : s.pending = c :: rest) :
    step s = exec c { s with pending := rest } := by
  unfold step
  rw [hqueue]

/-- Settles O1: `step` branches on the queue alone, and a queue with a front takes its second branch. -/
theorem stepRunsFront : Obligations.StepRunsFront := by
  intro s c rest hqueue
  exact step_of_pending_cons hqueue

end Sys2Proof.Machine
end

section
/-! What a command can do to the Tollhouse, said once (R492 to R517), and from it: nothing but its own inputs reaches it, and what it
has counted never falls. -/

namespace Sys2Proof.Machine

open Sys2Proof

/-! ## Commands outside the Tollhouse's inputs (R24, R492) -/

/-- Every command answers a next state, whose Tollhouse is the one before unless the command is one of its inputs. TOLL_STATUS reads
the Tollhouse and writes none of it. -/
theorem exec_toll (c : Instr) (s : State) : ∃ t, exec c s = .next t ∧ t.toll = bif tollInput c then t.toll else s.toll := by
  cases c with
  | smbTollStatus => exact ⟨_, rfl, (apply_ite State.toll _ _ _).trans (ite_self _)⟩
  | periodicReading energy =>
    change ∃ t, execPeriodicReading energy s = .next t ∧ t.toll = t.toll
    unfold execPeriodicReading
    split <;> exact ⟨_, rfl, rfl⟩
  | _ => exact ⟨_, rfl, rfl⟩

theorem toll_eq_of_not_tollInput {c : Instr} {s t : State} (hc : tollInput c = false) (h : exec c s = .next t) : t.toll = s.toll := by
  obtain ⟨u, hu, htoll⟩ := exec_toll c s
  rw [hu] at h
  cases h
  rwa [hc] at htoll

/-! ## Entries of the audit log (R506, R507) -/

/-- A store with entries appended to its audit log, oldest first. -/
def TollNv.appends (v : TollNv) (es : List (List Byte)) : TollNv := es.foldl TollNv.append v

/-- Appending entries changes the log, its hash and its sequence alone. -/
theorem TollNv.appends_eq (v : TollNv) (es : List (List Byte)) :
    v.appends es = { v with logSeq := v.logSeq + es.length, logHash := (v.appends es).logHash, log := (v.appends es).log } := by
  induction es generalizing v with
  | nil => rfl
  | cons e es ih =>
    have hlen : (v.append e).logSeq + es.length = v.logSeq + (e :: es).length := by
      simp only [TollNv.append, List.length_cons]
      omega
    calc v.appends (e :: es)
        = { v.append e with logSeq := (v.append e).logSeq + es.length, logHash := (v.appends (e :: es)).logHash,
                            log := (v.appends (e :: es)).log } := ih _
      _ = _ := by rw [hlen]; unfold TollNv.append; rfl

/-- A Tollhouse that has logged events, and kept its seal and the rest of its store. -/
def Toll.LogsTo (t u : Toll) : Prop := u.unsealed = t.unsealed ∧ ∃ es, u.nv = t.nv.appends es

theorem Toll.LogsTo.of_nv_eq {t u : Toll} (hseal : u.unsealed = t.unsealed) (hnv : u.nv = t.nv) : t.LogsTo u := ⟨hseal, [], hnv⟩

theorem Toll.LogsTo.refl (t : Toll) : t.LogsTo t := .of_nv_eq rfl rfl

theorem Toll.LogsTo.trans {t u v : Toll} (htu : t.LogsTo u) (huv : u.LogsTo v) : t.LogsTo v := by
  obtain ⟨hseal, es, hnv⟩ := htu
  obtain ⟨hseal', es', hnv'⟩ := huv
  exact ⟨hseal'.trans hseal, es ++ es', by rw [hnv', hnv]; exact List.foldl_append.symm⟩

theorem Toll.logsTo_logEvent (t : Toll) (event : Nat) (data : List Byte) : t.LogsTo (t.logEvent event data) :=
  ⟨rfl, [t.entry event data], rfl⟩

/-- An event logged by a Tollhouse that differs from `t` in neither its store nor its seal. -/
theorem Toll.LogsTo.logEvent {t u : Toll} (h : t.LogsTo u) (event : Nat) (data : List Byte) : t.LogsTo (u.logEvent event data) :=
  h.trans (u.logsTo_logEvent event data)

/-! ## The inputs that only log -/

theorem Toll.logsTo_at (t : Toll) (now : Nat) : t.LogsTo (t.at now) := .of_nv_eq rfl rfl

theorem Toll.logsTo_setTime (t : Toll) (ns : Nat) : t.LogsTo (t.setTime ns) := by
  unfold Toll.setTime
  split
  · exact .refl t
  · extract_lets u
    have hu : t.LogsTo u := .of_nv_eq rfl rfl
    exact hu.logEvent _ _

theorem Toll.logsTo_frame (t : Toll) (f : List Byte) : t.LogsTo (t.frame f) := by
  unfold Toll.frame
  extract_lets die ws locked ns wasStale u v
  have hv : t.LogsTo v := by
    unfold v
    split
    · exact (Toll.LogsTo.of_nv_eq rfl rfl).logEvent _ _
    · exact .of_nv_eq rfl rfl
  split
  · exact hv.trans (v.logsTo_setTime ns)
  · exact hv

theorem Toll.logsTo_workLost (t : Toll) (die : Nat) : t.LogsTo (t.workLost die) := by
  unfold Toll.workLost
  split
  · exact .refl t
  · exact (Toll.LogsTo.of_nv_eq rfl rfl).logEvent _ _

theorem Toll.logsTo_slew (t : Toll) (diff : Int) : t.LogsTo (t.slew diff) := .of_nv_eq rfl rfl

theorem Toll.logsTo_timeCheck (t : Toll) : t.LogsTo t.timeCheck := by
  unfold Toll.timeCheck
  split
  · exact .refl t
  · split
    · exact .refl t
    · extract_lets diff u
      have hu : t.LogsTo u := .of_nv_eq rfl rfl
      split
      · split
        · exact hu
        · exact (hu.trans (.of_nv_eq rfl rfl)).logEvent _ _
      · split
        · exact hu.trans (u.logsTo_slew diff)
        · split
          · exact ((hu.trans (.of_nv_eq rfl rfl)).logEvent _ _).trans (Toll.logsTo_slew _ diff)
          · exact hu

theorem Toll.logsTo_faultOn (t : Toll) (c kind : Nat) : t.LogsTo (t.faultOn c kind) := by
  unfold Toll.faultOn
  split
  · exact .refl t
  · exact (Toll.LogsTo.of_nv_eq rfl rfl).logEvent _ _

theorem Toll.logsTo_faultOff (t : Toll) (c : Nat) : t.LogsTo (t.faultOff c) := by
  unfold Toll.faultOff
  split
  · exact (Toll.LogsTo.of_nv_eq rfl rfl).logEvent _ _
  · exact .refl t

/-- What a command of the running Tollhouse may do: nothing while it is not running, its own effect at the present time otherwise. -/
theorem toll_of_onToll {s t : State} {f : Toll → Toll} (h : s.onToll f = .next t) :
    t.toll = s.toll ∨ t.toll = f (s.toll.at s.dev.now) := by
  unfold State.onToll at h
  cases h
  split
  · exact .inr rfl
  · exact .inl rfl

theorem logsTo_of_onToll {s t : State} {f : Toll → Toll} (hf : ∀ u : Toll, u.LogsTo (f u)) (h : s.onToll f = .next t) :
    s.toll.LogsTo t.toll := by
  rcases toll_of_onToll h with hkept | hrun
  · exact .of_nv_eq (by rw [hkept]) (by rw [hkept])
  · rw [hrun]
    exact (s.toll.logsTo_at _).trans (hf _)

/-! ## The mailbox (R493, R510) -/

/-- What a mailbox request and its response leave as they are: the store, the seal, the readings, TT's setting and the work counts. -/
def Toll.MailboxKeeps (t u : Toll) : Prop :=
  u.nv = t.nv ∧ u.unsealed = t.unsealed ∧ u.readings = t.readings ∧ u.timeSet = t.timeSet ∧ u.work = t.work

theorem Toll.MailboxKeeps.refl (t : Toll) : t.MailboxKeeps t := ⟨rfl, rfl, rfl, rfl, rfl⟩

theorem Toll.MailboxKeeps.logsTo {t u : Toll} (h : t.MailboxKeeps u) : t.LogsTo u :=
  let ⟨hnv, hseal, _⟩ := h
  .of_nv_eq hseal hnv

/-- Serving a slot changes the slots alone. -/
theorem Toll.serveBox_eq (t : Toll) (i : Nat) : t.serveBox i = { t with boxes := (t.serveBox i).boxes } := by
  unfold Toll.serveBox
  split <;> rfl

/-- A Tollhouse at a later time, with other slots, of which one is served. -/
theorem Toll.mailboxKeeps_serveBox (t : Toll) (now : Nat) (boxes : List TollBox) (i : Nat) :
    t.MailboxKeeps (({ t.at now with boxes := boxes } : Toll).serveBox i) := by
  rw [Toll.serveBox_eq]
  exact ⟨rfl, rfl, rfl, rfl, rfl⟩

theorem State.mailboxKeeps_request (s : State) (cmd : Nat) (slot : TollSlot) (r : List Byte) :
    s.toll.MailboxKeeps (s.request cmd slot r).toll := by
  unfold State.request
  dsimp only
  split_ifs
  · exact .refl _
  · exact s.toll.mailboxKeeps_serveBox _ _ _
  · exact .refl _
  · exact s.toll.mailboxKeeps_serveBox _ _ _

theorem mailboxKeeps_of_request {s t : State} {cmd : Nat} {slot : TollSlot} {r : List Byte}
    (h : Host.Outcome.next (s.request cmd slot r) = (.next t : Host.Outcome State Fault Refusal)) : s.toll.MailboxKeeps t.toll := by
  cases h
  exact s.mailboxKeeps_request cmd slot r

theorem State.mailboxKeeps_ready (s : State) (i : Nat) : s.toll.MailboxKeeps (s.ready i).toll := by
  unfold State.ready
  dsimp only
  rw [Toll.serveBox_eq]
  exact ⟨rfl, rfl, rfl, rfl, rfl⟩

theorem mailboxKeeps_of_smbTollReq {s t : State} {pecOk : Bool} {data : List Byte} (h : exec (.smbTollReq pecOk data) s = .next t) :
    s.toll.MailboxKeeps t.toll := by
  cases h
  split
  · exact .refl _
  · exact s.toll.mailboxKeeps_serveBox _ _ _

theorem mailboxKeeps_of_responseReady {s t : State} (h : exec .tollhouseResponseReady s = .next t) : s.toll.MailboxKeeps t.toll := by
  cases h
  split
  · exact .refl _
  · split
    · exact s.mailboxKeeps_ready 0
    · split
      · exact s.mailboxKeeps_ready 1
      · exact .refl _

/-! ## What a command can do to the Tollhouse -/

/-- The Tollhouse before and after a command: it logs and keeps its seal and all else in the store; or the command is one of the six
that do more, each on its own part of the store. -/
inductive Toll.Step (t u : Toll) : Instr → Prop
  | logged (c : Instr) (h : t.LogsTo u) : Step t u c
  | poweredUp (pin : Bool) (es : List (List Byte)) (hnv : u.nv = ({ t.nv with bootCount := t.nv.bootCount + 1 } : TollNv).appends es) :
      Step t u (.tollhousePowerUp pin)
  | poweredDown (hnv : u.nv = t.nv) : Step t u .tollhousePowerLoss
  | metered (energy : List Nat) (add : Nat → Nat → Nat) (tt : Nat) (hseal : u.unsealed = t.unsealed) (hadd : ∀ ch e, e ≤ add ch e)
      (hnv : u.nv = { t.nv with energy := t.nv.energy.mapIdx add, lastTt := tt, seq := t.nv.seq + 1 }) : Step t u (.periodicReading energy)
  | opened (es : List (List Byte)) (hnv : u.nv = ({ t.nv with unseals := t.nv.unseals + 1 } : TollNv).appends es) : Step t u .unseal
  | closed (es : List (List Byte)) (hnv : u.nv = t.nv.appends es) : Step t u .tollhouseSeal
  | installed (m : List Byte) (selfOk high : Bool) (es : List (List Byte)) (hseal : u.unsealed = t.unsealed) (hopen : t.unsealed = true)
      (hsvn : t.nv.fwSvn ≤ fieldAt m 12 4)
      (hnv : u.nv = { t.nv.appends es with
        fwVersion := fieldAt m 8 4, fwSvn := fieldAt m 12 4, fwDigest := sha256 m, fwUpdates := (t.nv.appends es).fwUpdates + 1 }) :
      Step t u (.tollhouseFwImage m selfOk high)

theorem Toll.Step.refl (t : Toll) (c : Instr) : t.Step t c := .logged c (.refl t)

theorem tollStep_of_powerUp {s t : State} {pin : Bool} (h : exec (.tollhousePowerUp pin) s = .next t) :
    s.toll.Step t.toll (.tollhousePowerUp pin) := by
  cases h
  split
  · exact .refl _ _
  · exact .poweredUp pin [_] rfl

/-- R497, R498: a channel in sense fault adds nothing, another what it integrated. -/
theorem tollStep_of_periodicReading {s t : State} {energy : List Nat} (h : exec (.periodicReading energy) s = .next t) :
    s.toll.Step t.toll (.periodicReading energy) := by
  change execPeriodicReading energy s = .next t at h
  unfold execPeriodicReading at h
  split at h
  · cases h
    refine .metered energy _ _ rfl ?_ rfl
    intro ch e
    split
    · exact Nat.le_refl e
    · exact Nat.le_add_right e _
  · cases h
    exact .refl _ _

theorem tollStep_of_unseal {s t : State} (h : exec .unseal s = .next t) : s.toll.Step t.toll .unseal := by
  rcases toll_of_onToll h with hkept | hrun
  · rw [hkept]
    exact .refl _ _
  · rw [hrun]
    unfold Toll.unseal
    split
    · exact .logged _ (s.toll.logsTo_at _)
    · exact .opened [_] rfl

theorem tollStep_of_tollhouseSeal {s t : State} (h : exec .tollhouseSeal s = .next t) : s.toll.Step t.toll .tollhouseSeal := by
  rcases toll_of_onToll h with hkept | hrun
  · rw [hkept]
    exact .refl _ _
  · rw [hrun]
    unfold Toll.seal
    split
    · exact .closed [_] rfl
    · exact .logged _ (s.toll.logsTo_at _)

/-- R515: an image that passes has an SVN that is not below the store's. -/
theorem TollNv.fwSvn_le_of_imgCheck {v : TollNv} {m : List Byte} {selfCheck pinHigh : Bool} (h : v.imgCheck m selfCheck pinHigh = fwOk) :
    v.fwSvn ≤ fieldAt m 12 4 := by
  by_contra hlow
  unfold TollNv.imgCheck at h
  rw [if_pos (Nat.lt_of_not_le hlow)] at h
  split_ifs at h <;> exact absurd h (by decide)

theorem tollStep_of_fwImage {s t : State} {m : List Byte} {selfOk high : Bool} (h : exec (.tollhouseFwImage m selfOk high) s = .next t) :
    s.toll.Step t.toll (.tollhouseFwImage m selfOk high) := by
  cases h
  unfold State.fwImage
  split
  · exact .refl _ _
  · rename_i hserved
    obtain ⟨-, hopen⟩ : s.toll.running = true ∧ s.toll.unsealed = true := by simpa using hserved
    dsimp only
    unfold Toll.install
    split
    · rename_i hok
      exact .installed m selfOk high [_] rfl hopen (TollNv.fwSvn_le_of_imgCheck hok) rfl
    · exact .logged _ ((s.toll.logsTo_at _).logEvent _ _)

theorem tollStep_of_workCountFrame {s t : State} {f : List Byte} (h : exec (.workCountFrame f) s = .next t) :
    s.toll.Step t.toll (.workCountFrame f) := by
  refine .logged _ (logsTo_of_onToll
    (f := fun u => if frameOk f then u.frame f else { u with workBad := sat32 (u.workBad + 1) }) (fun u => ?_) h)
  split
  · exact u.logsTo_frame f
  · exact .of_nv_eq rfl rfl

/-- What every command can do to the Tollhouse. -/
theorem tollStep_of_exec {c : Instr} {s t : State} (h : exec c s = .next t) : s.toll.Step t.toll c := by
  by_cases hc : tollInput c = false
  · rw [toll_eq_of_not_tollInput hc h]
    exact .refl _ _
  · rcases eq_or_ne c .unseal with rfl | hne
    · exact tollStep_of_unseal h
    · cases c with
      | tollhousePowerUp => exact tollStep_of_powerUp h
      | tollhousePowerLoss => cases h; exact .poweredDown rfl
      | workCountFrame => exact tollStep_of_workCountFrame h
      | workStaleTimeout die => exact .logged _ (logsTo_of_onToll (fun u => u.logsTo_workLost die) h)
      | periodicReading => exact tollStep_of_periodicReading h
      | timeCheck => exact .logged _ (logsTo_of_onToll Toll.logsTo_timeCheck h)
      | senseFault c kind => exact .logged _ (logsTo_of_onToll (fun u => u.logsTo_faultOn c kind) h)
      | senseClear c => exact .logged _ (logsTo_of_onToll (fun u => u.logsTo_faultOff c) h)
      | getReading | getLog | getCert | getStatus => exact .logged _ (mailboxKeeps_of_request h).logsTo
      | tollhouseFwImage => exact tollStep_of_fwImage h
      | tollhouseSeal => exact tollStep_of_tollhouseSeal h
      | tollhouseResponseReady => exact .logged _ (mailboxKeeps_of_responseReady h).logsTo
      | smbTollReq => exact .logged _ (mailboxKeeps_of_smbTollReq h).logsTo
      | _ => contradiction

/-! ## What follows for the store and the seal -/

theorem Toll.Step.energy_eq {t u : Toll} {c : Instr} (h : t.Step u c) (hc : ∀ e, c ≠ .periodicReading e) :
    u.nv.energy = t.nv.energy ∧ u.nv.seq = t.nv.seq ∧ u.nv.lastTt = t.nv.lastTt := by
  cases h with
  | logged _ hlog => obtain ⟨-, es, hnv⟩ := hlog; rw [hnv, TollNv.appends_eq]; exact ⟨rfl, rfl, rfl⟩
  | poweredUp _ es hnv | opened es hnv | closed es hnv => rw [hnv, TollNv.appends_eq]; exact ⟨rfl, rfl, rfl⟩
  | poweredDown hnv => rw [hnv]; exact ⟨rfl, rfl, rfl⟩
  | metered energy => exact absurd rfl (hc energy)
  | installed _ _ _ es _ _ _ hnv => rw [hnv, TollNv.appends_eq]; exact ⟨rfl, rfl, rfl⟩

theorem Toll.Step.firmware_eq {t u : Toll} {c : Instr} (h : t.Step u c)
    (hc : t.unsealed = false ∨ ∀ m a b, c ≠ .tollhouseFwImage m a b) :
    u.nv.fwDigest = t.nv.fwDigest ∧ u.nv.fwVersion = t.nv.fwVersion ∧ u.nv.fwSvn = t.nv.fwSvn ∧ u.nv.fwUpdates = t.nv.fwUpdates := by
  cases h with
  | logged _ hlog => obtain ⟨-, es, hnv⟩ := hlog; rw [hnv, TollNv.appends_eq]; exact ⟨rfl, rfl, rfl, rfl⟩
  | poweredUp _ es hnv | opened es hnv | closed es hnv => rw [hnv, TollNv.appends_eq]; exact ⟨rfl, rfl, rfl, rfl⟩
  | poweredDown hnv => rw [hnv]; exact ⟨rfl, rfl, rfl, rfl⟩
  | metered _ _ _ _ _ hnv => rw [hnv]; exact ⟨rfl, rfl, rfl, rfl⟩
  | installed m a b _ _ hopen =>
    rcases hc with hsealed | hother
    · exact absurd (hsealed.symm.trans hopen) Bool.false_ne_true
    · exact absurd rfl (hother m a b)

theorem Toll.Step.unsealed_eq {t u : Toll} {c : Instr} (h : t.Step u c) (hunseal : c ≠ .unseal) (hseal : c ≠ .tollhouseSeal)
    (hloss : c ≠ .tollhousePowerLoss) (hup : ∀ pin, c ≠ .tollhousePowerUp pin) : u.unsealed = t.unsealed := by
  cases h with
  | logged _ hlog => exact hlog.1
  | poweredUp pin => exact absurd rfl (hup pin)
  | poweredDown => exact absurd rfl hloss
  | metered _ _ _ hkept => exact hkept
  | opened => exact absurd rfl hunseal
  | closed => exact absurd rfl hseal
  | installed _ _ _ _ hkept => exact hkept

/-- R493: a request, and the making of its response, changes nothing that the Tollhouse measures or keeps. -/
theorem mailboxKeeps_of_mailboxCommand {c : Instr} {s t : State} {slot : TollSlot} {r : List Byte}
    (hc : c ∈ [Instr.getReading slot r, .getLog slot r, .getCert slot r, .getStatus slot r, .smbTollReq true r, .tollhouseResponseReady])
    (h : exec c s = .next t) : s.toll.MailboxKeeps t.toll := by
  simp only [List.mem_cons, List.not_mem_nil, or_false] at hc
  rcases hc with rfl | rfl | rfl | rfl | rfl | rfl
  · exact mailboxKeeps_of_request h
  · exact mailboxKeeps_of_request h
  · exact mailboxKeeps_of_request h
  · exact mailboxKeeps_of_request h
  · exact mailboxKeeps_of_smbTollReq h
  · exact mailboxKeeps_of_responseReady h

/-! ## What has been counted never falls (R498, R503, R506, R512, R515) -/

/-- No count of a store is above that of another. -/
def TollNv.CountsUpTo (v w : TollNv) : Prop :=
  (∀ ch, v.energy.getD ch 0 ≤ w.energy.getD ch 0) ∧ v.seq ≤ w.seq ∧ v.logSeq ≤ w.logSeq ∧ v.bootCount ≤ w.bootCount ∧
    v.unseals ≤ w.unseals ∧ v.fwUpdates ≤ w.fwUpdates ∧ v.fwSvn ≤ w.fwSvn

theorem TollNv.CountsUpTo.refl (v : TollNv) : v.CountsUpTo v :=
  ⟨fun _ => le_rfl, le_rfl, le_rfl, le_rfl, le_rfl, le_rfl, le_rfl⟩

/-- Logging raises the log's sequence and no other count. -/
theorem TollNv.CountsUpTo.appends {v w : TollNv} (h : v.CountsUpTo w) (es : List (List Byte)) : v.CountsUpTo (w.appends es) := by
  obtain ⟨henergy, hseq, hlog, hrest⟩ := h
  rw [TollNv.appends_eq]
  exact ⟨henergy, hseq, hlog.trans (Nat.le_add_right _ _), hrest⟩

theorem getD_le_getD_mapIdx {add : Nat → Nat → Nat} (hadd : ∀ ch e, e ≤ add ch e) (energy : List Nat) (ch : Nat) :
    energy.getD ch 0 ≤ (energy.mapIdx add).getD ch 0 := by
  simp only [List.getD_eq_getElem?_getD, List.getElem?_mapIdx]
  cases energy[ch]? with
  | none => exact le_rfl
  | some e => exact hadd ch e

theorem Toll.Step.countsUpTo {t u : Toll} {c : Instr} (h : t.Step u c) : t.nv.CountsUpTo u.nv := by
  cases h with
  | logged _ hlog => obtain ⟨-, es, hnv⟩ := hlog; rw [hnv]; exact (TollNv.CountsUpTo.refl _).appends es
  | poweredUp _ es hnv =>
    have hboot : t.nv.CountsUpTo { t.nv with bootCount := t.nv.bootCount + 1 } :=
      ⟨fun _ => le_rfl, le_rfl, le_rfl, Nat.le_succ _, le_rfl, le_rfl, le_rfl⟩
    rw [hnv]
    exact hboot.appends es
  | poweredDown hnv => rw [hnv]; exact .refl _
  | metered _ add _ _ hadd hnv =>
    rw [hnv]
    exact ⟨getD_le_getD_mapIdx hadd t.nv.energy, Nat.le_succ _, le_rfl, le_rfl, le_rfl, le_rfl, le_rfl⟩
  | opened es hnv =>
    have hunseal : t.nv.CountsUpTo { t.nv with unseals := t.nv.unseals + 1 } :=
      ⟨fun _ => le_rfl, le_rfl, le_rfl, le_rfl, Nat.le_succ _, le_rfl, le_rfl⟩
    rw [hnv]
    exact hunseal.appends es
  | closed es hnv => rw [hnv]; exact (TollNv.CountsUpTo.refl _).appends es
  | installed m _ _ es _ _ hsvn hnv =>
    obtain ⟨henergy, hseq, hlog, hboot, hunseals, hupdates, -⟩ := (TollNv.CountsUpTo.refl t.nv).appends es
    rw [hnv]
    exact ⟨henergy, hseq, hlog, hboot, hunseals, hupdates.trans (Nat.le_succ _), hsvn⟩

/-- Settles O49: a command that is no input of the Tollhouse leaves it alone; what an input can do to it is `Toll.Step`, of which every
case keeps the seal, the firmware and the energy but for its own part, and lowers no count. -/
theorem tollhouseIsIsolated : Obligations.TollhouseIsIsolated := by
  refine ⟨fun c s t h => ⟨fun hc => toll_eq_of_not_tollInput hc h, (tollStep_of_exec h).energy_eq, (tollStep_of_exec h).firmware_eq,
    (tollStep_of_exec h).unsealed_eq, ?_⟩, fun c s t h => (tollStep_of_exec h).countsUpTo⟩
  intro slot r hc
  obtain ⟨hnv, -, hreadings, htime, hwork⟩ := mailboxKeeps_of_mailboxCommand hc h
  exact ⟨hnv, hreadings, htime, hwork⟩

end Sys2Proof.Machine
end

section
/-! The physical bounds (R29 to R34, R533): the largest of bounds, what each row measures as time passes, and the end of an HBM
streaming interval. -/

namespace Sys2Proof.Machine

open Sys2Proof

/-! ## The largest of bounds -/

/-- A bound among others, or zero where there is none, that no other exceeds as a fraction. -/
def Bound.LargestOf (b : Bound) (bs : List Bound) : Prop := (b ∈ bs ∨ b = ⟨0, 1⟩) ∧ ∀ x ∈ bs, x.num * b.den ≤ b.num * x.den

/-- Fractions compared by cross products are in order through one whose denominator is not 0. -/
theorem Bound.cross_le_trans {a b c : Bound} (hb : 0 < b.den) (hab : a.num * b.den ≤ b.num * a.den)
    (hbc : b.num * c.den ≤ c.num * b.den) : a.num * c.den ≤ c.num * a.den := by
  refine Nat.le_of_mul_le_mul_right ?_ hb
  calc a.num * c.den * b.den = a.num * b.den * c.den := by ring
    _ ≤ b.num * a.den * c.den := Nat.mul_le_mul_right _ hab
    _ = b.num * c.den * a.den := by ring
    _ ≤ c.num * b.den * a.den := Nat.mul_le_mul_right _ hbc
    _ = c.num * a.den * b.den := by ring

theorem Bound.max_eq_or (a b : Bound) : a.max b = a ∨ a.max b = b := by
  unfold Bound.max
  split
  · exact .inr rfl
  · exact .inl rfl

theorem Bound.cross_le_max_left (a b : Bound) : a.num * (a.max b).den ≤ (a.max b).num * a.den := by
  unfold Bound.max
  split_ifs with hless
  · exact Nat.le_of_lt hless
  · exact le_rfl

theorem Bound.cross_le_max_right (a b : Bound) : b.num * (a.max b).den ≤ (a.max b).num * b.den := by
  unfold Bound.max
  split_ifs with hless
  · exact le_rfl
  · exact Nat.le_of_not_lt hless

/-- The fold of `Bound.max` is one of the bounds it runs over, and none of them exceeds it. -/
theorem Bound.foldl_max_spec (a : Bound) (bs : List Bound) (hpos : ∀ x ∈ a :: bs, 0 < x.den) :
    bs.foldl Bound.max a ∈ a :: bs ∧ ∀ x ∈ a :: bs, x.num * (bs.foldl Bound.max a).den ≤ (bs.foldl Bound.max a).num * x.den := by
  induction bs generalizing a with
  | nil => simp
  | cons y ys ih =>
    have hmax : a.max y ∈ [a, y] := by simpa using a.max_eq_or y
    have hmaxpos : 0 < (a.max y).den := hpos _ (by simp only [List.mem_cons, List.not_mem_nil, or_false] at hmax ⊢; tauto)
    obtain ⟨hmem, hle⟩ := ih (a.max y) fun x hx => by
      rcases List.mem_cons.1 hx with rfl | hx
      · exact hmaxpos
      · exact hpos x (by simp [hx])
    have hle_max := hle (a.max y) List.mem_cons_self
    rw [List.foldl_cons]
    refine ⟨?_, fun x hx => ?_⟩
    · simp only [List.mem_cons, List.not_mem_nil, or_false] at hmem hmax ⊢
      rcases hmem with heq | htail
      · rcases hmax with ha | hy
        · exact .inl (heq.trans ha)
        · exact .inr (.inl (heq.trans hy))
      · exact .inr (.inr htail)
    · rcases List.mem_cons.1 hx with rfl | hx
      · exact Bound.cross_le_trans hmaxpos (Bound.cross_le_max_left x y) hle_max
      · rcases List.mem_cons.1 hx with rfl | hx
        · exact Bound.cross_le_trans hmaxpos (Bound.cross_le_max_right a x) hle_max
        · exact hle x (List.mem_cons_of_mem _ hx)

theorem largestBound_largestOf {bs : List Bound} (hpos : ∀ x ∈ bs, 0 < x.den) : (largestBound bs).LargestOf bs := by
  have hall : ∀ x ∈ (⟨0, 1⟩ : Bound) :: bs, 0 < x.den := fun x hx => by
    rcases List.mem_cons.1 hx with rfl | hx
    · exact Nat.one_pos
    · exact hpos x hx
  obtain ⟨hmem, hle⟩ := Bound.foldl_max_spec ⟨0, 1⟩ bs hall
  exact ⟨(List.mem_cons.1 hmem).symm, fun x hx => hle x (List.mem_cons_of_mem _ hx)⟩

theorem largestBound_map_largestOf {α : Type} {f : α → Bound} (hpos : ∀ x, 0 < (f x).den) (xs : List α) :
    (largestBound (xs.map f)).LargestOf (xs.map f) := by
  refine largestBound_largestOf fun b hb => ?_
  obtain ⟨x, -, rfl⟩ := List.mem_map.1 hb
  exact hpos x

/-! ## The bound of a workload (R29, R33) -/

theorem tsvBound_of_pos (bytes : Nat) {len : Nat} (cd : Nat) (hlen : 0 < len) :
    tsvBound bytes len cd = ⟨bytes * len, 4096 * len - min (2048 * len) cd⟩ := by
  unfold tsvBound
  rw [if_neg (by omega)]

/-- Of 4.096 TB/s the compute die takes at most half, so that something is always left. -/
theorem tsvBound_den_pos (bytes len cd : Nat) : 0 < (tsvBound bytes len cd).den := by
  rcases Nat.eq_zero_or_pos len with rfl | hlen
  · exact (by decide : 0 < 4096)
  · rw [tsvBound_of_pos _ _ hlen]
    dsimp only
    omega

theorem Counters.boundOf_dense (c : Counters) (ns : Nat) {t : Track} (hrow : t.row = 0) : c.boundOf ns t = ⟨lookNat 0 t.moved, 16384⟩ := by
  simp only [Counters.boundOf, hrow]

theorem Counters.boundOf_exchange_largest (c : Counters) (ns : Nat) {t : Track} (hrow : t.row = 2) :
    (c.boundOf ns t).LargestOf (t.moved.map fun m => ⟨m.2, 100⟩) := by
  simp only [Counters.boundOf, hrow]
  exact largestBound_map_largestOf (fun _ => Nat.succ_pos _) _

theorem Counters.boundOf_pass_largest (c : Counters) (ns : Nat) {t : Track} (hrow : t.row = 3) :
    (c.boundOf ns t).LargestOf (t.moved.map fun m => tsvBound m.2 (ns - t.began) (c.cdBytes m.1 - t.base.getD m.1 0)) := by
  simp only [Counters.boundOf, hrow]
  exact largestBound_map_largestOf (fun _ => tsvBound_den_pos _ _ _) _

theorem Counters.streamBound_largest (c : Counters) : c.streamBound.LargestOf (c.perStack.map fun x => ⟨x.rd + x.wr, 2048⟩) :=
  largestBound_map_largestOf (fun _ => Nat.succ_pos _) _

/-! ## The measure of a workload as time passes (R30, R31): its row and the idle cause of its unit decide among four ways -/

theorem Dev.trackAfter_of_dense_stall (d : Dev) (causes : List (Nat × Nat)) (dt ns : Nat) {t : Track} (hrow : t.row = 0)
    (hcause : lookNat t.unit causes = 6) :
    d.trackAfter causes dt ns t = { t with achieved := t.achieved + Config.stepsIn t.key d.now dt } := by
  simp only [Dev.trackAfter, hrow, hcause, if_true]

theorem Dev.trackAfter_of_dense (d : Dev) (causes : List (Nat × Nat)) (dt ns : Nat) {t : Track} (hrow : t.row = 0)
    (hcause : lookNat t.unit causes ≠ 6) : d.trackAfter causes dt ns t = t := by
  simp only [Dev.trackAfter, hrow, hcause, if_true, if_false]

theorem Dev.trackAfter_of_excluded (d : Dev) (causes : List (Nat × Nat)) (dt ns : Nat) {t : Track} (hrow : t.row ≠ 0)
    (hcause : lookNat t.unit causes ∈ excludedCauses) :
    d.trackAfter causes dt ns t = { t with ok := (d.trackAfter causes dt ns t).ok } ∧
    ((d.trackAfter causes dt ns t).ok = true → t.ok = true) := by
  unfold Dev.trackAfter
  rw [if_neg hrow, if_pos (List.contains_iff_mem.2 hcause)]
  exact ⟨rfl, fun h => (Bool.and_eq_true_iff.1 h).1⟩

theorem Dev.trackAfter_of_counted (d : Dev) (causes : List (Nat × Nat)) (dt ns : Nat) {t : Track} (hrow : t.row ≠ 0)
    (hcause : lookNat t.unit causes ∉ excludedCauses) : d.trackAfter causes dt ns t = { t with achieved := t.achieved + ns } := by
  unfold Dev.trackAfter
  rw [if_neg hrow, if_neg (mt List.contains_iff_mem.1 hcause)]

/-- A time changes what a track has achieved and whether it is covered, and never makes it covered again. -/
theorem Dev.trackAfter_frame (d : Dev) (causes : List (Nat × Nat)) (dt ns : Nat) (t : Track) :
    d.trackAfter causes dt ns t =
      { t with achieved := (d.trackAfter causes dt ns t).achieved, ok := (d.trackAfter causes dt ns t).ok } ∧
    ((d.trackAfter causes dt ns t).ok = true → t.ok = true) := by
  by_cases hrow : t.row = 0
  · by_cases hcause : lookNat t.unit causes = 6
    · rw [d.trackAfter_of_dense_stall _ _ _ hrow hcause]
      exact ⟨rfl, id⟩
    · rw [d.trackAfter_of_dense _ _ _ hrow hcause]
      exact ⟨rfl, id⟩
  · by_cases hcause : lookNat t.unit causes ∈ excludedCauses
    · obtain ⟨heq, hok⟩ := d.trackAfter_of_excluded causes dt ns hrow hcause
      exact ⟨by rw [heq], hok⟩
    · rw [d.trackAfter_of_counted _ _ _ hrow hcause]
      exact ⟨rfl, id⟩

theorem Dev.trackAfter_achieved_of_excluded (d : Dev) (causes : List (Nat × Nat)) (dt ns : Nat) {t : Track} (hrow : t.row ≠ 0)
    (hcause : lookNat t.unit causes ∈ excludedCauses) : (d.trackAfter causes dt ns t).achieved = t.achieved := by
  rw [(d.trackAfter_of_excluded causes dt ns hrow hcause).1]

/-! ## Coverage (R32) -/

theorem Dev.ok_of_covers {d : Dev} {t : Track} (h : d.covers t = true) : t.ok = true := (Bool.and_eq_true_iff.1 h).1

theorem Dev.parts_of_covers {d : Dev} {t : Track} (h : d.covers t = true) (hrow : t.row = 0) : 16 ≤ t.parts := by
  simp only [Dev.covers, hrow, Bool.and_eq_true, decide_eq_true_eq] at h
  exact h.2

theorem Dev.moved_of_covers {d : Dev} {t : Track} (h : d.covers t = true) (hrow : t.row = 2) {p : Nat} (hp : p ∈ presentPorts d.grade) :
    65536 ≤ lookNat (2 * p) t.moved ∧ 65536 ≤ lookNat (2 * p + 1) t.moved := by
  simp only [Dev.covers, hrow, Bool.and_eq_true, List.all_eq_true] at h
  obtain ⟨-, hports⟩ := h
  simpa using hports p hp

/-! ## A workload that retires (R533) -/

theorem BoundRow.retire_achieved (r : BoundRow) (row achieved : Nat) (b : Bound) (covered : Bool) :
    (r.retire row achieved b covered).achieved = achieved := by
  cases covered <;> rfl

theorem BoundRow.retire_lastRatio (r : BoundRow) (row achieved : Nat) (b : Bound) (covered : Bool) :
    (r.retire row achieved b covered).lastRatio = boundRatio achieved b := by
  cases covered <;> rfl

/-- The bound rows after a workload retires: its row's, where the table has one. -/
def retiredRows (bounds : List BoundRow) (row achieved : Nat) (b : Bound) (covered : Bool) : List BoundRow :=
  (bounds[row]?).elim bounds fun r => bounds.set row (r.retire row achieved b covered)

/-- Of the counters a retirement changes the bound rows alone. -/
theorem Dev.retireWork_ct (d : Dev) (row achieved : Nat) (b : Bound) (covered : Bool) :
    (d.retireWork row achieved b covered).ct = { d.ct with bounds := retiredRows d.ct.bounds row achieved b covered } := by
  unfold Dev.retireWork retiredRows
  cases d.ct.bounds[row]? with
  | none => rfl
  | some r => exact (apply_ite Dev.ct _ _ _).trans (by rw [Dev.detect_ct]; exact ite_self _)

theorem Dev.retireTrack_tracks {d : Dev} {row key : Nat} {t : Track} (h : d.track? row key = some t) :
    (d.retireTrack row key).ct.tracks = d.ct.tracks.filter fun x => !x.is row key := by
  unfold Dev.retireTrack
  rw [h]
  dsimp only
  rw [Dev.retireWork_ct]

theorem Dev.retireTrack_bounds {d : Dev} {row key : Nat} {t : Track} (h : d.track? row key = some t) :
    (d.retireTrack row key).ct.bounds = (d.retireWork row t.achieved (d.ct.boundOf d.tm.ns t) (d.covers t)).ct.bounds := by
  unfold Dev.retireTrack
  rw [h]
  dsimp only
  rw [Dev.retireWork_ct, Dev.retireWork_ct]
  rfl

/-! ## An HBM streaming interval (R533) -/

/-- The counters at the end of an interval in which something moved: row 1 retires, and every stack begins anew. -/
theorem Dev.streamEnd_ct {d : Dev} {t0 : Nat} (h : d.ct.hbmFirst = some t0) :
    d.streamEnd.ct = { d.ct with
      bounds := retiredRows d.ct.bounds 1 (d.ct.hbmLast - t0) d.ct.streamBound (d.ct.perStack.all StackUse.streams),
      perStack := d.ct.perStack.map StackUse.nextInterval, hbmFirst := none } := by
  unfold Dev.streamEnd
  rw [h]
  dsimp only
  rw [Dev.retireWork_ct]

theorem Dev.streamEnd_tracks (d : Dev) : d.streamEnd.ct.tracks = d.ct.tracks := by
  cases h : d.ct.hbmFirst with
  | none => unfold Dev.streamEnd; rw [h]
  | some t0 => rw [Dev.streamEnd_ct h]

theorem Dev.streamRoll_of_same {d : Dev} {before : Nat} (h : before / 100000 = d.tm.ns / 100000) : d.streamRoll before = d := if_pos h

theorem Dev.streamRoll_of_ended {d : Dev} {before : Nat} (h : before / 100000 ≠ d.tm.ns / 100000) :
    d.streamRoll before = d.streamEnd := if_neg h

theorem Dev.streamRoll_tracks (d : Dev) (before : Nat) : (d.streamRoll before).ct.tracks = d.ct.tracks := by
  by_cases h : before / 100000 = d.tm.ns / 100000
  · rw [Dev.streamRoll_of_same h]
  · rw [Dev.streamRoll_of_ended h, Dev.streamEnd_tracks]

/-! ## Time that passes -/

/-- The idle counters and the tracks move with time; the rest of the counter block stands until an interval ends. -/
theorem Dev.countersAfter_eq (d : Dev) (dt : Nat) :
    d.countersAfter dt = { d.ct with live := (d.countersAfter dt).live, tracks := (d.countersAfter dt).tracks } := by
  unfold Dev.countersAfter
  split <;> rfl

/-- A time that passes ends with the streaming interval rolled, on a device whose counters and time counter have moved. -/
theorem Dev.advance_as_streamRoll (d : Dev) {dt : Nat} (hdt : 0 < dt) :
    ∃ e : Dev, d.advance dt = e.streamRoll d.tm.ns ∧ e.ct = d.countersAfter dt ∧ e.tm = d.tm.after d.now dt :=
  ⟨_, if_neg (Nat.ne_of_gt hdt), rfl, rfl⟩

theorem Dev.advance_tracks {d : Dev} {dt : Nat} (hdt : 0 < dt) (hawake : d.pw.state = 0) :
    (d.advance dt).ct.tracks = (d.ct.tracks.filter d.inProgress).map (d.trackAfter d.causes dt ((d.advance dt).tm.ns - d.tm.ns)) := by
  obtain ⟨e, hroll, hct, htm⟩ := d.advance_as_streamRoll hdt
  rw [hroll, Dev.streamRoll_tracks, Dev.streamRoll_tm, hct, htm]
  unfold Dev.countersAfter
  rw [if_pos hawake]
  rfl

theorem Dev.advance_within_interval {d : Dev} {dt : Nat} (hdt : 0 < dt) (hsame : d.tm.ns / 100000 = (d.advance dt).tm.ns / 100000) :
    (d.advance dt).ct.hbmFirst = d.ct.hbmFirst ∧ (d.advance dt).ct.bounds = d.ct.bounds := by
  obtain ⟨e, hroll, hct, -⟩ := d.advance_as_streamRoll hdt
  rw [hroll, Dev.streamRoll_tm] at hsame
  rw [hroll, Dev.streamRoll_of_same hsame, hct, Dev.countersAfter_eq]
  exact ⟨rfl, rfl⟩

/-- A time past a multiple of 100 µs ends the interval that had begun, with its bound as the stacks stood. -/
theorem Dev.advance_past_interval {d : Dev} {dt t0 : Nat} (hdt : 0 < dt) (hfirst : d.ct.hbmFirst = some t0)
    (hended : d.tm.ns / 100000 ≠ (d.advance dt).tm.ns / 100000) :
    (d.advance dt).ct.hbmFirst = none ∧ (d.advance dt).ct.perStack = d.ct.perStack.map StackUse.nextInterval ∧
    (d.advance dt).ct.bounds =
      retiredRows d.ct.bounds 1 (d.ct.hbmLast - t0) d.ct.streamBound (d.ct.perStack.all StackUse.streams) := by
  obtain ⟨e, hroll, hct, -⟩ := d.advance_as_streamRoll hdt
  rw [hroll, Dev.streamRoll_tm] at hended
  rw [Dev.countersAfter_eq] at hct
  have hbegun : e.ct.hbmFirst = some t0 := by rw [hct]; exact hfirst
  rw [hroll, Dev.streamRoll_of_ended hended, Dev.streamEnd_ct hbegun, hct]
  exact ⟨rfl, rfl, rfl⟩

/-- Settles O57: bounds are largest fractions with denominators that are not 0, a track goes through time by its row and its unit's
cause, and time rolls the streaming interval at each multiple of 100 µs. -/
theorem boundsAreMeasured : Obligations.BoundsAreMeasured := by
  refine ⟨fun c ns t => ⟨c.boundOf_dense ns, c.boundOf_exchange_largest ns, c.boundOf_pass_largest ns, c.streamBound_largest⟩,
    fun bytes len cd hlen => ?tsv, fun d dt hdt hawake => Dev.advance_tracks hdt hawake, fun d causes dt ns t => ?measure,
    fun d t h => ⟨Dev.ok_of_covers h, Dev.parts_of_covers h, fun hrow p hp => Dev.moved_of_covers h hrow hp⟩,
    fun d row key t h => ⟨Dev.retireTrack_tracks h, Dev.retireTrack_bounds h⟩,
    fun d dt t0 r hdt hfirst hrow => ⟨fun hsame => ?within, fun hended => ?past⟩⟩
  case tsv =>
    rw [tsvBound_of_pos _ _ hlen]
    dsimp only
    refine ⟨rfl, ?_, ?_⟩ <;> omega
  case measure =>
    obtain ⟨hframe, hok⟩ := d.trackAfter_frame causes dt ns t
    exact ⟨hframe, hok, d.trackAfter_of_dense causes dt ns,
      fun hrow => ⟨d.trackAfter_achieved_of_excluded causes dt ns hrow, d.trackAfter_of_counted causes dt ns hrow⟩⟩
  case within =>
    obtain ⟨hkept, hbounds⟩ := Dev.advance_within_interval hdt hsame
    exact ⟨hkept.trans hfirst, hbounds⟩
  case past =>
    obtain ⟨hnone, hstacks, hbounds⟩ := Dev.advance_past_interval hdt hfirst hended
    rw [retiredRows, hrow] at hbounds
    refine ⟨hnone, fun x hx => ?_, _, hbounds, BoundRow.retire_achieved r 1 _ _ _, BoundRow.retire_lastRatio r 1 _ _ _⟩
    rw [hstacks] at hx
    obtain ⟨y, -, rfl⟩ := List.mem_map.1 hx
    exact ⟨rfl, rfl, rfl⟩

end Sys2Proof.Machine
end

section
/-! Layouts: numbers to bytes and back (R13), and the fields of the tile header (R59), the token tag (R187), the buffer handle (R346) and
the scale-table entry (R154). Adjacent cuts of a word join to the word, and the fields of a concatenation are fixed by it: so packing
and unpacking undo each other. -/

namespace Sys2Proof.Machine

open Sys2Proof

/-! ## Numbers and bytes (R13) -/

theorem leNat_leBytes (n v : Nat) : leNat (leBytes n v) = v % 256 ^ n := by
  induction n generalizing v with
  | zero => simp [leBytes, leNat, Nat.mod_one]
  | succ n ih =>
    rw [leBytes, leNat, ih, Nat.shiftRight_eq_div_pow, Nat.pow_succ' (m := 256), Nat.mod_mul]
    rfl

/-- A word of whole bytes is the number that its bytes spell. -/
theorem ofNat_leNat_leBytes (n : Nat) (w : BitVec (8 * n)) : BitVec.ofNat (8 * n) (leNat (leBytes n w.toNat)) = w := by
  rw [leNat_leBytes, show (256 : Nat) = 2 ^ 8 from rfl, ← Nat.pow_mul, Nat.mod_eq_of_lt w.isLt, BitVec.ofNat_toNat, BitVec.setWidth_eq]

/-! ## Concatenations -/

/-- The two parts of a concatenation are fixed by it. -/
theorem append_eq_append_iff {v w : Nat} {a b : BitVec v} {c d : BitVec w} : a ++ c = b ++ d ↔ a = b ∧ c = d := by
  refine ⟨fun h => ⟨?_, ?_⟩, fun ⟨hhi, hlo⟩ => by rw [hhi, hlo]⟩
  · rw [← BitVec.extractLsb'_append_eq_left (a := a) (b := c), h, BitVec.extractLsb'_append_eq_left]
  · rw [← BitVec.extractLsb'_append_eq_right (a := a) (b := c), h, BitVec.extractLsb'_append_eq_right]

/-! ## The tile header (R59) -/

theorem packHdr_unpackHdr (b : BitVec 256) : packHdr (unpackHdr b) = b := by
  unfold packHdr unpackHdr
  dsimp only
  iterate 15 rw [BitVec.extractLsb'_append_extractLsb'_eq_extractLsb' (by rfl)]
  exact BitVec.extractLsb'_eq_self

theorem packHdr_injective : Function.Injective packHdr := by
  intro h k hpack
  have hparts := append_eq_append_iff.1 hpack
  simp only [append_eq_append_iff] at hparts
  cases h; cases k
  simp_all

theorem unpackHdr_packHdr (h : Hdr) : unpackHdr (packHdr h) = h :=
  Function.LeftInverse.rightInverse_of_injective packHdr_unpackHdr packHdr_injective h

/-- The header of a tile is read from its first 32 bytes alone. -/
theorem tileHdr_append (w : BitVec 256) (payload : List Byte) : tileHdr (leBytes 32 w.toNat ++ payload) = unpackHdr w := by
  rw [tileHdr, List.take_left' (length_leBytes 32 _)]
  exact congrArg unpackHdr (ofNat_leNat_leBytes 32 w)

/-! ## The token tag (R187) -/

theorem packTag_unpackTag (w : Word64) : packTag (unpackTag w) = w := by
  unfold packTag unpackTag
  dsimp only
  iterate 8 rw [BitVec.extractLsb'_append_extractLsb'_eq_extractLsb' (by rfl)]
  exact BitVec.extractLsb'_eq_self

theorem packTag_injective : Function.Injective packTag := by
  intro t u hpack
  have hparts := append_eq_append_iff.1 hpack
  simp only [append_eq_append_iff] at hparts
  cases t; cases u
  simp_all

theorem unpackTag_packTag (t : Tag) : unpackTag (packTag t) = t :=
  Function.LeftInverse.rightInverse_of_injective packTag_unpackTag packTag_injective t

/-! ## The buffer handle (R346) -/

theorem packHandle_unpackHandle (w : Word64) : packHandle (unpackHandle w) = w := by
  unfold packHandle unpackHandle
  dsimp only
  iterate 7 rw [BitVec.extractLsb'_append_extractLsb'_eq_extractLsb' (by rfl)]
  exact BitVec.extractLsb'_eq_self

theorem packHandle_injective : Function.Injective packHandle := by
  intro h k hpack
  have hparts := append_eq_append_iff.1 hpack
  simp only [append_eq_append_iff] at hparts
  cases h; cases k
  simp_all

theorem unpackHandle_packHandle (h : Handle) : unpackHandle (packHandle h) = h :=
  Function.LeftInverse.rightInverse_of_injective packHandle_unpackHandle packHandle_injective h

/-! ## The scale-table entry (R154) -/

theorem packEntry_unpackEntry (b : BitVec 512) : packEntry (unpackEntry b) = b := by
  unfold packEntry unpackEntry
  dsimp only
  iterate 26 rw [BitVec.extractLsb'_append_extractLsb'_eq_extractLsb' (by rfl)]
  exact BitVec.extractLsb'_eq_self

theorem packEntry_injective : Function.Injective packEntry := by
  intro e f hpack
  have hparts := append_eq_append_iff.1 hpack
  simp only [append_eq_append_iff] at hparts
  cases e; cases f
  simp_all

theorem unpackEntry_packEntry (e : ScaleEntry) : unpackEntry (packEntry e) = e :=
  Function.LeftInverse.rightInverse_of_injective packEntry_unpackEntry packEntry_injective e

@[simp] theorem entryOf_entryBytes (e : ScaleEntry) : entryOf (entryBytes e) = e :=
  (congrArg unpackEntry (ofNat_leNat_leBytes 64 (packEntry e))).trans (unpackEntry_packEntry e)

@[simp] theorem length_entryBytes (e : ScaleEntry) : (entryBytes e).length = 64 := length_leBytes 64 _

/-- Settles O5: packing and unpacking undo each other in each of the four layouts, and bytes spell their number modulo its range. -/
theorem layoutsRoundTrip : Obligations.LayoutsRoundTrip :=
  ⟨fun h payload => (tileHdr_append (packHdr h) payload).trans (unpackHdr_packHdr h), packHdr_unpackHdr,
    unpackTag_packTag, packTag_unpackTag, unpackHandle_packHandle, packHandle_unpackHandle,
    fun e => ⟨entryOf_entryBytes e, length_entryBytes e⟩, leNat_leBytes, by decide⟩

end Sys2Proof.Machine
end

section
/-! The checksum of a tile (R62): its loop, the CRC field, sealed and torn tiles (R63 to R65), and the codes of the small formats. -/

namespace Sys2Proof.Machine

open Sys2Proof

/-! ## The CRC-32C loop (R62) -/

theorem crcByte_eq_foldl (c : Nat) (x : Byte) : crcByte c x = (List.range 8).foldl (fun c _ => crcBit c) (c ^^^ x.toNat) := by
  simp only [crcByte, show List.range 8 = [0, 1, 2, 3, 4, 5, 6, 7] from rfl, List.foldl_cons, List.foldl_nil]

theorem crcBit_lt {c : Nat} (h : c < 2 ^ 32) : crcBit c < 2 ^ 32 := by
  have hshift : c >>> 1 < 2 ^ 32 := by rw [Nat.shiftRight_eq_div_pow]; omega
  unfold crcBit
  split
  · exact Nat.xor_lt_two_pow hshift (by decide)
  · exact hshift

theorem crcByte_lt {c : Nat} (h : c < 2 ^ 32) (x : Byte) : crcByte c x < 2 ^ 32 := by
  have hx : x.toNat < 2 ^ 32 := Nat.lt_trans x.isLt (by decide)
  rw [crcByte_eq_foldl]
  generalize List.range 8 = steps
  have hstart : c ^^^ x.toNat < 2 ^ 32 := Nat.xor_lt_two_pow h hx
  revert hstart
  generalize c ^^^ x.toNat = start
  induction steps generalizing start with
  | nil => exact id
  | cons _ steps ih => exact fun hstart => ih _ (crcBit_lt hstart)

theorem crc32c_lt (bs : List Byte) : crc32c bs < 2 ^ 32 := by
  have hloop : ∀ c < 2 ^ 32, bs.foldl crcByte c < 2 ^ 32 := by
    induction bs with
    | nil => exact fun c h => h
    | cons b bs ih => exact fun c h => ih _ (crcByte_lt h b)
  exact Nat.xor_lt_two_pow (hloop _ (by decide)) (by decide)

theorem tileCrc_lt (t : List Byte) : tileCrc t < 2 ^ 32 := crc32c_lt _

/-! ## The CRC field of a tile (R59) -/

section
variable {t : List Byte} (ht : 32 ≤ t.length) (c : Nat)
include ht

theorem take_setCrc : (setCrc t c).take 16 = t.take 16 := by
  rw [setCrc, List.append_assoc]
  exact List.take_left' (by simp; omega)

theorem length_take_append_crc : (t.take 16 ++ leBytes 4 c).length = 20 := by
  rw [List.length_append, List.length_take, length_leBytes]
  omega

theorem drop_setCrc : (setCrc t c).drop 20 = t.drop 20 := List.drop_left' (length_take_append_crc ht c)

theorem length_setCrc : (setCrc t c).length = t.length := by
  rw [setCrc, List.length_append, length_take_append_crc ht c, List.length_drop]
  omega

/-- The checksum does not depend on the field that holds it (R62). -/
theorem tileCrc_setCrc : tileCrc (setCrc t c) = tileCrc t := by
  rw [tileCrc, take_setCrc ht, drop_setCrc ht, tileCrc]

theorem storedCrc_setCrc (hc : c < 2 ^ 32) : storedCrc (setCrc t c) = c := by
  have hfield : slice (setCrc t c) 16 4 = leBytes 4 c := by
    have hlen : (t.take 16).length = 16 := by rw [List.length_take]; omega
    rw [slice, setCrc, List.append_assoc, List.drop_left' hlen, List.take_left' (length_leBytes 4 c), length_leBytes]
    exact List.append_nil _
  rw [storedCrc, fieldAt, hfield, leNat_leBytes]
  exact Nat.mod_eq_of_lt hc

theorem getD_setCrc_outside {i : Nat} (hi : i < 16 ∨ 20 ≤ i) : (setCrc t c).getD i 0 = t.getD i 0 := by
  simp only [List.getD_eq_getElem?_getD]
  rcases hi with hi | hi
  · rw [← List.getElem?_take_of_lt hi, take_setCrc ht, List.getElem?_take_of_lt hi]
  · obtain ⟨j, rfl⟩ := Nat.exists_eq_add_of_le hi
    rw [← List.getElem?_drop, drop_setCrc ht, List.getElem?_drop]

/-- The kind of a tile with a CRC field, by what the field holds (R65). -/
theorem crcKind_setCrc (hc : c < 2 ^ 32) :
    crcKind (setCrc t c) = if c = tileCrc t then .ok else if c = 0xFFFFFFFF - tileCrc t then .torn else .corrupt := by
  rw [crcKind, tileCrc_setCrc ht, storedCrc_setCrc ht c hc]

theorem crcKind_sealTile : crcKind (sealTile t) = .ok := by
  rw [sealTile, crcKind_setCrc ht _ (tileCrc_lt t), if_pos rfl]

/-- A checksum and its complement differ in bit 0, so that the torn mark is never a good checksum (R64). -/
theorem crcKind_tearTile : crcKind (tearTile t) = .torn := by
  have hcrc := tileCrc_lt t
  rw [tearTile, crcKind_setCrc ht _ (by omega), if_neg (by omega), if_pos rfl]

end

/-! ## Codes of the small formats (R40, R41) -/

/-- A finite code of an 8-bit or smaller format is what its own value rounds to. -/
theorem encodeElem_decodeElem_small : ∀ f ∈ [Fmt.fp4, .e4m3, .e5m2, .int8], ∀ c < 2 ^ fmtBits f,
    (decodeElem f c).isFinite = true → (encodeElem f .nearest (decodeElem f c)).code = c := by
  decide +kernel

/-- Settles O4: the loop of R62 bit by bit, the CRC field of a sealed tile, and the manual's vectors by evaluation. -/
theorem checksumAndFormatVectors : Obligations.ChecksumAndFormatVectors := by
  refine ⟨fun bs => ?loop, fun t ht => ⟨rfl, crcKind_sealTile ht⟩, ?_, ?_, ?_, ?_, ?_, ?_, ?_, encodeElem_decodeElem_small⟩
  case loop =>
    exact congrArg (fun step => bs.foldl step 0xFFFFFFFF ^^^ 0xFFFFFFFF) (funext fun c => funext fun x => crcByte_eq_foldl c x)
  all_goals decide +kernel

end Sys2Proof.Machine
end

section
/-! Tile bytes (R37, R59): byte fields of a list, the header of a tile with its CRC field replaced, payloads of codes, and from these what a
transposed read (R48) gives. -/

namespace Sys2Proof.Machine

open Sys2Proof

/-! ## Numbers from parts of a byte list (R13) -/

theorem leNat_lt (bs : List Byte) : leNat bs < 256 ^ bs.length := by
  induction bs with
  | nil => decide
  | cons b bs ih =>
    have hb : b.toNat < 256 := b.isLt
    rw [leNat, List.length_cons, Nat.pow_succ']
    omega

theorem leNat_take (bs : List Byte) (n : Nat) : leNat (bs.take n) = leNat bs % 256 ^ n := by
  induction bs generalizing n with
  | nil => simp [leNat]
  | cons b bs ih =>
    cases n with
    | zero => simp [leNat, Nat.mod_one]
    | succ n =>
      have hb : b.toNat < 256 := b.isLt
      have hlow : (b.toNat + 256 * leNat bs) % 256 = b.toNat := by omega
      have hhigh : (b.toNat + 256 * leNat bs) / 256 = leNat bs := by omega
      rw [List.take_succ_cons, leNat, leNat, ih, Nat.pow_succ' (m := 256), Nat.mod_mul, hlow, hhigh]

theorem leNat_drop (bs : List Byte) (n : Nat) : leNat (bs.drop n) = leNat bs / 256 ^ n := by
  induction bs generalizing n with
  | nil => simp [leNat]
  | cons b bs ih =>
    cases n with
    | zero => simp
    | succ n =>
      have hb : b.toNat < 256 := b.isLt
      have hhigh : (b.toNat + 256 * leNat bs) / 256 = leNat bs := by omega
      rw [List.drop_succ_cons, ih, leNat, Nat.pow_succ' (m := 256), ← Nat.div_div_eq_div_mul, hhigh]

theorem fieldAt_lt (bs : List Byte) (o n : Nat) : fieldAt bs o n < 256 ^ n := by
  have h := leNat_lt (slice bs o n)
  rwa [length_slice] at h

/-- A field depends on the bytes from its offset alone. -/
theorem fieldAt_congr {xs ys : List Byte} {o p n : Nat} (h : xs.drop o = ys.drop p) : fieldAt xs o n = fieldAt ys p n := by
  rw [fieldAt, fieldAt, slice, slice, h]

/-! ## The header of a tile whose CRC field is replaced -/

/-- A header field below the CRC lies in the first 16 bytes. -/
theorem extractLsb'_low_congr {m n : Nat} (h : m % 2 ^ 128 = n % 2 ^ 128) {s len : Nat} (hs : s + len ≤ 128) :
    (BitVec.ofNat 256 m).extractLsb' s len = (BitVec.ofNat 256 n).extractLsb' s len := by
  refine BitVec.eq_of_getLsbD_eq fun i hi => ?_
  have hbit : m.testBit (s + i) = n.testBit (s + i) := by
    have hmod := congrArg (·.testBit (s + i)) h
    simpa only [Nat.testBit_mod_two_pow, show s + i < 128 by omega, decide_true, Bool.true_and] using hmod
  simp only [BitVec.getLsbD_extractLsb', BitVec.getLsbD_ofNat, hbit]

/-- The reserved field above the CRC lies in the last 12 bytes. -/
theorem extractLsb'_high_congr {m n : Nat} (h : m / 2 ^ 160 = n / 2 ^ 160) :
    (BitVec.ofNat 256 m).extractLsb' 160 96 = (BitVec.ofNat 256 n).extractLsb' 160 96 := by
  refine BitVec.eq_of_getLsbD_eq fun i hi => ?_
  have hbit : m.testBit (160 + i) = n.testBit (160 + i) := by
    have hdiv := congrArg (·.testBit i) h
    simpa only [Nat.testBit_div_two_pow, Nat.add_comm] using hdiv
  simp only [BitVec.getLsbD_extractLsb', BitVec.getLsbD_ofNat, hbit]

/-- Replacing the CRC field of a tile changes that field of the header alone (R59). -/
theorem tileHdr_setCrc {t : List Byte} (ht : 32 ≤ t.length) (c : Nat) :
    tileHdr (setCrc t c) = { tileHdr t with crc := (tileHdr (setCrc t c)).crc } := by
  have hlow : leNat ((setCrc t c).take 32) % 2 ^ 128 = leNat (t.take 32) % 2 ^ 128 := by
    have h := congrArg leNat (take_setCrc ht c)
    simpa [leNat_take, Nat.mod_mod_of_dvd _ (show (2 ^ 128 : Nat) ∣ 256 ^ 32 by decide)] using h
  have hhigh : leNat ((setCrc t c).take 32) / 2 ^ 160 = leNat (t.take 32) / 2 ^ 160 := by
    have h := congrArg (fun x => leNat (x.take 12)) (drop_setCrc ht c)
    rw [List.take_drop, List.take_drop, leNat_drop, leNat_drop] at h
    exact h
  rw [tileHdr, tileHdr, unpackHdr, unpackHdr]
  simp only [Hdr.mk.injEq, true_and]
  exact ⟨extractLsb'_low_congr hlow (by decide), extractLsb'_low_congr hlow (by decide), extractLsb'_low_congr hlow (by decide),
    extractLsb'_low_congr hlow (by decide), extractLsb'_low_congr hlow (by decide), extractLsb'_low_congr hlow (by decide),
    extractLsb'_low_congr hlow (by decide), extractLsb'_low_congr hlow (by decide), extractLsb'_low_congr hlow (by decide),
    extractLsb'_low_congr hlow (by decide), extractLsb'_low_congr hlow (by decide), extractLsb'_low_congr hlow (by decide),
    extractLsb'_low_congr hlow (by decide), extractLsb'_low_congr hlow (by decide), extractLsb'_high_congr hhigh⟩

/-! ## Blocks of equal length -/

theorem length_flatMap_const {α β : Type} {w : Nat} {g : β → List α} {is : List β} (hg : ∀ i ∈ is, (g i).length = w) :
    (is.flatMap g).length = w * is.length := by
  induction is with
  | nil => simp
  | cons i is ih =>
    rw [List.flatMap_cons, List.length_append, hg i (List.mem_cons_self ..), ih fun j hj => hg j (List.mem_cons_of_mem _ hj), List.length_cons,
      Nat.mul_succ, Nat.add_comm]

/-- The block at a place of blocks of equal length. -/
theorem take_drop_flatMap_range {α : Type} {w m : Nat} {g : Nat → List α} (hg : ∀ i < m, (g i).length = w) {i : Nat} (hi : i < m) :
    (((List.range m).flatMap g).drop (w * i)).take w = g i := by
  induction m with
  | zero => exact absurd hi (Nat.not_lt_zero i)
  | succ m ih =>
    have hg' : ∀ j < m, (g j).length = w := fun j hj => hg j (Nat.lt_succ_of_lt hj)
    have hfront : ((List.range m).flatMap g).length = w * m := by
      rw [length_flatMap_const fun j hj => hg' j (List.mem_range.1 hj), List.length_range]
    rw [List.range_succ, List.flatMap_append, List.flatMap_singleton]
    rcases Nat.lt_succ_iff_lt_or_eq.1 hi with hlt | rfl
    · have hend : w * i + w ≤ w * m := by rw [← Nat.mul_succ]; exact Nat.mul_le_mul_left w hlt
      rw [List.drop_append_of_le_length (by omega), List.take_append_of_le_length (by rw [List.length_drop]; omega), ih hg' hlt]
    · rw [List.drop_left' hfront, List.take_of_length_le (by rw [hg i hi])]

/-- A field of numbers written one after another with `w` bytes each. -/
theorem fieldAt_flatMap_leBytes (v : Nat → Nat) (w : Nat) {m i : Nat} (hi : i < m) :
    fieldAt ((List.range m).flatMap fun j => leBytes w (v j)) (w * i) w = v i % 256 ^ w := by
  rw [fieldAt, slice, take_drop_flatMap_range (fun j _ => length_leBytes w (v j)) hi, length_leBytes, Nat.sub_self, List.replicate_zero,
    List.append_nil, leNat_leBytes]

/-! ## Payloads (R37) -/

/-- The code of a format other than FP4 is a field of whole bytes. -/
theorem codeAt_bytes {f : Fmt} (hf : f ≠ .fp4) (t : List Byte) (r c : Nat) :
    codeAt f t r c = fieldAt t (32 + fmtBits f / 8 * (32 * r + c)) (fmtBits f / 8) := by
  cases f
  case fp4 => exact absurd rfl hf
  all_goals rfl

theorem pow_fmtBytes {f : Fmt} (hf : f ≠ .fp4) : 256 ^ (fmtBits f / 8) = 2 ^ fmtBits f := by
  cases f
  case fp4 => exact absurd rfl hf
  all_goals decide

/-- A code of a format fits its bits (R40). -/
theorem codeAt_lt (f : Fmt) (t : List Byte) (r c : Nat) : codeAt f t r c < 2 ^ fmtBits f := by
  by_cases hf : f = .fp4
  · subst hf
    have hbyte := fieldAt_lt t (32 + (32 * r + c) / 2) 1
    simp only [codeAt, fmtBits]
    split <;> omega
  · rw [codeAt_bytes hf, ← pow_fmtBytes hf]
    exact fieldAt_lt t _ _

/-- The payload of a format other than FP4: whole bytes for each code. -/
theorem payloadOf_bytes {f : Fmt} (hf : f ≠ .fp4) (code : Nat → Nat → Nat) :
    payloadOf f code = (List.range 1024).flatMap fun i => leBytes (fmtBits f / 8) (code (i / 32) (i % 32)) := by
  unfold payloadOf
  split
  · exact absurd rfl hf
  · with_reducible rfl

/-- The payload of FP4: two codes in each byte, the even position low. -/
theorem payloadOf_fp4 (code : Nat → Nat → Nat) :
    payloadOf .fp4 code = (List.range 512).flatMap fun b =>
      leBytes 1 (code (2 * b / 32) (2 * b % 32) + 16 * code ((2 * b + 1) / 32) ((2 * b + 1) % 32)) := by
  unfold payloadOf
  rw [List.map_eq_flatMap]
  simp only [leBytes]

theorem length_payloadOf (f : Fmt) (code : Nat → Nat → Nat) : (payloadOf f code).length = payloadBytes f := by
  by_cases hf : f = .fp4
  · subst hf
    rw [payloadOf_fp4, length_flatMap_const fun b _ => length_leBytes 1 _, List.length_range]
    rfl
  · rw [payloadOf_bytes hf, length_flatMap_const fun b _ => length_leBytes _ _, List.length_range, payloadBytes]
    cases f
    case fp4 => exact absurd rfl hf
    all_goals rfl

/-! ## A tile from a header and codes, sealed (R63) -/

section
variable {hd : List Byte} (hhd : hd.length = 32) (f : Fmt) (code : Nat → Nat → Nat)
include hhd

theorem header_le_length (bs : List Byte) : 32 ≤ (hd ++ bs).length := by
  rw [List.length_append]
  omega

theorem length_append_payloadOf : (hd ++ payloadOf f code).length = tileTotal f := by
  rw [List.length_append, hhd, length_payloadOf, tileTotal]

theorem length_sealTile_payload : (sealTile (hd ++ payloadOf f code)).length = tileTotal f := by
  rw [sealTile, length_setCrc (header_le_length hhd _), length_append_payloadOf hhd]

/-- A field past the header is one of the payload. -/
theorem fieldAt_sealTile_payload (o n : Nat) :
    fieldAt (sealTile (hd ++ payloadOf f code)) (32 + o) n = fieldAt (payloadOf f code) o n := by
  refine fieldAt_congr ?_
  rw [sealTile, show 32 + o = 20 + (12 + o) by omega, ← List.drop_drop, drop_setCrc (header_le_length hhd _), List.drop_drop,
    show 20 + (12 + o) = 32 + o by omega, ← List.drop_drop, List.drop_left' hhd]

/-- The codes of a payload are read back at their positions (R37). -/
theorem codeAt_sealTile_payload (hcode : ∀ r c, code r c < 2 ^ fmtBits f) {r c : Nat} (hr : r < 32) (hc : c < 32) :
    codeAt f (sealTile (hd ++ payloadOf f code)) r c = code r c := by
  have hrow : (32 * r + c) / 32 = r := by omega
  have hcol : (32 * r + c) % 32 = c := by omega
  by_cases hf : f = .fp4
  · subst hf
    let pos := (32 * r + c) / 2
    have hlow := hcode (2 * pos / 32) (2 * pos % 32)
    have hhigh := hcode ((2 * pos + 1) / 32) ((2 * pos + 1) % 32)
    have hbyte := fieldAt_flatMap_leBytes
      (fun b => code (2 * b / 32) (2 * b % 32) + 16 * code ((2 * b + 1) / 32) ((2 * b + 1) % 32)) 1 (show pos < 512 by omega)
    rw [← payloadOf_fp4, Nat.one_mul] at hbyte
    simp only [codeAt, fieldAt_sealTile_payload hhd]
    rw [hbyte]
    simp only [fmtBits] at hlow hhigh
    split
    next heven =>
      have hpos : 2 * pos = 32 * r + c := by omega
      rw [hpos, hrow, hcol] at hlow ⊢
      omega
    next hodd =>
      have hpos : 2 * pos + 1 = 32 * r + c := by omega
      rw [hpos, hrow, hcol] at hhigh ⊢
      omega
  · rw [codeAt_bytes hf, fieldAt_sealTile_payload hhd, payloadOf_bytes hf,
      fieldAt_flatMap_leBytes _ _ (show 32 * r + c < 1024 by omega), hrow, hcol, pow_fmtBytes hf, Nat.mod_eq_of_lt (hcode r c)]

end

/-! ## Transposed reads (R48) -/

/-- The header of a tile read transposed, its checksum apart. -/
theorem tileHdr_transposeTile (t : List Byte) :
    tileHdr (transposeTile t) = { tileHdr t with
      rows := (tileHdr t).cols, cols := (tileHdr t).rows, s1 := (tileHdr t).s2, s2 := (tileHdr t).s1,
      crc := (tileHdr (transposeTile t)).crc } := by
  unfold transposeTile
  dsimp only
  rw [sealTile, tileHdr_setCrc (header_le_length (length_leBytes 32 _) _), tileHdr_append, unpackHdr_packHdr]

theorem tileFmt_transposeTile (t : List Byte) : tileFmt (transposeTile t) = tileFmt t := by
  rw [tileFmt, tileHdr_transposeTile, tileFmt]

theorem length_transposeTile (t : List Byte) : (transposeTile t).length = tileTotal (tileFmt t) :=
  length_sealTile_payload (length_leBytes 32 _) _ _

theorem crcKind_transposeTile (t : List Byte) : crcKind (transposeTile t) = .ok :=
  crcKind_sealTile (header_le_length (length_leBytes 32 _) _)

theorem codeAt_transposeTile (t : List Byte) {r c : Nat} (hr : r < 32) (hc : c < 32) :
    codeAt (tileFmt t) (transposeTile t) r c = codeAt (tileFmt t) t c r :=
  codeAt_sealTile_payload (length_leBytes 32 _) _ _ (fun r c => codeAt_lt _ t c r) hr hc

/-- Settles O6: a replaced CRC field leaves every other byte, and a transposed read is a header with its fields exchanged and the payload of
the exchanged codes, sealed. -/
theorem tilesSealTearTranspose : Obligations.TilesSealTearTranspose := by
  refine ⟨fun t ht => ⟨crcKind_sealTile ht, crcKind_tearTile ht, length_setCrc ht _, length_setCrc ht _,
    fun i hi => getD_setCrc_outside ht _ hi⟩, fun t => ?_⟩
  have field {α : Type} (get : Hdr → α) := congrArg get (tileHdr_transposeTile t)
  exact ⟨tileFmt_transposeTile t, field (·.rows.toNat), field (·.cols.toNat), field (·.s1), field (·.s2), field (·.s0), field (·.s3),
    field (·.nan == 1), crcKind_transposeTile t, length_transposeTile t, fun r hr c hc => codeAt_transposeTile t hr hc⟩

end Sys2Proof.Machine
end

section
/-! An engine's command in the simplest surroundings (R67, R73, R78, R79, R87): reads of device memory with no poison, no held line, no
injection slot armed and nothing coherent or replicated; operand tiles that pass their checks; and the completion of a command that is alone. -/

namespace Sys2Proof.Machine

open Sys2Proof

/-! ## What reads and writes of device memory may change -/

/-- A device after reads of its memory: only work counts, HBM use and the Depot's stream caches may differ. -/
def Dev.readsTo (d e : Dev) : Prop := ∃ depot work ct, e = { d with depot := depot, work := work, ct := ct }

/-- A device after reads and writes of its memory: what an engine's surroundings are made of is as it was. -/
def Dev.accessesTo (d e : Dev) : Prop :=
  ∃ mem poison wells lost depot work ct, e = { d with
    mem := mem, poison := poison, wells := wells, fx := { d.fx with lostLines := lost }, depot := depot, work := work, ct := ct }

theorem Dev.readsTo.refl (d : Dev) : d.readsTo d := ⟨_, _, _, rfl⟩

theorem Dev.readsTo.trans {d e f : Dev} (hde : d.readsTo e) (hef : e.readsTo f) : d.readsTo f := by
  obtain ⟨_, _, _, rfl⟩ := hde
  obtain ⟨_, _, _, rfl⟩ := hef
  exact ⟨_, _, _, rfl⟩

theorem Dev.readsTo.accesses {d e : Dev} (h : d.readsTo e) : d.accessesTo e := by
  obtain ⟨_, _, _, rfl⟩ := h
  exact ⟨_, _, _, _, _, _, _, rfl⟩

theorem Dev.accessesTo.refl (d : Dev) : d.accessesTo d := (Dev.readsTo.refl d).accesses

theorem Dev.accessesTo.trans {d e f : Dev} (hde : d.accessesTo e) (hef : e.accessesTo f) : d.accessesTo f := by
  obtain ⟨_, _, _, _, _, _, _, rfl⟩ := hde
  obtain ⟨_, _, _, _, _, _, _, rfl⟩ := hef
  exact ⟨_, _, _, _, _, _, _, rfl⟩

theorem Dev.write_accessesTo (d : Dev) (a : Nat) (bs : List Byte) : d.accessesTo (d.write a bs) := by
  refine ⟨(d.write a bs).mem, (d.write a bs).poison, (d.write a bs).wells, (d.write a bs).fx.lostLines, (d.write a bs).depot,
    (d.write a bs).work, (d.write a bs).ct, ?_⟩
  unfold Dev.write Dev.land Dev.moveHbm
  rw [Dev.markWritten_eq]

section
variable {d e : Dev} (h : d.accessesTo e)
include h

theorem Dev.accessesTo.grade : e.grade = d.grade := by obtain ⟨_, _, _, _, _, _, _, rfl⟩ := h; rfl
theorem Dev.accessesTo.cores : e.cores = d.cores := by obtain ⟨_, _, _, _, _, _, _, rfl⟩ := h; rfl
theorem Dev.accessesTo.queues : e.queues = d.queues := by obtain ⟨_, _, _, _, _, _, _, rfl⟩ := h; rfl
theorem Dev.accessesTo.er : e.er = d.er := by obtain ⟨_, _, _, _, _, _, _, rfl⟩ := h; rfl
theorem Dev.accessesTo.core (c : Nat) : e.core c = d.core c := by rw [Dev.core, h.cores, Dev.core]
theorem Dev.accessesTo.q? (i : Nat) : e.q? i = d.q? i := by rw [Dev.q?, h.queues, Dev.q?]
theorem Dev.accessesTo.isHere (p : QEndpoint) : e.isHere p = d.isHere p := by obtain ⟨_, _, _, _, _, _, _, rfl⟩ := h; rfl
theorem Dev.accessesTo.tailIdx (c : Nat) (u : EngUnit) (n : Nat) : e.tailIdx c u n = d.tailIdx c u n := by
  obtain ⟨_, _, _, _, _, _, _, rfl⟩ := h; rfl
theorem Dev.accessesTo.headIdx (c : Nat) (u : EngUnit) (n : Nat) : e.headIdx c u n = d.headIdx c u n := by
  obtain ⟨_, _, _, _, _, _, _, rfl⟩ := h; rfl

/-- An engine's simplest surroundings do not depend on memory. -/
theorem Dev.accessesTo.engAlone {c : Nat} {u : EngUnit} {q : QCmd} (ha : engAlone d c u q) : engAlone e c u q := by
  obtain ⟨_, _, _, _, _, _, _, rfl⟩ := h; exact ha

end

section
variable {d e : Dev} (h : d.readsTo e)
include h

theorem Dev.readsTo.mem : e.mem = d.mem := by obtain ⟨_, _, _, rfl⟩ := h; rfl
theorem Dev.readsTo.poison : e.poison = d.poison := by obtain ⟨_, _, _, rfl⟩ := h; rfl
theorem Dev.readsTo.peek (a n : Nat) : e.peek a n = d.peek a n := by obtain ⟨_, _, _, rfl⟩ := h; rfl
theorem Dev.readsTo.clean {ps : List (Nat × Nat)} (hps : d.clean ps) : e.clean ps := by obtain ⟨_, _, _, rfl⟩ := h; exact hps

end

/-! ## Reads of whole memory -/

/-- No injection slot is armed (R549), nothing is coherent (R394), and no replica serves reads (R360). -/
structure Dev.Undisturbed (d : Dev) : Prop where
  unarmed : d.unarmed = true
  apart : wbit d.fx.ctrl 2 = false
  primary : d.place.replicas = []

theorem Dev.accessesTo.undisturbed {d e : Dev} (h : d.accessesTo e) (hd : d.Undisturbed) : e.Undisturbed := by
  obtain ⟨_, _, _, _, _, _, _, rfl⟩ := h
  exact ⟨hd.unarmed, hd.apart, hd.primary⟩

theorem engAlone.undisturbed {d : Dev} {c : Nat} {u : EngUnit} {q : QCmd} (h : engAlone d c u q) : d.Undisturbed := by
  obtain ⟨-, -, -, -, -, -, -, -, -, -, -, -, -, hunarmed, hapart, hprimary, -⟩ := h
  exact ⟨hunarmed, hapart, hprimary⟩

/-- The bytes of pieces of device memory as they stand. -/
def Dev.peekAll (d : Dev) (ps : List (Nat × Nat)) : List Byte := ps.flatMap fun p => d.peek p.1 p.2

theorem Dev.readsTo.peekAll {d e : Dev} (h : d.readsTo e) (ps : List (Nat × Nat)) : e.peekAll ps = d.peekAll ps := by
  obtain ⟨_, _, _, rfl⟩ := h; rfl

section
variable {d : Dev} (hd : d.Undisturbed)
include hd

theorem cross_unarmed (here there : Nat) : d.cross here there = (true, d) := by
  unfold Dev.cross
  split
  · rfl
  · exact bridge_unarmed d here hd.unarmed

theorem crossTo_unarmed (die : Nat) (ps : List (Nat × Nat)) : d.crossTo die ps = (true, d) := cross_unarmed hd _ _

theorem inCoh_apart (a n : Nat) : d.inCoh a n = false := by
  rw [Dev.inCoh, hd.apart]
  rfl

theorem readFor_whole {a n : Nat} (hwhole : d.poisonedIn a n = none) (req : Nat) :
    ∃ e, d.readFor req a n = (some (d.peek a n), e) ∧ d.readsTo e := by
  unfold Dev.readFor
  simp only [hwhole, mimic_unarmed d _ hd.unarmed, Bool.false_eq_true, if_false]
  refine ⟨_, rfl, ?_⟩
  split <;> exact ⟨_, _, _, rfl⟩

theorem readStream_whole {a n : Nat} (hwhole : d.poisonedIn a n = none) (die req : Nat) :
    ∃ e, d.readStream die req a n = (some (d.peek a n), e) ∧ d.readsTo e := by
  obtain ⟨e, hread, hde⟩ := readFor_whole hd hwhole req
  have hfill : d.readsTo (e.cacheFill die (linesOf a n)) := hde.trans ⟨_, _, _, rfl⟩
  unfold Dev.readStream
  simp only [inCoh_apart hd, Bool.false_eq_true, if_false, mimic_unarmed d _ hd.unarmed, hread]
  split
  · exact ⟨_, rfl, hfill⟩
  · split
    · exact ⟨_, rfl, ⟨_, _, _, rfl⟩⟩
    · exact ⟨_, rfl, hfill⟩

theorem readPiece_whole {a n : Nat} (hwhole : d.poisonedIn a n = none) (cached : Bool) (die req : Nat) :
    ∃ e, d.readPiece cached die req a n = (some (d.peek a n), e) ∧ d.readsTo e := by
  have hprimary : d.replicaFor die a n = none := by rw [Dev.replicaFor, hd.primary]; rfl
  unfold Dev.readPiece Dev.readCached
  simp only [hprimary]
  split
  · exact readStream_whole hd hwhole die req
  · exact readFor_whole hd hwhole req

end

theorem readVia_whole {d : Dev} (hd : d.Undisturbed) {ps : List (Nat × Nat)} (hclean : d.clean ps) (cached : Bool) (die req : Nat) :
    ∃ e, d.readVia cached die req ps = (some (d.peekAll ps), e) ∧ d.readsTo e := by
  induction ps generalizing d with
  | nil => exact ⟨d, rfl, .refl d⟩
  | cons p ps ih =>
    obtain ⟨e, hread, hde⟩ := readPiece_whole hd (hclean p (List.mem_cons_self ..)).2.1 cached die req
    obtain ⟨f, hrest, hef⟩ := ih (hde.accesses.undisturbed hd) (hde.clean fun x hx => hclean x (List.mem_cons_of_mem _ hx))
    refine ⟨f, ?_, hde.trans hef⟩
    rw [Dev.readVia, hread]
    simp only [hrest, hde.peekAll]
    rfl

theorem readSpan_whole {d : Dev} (hd : d.Undisturbed) {ps : List (Nat × Nat)} (hclean : d.clean ps) (r : Reader) (key : Nat) :
    ∃ e, d.readSpan r key (.mem ps) = (.ok (d.peekAll ps), e) ∧ d.readsTo e := by
  obtain ⟨e, hread, hde⟩ := readVia_whole hd hclean (d.readerCached r) (d.readerDie r) (d.readerReq r)
  refine ⟨e, ?_, hde⟩
  simp only [Dev.readSpan, crossTo_unarmed hd, hread]

/-! ## Tiles that pass their checks (R61, R65 to R67) -/

theorem tileGood_iff {accept : Fmt → Bool} {t : List Byte} : tileGood accept t = true ↔ crcKind t = .ok ∧ hdrKind accept t = 0 := by
  rw [tileGood, Bool.and_eq_true, decide_eq_true_eq, decide_eq_true_eq]

/-- A good tile has a format that the operation takes. -/
theorem accept_tileFmt_of_good {accept : Fmt → Bool} {t : List Byte} (h : tileGood accept t = true) : accept (tileFmt t) = true := by
  obtain ⟨-, hhdr⟩ := tileGood_iff.1 h
  unfold hdrKind at hhdr
  unfold tileFmt
  cases hfmt : fmtOf (tileHdr t).format.toNat with
  | none => simp [hfmt] at hhdr
  | some f =>
    simp only [hfmt] at hhdr
    split_ifs at hhdr with hshape hreserved hscale haccept
    simpa using haccept

theorem tileFmt_eq_of_good {f : Fmt} {t : List Byte} (h : tileGood (fun g => g == f) t = true) : tileFmt t = f :=
  eq_of_beq (accept_tileFmt_of_good (accept := fun g => g == f) h)

theorem checkTile_good {d : Dev} (hd : d.Undisturbed) {accept : Fmt → Bool} {t : List Byte} (ht : tileGood accept t = true) (c pos addr : Nat) :
    d.checkTile c pos addr accept t = (none, d) := by
  obtain ⟨hcrc, hhdr⟩ := tileGood_iff.1 ht
  simp [Dev.checkTile, hcrc, mimic_unarmed d _ hd.unarmed, hhdr]

theorem readTiles_good {d : Dev} (hd : d.Undisturbed) (c : Nat) (u : EngUnit) (pos : Nat) {accept : Fmt → Bool}
    {xs : List (Nat × List (Nat × Nat))} (hclean : ∀ x ∈ xs, d.clean x.2) (hgood : ∀ x ∈ xs, tileGood accept (d.peekAll x.2) = true) :
    ∃ e, d.readTiles c u pos accept (xs.map fun x => (x.1, .mem x.2)) = (.ok (xs.map fun x => d.peekAll x.2), e) ∧ d.readsTo e := by
  induction xs generalizing d with
  | nil => exact ⟨d, rfl, .refl d⟩
  | cons x xs ih =>
    obtain ⟨e, hread, hde⟩ := readSpan_whole hd (hclean x (List.mem_cons_self ..)) (.eng c u) x.1
    have he := hde.accesses.undisturbed hd
    obtain ⟨f, hrest, hef⟩ := ih he (fun y hy => hde.clean (hclean y (List.mem_cons_of_mem _ hy)))
      (fun y hy => by rw [hde.peekAll]; exact hgood y (List.mem_cons_of_mem _ hy))
    refine ⟨f, ?_, hde.trans hef⟩
    rw [List.map_cons, Dev.readTiles, hread]
    simp only [checkTile_good he (hgood x (List.mem_cons_self ..)), hrest, hde.peekAll, List.map_cons]

/-! ## Operands (R48, R67, R572) -/

theorem spanHeld_clean {d : Dev} {ps : List (Nat × Nat)} (h : d.clean ps) : d.spanHeld (.mem ps) = false := by
  rw [Dev.spanHeld, Dev.heldIn, List.any_eq_false]
  intro p hp
  rw [(h p hp).2.2]
  exact Bool.false_ne_true

theorem spanCoh_apart {d : Dev} (hd : d.Undisturbed) (ps : List (Nat × Nat)) : d.spanCoh (.mem ps) = false := by
  rw [Dev.spanCoh, List.any_eq_false]
  intro p _
  rw [inCoh_apart hd]
  exact Bool.false_ne_true

/-- The elements of a list by their places. -/
theorem map_range_getD {α β : Type} (l : List α) (x : α) (f : α → β) : (List.range l.length).map (fun j => f (l.getD j x)) = l.map f := by
  apply List.ext_getElem
  · simp
  · intro j h1 h2
    rw [List.length_map] at h2
    simp [h2]

/-- A fold that takes every element of a list and leaves the device alone. -/
theorem foldl_collect {α ε δ : Type} {step : Except ε (List α) × δ → α → Except ε (List α) × δ} {d : δ} {l : List α}
    (hstep : ∀ x ∈ l, ∀ xs, step (.ok xs, d) x = (.ok (xs ++ [x]), d)) (xs : List α) :
    l.foldl step (.ok xs, d) = (.ok (xs ++ l), d) := by
  induction l generalizing xs with
  | nil => simp
  | cons x l ih =>
    rw [List.foldl_cons, hstep x (List.mem_cons_self ..), ih fun y hy => hstep y (List.mem_cons_of_mem _ hy), List.append_assoc]
    rfl

/-- The spans of tiles with the keys of an operand. -/
def keyedSpans (pos : Nat) (pss : List (List (Nat × Nat))) : List (Nat × List (Nat × Nat)) :=
  (List.range pss.length).map fun j => (tileKey pos j, pss.getD j [])

theorem mem_of_mem_keyedSpans {pos : Nat} {pss : List (List (Nat × Nat))} {x : Nat × List (Nat × Nat)} (h : x ∈ keyedSpans pos pss) :
    x.2 ∈ pss := by
  obtain ⟨j, hj, rfl⟩ := List.mem_map.1 h
  have hlt : j < pss.length := List.mem_range.1 hj
  simp [hlt]

theorem map_keyedSpans {β : Type} (pos : Nat) (pss : List (List (Nat × Nat))) (f : List (Nat × Nat) → β) :
    (keyedSpans pos pss).map (fun x => f x.2) = pss.map f := by
  rw [keyedSpans, List.map_map]
  exact map_range_getD pss [] f

/-- The keyed spans as `operandSpans` and `stageTiles` write them. -/
theorem keyedSpans_eq (pos : Nat) (pss : List (List (Nat × Nat))) :
    ((List.range (pss.map Span.mem).length).map fun j => (tileKey pos j, (pss.map Span.mem).getD j (.mem []))) =
      (keyedSpans pos pss).map fun x => (x.1, .mem x.2) := by
  rw [keyedSpans, List.map_map, List.length_map]
  refine List.map_congr_left fun j hj => ?_
  have hlt : j < pss.length := List.mem_range.1 hj
  simp [hlt]

section
variable {d : Dev} (hd : d.Undisturbed) (c : Nat) (u : EngUnit) {o : Operand}
include hd

theorem operandSpans_mem {ref : MemRef} {stride : Option Nat} {f : Fmt} {tr : Bool} {pss : List (List (Nat × Nat))}
    (hsrc : o.src = .mem ref stride f tr) (hspans : d.tileSpans o.pos ref stride f o.n false = .ok (pss.map Span.mem)) :
    d.operandSpans u o = .ok ((keyedSpans o.pos pss).map fun x => (x.1, .mem x.2)) := by
  have hcoh : (pss.map Span.mem).find? (fun s => decide (u ≠ .ls) && d.spanCoh s) = none := by
    rw [List.find?_eq_none]
    intro s hs
    obtain ⟨ps, -, rfl⟩ := List.mem_map.1 hs
    rw [spanCoh_apart hd, Bool.and_false]
    exact Bool.false_ne_true
  simp only [Dev.operandSpans, hsrc, hspans, hcoh, keyedSpans_eq]

/-- A memory operand in whole memory gives its tiles, turned where it is read transposed. -/
theorem gather_mem {ref : MemRef} {stride : Option Nat} {f : Fmt} {tr : Bool} {pss : List (List (Nat × Nat))}
    (hsrc : o.src = .mem ref stride f tr) (hspans : d.tileSpans o.pos ref stride f o.n false = .ok (pss.map Span.mem))
    (hclean : ∀ ps ∈ pss, d.clean ps) (hgood : ∀ ps ∈ pss, tileGood (fun g => g == f && o.accept g) (d.peekAll ps) = true) :
    ∃ e, d.gather c u [o] [] = .tiles [pss.map fun ps => turned tr (d.peekAll ps)] e ∧ d.readsTo e := by
  obtain ⟨e, hread, hde⟩ := readTiles_good hd c u o.pos (xs := keyedSpans o.pos pss)
    (fun x hx => hclean _ (mem_of_mem_keyedSpans hx)) (fun x hx => hgood _ (mem_of_mem_keyedSpans hx))
  rw [map_keyedSpans] at hread
  refine ⟨e, ?_, hde⟩
  have hall : d.allSpans u [o] = .ok [(keyedSpans o.pos pss).map fun x => (x.1, .mem x.2)] := by
    simp only [Dev.allSpans, operandSpans_mem hd u hsrc hspans]
    rfl
  have hask : d.mustAsk (.eng c u) ((keyedSpans o.pos pss).map fun x => (x.1, .mem x.2)) = false := by
    simp [Dev.mustAsk, Dev.spanRemote]
  have hin : d.inputsIn (.eng c u) ((keyedSpans o.pos pss).map fun x => (x.1, .mem x.2)) = true := by
    simp [Dev.inputsIn, Dev.spanRemote]
  have hheld : ((keyedSpans o.pos pss).map fun x => (x.1, Span.mem x.2)).any (fun x => d.spanHeld x.2) = false := by
    rw [List.any_eq_false]
    intro x hx
    obtain ⟨y, hy, rfl⟩ := List.mem_map.1 hx
    rw [spanHeld_clean (hclean _ (mem_of_mem_keyedSpans hy))]
    exact Bool.false_ne_true
  have htiles : d.operandTiles c u o ((keyedSpans o.pos pss).map fun x => (x.1, .mem x.2)) 0 =
      (.ok (pss.map fun ps => turned tr (d.peekAll ps)), e) := by
    simp only [Dev.operandTiles, hsrc, hread]
    cases tr
    · rfl
    · simp only [if_true, List.map_map]
      rfl
  simp only [Dev.gather, hall, List.flatten_cons, List.flatten_nil, List.append_nil, hask, hin, hheld, Bool.not_true, Bool.false_eq_true, if_false,
    List.zip_cons_cons, List.zip_nil_left, Dev.readOperands, hsrc, htiles]

theorem sramRead_unarmed : d.sramRead c = (none, d) := by
  simp only [Dev.sramRead, mimic_unarmed d _ hd.unarmed, Bool.false_eq_true, if_false]

/-- An operand from a queue gives the tiles at its head, turned where it is read transposed. -/
theorem gather_queue {qn : Nat} {keep tr : Bool} {x : QState} (hsrc : o.src = .queue qn keep tr)
    (hhead : (d.headIdx c u qn).bind d.q? = some x)
    (hgood : ∀ t ∈ x.ring.take o.n, tileGood (fun g => g == x.decl.fmt && o.accept g) t = true) :
    d.gather c u [o] [] = .tiles [(x.ring.take o.n).map (turned tr)] d := by
  have hqueue : d.queueTiles c u o qn 0 = (.ok (x.ring.take o.n), d) := by
    simp only [Dev.queueTiles, hhead, sramRead_unarmed hd, List.drop_zero]
    refine foldl_collect (fun t ht ts => ?_) []
    simp only [checkTile_good hd (hgood t ht)]
  have htiles : d.operandTiles c u o [] 0 = (.ok ((x.ring.take o.n).map (turned tr)), d) := by
    simp only [Dev.operandTiles, hsrc, hqueue]
    cases tr
    · exact congrArg (fun l => (Except.ok l, d)) (List.map_id _).symm
    · rfl
  have hall : d.allSpans u [o] = .ok [[]] := by
    simp only [Dev.allSpans, Dev.operandSpans, hsrc]
    rfl
  simp [Dev.gather, hall, Dev.mustAsk, Dev.inputsIn, Dev.readOperands, hsrc, htiles]

end

end Sys2Proof.Machine
end

section
/-! A command that is alone completes (R73, R79, R87): its tiles go to a queue of its core with room, its entry frees, and nothing else moves. -/

namespace Sys2Proof.Machine

open Sys2Proof

/-! ## Cores and queues changed -/

theorem setCore_setCore (d : Dev) (c : Nat) (f g : CoreSt → CoreSt) : (d.setCore c f).setCore c g = d.setCore c (g ∘ f) := by
  simp only [Dev.setCore, List.modify_modify_eq]

theorem setQ_setQ (d : Dev) (i : Nat) (f g : QState → QState) : (d.setQ i f).setQ i g = d.setQ i (g ∘ f) := by
  simp only [Dev.setQ, List.modify_modify_eq]

theorem setQ_id (d : Dev) (i : Nat) : d.setQ i id = d := by
  simp only [Dev.setQ, List.modify_id]

theorem setQ_setCore (d : Dev) (c i : Nat) (f : CoreSt → CoreSt) (g : QState → QState) :
    (d.setCore c f).setQ i g = (d.setQ i g).setCore c f := rfl

theorem q_setQ_ne (d : Dev) {i j : Nat} (g : QState → QState) (h : j ≠ i) : (d.setQ i g).q? j = d.q? j := by
  simp [Dev.q?, Dev.setQ, Ne.symm h]

@[simp] theorem setQueue_queue (s : CoreSt) {u : EngUnit} (hu : u ≠ .cc) (qs : List QCmd) : (s.setQueue u qs).queue u = qs := by
  cases u with
  | cc => exact absurd rfl hu
  | _ => rfl

theorem setQueue_queue_ne (s : CoreSt) {u v : EngUnit} (h : v ≠ u) (qs : List QCmd) : (s.setQueue u qs).queue v = s.queue v := by
  cases u with
  | cc => rfl
  | mx | vx | ls | st => cases v <;> simp_all [CoreSt.setQueue, CoreSt.queue]

@[simp] theorem setQueue_setQueue (s : CoreSt) (u : EngUnit) (qs rs : List QCmd) : (s.setQueue u qs).setQueue u rs = s.setQueue u rs := by
  cases u <;> rfl

@[simp] theorem setQueue_pipe (s : CoreSt) (u : EngUnit) (qs : List QCmd) : (s.setQueue u qs).pipe = s.pipe := by cases u <;> rfl
@[simp] theorem setQueue_halted (s : CoreSt) (u : EngUnit) (qs : List QCmd) : (s.setQueue u qs).halted = s.halted := by cases u <;> rfl
@[simp] theorem setQueue_ending (s : CoreSt) (u : EngUnit) (qs : List QCmd) : (s.setQueue u qs).ending = s.ending := by cases u <;> rfl

/-! ## Queues whose declarations stay -/

/-- A change of a queue that leaves its declaration and what is in transit. -/
def keepsEnds (g : QState → QState) : Prop := ∀ x, (g x).decl = x.decl ∧ (g x).transit = x.transit

theorem all_modify_of_eq {α : Type} {p : α → Bool} {g : α → α} (hg : ∀ x, p (g x) = p x) (l : List α) (i : Nat) :
    (l.modify i g).all p = l.all p := by
  induction l generalizing i with
  | nil => simp
  | cons x l ih => cases i <;> simp [hg, ih]

theorem findIdx?_modify_of_eq {α : Type} {p : α → Bool} {g : α → α} (hg : ∀ x, p (g x) = p x) (l : List α) (i : Nat) :
    (l.modify i g).findIdx? p = l.findIdx? p := by
  induction l generalizing i with
  | nil => simp
  | cons x l ih => cases i <;> simp [List.findIdx?_cons, hg, ih]

section
variable {g : QState → QState} (hg : keepsEnds g) (d : Dev) (i c : Nat) (u : EngUnit)
include hg

theorem tailIdx_setQ (n : Nat) : (d.setQ i g).tailIdx c u n = d.tailIdx c u n :=
  findIdx?_modify_of_eq (fun x => by rw [(hg x).1]) d.queues i

theorem headIdx_setQ (n : Nat) : (d.setQ i g).headIdx c u n = d.headIdx c u n :=
  findIdx?_modify_of_eq (fun x => by rw [(hg x).1]) d.queues i

theorem landed_setQ : (d.setQ i g).landed c u = d.landed c u :=
  all_modify_of_eq (fun x => by rw [(hg x).1, (hg x).2]) d.queues i

/-- An engine's simplest surroundings do not depend on what lies in the rings. -/
theorem engAlone_setQ {q : QCmd} (h : engAlone d c u q) : engAlone (d.setQ i g) c u q := by
  unfold engAlone at h ⊢
  rw [landed_setQ hg]
  exact h

end

/-! ## Pushes into a ring with room (R79) -/

/-- A queue of one core after tiles pushed to it. -/
def QState.withPushed (ts : List (List Byte)) (x : QState) : QState := { x with ring := x.ring ++ ts, pushed := x.pushed + ts.length }

theorem keepsEnds_withPushed (ts : List (List Byte)) : keepsEnds (QState.withPushed ts) := fun _ => ⟨rfl, rfl⟩

theorem withPushed_comp (t : List Byte) (ts : List (List Byte)) : QState.withPushed ts ∘ QState.withPushed [t] = QState.withPushed (t :: ts) := by
  funext x
  simp [QState.withPushed, Nat.add_assoc, Nat.add_comm 1]

theorem withPushed_nil : QState.withPushed [] = id := by
  funext x
  simp [QState.withPushed]

theorem tailIdx_isHere {d : Dev} {c n i : Nat} {u : EngUnit} {x : QState} (htail : d.tailIdx c u n = some i) (hx : d.q? i = some x) :
    d.isHere x.decl.prod = true := by
  obtain ⟨hlt, hend, -⟩ := List.findIdx?_eq_some_iff_getElem.1 htail
  obtain rfl : d.queues[i] = x := by simpa [Dev.q?, hlt] using hx
  simp only [Bool.and_eq_true] at hend
  exact hend.1.1.2

theorem pushHeld_room {d : Dev} {c qn i : Nat} {u : EngUnit} {x : QState} (ts : List (List Byte)) (htail : d.tailIdx c u qn = some i)
    (hx : d.q? i = some x) (hprod : x.decl.prod.core = c) (hcons : x.decl.cons.core = c) (hnear : d.farCons x = false)
    (hroom : x.ring.length + ts.length ≤ x.decl.cap) (hpusher : ((d.core c).pusher u).isSome = true) :
    d.pushHeld c u (ts.map fun t => (qn, t)) = ([], d.setQ i (.withPushed ts)) := by
  induction ts generalizing d x with
  | nil => rw [withPushed_nil, setQ_id]; rfl
  | cons t ts ih =>
    have hprodHere : d.isHere x.decl.prod = true := tailIdx_isHere htail hx
    have hconsHere : d.isHere x.decl.cons = true := by simpa [Dev.farCons] using hnear
    rw [List.length_cons] at hroom
    have hfree : d.freeSlots x > 0 := by
      simp only [Dev.freeSlots, hprodHere, hconsHere, Bool.and_self, if_true, hprod, hcons]
      omega
    have hpush : d.pushTile i t = d.setQ i (.withPushed [t]) := by
      simp only [Dev.pushTile, hx, hnear, Bool.false_eq_true, if_false, hprod, hcons, if_true]
      rfl
    rw [List.map_cons, Dev.pushHeld, htail]
    simp only [Option.bind_some, hx, Option.map_some, hfree, decide_true, hpusher, Bool.and_self, if_true, hpush]
    rw [ih (x := .withPushed [t] x) ((tailIdx_setQ (keepsEnds_withPushed [t]) d i c u qn).trans htail) (q_setQ d i _ x hx) hprod hcons hnear
      (by simp only [QState.withPushed, List.length_append, List.length_singleton]; omega) hpusher, setQ_setQ, withPushed_comp]

/-! ## Completion -/

theorem complete_alone {d : Dev} {c : Nat} {u : EngUnit} {q : QCmd} (hlen : c < d.cores.length) (hqueue : (d.core c).queue u = [q])
    (htrap : q.trap = none) (hsignals : q.cmd.signals = []) (hmx : (d.core c).mx = []) (hpipe : (d.core c).pipe = [])
    (hending : (d.core c).ending = none) : d.complete c u = d.setCore c fun s => s.setQueue u [] := by
  have hcore : (d.setCore c fun s => s.setQueue u []).core c = (d.core c).setQueue u [] := core_setCore d c _ hlen
  have hidle : (d.setCore c fun s => s.setQueue u []).mxIdle c (d.core c) = d.setCore c fun s => s.setQueue u [] := by
    simp [Dev.mxIdle, hmx, hpipe]
  unfold Dev.complete Dev.leave
  simp only [hqueue, htrap, hidle, hsignals, Dev.raiseSignals, List.foldl_nil, Dev.afterHalt, hcore, setQueue_halted]
  have hstays : ((d.core c).halted && !(d.core c).halted) = false := by cases (d.core c).halted <;> rfl
  simp only [hstays, Bool.false_eq_true, if_false]
  exact finishEnd_none (by rw [hcore, setQueue_ending, hending])

theorem settleJob_empty {d : Dev} {c : Nat} (hpipe : (d.core c).pipe = []) : d.settleJob c = d := by
  simp [Dev.settleJob, hpipe]

theorem settleCmd_empty {d : Dev} {c : Nat} {u : EngUnit} (hqueue : (d.core c).queue u = []) : d.settleCmd c u = d := by
  simp [Dev.settleCmd, Dev.running, hqueue]

theorem core_setHead {d : Dev} {c : Nat} {u : EngUnit} {q : QCmd} (hlen : c < d.cores.length) (hqueue : (d.core c).queue u = [q])
    (f : QCmd → QCmd) : (d.setHead c u f).core c = (d.core c).setQueue u [f q] := by
  rw [Dev.setHead, core_setCore d c _ hlen, hqueue]

/-- What a command's head becomes does not matter once its entry frees. -/
theorem setHead_setQueue_nil (d : Dev) (c : Nat) (u : EngUnit) (f : QCmd → QCmd) :
    (d.setHead c u f).setCore c (·.setQueue u []) = d.setCore c (·.setQueue u []) := by
  rw [Dev.setHead, setCore_setCore]
  congr 1
  funext s
  exact setQueue_setQueue s u _ _

/-- The head of VX or LS, alone and run, pushes its tiles and completes. -/
theorem settleCmd_alone {d : Dev} {c : Nat} {u : EngUnit} {q : QCmd} (hu : u = .vx ∨ u = .ls) (ha : engAlone d c u q) {f : QCmd → QCmd}
    {outs : List (Nat × List Byte)} (hf : f q = { q with ran := true, hold := outs }) {i : Nat} {g : QState → QState} (hg : keepsEnds g)
    (hpush : (d.setHead c u f).pushHeld c u outs = ([], (d.setHead c u f).setQ i g)) :
    (d.setHead c u f).settleCmd c u = (d.setQ i g).setCore c (·.setQueue u []) := by
  obtain ⟨hqueue, hstarted, -, -, -, htrap, hsignals, -, hothers, hpipe, -, hending, hlen, -, -, -, hlanded, hwrites⟩ := ha
  have hcc : u ≠ .cc := by rcases hu with rfl | rfl <;> decide
  have hmx : (d.core c).mx = [] := hothers .mx (by decide) (by rcases hu with rfl | rfl <;> decide)
  have hkeep (k : QCmd → QCmd) (e : Dev) (he : e.cores = (d.setHead c u f).cores) : (e.setHead c u k).core c =
      (d.core c).setQueue u [k (f q)] := by
    have hcore : e.core c = (d.core c).setQueue u [f q] := by rw [Dev.core, he]; exact core_setHead hlen hqueue f
    have helen : c < e.cores.length := by rw [he]; simpa [Dev.setHead, Dev.setCore] using hlen
    rw [core_setHead helen (by rw [hcore, setQueue_queue _ hcc]), hcore, setQueue_setQueue]
  let out (x : QCmd) : QCmd := { x with hold := [] }
  let e := ((d.setHead c u f).setQ i g).setHead c u out
  have hcore : e.core c = (d.core c).setQueue u [out (f q)] := hkeep out _ rfl
  have hrunning : (d.setHead c u f).running c u = some (f q) := by
    rw [Dev.running, core_setHead hlen hqueue f, setQueue_queue _ hcc, hf]
    simp [hstarted]
  have hstill : (e.running c u).isSome = true := by
    rw [Dev.running, hcore, setQueue_queue _ hcc, hf]
    simp [out, hstarted]
  have hran : (f q).ran = true := by rw [hf]
  have hhold : (f q).hold = outs := by rw [hf]
  have hlands : e.landed c u = true := (landed_setQ hg d i c u).trans hlanded
  have hwrote : e.writesOut c = false := hwrites
  have hcomplete : e.complete c u = e.setCore c (·.setQueue u []) := by
    refine complete_alone (q := out (f q)) ?_ (by rw [hcore, setQueue_queue _ hcc]) (by rw [hf]; exact htrap) (by rw [hf]; exact hsignals) ?_
      (by rw [hcore, setQueue_pipe, hpipe]) (by rw [hcore, setQueue_ending, hending])
    · simpa [e, Dev.setHead, Dev.setCore, Dev.setQ] using hlen
    · rw [hcore]
      exact (setQueue_queue_ne (v := .mx) _ (by rcases hu with rfl | rfl <;> decide) _).trans hmx
  have hfree : e.setCore c (·.setQueue u []) = (d.setQ i g).setCore c (·.setQueue u []) := by
    rw [setHead_setQueue_nil, Dev.setHead, setQ_setCore]
    exact setHead_setQueue_nil (d.setQ i g) c u f
  unfold Dev.settleCmd
  simp only [hrunning, hran, Bool.not_true, Bool.false_eq_true, if_false, hhold, hpush]
  rw [if_pos]
  · exact hcomplete.trans hfree
  · show ((e.running c u).isSome && List.isEmpty ([] : List (Nat × List Byte)) && e.landed c u && !(decide (u = .ls) && e.writesOut c)) = true
    rw [hstill, hlands, hwrote, Bool.and_false]
    rfl

/-- A command of VX or LS that is alone commits: its pops are made, its tiles go out, and its entry frees (R78, R79, R87). -/
theorem commit_alone {d : Dev} {c : Nat} {u : EngUnit} {q : QCmd} (hu : u = .vx ∨ u = .ls) {pops : List (Nat × Nat × Bool × Nat)}
    {outs : List (Nat × List Byte)} (hclosed : d.closedPush c u outs = none) (ha : engAlone (d.popAll c u pops) c u q) {i : Nat}
    {g : QState → QState} (hg : keepsEnds g)
    (hpush : ∀ e : Dev, e.queues = (d.popAll c u pops).queues → e.fx = (d.popAll c u pops).fx → ((e.core c).pusher u).isSome = true →
      e.pushHeld c u outs = ([], e.setQ i g)) :
    d.commit c u pops outs = ((d.popAll c u pops).setQ i g).setCore c (·.setQueue u []) := by
  obtain ⟨hqueue, hstarted, hran, hasked, hhold, htrap, hsignals, hnanTrap, hothers, hpipe, -, hending, hlen, -⟩ := id ha
  have hcc : u ≠ .cc := by rcases hu with rfl | rfl <;> decide
  unfold Dev.commit
  simp only [hclosed]
  set p := d.popAll c u pops
  set f := fun q : QCmd => { q with ran := true, hold := outs, trap := if q.cmd.nanTrap then q.trap.or (nanTrapOf outs) else none }
  have hf : f q = { q with ran := true, hold := outs } := by simp [f, hnanTrap, htrap]
  have hcore : (p.setHead c u f).core c = (p.core c).setQueue u [f q] := core_setHead hlen hqueue f
  have hpusher : (((p.setHead c u f).core c).pusher u).isSome = true := by
    rw [hcore]
    rcases hu with rfl | rfl <;> simp [CoreSt.pusher, hf, hstarted]
  have hdone : (p.setHead c u f).settleCmd c u = (p.setQ i g).setCore c (·.setQueue u []) :=
    settleCmd_alone hu ha hf hg (hpush _ rfl rfl hpusher)
  have hidle {v : EngUnit} (hv : v ∈ [EngUnit.mx, .vx, .ls]) (hne : v ≠ u) : (p.setHead c u f).settleCmd c v = p.setHead c u f :=
    settleCmd_empty (by rw [hcore, setQueue_queue_ne _ hne, hothers v hv hne])
  have hjob : (p.setHead c u f).settleJob c = p.setHead c u f := settleJob_empty (by rw [hcore, setQueue_pipe, hpipe])
  rcases hu with rfl | rfl
  · have hlast : ((p.setQ i g).setCore c (·.setQueue .vx [])).settleCmd c .ls = (p.setQ i g).setCore c (·.setQueue .vx []) :=
      settleCmd_empty (by
        rw [core_setCore (p.setQ i g) c _ hlen]
        exact (setQueue_queue_ne (v := .ls) _ (by decide) _).trans (hothers .ls (by decide) (by decide)))
    rw [Dev.settleCore, hjob, hidle (v := .mx) (by decide) (by decide), hdone, hlast]
  · rw [Dev.settleCore, hjob, hidle (v := .mx) (by decide) (by decide), hidle (v := .vx) (by decide) (by decide), hdone]

/-- A command that pops nothing pushes its tiles to a queue of its core with room, and completes. -/
theorem commit_pushes {d : Dev} {c : Nat} {u : EngUnit} {q : QCmd} (hu : u = .vx ∨ u = .ls) (ha : engAlone d c u q) {qn i : Nat} {x : QState}
    {ts : List (List Byte)} (htail : d.tailIdx c u qn = some i) (hx : d.q? i = some x) (hprod : x.decl.prod.core = c)
    (hcons : x.decl.cons.core = c) (hnear : d.farCons x = false) (hopen : x.closed = false) (hroom : x.ring.length + ts.length ≤ x.decl.cap) :
    d.commit c u [] (ts.map fun t => (qn, t)) = (d.setQ i (.withPushed ts)).setCore c (·.setQueue u []) := by
  refine commit_alone (d := d) (pops := []) hu ?_ ha (keepsEnds_withPushed ts) fun e hqueues hfx hpusher => ?_
  · rw [Dev.closedPush, List.findSome?_eq_none_iff]
    intro y hy
    obtain ⟨t, -, rfl⟩ := List.mem_map.1 hy
    simp [htail, hx, hopen]
  · have hhere (p : QEndpoint) : e.isHere p = d.isHere p := by rw [Dev.isHere, hfx]; rfl
    refine pushHeld_room ts ?_ ?_ hprod hcons ?_ hroom hpusher
    · rw [← htail, Dev.tailIdx, hqueues, Dev.tailIdx]
      simp only [hhere, Dev.popAll, List.foldl_nil]
    · rw [Dev.q?, hqueues]; exact hx
    · rw [← hnear, Dev.farCons, hhere, Dev.farCons]

/-- A command that pushes nothing makes its pops and completes. -/
theorem commit_pops {d : Dev} {c : Nat} {u : EngUnit} {q : QCmd} (hu : u = .vx ∨ u = .ls) {pops : List (Nat × Nat × Bool × Nat)}
    (ha : engAlone (d.popAll c u pops) c u q) : d.commit c u pops [] = (d.popAll c u pops).setCore c (·.setQueue u []) := by
  have h := commit_alone (d := d) hu (outs := []) rfl ha (i := 0) (g := id) (fun _ => ⟨rfl, rfl⟩)
    fun e _ _ _ => by rw [setQ_id]; rfl
  rwa [setQ_id] at h

end Sys2Proof.Machine
end

section
/-! Where tiles lie (R36, R336, R338, R572): consecutive tiles at local addresses, the lines of a range and of a part of it, and memory after
bytes are written one range after another. -/

namespace Sys2Proof.Machine

open Sys2Proof

/-! ## Ranges of job memory (R338) -/

theorem memEnd_le (g : Grade) : memEnd g ≤ 0x6000000000 := by cases g <;> decide

theorem inJobMem_iff {g : Grade} {a n : Nat} : inJobMem g a n = true ↔ a + n ≤ memEnd g ∧ a % wellSize + n ≤ wellSize - reserveBytes := by
  rw [inJobMem, Bool.and_eq_true, decide_eq_true_eq, decide_eq_true_eq]

theorem inJobMem_end {g : Grade} {a n : Nat} (h : inJobMem g a n = true) : a + n ≤ 0x6000000000 :=
  (inJobMem_iff.1 h).1.trans (memEnd_le g)

/-- A part of a range of job memory lies in job memory. -/
theorem inJobMem_part {g : Grade} {a n o k : Nat} (h : inJobMem g a n = true) (hpart : o + k ≤ n) : inJobMem g (a + o) k = true := by
  obtain ⟨hend, hwell⟩ := inJobMem_iff.1 h
  refine inJobMem_iff.2 ⟨by omega, ?_⟩
  simp only [wellSize, reserveBytes] at hwell ⊢
  omega

theorem mul_add_le_of_lt {j n : Nat} (h : j < n) (t : Nat) : j * t + t ≤ n * t := by
  rw [← Nat.succ_mul]
  exact Nat.mul_le_mul_right t h

/-! ## Lines of a range (R327) -/

theorem mem_linesOf {a n l : Nat} : l ∈ linesOf a n ↔ 0 < n ∧ a / lineBytes ≤ l ∧ l ≤ (a + n - 1) / lineBytes := by
  have hmono : 0 < n → a / lineBytes ≤ (a + n - 1) / lineBytes := fun hn => Nat.div_le_div_right (by omega)
  unfold linesOf
  split
  · simp_all
  · simp only [List.mem_map, List.mem_range]
    constructor
    · rintro ⟨k, hk, rfl⟩
      omega
    · rintro ⟨hn, hlo, hhi⟩
      exact ⟨l - a / lineBytes, by omega, by omega⟩

theorem linesOf_part {a n o k l : Nat} (hpart : o + k ≤ n) (h : l ∈ linesOf (a + o) k) : l ∈ linesOf a n := by
  obtain ⟨hk, hlo, hhi⟩ := mem_linesOf.1 h
  exact mem_linesOf.2 ⟨by omega, (Nat.div_le_div_right (by omega)).trans hlo, hhi.trans (Nat.div_le_div_right (by omega))⟩

theorem heldAt_part {d : Dev} {a n o k : Nat} (hpart : o + k ≤ n) (h : d.heldAt a n = false) : d.heldAt (a + o) k = false := by
  rw [Dev.heldAt, List.any_eq_false] at h ⊢
  exact fun l hl => h l (linesOf_part hpart hl)

/-- A part of clean memory is clean. -/
theorem clean_part {d : Dev} {a n o k : Nat} (hpart : o + k ≤ n) (h : d.clean [(a, n)]) (hhost : a + o < hostBase) :
    d.clean [(a + o, k)] := by
  obtain ⟨-, hpoison, hheld⟩ := h (a, n) (List.mem_singleton.2 rfl)
  intro x hx
  obtain rfl := List.mem_singleton.1 hx
  refine ⟨hhost, ?_, heldAt_part hpart hheld⟩
  rw [Dev.poisonedIn, List.find?_eq_none] at hpoison ⊢
  exact fun l hl => hpoison l (linesOf_part hpart hl)

theorem channelOf_lt (a : Nat) : channelOf a < 32 := Nat.mod_lt _ (by decide)

/-- Where no Well holds lines and no line is poisoned, all of device memory is clean. -/
theorem clean_of_quiet {d : Dev} (hpoison : d.poison = []) (hheld : d.someHeld = false) {a : Nat} (n : Nat) (ha : a < hostBase) :
    d.clean [(a, n)] := by
  intro x hx
  obtain rfl := List.mem_singleton.1 hx
  refine ⟨ha, by simp [Dev.poisonedIn, hpoison], ?_⟩
  rw [Dev.heldAt, List.any_eq_false]
  intro l _
  have hholds (w : Nat) : (d.well w).holds (channelOf (l * lineBytes)) = false := by
    rw [Dev.well, List.getD_eq_getElem?_getD]
    rcases hw : d.wells.wells[w]? with _ | y
    · rfl
    · rw [Dev.someHeld, List.any_eq_false] at hheld
      have hy := hheld y (List.mem_of_getElem? hw)
      rw [Bool.not_eq_true, List.any_eq_false] at hy
      exact Bool.eq_false_iff.2 (hy _ (List.mem_range.2 (channelOf_lt _)))
  rw [hholds, Bool.and_false]
  exact Bool.false_ne_true

/-! ## Spans of tiles (R36, R572) -/

theorem tileTotal_mod (f : Fmt) : tileTotal f % 32 = 0 := by cases f <;> rfl

/-- An aligned operand at a local address is the range at that address. -/
theorem memSpan_local {d : Dev} (pos : Nat) {a off len align : Nat} (write : Bool) (hjob : inJobMem d.grade (a + off) len = true)
    (halign : (a + off) % align = 0) : d.memSpan pos (.addr a) off len align write = .ok (.mem [(a + off, len)]) := by
  have hend := inJobMem_end hjob
  have hmod : (a + off) % 2 ^ 64 = a + off := Nat.mod_eq_of_lt (by omega)
  have hform : d.addrForm (a + off) len = .localMem := by
    have hhigh : (a + off) >>> 48 = 0 := by rw [Nat.shiftRight_eq_div_pow]; omega
    simp only [Dev.addrForm, hhigh, hjob, if_true]
  simp only [Dev.memSpan, hmod, hform, halign, ne_eq, not_true_eq_false, if_false]

theorem tileSpans_of_each {d : Dev} {pos : Nat} {ref : MemRef} {stride : Option Nat} {f : Fmt} {n : Nat} {write : Bool} {s : Nat → Span}
    (h : ∀ j, j < n → d.tileSpan pos ref stride f j write = .ok (s j)) :
    d.tileSpans pos ref stride f n write = .ok ((List.range n).map s) := by
  induction n with
  | zero => rfl
  | succ n ih =>
    have hfront := ih fun j hj => h j (Nat.lt_succ_of_lt hj)
    unfold Dev.tileSpans at hfront ⊢
    rw [List.range_succ, List.foldl_append, hfront, List.foldl_cons, List.foldl_nil, h n (Nat.lt_succ_self n), List.map_append]
    rfl

/-- The pieces of `n` consecutive tiles of a format from an address. -/
def consecutivePieces (f : Fmt) (a n : Nat) : List (List (Nat × Nat)) := (List.range n).map fun j => [(a + j * tileTotal f, tileTotal f)]

theorem mem_consecutivePieces {f : Fmt} {a n : Nat} {ps : List (Nat × Nat)} (h : ps ∈ consecutivePieces f a n) :
    ∃ j, j < n ∧ ps = [(a + j * tileTotal f, tileTotal f)] := by
  obtain ⟨j, hj, rfl⟩ := List.mem_map.1 h
  exact ⟨j, List.mem_range.1 hj, rfl⟩

/-- Consecutive tiles from an aligned local address. -/
theorem tileSpans_local {d : Dev} (pos : Nat) {a n : Nat} {f : Fmt} (write : Bool) (halign : a % 32 = 0)
    (hjob : inJobMem d.grade a (n * tileTotal f) = true) :
    d.tileSpans pos (.addr a) none f n write = .ok ((consecutivePieces f a n).map Span.mem) := by
  rw [consecutivePieces, List.map_map]
  refine tileSpans_of_each fun j hj => memSpan_local pos write (inJobMem_part hjob (mul_add_le_of_lt hj _)) ?_
  rw [Option.getD_none, Nat.add_mod, halign, Nat.mul_mod, tileTotal_mod, Nat.mul_zero]

/-! ## Bytes written one range after another -/

theorem Memory.writes_append (m : Memory) (a : Nat) (bs cs : List Byte) :
    m.writes a (bs ++ cs) = (m.writes a bs).writes (a + bs.length) cs := by
  induction bs generalizing m a with
  | nil => rfl
  | cons b bs ih =>
    rw [List.cons_append, Memory.writes, ih, Memory.writes, List.length_cons, Nat.add_assoc, Nat.add_comm 1]

/-- A part of what was written is read back. -/
theorem Memory.reads_writes_part {m : Memory} (h : m.wf = true) (a o n : Nat) (bs : List Byte) (hpart : o + n ≤ bs.length) :
    (m.writes a bs).reads (a + o) n = (bs.drop o).take n := by
  apply List.ext_getElem
  · simp only [Memory.reads, List.length_map, List.length_range, List.length_take, List.length_drop]
    omega
  · intro i h1 h2
    have hi : i < n := by simpa [Memory.reads] using h1
    simp only [Memory.reads, List.getElem_map, List.getElem_range, List.getElem_take, List.getElem_drop]
    rw [Memory.read_writes h, if_pos (by omega), show a + o + i - a = o + i by omega]
    simp [show o + i < bs.length by omega]

/-- Memory after writes in order. -/
def Memory.writesAll (m : Memory) (xs : List (Nat × List Byte)) : Memory := xs.foldl (fun m x => m.writes x.1 x.2) m

/-- Writes of pieces of equal length one after another are one write. -/
theorem Memory.writesAll_consecutive (m : Memory) (a : Nat) {w n : Nat} {g : Nat → List Byte} (hg : ∀ j < n, (g j).length = w) :
    m.writesAll ((List.range n).map fun j => (a + j * w, g j)) = m.writes a ((List.range n).flatMap g) := by
  induction n with
  | zero => rfl
  | succ n ih =>
    have hg' : ∀ j < n, (g j).length = w := fun j hj => hg j (Nat.lt_succ_of_lt hj)
    have hfront : ((List.range n).flatMap g).length = n * w := by
      rw [length_flatMap_const fun j hj => hg' j (List.mem_range.1 hj), List.length_range, Nat.mul_comm]
    have ih := ih hg'
    unfold Memory.writesAll at ih ⊢
    rw [List.range_succ, List.map_append, List.foldl_append, ih, List.flatMap_append, List.flatMap_singleton, Memory.writes_append, hfront]
    rfl

/-- Of pieces of equal length written one after another each is read back, and what lies outside reads as before. -/
theorem Memory.reads_writesAll_consecutive {m : Memory} (h : m.wf = true) (a : Nat) {w n : Nat} {g : Nat → List Byte}
    (hg : ∀ j < n, (g j).length = w) :
    let m' := m.writesAll ((List.range n).map fun j => (a + j * w, g j))
    (∀ j < n, m'.reads (a + j * w) w = g j) ∧ ∀ b, b < a ∨ a + n * w ≤ b → m'.read b = m.read b := by
  have hlen : ((List.range n).flatMap g).length = n * w := by
    rw [length_flatMap_const fun j hj => hg j (List.mem_range.1 hj), List.length_range, Nat.mul_comm]
  intro m'
  have hm : m' = m.writes a ((List.range n).flatMap g) := Memory.writesAll_consecutive m a hg
  refine ⟨fun j hj => ?_, fun b hb => ?_⟩
  · rw [hm, Memory.reads_writes_part h a _ w _ (by rw [hlen]; exact mul_add_le_of_lt hj w), Nat.mul_comm j, take_drop_flatMap_range hg hj]
  · rw [hm]
    exact Memory.read_writes_outside h _ (by rwa [hlen])

theorem take_eq_map_range {α : Type} {l : List α} {n : Nat} (h : n ≤ l.length) (x : α) : l.take n = (List.range n).map fun j => l.getD j x := by
  apply List.ext_getElem
  · simp [h]
  · intro j h1 h2
    have hj : j < l.length := by rw [List.length_take] at h1; omega
    simp [hj]

end Sys2Proof.Machine
end

section
/-! LOAD, STORE, GATHER_ROWS and SCATTER_ROWS (R114, R572) in their simplest surroundings, each as the reads, writes, pops and pushes that it
makes, and O13. -/

namespace Sys2Proof.Machine

open Sys2Proof

/-! ## The meanings, on the device -/

theorem exec_load (c : Nat) (s : State) : exec (.load c) s = .next (s.dev! (s.dev.runLoad c)) := rfl
theorem exec_store (c : Nat) (s : State) : exec (.store c) s = .next (s.dev! (s.dev.runStore c)) := rfl
theorem exec_gatherRows (c : Nat) (s : State) : exec (.gatherRows c) s = .next (s.dev! (s.dev.runGather c)) := rfl
theorem exec_scatterRows (c : Nat) (s : State) : exec (.scatterRows c) s = .next (s.dev! (s.dev.runScatter c)) := rfl

/-! ## Nothing coherent, nothing lost -/

section
variable {d : Dev} (hd : d.Undisturbed) (pss : List (List (Nat × Nat)))
include hd

theorem recallLocal_apart (c : Nat) (write : Bool) : d.recallLocal c write (pss.map Span.mem) = (true, d) := by
  have hnone : (pss.map Span.mem).flatMap (d.localConflicts write) = [] := by
    rw [List.flatMap_eq_nil_iff]
    intro s hs
    obtain ⟨ps, -, rfl⟩ := List.mem_map.1 hs
    simp [Dev.localConflicts, inCoh_apart hd]
  simp [Dev.recallLocal, hnone]

theorem lostSpan_apart : d.lostSpan (pss.map Span.mem) = none := by
  rw [Dev.lostSpan, List.findSome?_eq_none_iff]
  intro s hs
  obtain ⟨ps, -, rfl⟩ := List.mem_map.1 hs
  simp [inCoh_apart hd]

end

/-! ## Prefetch streams (R341) -/

theorem noteLoad_readsTo (d : Dev) (die c a : Nat) : d.readsTo (d.noteLoad die c a) := by
  unfold Dev.noteLoad
  split
  · exact .refl d
  · dsimp only
    split <;> exact ⟨_, _, _, rfl⟩

theorem foldl_readsTo {α : Type} {step : Dev → α → Dev} (hstep : ∀ (d : Dev) (x : α), d.readsTo (step d x)) (xs : List α) (d : Dev) :
    d.readsTo (xs.foldl step d) := by
  induction xs generalizing d with
  | nil => exact .refl d
  | cons x xs ih => exact (hstep d x).trans (ih _)

theorem noteLoads_readsTo (d : Dev) (c : Nat) (ss : List Span) : d.readsTo (d.noteLoads c ss) := by
  refine foldl_readsTo (fun d s => ?_) ss d
  split
  · split
    · exact .refl d
    · exact noteLoad_readsTo _ _ _ _
  · exact .refl d

/-! ## The end of an LS command -/

section
variable {d : Dev} {c : Nat} {q : QCmd}

theorem fresh_alone {u : EngUnit} (ha : engAlone d c u q) : d.fresh? c u = some q := by
  obtain ⟨hqueue, hstarted, hran, -⟩ := ha
  simp [Dev.fresh?, Dev.running, hqueue, hstarted, hran]

/-- What is left of an LS command that has completed: a queue of its core changed, its entry free, and the rest as it was. -/
theorem completed_facts (ha : engAlone d c .ls q) {i : Nat} {x : QState} (hx : d.q? i = some x) (g : QState → QState) :
    let e := (d.setQ i g).setCore c (·.setQueue .ls [])
    e.q? i = some (g x) ∧ (e.core c).ls = [] ∧ e.mem = d.mem ∧ e.poison = d.poison ∧ (∀ j, j ≠ i → e.q? j = d.q? j) ∧
      (∀ k, k ≠ c → e.core k = d.core k) ∧ e.er = d.er := by
  obtain ⟨-, -, -, -, -, -, -, -, -, -, -, -, hlen, -⟩ := ha
  refine ⟨q_setQ d i g x hx, ?_, rfl, rfl, fun j hj => q_setQ_ne d g hj, fun k hk => core_setCore_ne (d.setQ i g) c k _ hk, rfl⟩
  rw [core_setCore (d.setQ i g) c _ hlen]
  rfl

/-- A queue after `n` tiles have left it. -/
def QState.withPopped (keep : Bool) (n : Nat) (x : QState) : QState := if keep then x else { x with ring := x.ring.drop n }

theorem keepsEnds_withPopped (keep : Bool) (n : Nat) : keepsEnds (QState.withPopped keep n) := fun x => by cases keep <;> exact ⟨rfl, rfl⟩

/-- A pop from a queue whose two ends lie on one core takes tiles from its ring and nothing else (R78, R81). -/
theorem popAll_one {u : EngUnit} {qn n pos i : Nat} {x : QState} (keep : Bool) (hhead : d.headIdx c u qn = some i) (hx : d.q? i = some x)
    (hcores : x.decl.prod.core = x.decl.cons.core) (hnear : d.farProd x = false) (hn : n ≤ x.ring.length) :
    d.popAll c u [(qn, n, keep, pos)] = d.setQ i (.withPopped keep n) := by
  cases keep
  · simp only [Dev.popAll, List.foldl_cons, List.foldl_nil, hhead, Dev.popTiles, hx, hnear, hcores, Nat.min_eq_left hn, Bool.false_eq_true, if_false,
      ne_eq, not_true_eq_false]
    rfl
  · exact (setQ_id d i).symm

end

theorem tailFmt_eq {d : Dev} {c qn i : Nat} {x : QState} (htail : d.tailIdx c .ls qn = some i) (hx : d.q? i = some x) :
    d.tailFmt c qn = x.decl.fmt := by
  simp [Dev.tailFmt, htail, hx]

theorem headFmt_eq {d : Dev} {c qn i : Nat} {u : EngUnit} {x : QState} (hhead : d.headIdx c u qn = some i) (hx : d.q? i = some x) :
    d.headFmt c u qn = x.decl.fmt := by
  simp [Dev.headFmt, hhead, hx]

/-- Consecutive tiles of a format at an aligned local address, in clean memory, are the tiles of their operand. -/
theorem gather_local {d : Dev} (hd : d.Undisturbed) (c : Nat) (u : EngUnit) (pos : Nat) {a n : Nat} {f : Fmt} {tr : Bool} {accept : Fmt → Bool}
    (haccept : accept f = true) (halign : a % 32 = 0) (hjob : inJobMem d.grade a (n * tileTotal f) = true)
    (hclean : d.clean [(a, n * tileTotal f)])
    (hgood : ∀ j, j < n → tileGood (fun g => g == f) (d.peek (a + j * tileTotal f) (tileTotal f)) = true) :
    ∃ e, d.gather c u [⟨.mem (.addr a) none f tr, n, pos, accept⟩] [] =
      .tiles [(List.range n).map fun j => turned tr (d.peek (a + j * tileTotal f) (tileTotal f))] e ∧ d.readsTo e := by
  have hend := inJobMem_end hjob
  have hone (p : Nat × Nat) : d.peekAll [p] = d.peek p.1 p.2 := by simp [Dev.peekAll]
  have hformat : (fun g => g == f && accept g) = fun g => g == f := by
    funext g
    cases hg : g == f with
    | false => rfl
    | true => rw [eq_of_beq hg, haccept]; rfl
  obtain ⟨e, hgather, hde⟩ := gather_mem hd c u (o := ⟨.mem (.addr a) none f tr, n, pos, accept⟩) (pss := consecutivePieces f a n) rfl
    (tileSpans_local pos false halign hjob)
    (fun ps hps => by
      obtain ⟨j, hj, rfl⟩ := mem_consecutivePieces hps
      have hpart := mul_add_le_of_lt hj (tileTotal f)
      exact clean_part hpart hclean (by simp only [hostBase]; omega))
    (fun ps hps => by
      obtain ⟨j, hj, rfl⟩ := mem_consecutivePieces hps
      rw [hformat, hone]
      exact hgood j hj)
  refine ⟨e, ?_, hde⟩
  rw [hgather, consecutivePieces, List.map_map]
  simp only [Function.comp_def, hone]

/-! ## LOAD -/

theorem runLoad_alone {d : Dev} {c a n qn i : Nat} {tr : Bool} {q : QCmd} {x : QState} {f : Fmt} (ha : engAlone d c .ls q)
    (hop : q.cmd.op = .load (.addr a) none tr n qn) (htail : d.tailIdx c .ls qn = some i) (hx : d.q? i = some x) (hf : x.decl.fmt = f)
    (hprod : x.decl.prod.core = c) (hcons : x.decl.cons.core = c) (hnear : d.farCons x = false) (hopen : x.closed = false)
    (hn : 1 ≤ n) (hmax : n ≤ 1024) (hroom : x.ring.length + n ≤ x.decl.cap) (halign : a % 32 = 0)
    (hjob : inJobMem d.grade a (n * tileTotal f) = true) (hclean : d.clean [(a, n * tileTotal f)])
    (hgood : ∀ j, j < n → tileGood (fun g => g == f) (d.peek (a + j * tileTotal f) (tileTotal f)) = true) :
    ∃ e, d.readsTo e ∧ d.runLoad c = (e.setQ i (.withPushed ((List.range n).map fun j =>
      turned tr (d.peek (a + j * tileTotal f) (tileTotal f))))).setCore c (·.setQueue .ls []) := by
  have hd := ha.undisturbed
  obtain ⟨e, hgather, hde⟩ := gather_local hd c .ls 0 (tr := tr) (accept := fun g => g == f) (beq_self_eq_true f) halign hjob hclean hgood
  have hnoted := hde.trans (noteLoads_readsTo e c ((consecutivePieces f a n).map Span.mem))
  have hacc := hnoted.accesses
  refine ⟨_, hnoted, ?_⟩
  have hcount : (decide (n = 0) || decide (n > 1024)) = false := by simp; omega
  unfold Dev.runLoad
  simp only [fresh_alone ha, hop, tailFmt_eq htail hx, hf, hcount, Bool.false_eq_true, if_false, tileSpans_local 0 false halign hjob,
    lostSpan_apart hd, recallLocal_apart hd, hgather, List.flatten_cons, List.flatten_nil, List.append_nil]
  refine commit_pushes (.inr rfl) (hacc.engAlone ha) ((hacc.tailIdx c .ls qn).trans htail) ((hacc.q? i).trans hx) hprod hcons ?_ hopen ?_
  · rw [Dev.farCons, hacc.isHere]
    exact hnear
  · rw [List.length_map, List.length_range]
    exact hroom

/-! ## Writes of tiles -/

theorem aimWrites_mem (d : Dev) (c : Nat) (pss : List (List (Nat × Nat))) :
    d.aimWrites c (pss.map Span.mem) = (.ok (pss.map Span.mem), d) := by
  induction pss with
  | nil => rfl
  | cons ps pss ih =>
    rw [List.map_cons, Dev.aimWrites]
    simp only [Dev.aimWrite, ih]

/-- Bytes with the addresses where they go, as LS writes them. -/
def localWrites (xs : List (Nat × List Byte)) : List (Span × List Byte) := xs.map fun x => (.mem [(x.1, x.2.length)], x.2)

theorem writeTiles_local {d : Dev} (hd : d.Undisturbed) (c : Nat) {xs : List (Nat × List Byte)} (hhost : ∀ x ∈ xs, x.1 < hostBase) :
    d.accessesTo (d.writeTiles c (localWrites xs)) ∧ (d.writeTiles c (localWrites xs)).mem = d.mem.writesAll xs := by
  induction xs generalizing d with
  | nil => exact ⟨.refl d, rfl⟩
  | cons x xs ih =>
    have hx : ¬ hostBase ≤ x.1 := Nat.not_le.2 (hhost x (List.mem_cons_self ..))
    have hwrite : d.writeTile c (.mem [(x.1, x.2.length)]) x.2 = d.write x.1 x.2 := by
      simp [Dev.writeTile, crossTo_unarmed hd, Dev.writePieces, Dev.writePiece1, hx]
    have hstep := Dev.write_accessesTo d x.1 x.2
    obtain ⟨hrest, hmem⟩ := ih (hstep.undisturbed hd) fun y hy => hhost y (List.mem_cons_of_mem _ hy)
    have hfold : d.writeTiles c (localWrites (x :: xs)) = (d.write x.1 x.2).writeTiles c (localWrites xs) := by
      rw [localWrites, List.map_cons, Dev.writeTiles, List.foldl_cons, hwrite]
      rfl
    rw [hfold]
    refine ⟨hstep.trans hrest, ?_⟩
    rw [hmem, Dev.write_mem]
    rfl

theorem setCore_of_fixed {d : Dev} {c : Nat} {f : CoreSt → CoreSt} (hlen : c < d.cores.length) (hf : f (d.core c) = d.core c) :
    d.setCore c f = d := by
  have hcore : d.cores[c] = d.core c := by simp [Dev.core, hlen]
  have hcores : d.cores.modify c f = d.cores := by
    rw [List.modify_eq_set_getElem?, List.getElem?_eq_getElem hlen, hcore]
    show d.cores.set c (f (d.core c)) = d.cores
    rw [hf, ← hcore]
    exact List.set_getElem_self hlen
  rw [Dev.setCore, hcores]

theorem setHead_of_fixed {d : Dev} {c : Nat} {u : EngUnit} {q : QCmd} {f : QCmd → QCmd} (hlen : c < d.cores.length)
    (hqueue : (d.core c).queue u = [q]) (hf : f q = q) : d.setHead c u f = d := by
  refine setCore_of_fixed hlen ?_
  simp only [hqueue, hf]
  rw [← hqueue]
  cases u <;> rfl

/-- The writes of an LS command to local addresses, after which it completes (R63, R102). -/
theorem finishWrites_local {d : Dev} {c : Nat} {q : QCmd} (ha : engAlone d c .ls q) {xs : List (Nat × List Byte)}
    (hhost : ∀ x ∈ xs, x.1 < hostBase) :
    ∃ e, d.accessesTo e ∧ e.mem = d.mem.writesAll xs ∧ d.finishWrites c q (localWrites xs) = e.commit c .ls (opPops q.cmd.op) [] := by
  obtain ⟨hacc, hmem⟩ := writeTiles_local ha.undisturbed c hhost
  obtain ⟨hqueue, -, -, -, -, htrap, -, hnanTrap, -, -, -, -, hlen, -⟩ := hacc.engAlone ha
  refine ⟨_, hacc, hmem, ?_⟩
  have hspans : (localWrites xs).map (·.1) = (xs.map fun x => [(x.1, x.2.length)]).map Span.mem := by
    simp [localWrites]
  have hzip : ((localWrites xs).map (·.1)).zip ((localWrites xs).map (·.2)) = localWrites xs := by
    rw [List.zip_map']
    exact List.map_id _
  have haim : d.aimWrites c ((localWrites xs).map (·.1)) = (.ok ((localWrites xs).map (·.1)), d) := by
    rw [hspans]
    exact aimWrites_mem d c _
  unfold Dev.finishWrites
  simp only [haim, hzip, hnanTrap, Bool.false_eq_true, if_false]
  rw [setHead_of_fixed hlen hqueue (by rw [← htrap])]

theorem length_turned (tr : Bool) {t : List Byte} {f : Fmt} (hlen : t.length = tileTotal f) (hgood : tileGood (fun g => g == f) t = true) :
    (turned tr t).length = tileTotal f := by
  cases tr
  · exact hlen
  · rw [turned, if_pos rfl, length_transposeTile, tileFmt_eq_of_good hgood]

/-- An LS command that has written what it popped completes (R78). -/
theorem commit_popping {d : Dev} {c qn n pos i : Nat} (keep : Bool) {q : QCmd} {x : QState} (ha : engAlone d c .ls q)
    (hhead : d.headIdx c .ls qn = some i) (hx : d.q? i = some x) (hcores : x.decl.prod.core = x.decl.cons.core) (hnear : d.farProd x = false)
    (hn : n ≤ x.ring.length) :
    d.commit c .ls [(qn, n, keep, pos)] [] = (d.setQ i (.withPopped keep n)).setCore c (·.setQueue .ls []) := by
  have hpop := popAll_one (u := .ls) (pos := pos) keep hhead hx hcores hnear hn
  rw [commit_pops (q := q) (.inr rfl), hpop]
  rw [hpop]
  exact engAlone_setQ (keepsEnds_withPopped keep n) d i c .ls ha

/-! ## STORE -/

theorem runStore_alone {d : Dev} {c a n qn i : Nat} {keep tr : Bool} {q : QCmd} {x : QState} {f : Fmt} (ha : engAlone d c .ls q)
    (hop : q.cmd.op = .store qn keep tr (.addr a) none n) (hheld : d.heldAt a (n * tileTotal f) = false)
    (hhead : d.headIdx c .ls qn = some i) (hx : d.q? i = some x) (hf : x.decl.fmt = f) (hprod : x.decl.prod.core = c) (hcons : x.decl.cons.core = c)
    (hnear : d.farProd x = false) (hn : 1 ≤ n) (hmax : n ≤ 1024) (hring : n ≤ x.ring.length) (halign : a % 32 = 0)
    (hjob : inJobMem d.grade a (n * tileTotal f) = true)
    (hgood : ∀ t ∈ x.ring, tileGood (fun g => g == f) t = true)
    (hlength : ∀ j < n, (turned tr (x.ring.getD j [])).length = tileTotal f) :
    ∃ e, d.accessesTo e ∧
      e.mem = d.mem.writesAll ((List.range n).map fun j => (a + j * tileTotal f, turned tr (x.ring.getD j []))) ∧
      d.runStore c = (e.setQ i (.withPopped keep n)).setCore c (·.setQueue .ls []) := by
  have hd := ha.undisturbed
  have hend := inJobMem_end hjob
  have hcount : (decide (n = 0) || decide (n > 1024)) = false := by simp; omega
  have hwaits : ((consecutivePieces f a n).map Span.mem).any d.spanHeld = false := by
    rw [List.any_eq_false]
    intro s hs
    obtain ⟨ps, hps, rfl⟩ := List.mem_map.1 hs
    obtain ⟨j, hj, rfl⟩ := mem_consecutivePieces hps
    simp [Dev.spanHeld, Dev.heldIn, heldAt_part (mul_add_le_of_lt hj _) hheld]
  have hgather := gather_queue hd c .ls (o := ⟨.queue qn keep tr, n, 0, fun g => g == f⟩) (x := x) rfl (by rw [hhead]; exact hx)
    (fun t ht => by rw [hf]; simpa only [Bool.and_self] using hgood t (List.mem_of_mem_take ht))
  have hfirst : (x.ring.take n).map (turned tr) = (List.range n).map fun j => turned tr (x.ring.getD j []) := by
    rw [take_eq_map_range hring [], List.map_map]
    rfl
  have hwrites : ((consecutivePieces f a n).map Span.mem).zip ((List.range n).map fun j => turned tr (x.ring.getD j [])) =
      localWrites ((List.range n).map fun j => (a + j * tileTotal f, turned tr (x.ring.getD j []))) := by
    rw [consecutivePieces, localWrites, List.map_map, List.map_map, List.zip_map']
    refine List.map_congr_left fun j hj => ?_
    simp only [Function.comp_apply, hlength j (List.mem_range.1 hj)]
  obtain ⟨e, hacc, hmem, hfinish⟩ := finishWrites_local ha
    (xs := (List.range n).map fun j => (a + j * tileTotal f, turned tr (x.ring.getD j []))) (fun y hy => by
      obtain ⟨j, hj, rfl⟩ := List.mem_map.1 hy
      have hpart := mul_add_le_of_lt (List.mem_range.1 hj) (tileTotal f)
      simp only [hostBase]
      omega)
  refine ⟨e, hacc, hmem, ?_⟩
  unfold Dev.runStore
  simp only [fresh_alone ha, hop, headFmt_eq hhead hx, hf, hcount, Bool.false_eq_true, if_false, tileSpans_local 1 true halign hjob,
    recallLocal_apart hd, hwaits, hgather, List.flatten_cons, List.flatten_nil, List.append_nil, hfirst, hwrites, hfinish]
  exact commit_popping keep (hacc.engAlone ha) ((hacc.headIdx c .ls qn).trans hhead) ((hacc.q? i).trans hx) (hprod.trans hcons.symm)
    (by rw [Dev.farProd, hacc.isHere]; exact hnear) hring

/-! ## Rows named by an index tile (R114) -/

theorem indexTile_local {d : Dev} (hd : d.Undisturbed) (c : Nat) {b : Nat} {f : Fmt} (hf : f = .int32) (halign : b % 32 = 0)
    (hjob : inJobMem d.grade b (tileTotal f) = true) (hclean : d.clean [(b, tileTotal f)])
    (hgood : tileGood (fun g => g == f) (d.peek b (tileTotal f)) = true) :
    ∃ e, d.indexTile c (.mem (.addr b) none f false) = .tiles [[d.peek b (tileTotal f)]] e ∧ d.readsTo e := by
  have hfirst : b + 0 * tileTotal f = b := by omega
  have htotal : 1 * tileTotal f = tileTotal f := Nat.one_mul _
  rw [← htotal] at hjob hclean
  obtain ⟨e, hgather, hde⟩ := gather_local hd c .ls 1 (n := 1) (f := f) (tr := false) (accept := fun g => g == .int32) (by rw [hf]; rfl) halign
    hjob hclean (fun j hj => by
      obtain rfl : j = 0 := by omega
      rwa [hfirst])
  refine ⟨e, ?_, hde⟩
  have hspans := operandSpans_mem hd .ls (o := ⟨.mem (.addr b) none f false, 1, 1, fun g => g == .int32⟩)
    (pss := consecutivePieces f b 1) rfl (tileSpans_local 1 false halign hjob)
  have hcoh (xs : List (Nat × List (Nat × Nat))) : (xs.map fun x => (x.1, Span.mem x.2)).find? (fun x => d.spanCoh x.2) = none := by
    rw [List.find?_eq_none]
    intro y hy
    obtain ⟨x, -, rfl⟩ := List.mem_map.1 hy
    simp [spanCoh_apart hd]
  unfold Dev.indexTile
  simp only [hspans, hcoh, hgather, List.range_one, List.map_cons, List.map_nil, hfirst]
  rfl

/-- The span of the tile that holds row `r` of a one-column tensor (log entry 20). -/
theorem rowSpans_one {d : Dev} (hd : d.Undisturbed) (pos : Nat) {a r : Nat} {f : Fmt} (write : Bool) (halign : a % 32 = 0)
    (hjob : inJobMem d.grade (a + r / 32 * tileTotal f) (tileTotal f) = true) :
    d.rowSpans pos (.addr a) f 1 [(r : Int)] write = .ok [.mem [(a + r / 32 * tileTotal f, tileTotal f)]] := by
  have hend := inJobMem_end hjob
  have htile : ((r : Int).fdiv 32 * ((1 : Nat) : Int) + ((0 : Nat) : Int)) * (tileTotal f : Int) = ((r / 32 * tileTotal f : Nat) : Int) := by
    have hdiv : (r : Int).fdiv 32 = ((r / 32 : Nat) : Int) := by rw [Int.fdiv_eq_ediv_of_nonneg _ (by decide)]; rfl
    rw [hdiv]
    push_cast
    ring
  have hmove : moveRef (.addr a) ((r / 32 * tileTotal f : Nat) : Int) = some (.addr (a + r / 32 * tileTotal f)) := by
    simp only [moveRef, Option.some.injEq, MemRef.addr.injEq]
    omega
  have hspan : d.rowSpan pos (.addr a) f 1 (r : Int) 0 write = .ok (.mem [(a + r / 32 * tileTotal f, tileTotal f)]) := by
    simp only [Dev.rowSpan, htile, hmove, Dev.tileSpan, Nat.zero_mul]
    refine memSpan_local pos write hjob ?_
    rw [Nat.add_zero, Nat.add_mod, halign, Nat.mul_mod, tileTotal_mod, Nat.mul_zero]
  simp only [Dev.rowSpans, List.foldl_cons, List.foldl_nil, List.range_one, Except.bind, hspan, spanCoh_apart hd]
  rfl

theorem stageTiles_one {d : Dev} (hd : d.Undisturbed) (c stage pos : Nat) {a : Nat} {f : Fmt} (hclean : d.clean [(a, tileTotal f)])
    (hgood : tileGood (fun g => g == f) (d.peek a (tileTotal f)) = true) :
    ∃ e, d.stageTiles c stage pos f [.mem [(a, tileTotal f)]] = .ok ([d.peek a (tileTotal f)], e) ∧ d.readsTo e := by
  have hone : d.peekAll [(a, tileTotal f)] = d.peek a (tileTotal f) := by simp [Dev.peekAll]
  obtain ⟨e, hread, hde⟩ := readTiles_good hd c .ls pos (accept := fun g => g == f) (xs := keyedSpans stage [[(a, tileTotal f)]])
    (fun x hx => by rw [List.mem_singleton.1 (mem_of_mem_keyedSpans hx)]; exact hclean)
    (fun x hx => by rw [List.mem_singleton.1 (mem_of_mem_keyedSpans hx), hone]; exact hgood)
  rw [map_keyedSpans] at hread
  refine ⟨e, ?_, hde⟩
  have hkeys := keyedSpans_eq stage [[(a, tileTotal f)]]
  simp only [List.map_cons, List.map_nil] at hkeys hread
  have hheld : [Span.mem [(a, tileTotal f)]].any d.spanHeld = false := by simp [spanHeld_clean hclean]
  unfold Dev.stageTiles
  simp only [hkeys, hread, hheld, hone]
  simp [Dev.spanRemote, Dev.inputsIn]

theorem rowsFit_one (row : TileRow) : rowsFit [some row] = true := by simp [rowsFit]

/-! ## GATHER_ROWS -/

theorem runGather_alone {d : Dev} {c a b qn i r : Nat} {tr : Bool} {q : QCmd} {x : QState} {row : TileRow} {f : Fmt} (ha : engAlone d c .ls q)
    (hop : q.cmd.op = .gatherRows (.addr a) f tr 1 (.mem (.addr b) none .int32 false) qn) (hopen : x.closed = false)
    (htail : d.tailIdx c .ls qn = some i) (hx : d.q? i = some x) (hf : x.decl.fmt = f) (hprod : x.decl.prod.core = c)
    (hcons : x.decl.cons.core = c) (hnear : d.farCons x = false) (hroom : x.ring.length < x.decl.cap) (haligna : a % 32 = 0) (halignb : b % 32 = 0)
    (hjobb : inJobMem d.grade b (tileTotal .int32) = true) (hpoison : d.poison = []) (hheld : d.someHeld = false)
    (hjob : inJobMem d.grade (a + r / 32 * tileTotal f) (tileTotal f) = true)
    (hidx : tileGood (fun g => g == .int32) (d.peek b (tileTotal .int32)) = true) (hrows : indexRows (d.peek b (tileTotal .int32)) = [(r : Int)])
    (hsrc : tileGood (fun g => g == f) (d.peek (a + r / 32 * tileTotal f) (tileTotal f)) = true)
    (hrow : rowOf f (turned tr (d.peek (a + r / 32 * tileTotal f) (tileTotal f))) (r % 32) = some row) :
    ∃ e, d.readsTo e ∧ d.runGather c = (e.setQ i (.withPushed
      [tileOfRows f (tileEpoch (d.peek (a + r / 32 * tileTotal f) (tileTotal f))) [row]])).setCore c (·.setQueue .ls []) := by
  have hd := ha.undisturbed
  have hhostb : b < hostBase := by
    have hend := inJobMem_end hjobb
    simp only [hostBase]
    omega
  have hhost : a + r / 32 * tileTotal f < hostBase := by
    have hend := inJobMem_end hjob
    simp only [hostBase]
    omega
  obtain ⟨e1, hindex, hde1⟩ := indexTile_local hd c rfl halignb hjobb (clean_of_quiet hpoison hheld _ hhostb) hidx
  have hd1 := hde1.accesses.undisturbed hd
  have hspans := rowSpans_one hd1 0 (r := r) (f := f) false haligna (hde1.accesses.grade ▸ hjob)
  obtain ⟨e2, hstage, hde2⟩ := stageTiles_one hd1 c 2 0 (f := f) (hde1.clean (clean_of_quiet hpoison hheld _ hhost))
    ((hde1.peek _ _).symm ▸ hsrc)
  rw [hde1.peek] at hstage
  have hreads := hde1.trans hde2
  have hacc := hreads.accesses
  refine ⟨e2, hreads, ?_⟩
  have hgathered : gatheredRow f tr 1 [(r : Int)] [d.peek (a + r / 32 * tileTotal f) (tileTotal f)] 0 (32 * 0 + 0) = some row := by
    rw [← hrow]
    have hr : ((r : Int) % 32).toNat = r % 32 := by omega
    rw [← hr]
    rfl
  unfold Dev.runGather
  simp only [fresh_alone ha, hop, tailFmt_eq htail hx, hf, hindex, List.flatten_cons, List.flatten_nil, List.append_nil, List.headD_cons, hrows, hspans,
    hstage]
  have hplaces : ((List.range (ceilDiv [(r : Int)].length 32)).flatMap fun g => (List.range 1).map fun j => (g, j)) = [(0, 0)] := by
    simp [ceilDiv]
  have hgroup : ((List.range (min 32 ([(r : Int)].length - 32 * 0))).map fun k =>
      gatheredRow f tr 1 [(r : Int)] [d.peek (a + r / 32 * tileTotal f) (tileTotal f)] 0 (32 * 0 + k)) = [some row] := by
    rw [← hgathered]
    rfl
  have hshape : (decide (1 = 0) || decide (f ≠ f)) = false := by simp
  have hnext : e2.farCons x = false := by rw [Dev.farCons, hacc.isHere]; exact hnear
  simp only [hshape, hplaces, List.any_cons, List.any_nil, List.all_cons, List.all_nil, List.map_cons, List.map_nil, hgroup, rowsFit_one,
    Option.isNone_some, Bool.or_self, Bool.and_self, Bool.not_true, Bool.false_eq_true, if_false, id]
  exact commit_pushes (ts := [_]) (.inr rfl) (hacc.engAlone ha) ((hacc.tailIdx c .ls qn).trans htail) ((hacc.q? i).trans hx) hprod hcons hnext hopen
    hroom

/-! ## SCATTER_ROWS -/

theorem length_mkTile (f : Fmt) (rows cols : Nat) (fl : TileFlags) (scales : List Nat) (epoch : Nat) (code : Nat → Nat → Nat) :
    (mkTile f rows cols fl scales epoch code).length = tileTotal f :=
  length_sealTile_payload (length_leBytes ..) ..

theorem length_replaceRow {f : Fmt} {t new : List Byte} {r : Nat} {row : Option TileRow} (h : replaceRow f t r row = some new) :
    new.length = tileTotal f := by
  simp only [replaceRow, Option.ite_none_right_eq_some, Option.some.injEq] at h
  obtain ⟨-, rfl⟩ := h
  exact length_mkTile ..

/-- One row scattered into its tile. -/
theorem scatterInto_one (f : Fmt) (src : List Byte) (r : Nat) (old : List Byte) :
    scatterInto f 1 [src] [(0, (r : Int))] [(((r : Int).fdiv 32, 0), 0, some old)] =
      [(((r : Int).fdiv 32, 0), 0, replaceRow f old (r % 32) (rowOf f src 0))] := by
  have hr : ((r : Int) % 32).toNat = r % 32 := by omega
  simp only [scatterInto, List.map_cons, List.map_nil, if_true, Option.bind_some, hr]
  rfl

theorem runScatter_alone {d : Dev} {c a b qn i r : Nat} {keep tr : Bool} {q : QCmd} {x : QState} {f : Fmt} {y new : List Byte}
    {ys : List (List Byte)} (ha : engAlone d c .ls q)
    (hop : q.cmd.op = .scatterRows qn keep tr (.mem (.addr b) none .int32 false) (.addr a) f 1 1)
    (hhead : d.headIdx c .ls qn = some i) (hx : d.q? i = some x) (hf : x.decl.fmt = f) (hprod : x.decl.prod.core = c)
    (hcons : x.decl.cons.core = c) (hnear : d.farProd x = false) (hring : x.ring = y :: ys) (haligna : a % 32 = 0) (halignb : b % 32 = 0)
    (hjobb : inJobMem d.grade b (tileTotal .int32) = true) (hpoison : d.poison = []) (hheld : d.someHeld = false)
    (hjob : inJobMem d.grade (a + r / 32 * tileTotal f) (tileTotal f) = true)
    (hidx : tileGood (fun g => g == .int32) (d.peek b (tileTotal .int32)) = true) (hrows : indexRows (d.peek b (tileTotal .int32)) = [(r : Int)])
    (hold : tileGood (fun g => g == f) (d.peek (a + r / 32 * tileTotal f) (tileTotal f)) = true)
    (hy : tileGood (fun g => g == f) y = true)
    (hnew : replaceRow f (d.peek (a + r / 32 * tileTotal f) (tileTotal f)) (r % 32) (rowOf f (turned tr y) 0) = some new) :
    ∃ e, d.accessesTo e ∧ e.mem = d.mem.writes (a + r / 32 * tileTotal f) new ∧
      d.runScatter c = (e.setQ i (.withPopped keep 1)).setCore c (·.setQueue .ls []) := by
  have hd := ha.undisturbed
  have hhostb : b < hostBase := by
    have hend := inJobMem_end hjobb
    simp only [hostBase]
    omega
  have hhost : a + r / 32 * tileTotal f < hostBase := by
    have hend := inJobMem_end hjob
    simp only [hostBase]
    omega
  obtain ⟨e1, hindex, hde1⟩ := indexTile_local hd c rfl halignb hjobb (clean_of_quiet hpoison hheld _ hhostb) hidx
  have hd1 := hde1.accesses.undisturbed hd
  have hspans := rowSpans_one hd1 2 (r := r) (f := f) true haligna (hde1.accesses.grade ▸ hjob)
  obtain ⟨e2, hstage, hde2⟩ := stageTiles_one hd1 c 2 2 (f := f) (hde1.clean (clean_of_quiet hpoison hheld _ hhost))
    ((hde1.peek _ _).symm ▸ hold)
  rw [hde1.peek] at hstage
  have hreads := hde1.trans hde2
  have hacc := hreads.accesses
  have hgather := gather_queue (hacc.undisturbed hd) c .ls (o := ⟨.queue qn keep tr, 1 * 1, 0, fun g => g == f⟩) (x := x) rfl
    (by rw [hacc.headIdx, hhead]; exact (hacc.q? i).trans hx)
    (fun t ht => by
      rw [hring] at ht
      obtain rfl : t = y := by simpa using ht
      rw [hf]
      simpa only [Bool.and_self] using hy)
  have htile : (x.ring.take (1 * 1)).map (turned tr) = [turned tr y] := by rw [hring]; rfl
  obtain ⟨e, hde, hmem, hfinish⟩ := finishWrites_local (hacc.engAlone ha) (xs := [(a + r / 32 * tileTotal f, new)]) (by simpa using hhost)
  have hwrites : [(Span.mem [(a + r / 32 * tileTotal f, tileTotal f)], new)] = localWrites [(a + r / 32 * tileTotal f, new)] := by
    rw [localWrites, List.map_singleton, length_replaceRow hnew]
  have hall := hacc.trans hde
  refine ⟨e, hall, by rw [hmem, hreads.mem]; rfl, ?_⟩
  have hplaces : ([(r : Int)].flatMap fun r => (List.range 1).map fun j => (r.fdiv 32, j)) = [((r : Int).fdiv 32, 0)] := rfl
  have hstart : ((List.range 1).filter (firstPlace [((r : Int).fdiv 32, 0)])) = [0] := rfl
  have hindices : ((List.range 1).map fun i => (i, [(r : Int)].getD i 0)) = [(0, (r : Int))] := rfl
  have hshape : (decide (1 = 0) || decide (f ≠ f)) = false := by simp
  have hcount : ¬ ceilDiv 1 32 ≠ 1 := by decide
  unfold Dev.runScatter
  simp only [fresh_alone ha, hop, headFmt_eq hhead hx, hf, hindex, List.flatten_cons, List.flatten_nil, List.append_nil, List.headD_cons, hrows,
    hspans, hstage, hgather, htile, hshape, hcount, hplaces, hstart, hindices, List.length_singleton, List.map_cons, List.map_nil,
    List.getD_cons_zero, scatterInto_one, hnew, List.any_cons, List.any_nil, Option.isNone_some, Option.getD_some, Bool.or_self, Bool.false_eq_true,
    if_false, hwrites, hfinish]
  exact commit_popping keep (hall.engAlone ha) ((hall.headIdx c .ls qn).trans hhead) ((hall.q? i).trans hx) (hprod.trans hcons.symm)
    (by rw [Dev.farProd, hall.isHere]; exact hnear) (by rw [hring]; simp)

/-! ## O13 -/

theorem withPopped_ring (keep : Bool) (n : Nat) (x : QState) :
    (x.withPopped keep n).ring = if keep then x.ring else x.ring.drop n := by
  cases keep <;> rfl

/-- Settles O13: each of the four commands makes only the reads, writes, pops and pushes that its `run…_alone` lemma names. -/
theorem loadStoreAndRows : Obligations.LoadStoreAndRows := by
  unfold Obligations.LoadStoreAndRows
  refine ⟨?load, ?store, ?gather, ?scatter⟩
  case load =>
    intro s c a n qn i tr q x ha hop htail hx hprod hcons hnear hopen hn hmax hroom halign hjob hclean tile hgood
    obtain ⟨e, hde, hrun⟩ := runLoad_alone ha hop htail hx rfl hprod hcons hnear hopen hn hmax hroom halign hjob hclean hgood
    have hacc := hde.accesses
    obtain ⟨hq, hls, hmem, hpoison, hqs, hcores, her⟩ :=
      completed_facts (hacc.engAlone ha) ((hacc.q? i).trans hx) (.withPushed ((List.range n).map fun j => turned tr (tile j)))
    refine ⟨_, exec_load c s, ?_⟩
    rw [hrun]
    exact ⟨congrArg (Option.map (·.ring)) hq, hls, hmem.trans hde.mem, hpoison.trans hde.poison, rfl, rfl,
      fun j hj => (hqs j hj).trans (hacc.q? j), fun k hk => (hcores k hk).trans (hacc.core k), her.trans hacc.er⟩
  case store =>
    intro s c a n qn i keep tr q x ha hop hheld hhead hx hprod hcons _ hnear hn hmax hring halign hjob hwf hall
    have hlength (j : Nat) (hj : j < n) : (turned tr (x.ring.getD j [])).length = tileTotal x.decl.fmt := by
      have hj' : j < x.ring.length := Nat.lt_of_lt_of_le hj hring
      obtain ⟨hlen, hgood⟩ := hall (x.ring.getD j []) (by simp [hj'])
      exact length_turned tr hlen hgood
    obtain ⟨e, hacc, hwritten, hrun⟩ := runStore_alone ha hop hheld hhead hx rfl hprod hcons hnear hn hmax hring halign hjob
      (fun t ht => (hall t ht).2) hlength
    obtain ⟨hinside, houtside⟩ := Memory.reads_writesAll_consecutive hwf a hlength
    obtain ⟨hq, hls, hmem, -, -, hcores, her⟩ := completed_facts (hacc.engAlone ha) ((hacc.q? i).trans hx) (.withPopped keep n)
    refine ⟨_, exec_store c s, ?_⟩
    rw [hrun]
    have hmem := hmem.trans hwritten
    refine ⟨fun j hj => ?_, fun b hb => ?_, ?_, hls, rfl, rfl, fun k hk => (hcores k hk).trans (hacc.core k), her.trans hacc.er⟩
    · exact (congrArg (Memory.reads · _ _) hmem).trans (hinside j hj)
    · exact (congrArg (Memory.read · b) hmem).trans (houtside b hb)
    · rw [← withPopped_ring]
      exact congrArg (Option.map (·.ring)) hq
  case gather =>
    intro s c a b qn i r tr q x row ha hop hopen htail hx hprod hcons hnear hroom haligna halignb hjobb hpoison hheld idx at_ src hjob hidx hrows
      hsrc hrow
    obtain ⟨e, hde, hrun⟩ := runGather_alone ha hop hopen htail hx rfl hprod hcons hnear hroom haligna halignb hjobb hpoison hheld hjob hidx hrows
      hsrc hrow
    have hacc := hde.accesses
    obtain ⟨hq, hls, hmem, -⟩ :=
      completed_facts (hacc.engAlone ha) ((hacc.q? i).trans hx) (.withPushed [tileOfRows x.decl.fmt (tileEpoch src) [row]])
    refine ⟨_, exec_gatherRows c s, ?_⟩
    rw [hrun]
    exact ⟨congrArg (Option.map (·.ring)) hq, hls, hmem.trans hde.mem, rfl, rfl⟩
  case scatter =>
    intro s c a b qn i r keep tr q x y new ys ha hop hhead hx hprod hcons _ hnear hring haligna halignb _ hjobb hpoison hheld idx at_ old hjob hidx
      hrows hold hy _ hnew
    obtain ⟨e, hacc, hwritten, hrun⟩ := runScatter_alone ha hop hhead hx rfl hprod hcons hnear hring haligna halignb hjobb hpoison hheld hjob hidx
      hrows hold hy hnew
    obtain ⟨hq, hls, hmem, -⟩ := completed_facts (hacc.engAlone ha) ((hacc.q? i).trans hx) (.withPopped keep 1)
    refine ⟨_, exec_scatterRows c s, ?_⟩
    rw [hrun]
    refine ⟨hmem.trans hwritten, ?_, hls, rfl, rfl⟩
    have hpopped := congrArg (Option.map (·.ring)) hq
    rw [Option.map_some, withPopped_ring, hring] at hpopped
    exact hpopped

end Sys2Proof.Machine
end

section
/-! The statement on vector operations (O17) does not hold as it stands: it asks of a report's entry that it can be read (R156) and not that it
lies in job memory, and outside job memory a report writes nothing (R17). -/

namespace Sys2Proof.Machine

open Sys2Proof

theorem exec_amax (c : Nat) (s : State) : exec (.amax c) s = .next (s.dev! (s.dev.runAmax c)) := rfl

/-! ## A report to an entry outside job memory -/

/-- An entry outside job memory is not written (R17). -/
theorem setEntry_outside {d : Dev} {i : Nat} (h : inJobMem d.grade (d.entryAddr i) 64 = false) (e : ScaleEntry) : d.setEntry i e = d := by
  rw [Dev.setEntry, h]
  rfl

theorem entry_readsTo {d e : Dev} (h : d.readsTo e) (i : Nat) : e.entry i = d.entry i := by
  obtain ⟨_, _, _, rfl⟩ := h
  rfl

section
variable {d : Dev} {i : Nat} (hd : d.Undisturbed) (hcount : i < d.scale.count.toNat) (hwhole : d.poisonedIn (d.entryAddr i) 64 = none)
  (hvalid : (d.entry i).valid = 1)
include hd hcount hwhole hvalid

theorem readEntry_whole (req : Nat) : ∃ e, d.readEntry req i = (.ok (d.entry i), e) ∧ d.readsTo e := by
  obtain ⟨e, hread, hde⟩ := readFor_whole hd hwhole req
  refine ⟨e, ?_, hde⟩
  have hvalid' : (entryOf (d.peek (d.entryAddr i) 64)).valid = 1 := hvalid
  simp only [Dev.readEntry, hread, if_neg (Nat.not_le.2 hcount), if_pos hvalid']
  rfl

theorem reportScale_outside (req : Nat) {ref : ScaleRef} (hidx : ref.idx = i) (hiter : ref.iter % 65536 = (d.entry i).iter.toNat)
    (hout : inJobMem d.grade (d.entryAddr i) 64 = false) (amax : Fl) (ovf retry : Nat) :
    ∃ e, d.reportScale req ref amax ovf retry = (.ok (), e) ∧ d.readsTo e := by
  obtain ⟨e, hread, hde⟩ := readEntry_whole hd hcount hwhole hvalid req
  refine ⟨e, ?_, hde⟩
  have hopen : (d.entry i).iter.toNat ≠ ((d.entry i).iter.toNat + 1) % 65536 := by
    have := (d.entry i).iter.isLt
    omega
  have hout' : inJobMem e.grade (e.entryAddr i) 64 = false := by
    obtain ⟨_, _, _, rfl⟩ := hde
    exact hout
  simp only [Dev.reportScale, Dev.touchEntry, hidx, hread, hiter, if_neg hopen, if_true, setEntry_outside hout']

end

/-- AMAX of the tile at the head of a queue, which it keeps, with a report to such an entry: it completes and no entry changes. -/
theorem runAmax_outside {d : Dev} {c qn : Nat} {q : QCmd} {ref : ScaleRef} {x : QState} {t : List Byte} (ha : engAlone d c .vx q)
    (hop : q.cmd.op = .amax (.queue qn true false) ref) (hhead : (d.headIdx c .vx qn).bind d.q? = some x) (hring : x.ring = [t])
    (hgood : tileGood (fun g => g == x.decl.fmt && vxTakes g) t = true) (hcount : ref.idx < d.scale.count.toNat)
    (hwhole : d.poisonedIn (d.entryAddr ref.idx) 64 = none) (hvalid : (d.entry ref.idx).valid = 1)
    (hiter : ref.iter % 65536 = (d.entry ref.idx).iter.toNat) (hout : inJobMem d.grade (d.entryAddr ref.idx) 64 = false) (i : Nat) :
    (d.runAmax c).entry i = d.entry i := by
  have hd := ha.undisturbed
  have hgather := gather_queue hd c .vx (o := ⟨.queue qn true false, 1, 0, vxTakes⟩) rfl hhead (fun y hy => by
    rw [hring] at hy
    rw [List.mem_singleton.1 hy]
    exact hgood)
  obtain ⟨e, hreport, hde⟩ := reportScale_outside hd hcount hwhole hvalid (reqCore c) rfl hiter hout
    (maxAbs ((validCells (tileRows t) (tileCols t)).map fun p => valueAt (tileFmt t) t p.1 p.2)) 0 0
  have htile : (((x.ring.take 1).map (turned false)) :: ([] : List (List (List Byte)))).flatten.headD [] = t := by
    rw [hring]
    rfl
  have hkept : e.popAll c .vx (opPops q.cmd.op) = e := by
    rw [hop]
    rfl
  have hcommit : e.commit c .vx (opPops q.cmd.op) [] = e.setCore c (·.setQueue .vx []) := by
    rw [commit_pops (q := q) (.inl rfl) (by rw [hkept]; exact hde.accesses.engAlone ha), hkept]
  have hrun : d.runAmax c = e.setCore c (·.setQueue .vx []) := by
    rw [← hcommit]
    unfold Dev.runAmax
    simp only [fresh_alone ha, hop, Dev.runVx, hgather, htile, hreport]
  rw [hrun]
  exact entry_readsTo hde i

/-! ## The counterexample -/

/-- The header of an FP32 tile of one element. -/
def twoHdr : Hdr :=
  { format := BitVec.ofNat 8 (fmtCode .fp32), rows := 1, cols := 1, tagValid := 0, nan := 0, ovf := 0, unf := 0, stoch := 0, resv1 := 0, s0 := 0x7F,
    s1 := 0x7F, s2 := 0x7F, s3 := 0x7F, tagEpoch := 0, crc := 0, resv2 := 0 }

/-- Its codes: 2.0, and zero past the element. -/
def twoCode (r c : Nat) : Nat := if r = 0 ∧ c = 0 then 0x40000000 else 0

/-- The tile; opaque, so that no check evaluates its bytes. -/
@[irreducible] def twoTile : List Byte := sealTile (leBytes 32 (packHdr twoHdr).toNat ++ payloadOf .fp32 twoCode)

theorem tileHdr_twoTile : tileHdr twoTile = { twoHdr with crc := (tileHdr twoTile).crc } := by
  have h := tileHdr_setCrc (header_le_length (length_leBytes 32 (packHdr twoHdr).toNat) (payloadOf .fp32 twoCode))
    (tileCrc (leBytes 32 (packHdr twoHdr).toNat ++ payloadOf .fp32 twoCode))
  rw [twoTile]
  rwa [tileHdr_append, unpackHdr_packHdr] at h

theorem tileFmt_twoTile : tileFmt twoTile = .fp32 := by
  rw [tileFmt, tileHdr_twoTile]
  rfl

theorem tileGood_twoTile {accept : Fmt → Bool} (h : accept .fp32 = true) : tileGood accept twoTile = true := by
  have hcrc : crcKind twoTile = .ok := by
    rw [twoTile]
    exact crcKind_sealTile (header_le_length (length_leBytes 32 _) _)
  refine tileGood_iff.2 ⟨hcrc, ?_⟩
  have hfmt : fmtOf twoHdr.format.toNat = some .fp32 := rfl
  rw [hdrKind, tileHdr_twoTile]
  simp only [hfmt, h]
  rfl

theorem codeAt_twoTile : codeAt .fp32 twoTile 0 0 = 0x40000000 := by
  have hcode : ∀ r c, twoCode r c < 2 ^ fmtBits .fp32 := fun r c => by
    unfold twoCode
    split <;> decide
  rw [twoTile, codeAt_sealTile_payload (length_leBytes 32 _) .fp32 twoCode hcode (by decide) (by decide)]
  rfl

/-- The largest absolute value of the tile, as AMAX reports it. -/
theorem maxAbs_twoTile : maxAbs ((validCells (tileRows twoTile) (tileCols twoTile)).map fun p => valueAt (tileFmt twoTile) twoTile p.1 p.2) =
    maxAbs [decodeElem .fp32 0x40000000] := by
  have hcells : validCells (tileRows twoTile) (tileCols twoTile) = [(0, 0)] := by
    rw [tileRows, tileCols, tileHdr_twoTile]
    rfl
  rw [hcells, tileFmt_twoTile, List.map_singleton, valueAt, codeAt_twoTile]
  rfl

/-- A valid E4M3 entry, ITER 1, with nothing reported. -/
def reserveEntry : ScaleEntry := { unpackEntry 0 with format := BitVec.ofNat 8 (fmtCode .e4m3), valid := 1, iter := 1 }

/-- AMAX of the tile at the head of queue 0, kept there, with a report to entry 0 for iteration 1, at the head of VX. -/
def reserveCmd : QCmd :=
  { seq := 0, cmd := { opIndex := 0, raw := 0, waits := [], signals := [], nanTrap := false, op := .amax (.queue 0 true false) ⟨0, 1⟩ },
    started := true, asked := false, inputs := [], ran := false, hold := [], trap := none }

/-- Queue 0, from LS to VX of core 0, with the tile. -/
def reserveQueue : QState :=
  { QState.fresh { num := 0, fmt := .fp32, cap := 2, prod := ⟨none, 0, .ls⟩, cons := ⟨none, 0, .vx⟩, remoteWaitMs := 0 } 0 with
    ring := [twoTile] }

/-- A ZX9440 with that AMAX on core 0, whose ST_BASE points into the firmware reserve of Well 0 (R338). -/
def reserveState : State :=
  { pending := [], toll := Toll.reset,
    dev := { Dev.reset .zx9440 with
      cores := [{ CoreSt.reset with vx := [reserveCmd] }],
      queues := [reserveQueue],
      mem := Memory.writes [] 0xBF0008020 (entryBytes reserveEntry),
      scale := { ScaleRegs.reset with baseLo := 0xF0008000, baseHi := 0xB, count := 1 } } }

theorem reserveState_alone : engAlone reserveState.dev 0 .vx reserveCmd ∧ reserveState.dev.nearQueues ∧ reserveState.dev.mem.wf = true := by
  unfold engAlone Dev.nearQueues
  decide +kernel

theorem reserveState_head : (reserveState.dev.headIdx 0 .vx 0).bind reserveState.dev.q? = some reserveQueue := rfl

theorem reserveState_entry : reserveState.dev.entry 0 = reserveEntry := by decide +kernel

/-- The entry can be read, and lies outside job memory. -/
theorem reserveState_table : 0 < reserveState.dev.scale.count.toNat ∧ reserveState.dev.poisonedIn (reserveState.dev.entryAddr 0) 64 = none ∧
    inJobMem reserveState.dev.grade (reserveState.dev.entryAddr 0) 64 = false ∧ (reserveState.dev.ruleAt (some ⟨0, 1⟩)).isSome = true := by
  decide +kernel

/-- Refutes O17: AMAX reports to an entry in a firmware reserve, which passes the checks of a reference (R153, R156) and is not written
(R17), so its CUR_AMAX stays 0 where the statement asks for 2.0. -/
theorem not_vectorOperationsOnTiles : ¬ Obligations.VectorOperationsOnTiles := by
  rintro ⟨-, h⟩
  obtain ⟨halone, hnear, hwf⟩ := reserveState_alone
  obtain ⟨hcount, hwhole, hout, hrule⟩ := reserveState_table
  obtain ⟨-, -, hamax⟩ := h reserveState 0 reserveCmd halone hnear hwf
  obtain ⟨t, hexec, -, hentry⟩ := hamax (.queue 0 true false) ⟨0, 1⟩ twoTile rfl
    ⟨reserveQueue, reserveState_head, Nat.le_refl 1, rfl, fun y hy => by rw [List.mem_singleton.1 hy, tileFmt_twoTile]; rfl⟩
    (tileGood_twoTile rfl) hrule
  rw [exec_amax] at hexec
  obtain rfl : reserveState.dev! (reserveState.dev.runAmax 0) = t := Host.Outcome.next.inj hexec
  have hkept : (reserveState.dev.runAmax 0).entry 0 = reserveEntry := by
    rw [← reserveState_entry]
    exact runAmax_outside halone rfl reserveState_head rfl (tileGood_twoTile rfl) hcount hwhole (by rw [reserveState_entry]; rfl)
      (by rw [reserveState_entry]; rfl) hout 0
  have hread : asRead (.queue 0 true false) twoTile = twoTile := rfl
  simp only [hread, maxAbs_twoTile, reserveState_entry] at hentry
  exact absurd (congrArg ScaleEntry.curAmax (hkept.symm.trans hentry)) (by decide +kernel)

end Sys2Proof.Machine
end

section
/-! Halts and the job stop (R102 to R108). -/

namespace Sys2Proof.Machine

open Sys2Proof

/-! ## What a halt writes and leaves (R102, R103) -/

/-- A core as its halt leaves it (R102). -/
def CoreSt.haltedBy (s : CoreSt) (h : HaltInfo) : CoreSt :=
  { (s.stopFailing (unitOfCode h.unit) h.seq).dropPartials with halted := true, pushStall := none, waiting := none, taking := false }

theorem haltedBy_keeps (s : CoreSt) (h : HaltInfo) :
    (s.haltedBy h).flags = s.flags ∧ (s.haltedBy h).counters = s.counters ∧ (s.haltedBy h).seqs = s.seqs := by
  have hdrop (k : CoreSt) : k.dropPartials.flags = k.flags ∧ k.dropPartials.counters = k.counters ∧ k.dropPartials.seqs = k.seqs := by
    unfold CoreSt.dropPartials
    split <;> exact ⟨rfl, rfl, rfl⟩
  obtain ⟨hflags, hcounters, hseqs⟩ := hdrop (s.stopFailing (unitOfCode h.unit) h.seq)
  obtain ⟨hflags', hcounters', hseqs'⟩ := stopFailing_facts s (unitOfCode h.unit) h.seq
  exact ⟨hflags.trans hflags', hcounters.trans hcounters', hseqs.trans hseqs'⟩

theorem haltBase_halted {d : Dev} {c : Nat} (hhalted : (d.core c).halted = true) (h : HaltInfo) : d.haltBase c h = d := by
  rw [Dev.haltBase, if_pos hhalted]

/-- What a halt does beside its core and its snapshot: the core takes no item any more, and a halt with SOURCE 0 is recorded and may be the
primary one (R106, R108). -/
def Dev.haltReport (d : Dev) (c : Nat) (h : HaltInfo) : Dev :=
  let d2 := { d with lists := d.lists.map fun l => { l with takes := l.takes.filter fun x => x != c } }
  if h.source = 0 then
    let d3 := d2.detect (detId 0x18 (d2.trust.lmap.getD c 0)) 2 h.injected none (haltArea d2.grade c) (h.reason + c * 256) 0
    { d3 with job := d3.job.map fun j =>
        if j.primary.isNone then { j with primary := some c, errSeq := (h.first.getD d3.er.seq) % 65536 } else j }
  else d2

theorem haltBase_eq {d : Dev} {c : Nat} (hrunning : (d.core c).halted = false) (h : HaltInfo) :
    d.haltBase c h = ((d.setCore c (·.haltedBy h)).write (haltArea d.grade c) (d.snapshot c h)).haltReport c h := by
  rw [Dev.haltBase, if_neg (by rw [hrunning]; decide)]
  extract_lets d1 w
  have hw : (d.setCore c (·.haltedBy h)).write (haltArea d.grade c) (d.snapshot c h) = w := rfl
  rw [hw]
  clear_value w
  rfl

theorem haltReport_eq (d : Dev) (c : Nat) (h : HaltInfo) :
    d.haltReport c h = { d with lists := (d.haltReport c h).lists, er := (d.haltReport c h).er, job := (d.haltReport c h).job } := by
  unfold Dev.haltReport
  dsimp only
  split
  · rw [Dev.detect_eq]
  · rfl

theorem haltReport_job {h : HaltInfo} (hsource : h.source ≠ 0) (d : Dev) (c : Nat) : (d.haltReport c h).job = d.job := by
  rw [Dev.haltReport, if_neg hsource]

section
variable (d : Dev) (c : Nat) (h : HaltInfo)

theorem haltBase_bz : (d.haltBase c h).bz = d.bz := by
  cases hrunning : (d.core c).halted with
  | true => rw [haltBase_halted hrunning]
  | false => rw [haltBase_eq hrunning, haltReport_eq]; simp

theorem haltBase_rd : (d.haltBase c h).rd = d.rd := by
  cases hrunning : (d.core c).halted with
  | true => rw [haltBase_halted hrunning]
  | false => rw [haltBase_eq hrunning, haltReport_eq]; simp

theorem haltBase_job (hsource : h.source ≠ 0) : (d.haltBase c h).job = d.job := by
  cases hrunning : (d.core c).halted with
  | true => rw [haltBase_halted hrunning]
  | false => rw [haltBase_eq hrunning, haltReport_job hsource]; simp

theorem haltBase_cores (hrunning : (d.core c).halted = false) : (d.haltBase c h).cores = (d.setCore c (·.haltedBy h)).cores := by
  rw [haltBase_eq hrunning, haltReport_eq]; simp

theorem haltBase_core_ne {i : Nat} (hne : i ≠ c) : (d.haltBase c h).core i = d.core i := by
  cases hrunning : (d.core c).halted with
  | true => rw [haltBase_halted hrunning]
  | false => rw [Dev.core, haltBase_cores d c h hrunning]; exact core_setCore_ne d c i _ hne

theorem haltBase_core (hrunning : (d.core c).halted = false) (hlen : c < d.cores.length) :
    (d.haltBase c h).core c = (d.core c).haltedBy h := by
  rw [Dev.core, haltBase_cores d c h hrunning]
  exact core_setCore d c _ hlen

theorem haltBase_core_length : (d.haltBase c h).cores.length = d.cores.length := by
  cases hrunning : (d.core c).halted with
  | true => rw [haltBase_halted hrunning]
  | false => rw [haltBase_cores d c h hrunning]; simp [Dev.setCore]

/-- A core within the device has halted after its halt. -/
theorem haltBase_core_halted (hlen : c < d.cores.length) : ((d.haltBase c h).core c).halted = true := by
  cases hrunning : (d.core c).halted with
  | true => rw [haltBase_halted hrunning, hrunning]
  | false => rw [haltBase_core d c h hrunning hlen]; rfl

theorem haltBase_mem (hrunning : (d.core c).halted = false) :
    (d.haltBase c h).mem = d.mem.writes (haltArea d.grade c) (d.snapshot c h) := by
  rw [haltBase_eq hrunning, haltReport_eq]; simp

end

/-! ## The end of rounds and of the job, with none open (R108, R233, R444) -/

theorem endRoundsOf_none {d : Dev} (hrounds : d.bz.rounds = []) (hwaits : d.bz.waits = []) (c : Nat) : d.endRoundsOf c = d := by
  have hbz : d.bz = { d.bz with rounds := [], waits := [] } := by rw [← hrounds, ← hwaits]
  simp only [Dev.endRoundsOf, hrounds, List.filter_nil, List.foldl_nil, hwaits]
  exact congrArg (fun b => { d with bz := b }) hbz.symm

theorem endCollectives_none {d : Dev} (hchannels : d.rd.channels = []) : d.endCollectives = d := by
  simp [Dev.endCollectives, hchannels]

/-- With no JOB_START and no JOB_HALT outstanding nothing follows at once when the job ends. -/
theorem jobCheck_idle {d : Dev} {j : Job} (hjob : d.job = some j) (hstart : j.start = none) (hhalters : j.halters = []) : d.jobCheck = d := by
  have hstart (status reason detail errSeq : Nat) : d.endStart j status reason detail errSeq = d := by simp [Dev.endStart, hstart]
  have hhalts : d.endHalts = d := by
    have hsame : ({ j with halters := [] } : Job) = j := by rw [← hhalters]
    simp only [Dev.endHalts, hjob, hhalters, List.foldl_nil, hsame]
    rw [← hjob]
    exact ite_self _
  simp only [Dev.jobCheck, hjob, hstart, hhalts, ite_self]

/-! ## The job stop (R108) -/

theorem haltedBy_frozen (s : CoreSt) (h : HaltInfo) : (s.haltedBy h).frozen = s.frozen := by
  have hdrop (k : CoreSt) : k.dropPartials.frozen = k.frozen := by
    unfold CoreSt.dropPartials
    split <;> rfl
  have hstop : (s.stopFailing (unitOfCode h.unit) h.seq).frozen = s.frozen := by
    unfold CoreSt.stopFailing
    split
    · rfl
    · split
      · rfl
      · split <;> cases unitOfCode h.unit <;> rfl
  exact (hdrop _).trans hstop

theorem haltBase_core_frozen (d : Dev) (c : Nat) (h : HaltInfo) (i : Nat) : ((d.haltBase c h).core i).frozen = (d.core i).frozen := by
  cases hrunning : (d.core c).halted with
  | true => rw [haltBase_halted hrunning]
  | false =>
    by_cases hi : i = c
    · subst hi
      by_cases hlen : i < d.cores.length
      · rw [haltBase_core d i h hrunning hlen, haltedBy_frozen]
      · rw [Dev.core, haltBase_cores d i h hrunning, Dev.core, Dev.setCore, List.modify_eq_self (Nat.le_of_not_lt hlen)]
    · rw [haltBase_core_ne d c h hi]

/-- What the halts of some cores under a job stop leave as it was, and which cores have halted then: those among them that are not frozen in
a swap. -/
structure Dev.stoppedTo (d : Dev) (cs : List Nat) (e : Dev) : Prop where
  length : e.cores.length = d.cores.length
  bz : e.bz = d.bz
  rd : e.rd = d.rd
  job : e.job = d.job
  frozen : ∀ c, (e.core c).frozen = (d.core c).frozen
  halts : ∀ c ∈ cs, c < d.cores.length → (d.core c).frozen = false → (e.core c).halted = true
  others : ∀ c, (d.core c).halted = true ∨ (d.core c).frozen = true → e.core c = d.core c

theorem Dev.stoppedTo.refl (d : Dev) : d.stoppedTo [] d := ⟨rfl, rfl, rfl, rfl, fun _ => rfl, by simp, fun _ _ => rfl⟩

theorem Dev.stoppedTo.trans {d e f : Dev} {cs ds : List Nat} (hde : d.stoppedTo cs e) (hef : e.stoppedTo ds f) : d.stoppedTo (cs ++ ds) f where
  length := hef.length.trans hde.length
  bz := hef.bz.trans hde.bz
  rd := hef.rd.trans hde.rd
  job := hef.job.trans hde.job
  frozen c := (hef.frozen c).trans (hde.frozen c)
  halts c hc hlen hawake := by
    rcases List.mem_append.1 hc with hc | hc
    · have hhalted := hde.halts c hc hlen hawake
      rw [hef.others c (.inl hhalted), hhalted]
    · exact hef.halts c hc (by rwa [hde.length]) (by rwa [hde.frozen])
  others c hc := by
    have hsame := hde.others c hc
    rw [← hsame] at hc
    exact (hef.others c hc).trans hsame

theorem haltBase_stoppedTo {d : Dev} {c : Nat} {h : HaltInfo} (hsource : h.source ≠ 0) (hawake : (d.core c).frozen = false) :
    d.stoppedTo [c] (d.haltBase c h) where
  length := haltBase_core_length d c h
  bz := haltBase_bz d c h
  rd := haltBase_rd d c h
  job := haltBase_job d c h hsource
  frozen := haltBase_core_frozen d c h
  halts i hi hlen _ := by
    obtain rfl := List.mem_singleton.1 hi
    exact haltBase_core_halted d i h hlen
  others i hi := by
    by_cases hic : i = c
    · subst hic
      rcases hi with hhalted | hfrozen
      · rw [haltBase_halted hhalted]
      · rw [hawake] at hfrozen
        exact absurd hfrozen Bool.false_ne_true
    · exact haltBase_core_ne d c h hic

/-- One core's turn in `haltAll`. -/
def Dev.haltTurn (h : HaltInfo) (d : Dev) (c : Nat) : Dev := if (d.core c).frozen then d else (d.haltBase c h).endRoundsOf c

theorem haltTurn_stoppedTo {d : Dev} {h : HaltInfo} (hsource : h.source ≠ 0) (hrounds : d.bz.rounds = []) (hwaits : d.bz.waits = []) (c : Nat) :
    d.stoppedTo [c] (d.haltTurn h c) := by
  unfold Dev.haltTurn
  split
  · rename_i hfrozen
    refine ⟨rfl, rfl, rfl, rfl, fun _ => rfl, fun i hi _ hawake => ?_, fun _ _ => rfl⟩
    obtain rfl := List.mem_singleton.1 hi
    rw [hfrozen] at hawake
    exact absurd hawake.symm Bool.false_ne_true
  · rename_i hawake
    have hstop := haltBase_stoppedTo (h := h) hsource (Bool.eq_false_iff.2 hawake)
    rwa [endRoundsOf_none (by rw [hstop.bz, hrounds]) (by rw [hstop.bz, hwaits])]

theorem haltTurns_stoppedTo {h : HaltInfo} (hsource : h.source ≠ 0) (cs : List Nat) {d : Dev} (hrounds : d.bz.rounds = [])
    (hwaits : d.bz.waits = []) : d.stoppedTo cs (cs.foldl (Dev.haltTurn h) d) := by
  induction cs generalizing d with
  | nil => exact .refl d
  | cons c cs ih =>
    have hturn := haltTurn_stoppedTo hsource hrounds hwaits c
    exact hturn.trans (ih (by rw [hturn.bz, hrounds]) (by rw [hturn.bz, hwaits]))

theorem haltAll_stoppedTo {d : Dev} {h : HaltInfo} (hsource : h.source ≠ 0) (hrounds : d.bz.rounds = []) (hwaits : d.bz.waits = []) :
    d.stoppedTo (List.range d.n) (d.haltAll h) := haltTurns_stoppedTo hsource _ hrounds hwaits

theorem stopHalt_source (p : Nat) : (stopHalt p).source ≠ 0 := Nat.one_ne_zero

/-- The job stop with nothing outstanding: every core that is not frozen halts, and the job is marked (R108). -/
theorem jobStop_alone {d : Dev} {j : Job} {p : Nat} (hjob : d.job = some j) (hprimary : j.primary = some p) (hgoing : j.stopped = false)
    (hstart : j.start = none) (hhalters : j.halters = []) (hrounds : d.bz.rounds = []) (hwaits : d.bz.waits = [])
    (hchannels : d.rd.channels = []) : d.jobStop = (d.haltAll (stopHalt p)).stopSwaps.markStopped := by
  have hstop := haltAll_stoppedTo (stopHalt_source p) hrounds hwaits
  have hmarked : (d.haltAll (stopHalt p)).stopSwaps.markStopped.job = some { j with stopped := true } := by
    show (d.haltAll (stopHalt p)).job.map _ = _
    rw [hstop.job, hjob]
    rfl
  unfold Dev.jobStop
  simp only [hjob, hprimary, hgoing, Bool.false_eq_true, if_false]
  rw [endCollectives_none (by show (d.haltAll (stopHalt p)).rd.channels = []; rw [hstop.rd, hchannels]), jobCheck_idle hmarked hstart hhalters]

theorem exec_jobStop (s : State) : exec .jobStop s = .next (s.dev! s.dev.jobStop) := rfl

/-- Settles O10: a halt writes its snapshot and touches one core; the job stop is such halts, one core after another. -/
theorem haltsSnapshotAndStop : Obligations.HaltsSnapshotAndStop := by
  unfold Obligations.HaltsSnapshotAndStop
  refine ⟨fun d c h hlen hrunning hwf hcounters => ?_, fun s j p hjob hprimary hgoing hstart hhalters hrounds hwaits hchannels hcores => ?_⟩
  · have hsnapshot := length_snapshot d c h hcounters
    obtain ⟨hflags, hcounts, hseqs⟩ := haltedBy_keeps (d.core c) h
    intro e
    have hcore : e.core c = (d.core c).haltedBy h := haltBase_core d c h hrunning hlen
    have hmem : e.mem = d.mem.writes (haltArea d.grade c) (d.snapshot c h) := haltBase_mem d c h hrunning
    rw [hcore, hmem]
    refine ⟨rfl, hflags, hcounts, hseqs, fun i hi => haltBase_core_ne d c h hi, hsnapshot, ?_, fun a ha => ?_⟩
    · conv_lhs => rw [← hsnapshot]
      exact Memory.reads_writes hwf _ _
    · exact Memory.read_writes_outside hwf _ (by rwa [hsnapshot])
  · have hstop := haltAll_stoppedTo (stopHalt_source p) hrounds hwaits
    refine ⟨_, exec_jobStop s, rfl, rfl, ?_⟩
    rw [State.dev!_dev, jobStop_alone hjob hprimary hgoing hstart hhalters hrounds hwaits hchannels]
    refine ⟨fun c hc hawake => hstop.halts c (List.mem_range.2 hc) (by rwa [hcores]) hawake, hstop.others, ?_⟩
    show ((s.dev.haltAll (stopHalt p)).job.map _).map _ = _
    rw [hstop.job, hjob]
    rfl

end Sys2Proof.Machine
end

section
/-! Tiles and credits of a queue that joins two cores (R79, R81). -/

namespace Sys2Proof.Machine

open Sys2Proof

section
variable {d : Dev} {i : Nat} {s : QState} (hq : d.q? i = some s)
include hq

/-- A push to another core of the device sets a tile out and takes a credit. -/
theorem pushTile_cross (hnear : d.farCons s = false) (hcross : s.decl.prod.core ≠ s.decl.cons.core) (t : List Byte) :
    d.pushTile i t = d.setQ i fun x => { x with transit := x.transit ++ [t], credits := x.credits - 1, pushed := x.pushed + 1 } := by
  simp [Dev.pushTile, hq, hnear, hcross]

/-- A pop from another core of the device frees slots and sets their credits out. -/
theorem popTiles_cross (hnear : d.farProd s = false) (hcross : s.decl.prod.core ≠ s.decl.cons.core) {n : Nat} (hn : n ≤ s.ring.length) :
    d.popTiles i n = d.setQ i fun x => { x with ring := x.ring.drop n, back := x.back + n } := by
  simp only [Dev.popTiles, hq, hnear, hcross, Bool.false_eq_true, if_false, ne_eq, not_false_eq_true, if_true, Nat.min_eq_left hn, setQ_setQ]
  rfl

end

/-- A tile on its way between dies crosses the bridge, which nothing disturbs with no slot armed. -/
theorem crossing_unarmed {d : Dev} (hunarmed : d.unarmed = true) (a b die : Nat) :
    (if a = b then (true, d) else d.bridgeCheck die) = (true, d) := by
  split
  · rfl
  · exact bridge_unarmed d die hunarmed

/-- The oldest tile in transit comes into the ring where neither core has anything to start or to go on with. -/
theorem tileArrival_rest {d : Dev} {c q i : Nat} {x : QState} (hcross : d.crossIdx c q = some i) (hx : d.q? i = some x)
    (hunarmed : d.unarmed = true) (hrunning : (d.core c).halted = false) (hawake : (d.core c).frozen = false)
    (hrest : (d.core c).atRest = true) (hprod : (d.core x.decl.prod.core).atRest = true) {t : List Byte} {ts : List (List Byte)}
    (ht : x.transit = t :: ts) : d.tileArrival c q = d.setQ i fun y => { y with transit := ts, ring := y.ring ++ [t] } := by
  simp only [Dev.tileArrival, hcross, Option.bind_some, hx, Option.map_some, ht, hrunning, hawake, Bool.or_self, Bool.false_eq_true, if_false,
    crossing_unarmed hunarmed, Bool.not_true]
  rw [reevaluate_rest (d.setQ i _) c hrest]
  exact settleCore_rest (d.setQ i _) _ hprod

/-- A credit comes back to a producer that has nothing to go on with. -/
theorem creditReturn_rest {d : Dev} {c q i : Nat} {x : QState} (hcross : d.crossIdx c q = some i) (hx : d.q? i = some x)
    (hawake : (d.core x.decl.prod.core).frozen = false) (hprod : (d.core x.decl.prod.core).atRest = true) (hback : 0 < x.back) :
    d.creditReturn c q = d.setQ i fun y => { y with back := y.back - 1, credits := y.credits + 1 } := by
  simp only [Dev.creditReturn, hcross, Option.bind_some, hx, Option.map_some, hawake, Nat.ne_of_gt hback, decide_false, Bool.or_self,
    Bool.false_eq_true, if_false]
  exact settleCore_rest (d.setQ i _) _ hprod

theorem exec_tileArrival (c q : Nat) (s : State) : exec (.tileArrival c q) s = .next (s.dev! (s.dev.tileArrival c q)) := rfl
theorem exec_creditReturn (c q : Nat) (s : State) : exec (.creditReturn c q) s = .next (s.dev! (s.dev.creditReturn c q)) := rfl

/-- Settles O11: a push and a pop each move what they take from one place of the queue to another, and so does each arrival. -/
theorem tilesAndCreditsConserved : Obligations.TilesAndCreditsConserved := by
  unfold Obligations.TilesAndCreditsConserved
  refine ⟨fun d i s hq hcons hprod hcross => ⟨fun t hcredit => ?_, fun n hn => ?_⟩, ?_⟩
  · rw [pushTile_cross hq hcons hcross]
    refine ⟨_, q_setQ d i _ s hq, ?_, rfl⟩
    simp only [List.length_append, List.length_singleton]
    omega
  · rw [popTiles_cross hq hprod hcross hn]
    refine ⟨_, q_setQ d i _ s hq, ?_, rfl, rfl⟩
    simp only [List.length_drop]
    omega
  · intro s c q i x hcross hx hunarmed hrunning hawake hprodAwake hrest hprodRest
    refine ⟨fun t ts ht => ?_, fun hback => ?_⟩
    · rw [exec_tileArrival, tileArrival_rest hcross hx hunarmed hrunning hawake hrest hprodRest ht]
      rfl
    · rw [exec_creditReturn, creditReturn_rest hcross hx hprodAwake hprodRest hback]
      rfl

end Sys2Proof.Machine
end

section
/-! The last command of an engine, MX among them, commits (R73, R78, R79, R87): its pops are made, its tiles go to queues with room, its entry
frees, and where MX idles then its run retires (R533). -/

namespace Sys2Proof.Machine

open Sys2Proof

/-! ## Rings that change -/

/-- A device after pops and pushes whose ends both lie here: only what lies in rings, and credits, may differ. -/
inductive Dev.ringsTo (d : Dev) : Dev → Prop where
  | refl : d.ringsTo d
  | step {e : Dev} {i : Nat} {g : QState → QState} (h : d.ringsTo e) (hg : keepsEnds g) : d.ringsTo (e.setQ i g)

theorem Dev.ringsTo.trans {d e f : Dev} (hde : d.ringsTo e) (hef : e.ringsTo f) : d.ringsTo f := by
  induction hef with
  | refl => exact hde
  | step _ hg ih => exact ih.step hg

theorem Dev.ringsTo.of_setQ (d : Dev) (i : Nat) {g : QState → QState} (hg : keepsEnds g) : d.ringsTo (d.setQ i g) := Dev.ringsTo.refl.step hg

/-- The device with its queues replaced. -/
def Dev.withQueues (d : Dev) (qs : List QState) : Dev := { d with queues := qs }

section
variable {d e : Dev} (h : d.ringsTo e)
include h

theorem Dev.ringsTo.eq : e = d.withQueues e.queues := by
  induction h with
  | refl => rfl
  | step _ _ ih => rw [ih]; rfl

theorem Dev.ringsTo.cores : e.cores = d.cores := by rw [h.eq]; rfl
theorem Dev.ringsTo.core (c : Nat) : e.core c = d.core c := by rw [h.eq]; rfl
theorem Dev.ringsTo.isHere (p : QEndpoint) : e.isHere p = d.isHere p := by rw [h.eq]; rfl

theorem Dev.ringsTo.tailIdx (c : Nat) (u : EngUnit) (n : Nat) : e.tailIdx c u n = d.tailIdx c u n := by
  induction h with
  | refl => rfl
  | step _ hg ih => rw [tailIdx_setQ hg, ih]

theorem Dev.ringsTo.headIdx (c : Nat) (u : EngUnit) (n : Nat) : e.headIdx c u n = d.headIdx c u n := by
  induction h with
  | refl => rfl
  | step _ hg ih => rw [headIdx_setQ hg, ih]

theorem Dev.ringsTo.landed (c : Nat) (u : EngUnit) : e.landed c u = d.landed c u := by
  induction h with
  | refl => rfl
  | step _ hg ih => rw [landed_setQ hg, ih]

end

/-! ## The engine's entry frees -/

/-- A command alone on the engines of its core: it runs, raises nothing and has no NAN_TRAP, and nothing that it wrote is still under way. -/
structure Dev.lone (d : Dev) (c : Nat) (u : EngUnit) (q : QCmd) : Prop where
  engine : u = .mx ∨ u = .vx ∨ u = .ls
  queue : (d.core c).queue u = [q]
  started : q.started = true
  signals : q.cmd.signals = []
  nanTrap : q.cmd.nanTrap = false
  others : ∀ v ∈ [EngUnit.mx, .vx, .ls], v ≠ u → (d.core c).queue v = []
  pipe : (d.core c).pipe = []
  ending : (d.core c).ending = none
  len : c < d.cores.length
  landed : d.landed c u = true
  written : d.writesOut c = false

theorem engAlone.lone {d : Dev} {c : Nat} {u : EngUnit} {q : QCmd} (h : engAlone d c u q) (hcc : u ≠ .cc) (hst : u ≠ .st) : d.lone c u q := by
  obtain ⟨hqueue, hstarted, -, -, -, -, hsignals, hnanTrap, hothers, hpipe, -, hending, hlen, -, -, -, hlanded, hwritten⟩ := h
  refine ⟨?_, hqueue, hstarted, hsignals, hnanTrap, hothers, hpipe, hending, hlen, hlanded, hwritten⟩
  cases u with
  | cc => exact absurd rfl hcc
  | st => exact absurd rfl hst
  | mx => exact .inl rfl
  | vx => exact .inr (.inl rfl)
  | ls => exact .inr (.inr rfl)

/-- Pops and pushes leave a command alone. -/
theorem Dev.lone.ringsTo {d e : Dev} {c : Nat} {u : EngUnit} {q : QCmd} (ha : d.lone c u q) (h : d.ringsTo e) : e.lone c u q := by
  have hcore := h.core c
  have hwritten : e.writesOut c = d.writesOut c := by rw [h.eq]; rfl
  exact ⟨ha.engine, by rw [hcore, ha.queue], ha.started, ha.signals, ha.nanTrap, by rw [hcore]; exact ha.others, by rw [hcore, ha.pipe],
    by rw [hcore, ha.ending], by rw [h.cores]; exact ha.len, by rw [h.landed, ha.landed], by rw [hwritten, ha.written]⟩

/-- The end of a run changes the counters and what is coalesced (R533). -/
theorem runEnd_eq (d : Dev) (c : Nat) :
    d.runEnd c = { d with ct := (d.runEnd c).ct, er := { d.er with coalesce := (d.runEnd c).er.coalesce } } := by
  have hdetect (d : Dev) (det : Nat) (inj : Bool) (addr : Option Nat) (d0 d1 d2 : Nat) :
      (d.detect det 0 inj addr d0 d1 d2).er = { d.er with coalesce := (d.detect det 0 inj addr d0 d1 d2).er.coalesce } := by
    unfold Dev.detect
    simp only [if_true]
    split <;> rfl
  have hwork (d : Dev) (row achieved : Nat) (b : Bound) (covered : Bool) :
      (d.retireWork row achieved b covered).er = { d.er with coalesce := (d.retireWork row achieved b covered).er.coalesce } := by
    unfold Dev.retireWork
    split
    · rfl
    · dsimp only
      split
      · exact hdetect _ _ _ _ _ _ _
      · rfl
  unfold Dev.runEnd Dev.retireTrack
  split
  · rfl
  · dsimp only
    rw [Dev.retireWork_eq, hwork]
    rfl

/-- The device once an engine has nothing left: where MX has neither a command nor an open accumulation, its run ends. -/
def Dev.freed (d : Dev) (c : Nat) (u : EngUnit) : Dev :=
  let e := d.setCore c (·.setQueue u [])
  if u = .mx ∧ (d.core c).acc.pairs = [] then e.runEnd c else e

theorem freed_eq (d : Dev) (c : Nat) (u : EngUnit) :
    d.freed c u = { d.setCore c (·.setQueue u []) with ct := (d.freed c u).ct, er := { d.er with coalesce := (d.freed c u).er.coalesce } } := by
  unfold Dev.freed
  dsimp only
  split
  · rw [runEnd_eq]; rfl
  · rfl

theorem freed_other {u : EngUnit} (hu : u ≠ .mx) (d : Dev) (c : Nat) : d.freed c u = d.setCore c (·.setQueue u []) :=
  if_neg fun h => hu h.1

theorem freed_core {d : Dev} {c : Nat} (hlen : c < d.cores.length) (u : EngUnit) : (d.freed c u).core c = (d.core c).setQueue u [] := by
  rw [freed_eq]
  exact core_setCore d c _ hlen

theorem freed_core_ne (d : Dev) {c k : Nat} (hk : k ≠ c) (u : EngUnit) : (d.freed c u).core k = d.core k := by
  rw [freed_eq]
  exact core_setCore_ne d c k _ hk

/-- What a command's head becomes does not matter once its entry frees. -/
theorem setHead_freed {d : Dev} {c : Nat} (hlen : c < d.cores.length) (u : EngUnit) (f : QCmd → QCmd) : (d.setHead c u f).freed c u = d.freed c u := by
  have hacc : ((d.setHead c u f).core c).acc = (d.core c).acc := by
    rw [Dev.setHead, core_setCore d c _ hlen]
    cases u <;> rfl
  unfold Dev.freed
  rw [hacc, setHead_setQueue_nil]

theorem Dev.lone.complete {d : Dev} {c : Nat} {u : EngUnit} {q : QCmd} (ha : d.lone c u q) (htrap : q.trap = none) : d.complete c u = d.freed c u := by
  have hcore : (d.setCore c fun s => s.setQueue u []).core c = (d.core c).setQueue u [] := core_setCore d c _ ha.len
  have hidle : (d.setCore c fun s => s.setQueue u []).mxIdle c (d.core c) = d.freed c u := by
    unfold Dev.mxIdle Dev.freed
    simp only [hcore, setQueue_pipe, ha.pipe]
    rcases ha.engine with rfl | hu
    · have hmx : (d.core c).mx = [q] := ha.queue
      simp [CoreSt.setQueue, hmx]
    · have hne : u ≠ .mx := by rcases hu with rfl | rfl <;> decide
      have hmx : (d.core c).mx = [] := ha.others .mx (by decide) hne.symm
      simp [hmx, hne]
  have hfreed := freed_core ha.len u
  have hstays : ((d.core c).halted && !(d.core c).halted) = false := by cases (d.core c).halted <;> rfl
  unfold Dev.complete Dev.leave
  simp only [ha.queue, htrap, hidle, ha.signals, Dev.raiseSignals, List.foldl_nil, Dev.afterHalt, hfreed, setQueue_halted, hstays,
    Bool.false_eq_true, if_false]
  exact finishEnd_none (by rw [hfreed, setQueue_ending, ha.ending])

/-- A command whose running, signals and traps stay is still alone. -/
theorem Dev.lone.setHead {d : Dev} {c : Nat} {u : EngUnit} {q : QCmd} (ha : d.lone c u q) {f : QCmd → QCmd} (hstarted : (f q).started = true)
    (hcmd : (f q).cmd = q.cmd) : (d.setHead c u f).lone c u (f q) := by
  have hcc : u ≠ .cc := by rcases ha.engine with rfl | rfl | rfl <;> decide
  have hcore : (d.setHead c u f).core c = (d.core c).setQueue u [f q] := core_setHead ha.len ha.queue f
  refine ⟨ha.engine, by rw [hcore, setQueue_queue _ hcc], hstarted, by rw [hcmd, ha.signals], by rw [hcmd, ha.nanTrap], fun v hv hne => ?_,
    by rw [hcore, setQueue_pipe, ha.pipe], by rw [hcore, setQueue_ending, ha.ending], by simpa [Dev.setHead, Dev.setCore] using ha.len, ha.landed,
    ha.written⟩
  rw [hcore, setQueue_queue_ne _ hne, ha.others v hv hne]

/-- A command that is alone and has run pushes its tiles, where each finds room, and completes. -/
theorem Dev.lone.settleCmd {d : Dev} {c : Nat} {u : EngUnit} {q : QCmd} (ha : d.lone c u q) (hran : q.ran = true) (htrap : q.trap = none) {e : Dev} (he : d.ringsTo e)
    (hpush : d.pushHeld c u q.hold = ([], e)) : d.settleCmd c u = e.freed c u := by
  let out (x : QCmd) : QCmd := { x with hold := [] }
  have hcc : u ≠ .cc := by rcases ha.engine with rfl | rfl | rfl <;> decide
  have hrunning : d.running c u = some q := by simp [Dev.running, ha.queue, ha.started]
  have hout : (e.setHead c u out).lone c u (out q) := (ha.ringsTo he).setHead ha.started rfl
  have hstill : ((e.setHead c u out).running c u).isSome = true := by simp [Dev.running, hout.queue, out, ha.started]
  unfold Dev.settleCmd
  simp only [hrunning, hran, Bool.not_true, Bool.false_eq_true, if_false, hpush]
  rw [if_pos]
  · exact (hout.complete htrap).trans (setHead_freed (by rw [he.cores]; exact ha.len) u out)
  · change (((e.setHead c u out).running c u).isSome && List.isEmpty ([] : List (Nat × List Byte)) && (e.setHead c u out).landed c u &&
      !(decide (u = .ls) && (e.setHead c u out).writesOut c)) = true
    rw [hstill, hout.landed, hout.written, Bool.and_false]
    rfl

/-- The engines of a core of which one alone has a command go on as that one does. -/
theorem Dev.lone.settleCore {d : Dev} {c : Nat} {u : EngUnit} {q : QCmd} (ha : d.lone c u q) {e : Dev}
    (hothers : ∀ v ∈ [EngUnit.mx, .vx, .ls], v ≠ u → ((e.freed c u).core c).queue v = []) (hsettle : d.settleCmd c u = e.freed c u) :
    d.settleCore c = e.freed c u := by
  have hbefore {v : EngUnit} (hv : v ∈ [EngUnit.mx, .vx, .ls]) (hne : v ≠ u) : d.settleCmd c v = d := settleCmd_empty (ha.others v hv hne)
  have hafter {v : EngUnit} (hv : v ∈ [EngUnit.mx, .vx, .ls]) (hne : v ≠ u) : (e.freed c u).settleCmd c v = e.freed c u :=
    settleCmd_empty (hothers v hv hne)
  unfold Dev.settleCore
  rw [settleJob_empty ha.pipe]
  rcases ha.engine with rfl | rfl | rfl
  · rw [hsettle, hafter (v := .vx) (by decide) (by decide), hafter (v := .ls) (by decide) (by decide)]
  · rw [hbefore (v := .mx) (by decide) (by decide), hsettle, hafter (v := .ls) (by decide) (by decide)]
  · rw [hbefore (v := .mx) (by decide) (by decide), hbefore (v := .vx) (by decide) (by decide), hsettle]

/-- A command that is alone commits: its pops are made, its tiles go out, and its entry frees (R78, R79, R87). -/
theorem Dev.lone.commit {d : Dev} {c : Nat} {u : EngUnit} {q : QCmd} {pops : List (Nat × Nat × Bool × Nat)} {outs : List (Nat × List Byte)}
    (hclosed : d.closedPush c u outs = none) (ha : (d.popAll c u pops).lone c u q) {e : Dev} (he : (d.popAll c u pops).ringsTo e)
    (hpush : ∀ f : CoreSt → CoreSt, ((((d.popAll c u pops).setCore c f).core c).pusher u).isSome = true →
      ((d.popAll c u pops).setCore c f).pushHeld c u outs = ([], e.setCore c f)) :
    d.commit c u pops outs = e.freed c u := by
  unfold Dev.commit
  simp only [hclosed]
  set p := d.popAll c u pops
  set f := fun q : QCmd => { q with ran := true, hold := outs, trap := if q.cmd.nanTrap then q.trap.or (nanTrapOf outs) else none }
  have hf : f q = { q with ran := true, hold := outs, trap := none } := by simp [f, ha.nanTrap]
  have hlone : (p.setHead c u f).lone c u (f q) := ha.setHead (by rw [hf]; exact ha.started) (by rw [hf])
  have hpusher : (((p.setHead c u f).core c).pusher u).isSome = true := by
    unfold CoreSt.pusher
    rw [hlone.pipe, hlone.queue, hf]
    simp [ha.started]
  have hhead : (p.setHead c u f).ringsTo (e.setHead c u f) := by
    clear hpush
    induction he with
    | refl => exact .refl
    | step _ hg ih => exact ih.step hg
  have hlen : c < e.cores.length := by rw [he.cores]; exact ha.len
  have hsettle : (p.setHead c u f).settleCmd c u = e.freed c u :=
    (hlone.settleCmd (by rw [hf]) (by rw [hf]) hhead (by rw [hf]; exact hpush _ hpusher)).trans (setHead_freed hlen u f)
  refine hlone.settleCore (fun v hv hne => ?_) hsettle
  rw [freed_core hlen, setQueue_queue_ne _ hne, he.core, ha.others v hv hne]

end Sys2Proof.Machine
end

section
/-! Work lists, reserved slots, END and CLOSE (R80, R91 to R97, R114). -/

namespace Sys2Proof.Machine

open Sys2Proof

/-! ## A core or a list changed -/

/-- Two changes of a core that agree on the core as it stands are one change. -/
theorem setCore_congr {d : Dev} {c : Nat} {f g : CoreSt → CoreSt} (h : f (d.core c) = g (d.core c)) : d.setCore c f = d.setCore c g := by
  unfold Dev.setCore
  congr 1
  refine List.ext_getElem (by simp) fun i h1 h2 => ?_
  have hi : i < d.cores.length := by simpa using h1
  simp only [List.getElem_modify]
  split
  · rename_i hc
    subst hc
    simpa [Dev.core, hi] using h
  · rfl

theorem setList_setList (d : Dev) (die : Nat) (f g : WorkList → WorkList) : (d.setList die f).setList die g = d.setList die (g ∘ f) := by
  simp only [Dev.setList, List.modify_modify_eq]

/-- Two changes of a list that agree on the list as it stands are one change. -/
theorem setList_congr {d : Dev} {die : Nat} {f g : WorkList → WorkList} (h : f (d.list die) = g (d.list die)) :
    d.setList die f = d.setList die g := by
  unfold Dev.setList
  congr 1
  refine List.ext_getElem (by simp) fun i h1 h2 => ?_
  have hi : i < d.lists.length := by simpa using h1
  simp only [List.getElem_modify]
  split
  · rename_i hc
    subst hc
    simpa [Dev.list, hi] using h
  · rfl

/-- A change of a list that leaves what waits for room. -/
theorem list_setList_back {f : WorkList → WorkList} (hf : ∀ l, (f l).back = l.back) (d : Dev) (die : Nat) :
    ((d.setList die f).list die).back = (d.list die).back := by
  simp only [Dev.list, Dev.setList, List.getD_eq_getElem?_getD, List.getElem?_modify_eq]
  cases d.lists[die]? with
  | none => rfl
  | some l => exact hf l

theorem list_setList {d : Dev} {die : Nat} (hdie : die < d.lists.length) (f : WorkList → WorkList) :
    (d.setList die f).list die = f (d.list die) := by
  simp [Dev.list, Dev.setList, hdie]

theorem lt_of_list_takes {d : Dev} {die : Nat} (h : (d.list die).takes ≠ []) : die < d.lists.length := by
  by_contra hdie
  rw [Dev.list, List.getD_eq_default _ _ (Nat.le_of_not_lt hdie)] at h
  exact h rfl

/-! ## The order of items (R93) -/

/-- The oldest item of the highest class among some, by the classes from `k` on. -/
def bestOf (ks : List Nat) (es : List WorkEntry) : Option WorkEntry := ks.findSome? fun k => es.find? fun e => e.item.cls == k

/-- An item suits a group when its AFFINITY names none or that one. -/
def WorkEntry.suits (g : Nat) (e : WorkEntry) : Bool := e.item.affinity.all (· == g)

theorem suits_iff (g : Nat) (e : WorkEntry) : e.suits g = true ↔ e.item.affinity = none ∨ e.item.affinity = some g := by
  unfold WorkEntry.suits
  cases e.item.affinity <;> simp

theorem pickItem_eq (items : List WorkEntry) (g : Nat) :
    pickItem items g = (bestOf [0, 1, 2, 3] (items.filter (WorkEntry.suits g))).or (bestOf [0, 1, 2, 3] items) := rfl

/-- What `bestOf` finds: an item of the first class named of which there is one, and the first of that class. -/
theorem bestOf_eq_some {ks : List Nat} {es : List WorkEntry} {e : WorkEntry} (h : bestOf ks es = some e) :
    ∃ before after, ks = before ++ e.item.cls :: after ∧ (∀ k ∈ before, ∀ x ∈ es, x.item.cls ≠ k) ∧
      es.find? (fun x => x.item.cls == e.item.cls) = some e := by
  obtain ⟨before, k, after, hks, hfind, hnone⟩ := List.findSome?_eq_some_iff.1 h
  have hk : e.item.cls = k := by simpa using List.find?_some hfind
  subst hk
  refine ⟨before, after, hks, fun k hk x hx => ?_, hfind⟩
  have := List.find?_eq_none.1 (hnone k hk) x hx
  simpa using this

/-- Of items whose classes lie in 0 to 3 the best has the highest class. -/
theorem bestOf_least {es : List WorkEntry} {e : WorkEntry} (hcls : ∀ x ∈ es, x.item.cls ≤ 3) (h : bestOf [0, 1, 2, 3] es = some e) :
    ∀ x ∈ es, e.item.cls ≤ x.item.cls := by
  obtain ⟨before, after, hks, hnone, -⟩ := bestOf_eq_some h
  intro x hx
  by_contra hlt
  have hsorted : (before ++ e.item.cls :: after).Pairwise (· < ·) := hks ▸ (by decide)
  have hmem : x.item.cls ∈ before ++ e.item.cls :: after := by
    rw [← hks]
    have := hcls x hx
    simp only [List.mem_cons, List.not_mem_nil, or_false]
    omega
  rw [List.pairwise_append, List.pairwise_cons] at hsorted
  obtain ⟨-, ⟨hafter, -⟩, -⟩ := hsorted
  rcases List.mem_append.1 hmem with hin | hin
  · exact hnone _ hin x hx rfl
  · rcases List.mem_cons.1 hin with heq | hin
    · omega
    · have := hafter _ hin
      omega

theorem bestOf_isSome {es : List WorkEntry} (hcls : ∀ x ∈ es, x.item.cls ≤ 3) {x : WorkEntry} (hx : x ∈ es) :
    (bestOf [0, 1, 2, 3] es).isSome = true := by
  unfold bestOf
  rw [List.findSome?_isSome_iff]
  refine ⟨x.item.cls, ?_, ?_⟩
  · have := hcls x hx
    simp only [List.mem_cons, List.not_mem_nil, or_false]
    omega
  · rw [List.find?_isSome]
    exact ⟨x, hx, by simp⟩

theorem mem_of_bestOf {ks : List Nat} {es : List WorkEntry} {e : WorkEntry} (h : bestOf ks es = some e) : e ∈ es := by
  obtain ⟨-, -, -, -, hfind⟩ := bestOf_eq_some h
  exact List.mem_of_find?_eq_some hfind

/-- The best of some items that pass a test comes before every other of its class that passes. -/
theorem bestOf_oldest {p : WorkEntry → Bool} {pre post : List WorkEntry} {e : WorkEntry} (hnew : e ∉ pre)
    (h : bestOf [0, 1, 2, 3] ((pre ++ e :: post).filter p) = some e) {x : WorkEntry} (hx : x ∈ pre) (hp : p x = true) :
    x.item.cls ≠ e.item.cls := by
  obtain ⟨-, -, -, -, hfind⟩ := bestOf_eq_some h
  intro hsame
  rw [List.filter_append, List.find?_append] at hfind
  have hsome : ((pre.filter p).find? fun y => y.item.cls == e.item.cls).isSome = true := by
    rw [List.find?_isSome]
    exact ⟨x, List.mem_filter.2 ⟨hx, hp⟩, by simp [hsame]⟩
  obtain ⟨y, hy⟩ := Option.isSome_iff_exists.1 hsome
  rw [hy, Option.some_or, Option.some_inj] at hfind
  subst hfind
  exact hnew (List.mem_filter.1 (List.mem_of_find?_eq_some hy)).1

/-- The order of a take: the best of the items that suit the group, or where none does the best of all. -/
theorem pickItem_cases {items : List WorkEntry} {g : Nat} {e : WorkEntry} (hcls : ∀ x ∈ items, x.item.cls ≤ 3) (h : pickItem items g = some e) :
    bestOf [0, 1, 2, 3] (items.filter (WorkEntry.suits g)) = some e ∨
      ((∀ x ∈ items, x.suits g = false) ∧ bestOf [0, 1, 2, 3] items = some e) := by
  rw [pickItem_eq] at h
  cases hsuits : bestOf [0, 1, 2, 3] (items.filter (WorkEntry.suits g)) with
  | some x => exact .inl (by rwa [hsuits, Option.some_or] at h)
  | none =>
    refine .inr ⟨fun x hx => ?_, by rwa [hsuits, Option.none_or] at h⟩
    by_contra hx'
    have hmem := List.mem_filter.2 ⟨hx, Bool.eq_true_of_not_eq_false hx'⟩
    have := bestOf_isSome (fun y hy => hcls y (List.mem_filter.1 hy).1) hmem
    rw [hsuits] at this
    exact Bool.false_ne_true this

theorem pickItem_order {items : List WorkEntry} {g : Nat} {e : WorkEntry} (hcls : ∀ x ∈ items, x.item.cls ≤ 3) (h : pickItem items g = some e) :
    let suits (x : WorkEntry) : Prop := x.item.affinity = none ∨ x.item.affinity = some g
    e ∈ items ∧
    ((∃ x ∈ items, suits x) → suits e ∧ (∀ x ∈ items, suits x → e.item.cls ≤ x.item.cls) ∧
      (∀ pre post, items = pre ++ e :: post → e ∉ pre → ∀ x ∈ pre, suits x → x.item.cls ≠ e.item.cls)) ∧
    ((∀ x ∈ items, ¬ suits x) → ∀ x ∈ items, e.item.cls ≤ x.item.cls) := by
  simp only [← suits_iff]
  rcases pickItem_cases hcls h with hbest | ⟨hnone, hbest⟩
  · obtain ⟨hmem, hsuits⟩ := List.mem_filter.1 (mem_of_bestOf hbest)
    refine ⟨hmem, fun _ => ⟨hsuits, fun x hx hxs => ?_, fun pre post hitems hnew x hx hxs => ?_⟩, fun hno => absurd hsuits (hno e hmem)⟩
    · exact bestOf_least (fun y hy => hcls y (List.mem_filter.1 hy).1) hbest x (List.mem_filter.2 ⟨hx, hxs⟩)
    · rw [hitems] at hbest
      exact bestOf_oldest hnew hbest hx hxs
  · refine ⟨mem_of_bestOf hbest, fun ⟨x, hx, hxs⟩ => ?_, fun _ => bestOf_least hcls hbest⟩
    rw [hnone x hx] at hxs
    exact absurd hxs Bool.false_ne_true

theorem items_ne_nil_of_pick {items : List WorkEntry} {g : Nat} {e : WorkEntry} (h : pickItem items g = some e) : items ≠ [] := by
  rintro rfl
  exact absurd h (by rw [pickItem_eq]; simp [bestOf])

/-! ## LIST_PUSH (R92) -/

theorem tableCheck_unarmed {d : Dev} (h : d.unarmed = true) (die table : Nat) : d.tableCheck die table = (true, d) := by
  simp [Dev.tableCheck, mimic_unarmed d _ h]

/-- The command at the head of the ST path completes: its entry frees. -/
theorem complete_st {d : Dev} {c : Nat} {q : QCmd} {qs : List QCmd} (hlen : c < d.cores.length) (hqueue : (d.core c).st = q :: qs)
    (htrap : q.trap = none) (hsignals : q.cmd.signals = []) (hending : (d.core c).ending = none) :
    d.complete c .st = d.setCore c fun k => { k with st := qs } := by
  have hcore : (d.setCore c fun k => k.setQueue .st qs).core c = (d.core c).setQueue .st qs := core_setCore d c _ hlen
  have hidle : (d.setCore c fun k => k.setQueue .st qs).mxIdle c (d.core c) = d.setCore c fun k => k.setQueue .st qs := by
    unfold Dev.mxIdle
    rw [hcore]
    refine if_neg ?_
    change ¬ ((d.core c).mx.isEmpty && (d.core c).pipe.isEmpty && (d.core c).acc.pairs.isEmpty &&
      !((d.core c).mx.isEmpty && (d.core c).pipe.isEmpty)) = true
    cases (d.core c).mx.isEmpty <;> cases (d.core c).pipe.isEmpty <;> simp
  have hstays : ((d.core c).halted && !(d.core c).halted) = false := by cases (d.core c).halted <;> rfl
  have hst : (d.core c).queue .st = q :: qs := hqueue
  unfold Dev.complete Dev.leave
  simp only [hst, htrap, hidle, hsignals, Dev.raiseSignals, List.foldl_nil, Dev.afterHalt, hcore, setQueue_halted, hstays, Bool.false_eq_true,
    if_false]
  exact finishEnd_none (by rw [hcore, setQueue_ending, hending])

theorem listPush_room {d : Dev} {c : Nat} {q : QCmd} {qs : List QCmd} {die : Option Nat} {it : WorkItem} (hqueue : (d.core c).st = q :: qs)
    (hstarted : q.started = true) (hop : q.cmd.op = .listPush die it) (hsignals : q.cmd.signals = []) (htrap : q.trap = none)
    (hlen : c < d.cores.length) (hending : (d.core c).ending = none) (hunarmed : d.unarmed = true) (hitem : d.itemFault it = none)
    (hdie : die.getD (dieOfCore d.grade c) ≤ 1) (hroom : (d.list (die.getD (dieOfCore d.grade c))).items.length < 16384) :
    d.listPush c = (d.addItem (die.getD (dieOfCore d.grade c)) it).setCore c fun k => { k with st := qs } := by
  have hrunning : d.running c .st = some q := by simp [Dev.running, CoreSt.queue, hqueue, hstarted]
  unfold Dev.listPush
  simp only [hrunning, hop, hitem, Option.none_or, if_neg (Nat.not_lt.2 hdie), tableCheck_unarmed hunarmed, listRoom, hroom, if_true]
  exact complete_st hlen hqueue htrap hsignals hending

/-! ## Takes (R93) -/

/-- With nothing waiting for room a list gives its item and nothing else happens. -/
theorem feedRounds_none {d : Dev} (h : ∀ r ∈ d.bz.rounds, ∀ p, r.disp = some p → p.toPush = []) : d.feedRounds = d := by
  have hround (r : Round) (hr : r ∈ d.bz.rounds) : d.feedRound r = d := by
    unfold Dev.feedRound
    split
    · rfl
    · rename_i p hp
      rw [h r hr p hp]
      rfl
  have hturn (r : Round) : ((d.round? r.bwd r.layer r.mb).map d.feedRound).getD d = d := by
    cases hfind : d.round? r.bwd r.layer r.mb with
    | none => rfl
    | some r' => exact hround r' (List.mem_of_find?_eq_some hfind)
  unfold Dev.feedRounds
  generalize d.bz.rounds = rs
  induction rs with
  | nil => rfl
  | cons r rs ih => rw [List.foldl_cons, hturn, ih]

/-- A core with an item more, taken from a list. -/
def CoreSt.given (e : WorkEntry) (k : CoreSt) : CoreSt := { k with taking := false, items := (e.id, e.item) :: k.items }

theorem giveItem_quiet {d : Dev} {die c : Nat} {e : WorkEntry} (hquiet : d.noBacklog die) (hpick : pickItem (d.list die).items (c / 8) = some e) :
    d.giveItem die c = (d.setList die fun l => { l with items := l.items.filter fun x => x.id != e.id }).setCore c (CoreSt.given e) := by
  obtain ⟨hback, hrounds⟩ := hquiet
  have hgiven : ((d.setList die fun l => { l with items := l.items.filter fun x => x.id != e.id }).setCore c (CoreSt.given e)).drainBack die =
      (d.setList die fun l => { l with items := l.items.filter fun x => x.id != e.id }).setCore c (CoreSt.given e) := by
    unfold Dev.drainBack
    rw [show (((d.setList die fun l => { l with items := l.items.filter fun x => x.id != e.id }).setCore c (CoreSt.given e)).list die).back = [] from
      (list_setList_back (f := fun l => { l with items := l.items.filter fun x => x.id != e.id }) (fun _ => rfl) d die).trans hback]
  unfold Dev.giveItem
  simp only [hpick]
  exact (congrArg Dev.feedRounds hgiven).trans (feedRounds_none hrounds)

theorem ccRuns_iff {d : Dev} {c : Nat} : d.ccRuns c = true ↔ c < d.n ∧ d.job.isSome = true ∧ (d.core c).halted = false ∧
    (d.core c).frozen = false ∧ (d.core c).cc = .running ∧ (d.core c).pushStall = none ∧ (d.core c).waiting = none ∧
    (d.core c).taking = false ∧ (d.core c).ending = none := by
  simp [Dev.ccRuns, and_assoc]

section
variable {d : Dev} {c : Nat} (hslots : (d.core c).slots = []) (hunarmed : d.unarmed = true)
include hslots hunarmed

/-- A core that takes gets its item at once when nobody waits before it. -/
theorem takeNow_given (hservable : d.servable c = true) (hquiet : d.noBacklog (dieOfCore d.grade c)) {e : WorkEntry}
    (htakes : (d.list (dieOfCore d.grade c)).takes = []) (hpick : pickItem (d.list (dieOfCore d.grade c)).items (c / 8) = some e) :
    d.takeNow c = (d.setList (dieOfCore d.grade c) fun l => { l with items := l.items.filter fun x => x.id != e.id }).setCore c (CoreSt.given e) := by
  have hitems : (d.list (dieOfCore d.grade c)).items.isEmpty = false := by simpa using items_ne_nil_of_pick hpick
  unfold Dev.takeNow
  simp only [hslots, List.find?_nil, List.isEmpty_nil, Bool.not_true, Bool.false_eq_true, if_false, tableCheck_unarmed hunarmed, htakes,
    List.all_nil, hitems, hservable, Bool.not_false, Bool.and_self, if_true]
  exact giveItem_quiet hquiet hpick

/-- A core that takes from an empty list waits there. -/
theorem takeNow_waits (hitems : (d.list (dieOfCore d.grade c)).items = []) :
    d.takeNow c = (d.setList (dieOfCore d.grade c) fun l => { l with takes := l.takes ++ [c] }).setCore c fun k => { k with taking := true } := by
  unfold Dev.takeNow
  simp only [hslots, List.find?_nil, List.isEmpty_nil, Bool.not_true, Bool.false_eq_true, if_false, tableCheck_unarmed hunarmed, hitems,
    Bool.and_false, Bool.false_and]
  rfl

end

/-- The oldest waiting take is served. -/
theorem listServe_oldest {d : Dev} {die c : Nat} {cs : List Nat} {e : WorkEntry} (htakes : (d.list die).takes = c :: cs) (hnew : c ∉ cs)
    (hservable : d.servable c = true) (hquiet : d.noBacklog die) (hpick : pickItem (d.list die).items (c / 8) = some e) :
    d.listServe die = (d.setList die fun l => { l with takes := cs, items := l.items.filter fun x => x.id != e.id }).setCore c (CoreSt.given e) := by
  have hdie := lt_of_list_takes (d := d) (die := die) (by rw [htakes]; exact List.cons_ne_nil _ _)
  have hitems : (d.list die).items.isEmpty = false := by simpa using items_ne_nil_of_pick hpick
  let e1 := d.setList die fun l => { l with takes := l.takes.filter fun x => x != c }
  have hlist : e1.list die = { d.list die with takes := (d.list die).takes.filter fun x => x != c } := list_setList hdie _
  have hgive := giveItem_quiet (d := e1) (die := die) (c := c) (e := e)
    ⟨(list_setList_back (f := fun l => { l with takes := l.takes.filter fun x => x != c }) (fun _ => rfl) d die).trans hquiet.1, hquiet.2⟩
    (by rw [hlist]; exact hpick)
  have hrest : (c :: cs).filter (fun x => x != c) = cs := by
    rw [List.filter_cons_of_neg (by simp), List.filter_eq_self]
    intro x hx
    simpa using fun h : x = c => hnew (h ▸ hx)
  unfold Dev.listServe
  simp only [htakes, List.find?_cons_of_pos hservable, hitems, Bool.false_eq_true, if_false]
  rw [hgive, setList_setList]
  congr 1
  refine setList_congr ?_
  simp only [Function.comp_apply, htakes, hrest]

/-! ## EMPTY slots (R97) -/

theorem nextSlot_at {pre post : List SlotMark} {m : SlotMark} (hpre : ∀ x ∈ pre, x.open = false) (hm : m.open = true)
    (f : SlotMark → SlotMark) : nextSlot f (pre ++ m :: post) = pre ++ f m :: post := by
  induction pre with
  | nil => simp [nextSlot, hm]
  | cons x pre ih =>
    have hx : x.open = false := hpre x (List.mem_cons_self ..)
    simp [nextSlot, hx, ih fun y hy => hpre y (List.mem_cons_of_mem _ hy)]

theorem find_open_at {pre post : List SlotMark} {m : SlotMark} (hpre : ∀ x ∈ pre, x.open = false) (hm : m.open = true) :
    (pre ++ m :: post).find? SlotMark.open = some m := by
  rw [List.find?_append, List.find?_eq_none.2 fun x hx => by rw [hpre x hx]; exact Bool.false_ne_true, Option.none_or,
    List.find?_cons_of_pos hm]

theorem settleSlots_going {ms : List SlotMark} {x : SlotMark} (hx : x ∈ ms) (hgoing : x.ended = false) : settleSlots ms = ms := by
  refine if_neg fun h => ?_
  have := List.all_eq_true.1 h x hx
  rw [hgoing] at this
  exact Bool.false_ne_true this

theorem slotEnd_empty {d : Dev} {c : Nat} {pre post : List SlotMark} {m : SlotMark} (hslots : (d.core c).slots = pre ++ m :: post)
    (hpre : ∀ x ∈ pre, x.open = false) (hempty : m = ⟨none, m.slotSteps, none, false⟩) (hgoing : ∃ x ∈ pre ++ post, x.ended = false)
    (hrunning : (d.core c).halted = false) (hawake : (d.core c).frozen = false) (hidle : (d.core c).taking = false) :
    d.slotEnd c = d.setCore c fun k =>
      { k with slots := pre ++ { m with ended := true } :: post, emptySteps := k.emptySteps + m.slotSteps } := by
  have hm : m.open = true := by rw [hempty]; rfl
  have hitem : m.item = none := by rw [hempty]
  have hlen : c < d.cores.length := by
    by_contra hout
    rw [Dev.core, List.getD_eq_default _ _ (Nat.le_of_not_lt hout)] at hslots
    exact absurd (congrArg List.length hslots) (by simp [CoreSt.reset])
  let fin (m : SlotMark) : SlotMark := { m with ended := true }
  have hsettled : settleSlots (nextSlot fin (d.core c).slots) = pre ++ fin m :: post := by
    obtain ⟨x, hx, hxe⟩ := hgoing
    rw [hslots, nextSlot_at hpre hm]
    refine settleSlots_going (x := x) ?_ hxe
    rcases List.mem_append.1 hx with h | h
    · exact List.mem_append_left _ h
    · exact List.mem_append_right _ (List.mem_cons_of_mem _ h)
  have hends : (d.setCore c fun k => { k with slots := settleSlots (nextSlot fin k.slots), emptySteps := k.emptySteps + m.slotSteps }) =
      d.setCore c fun k => { k with slots := pre ++ fin m :: post, emptySteps := k.emptySteps + m.slotSteps } :=
    setCore_congr (by simp only [hsettled])
  unfold Dev.slotEnd
  simp only [hslots, find_open_at hpre hm, hitem, Option.isSome_none, hrunning, hawake, Bool.or_self, Bool.false_eq_true, if_false]
  rw [core_setCore d c _ hlen]
  simp only [hidle, Bool.false_eq_true, if_false]
  refine Eq.trans hends ?_
  simp only [fin, hitem]

/-! ## END (R91, R114) -/

/-- The update of a work item's DONE as its routine raises it (R91, R105). -/
theorem raiseOne_done (d : Dev) (c i : Nat) (f : DoneField) :
    d.raiseOne c .cc i 0 (reqCore c) { obj := .counter f.counter, op := .add f.value, core := some f.core, rank := none } =
      d.sendLocal (if f.core = c then .own .cc i 0 else .core c) f.core (.counter f.counter) (.add f.value) := by
  by_cases hself : f.core = c <;> simp [Dev.raiseOne, hself]

section
variable {d : Dev} {c i : Nat} (hruns : d.ccRuns c = true) (hquiet : d.coreQuiet c = true) (hlen : c < d.cores.length)
include hruns hquiet hlen

/-- With an item in progress END ends it and raises its DONE. -/
theorem end_item (hslots : (d.core c).slots = []) {id : Nat} {it : WorkItem} {rest : List (Nat × WorkItem)} {f : DoneField} (hitems : (d.core c).items = (id, it) :: rest)
    (hdone : it.done = some f) : (d.setCore c fun k => { k with ending := some i }).finishEnd c =
      (d.setCore c fun k => { k with items := rest }).sendLocal (if f.core = c then .own .cc i 0 else .core c) f.core (.counter f.counter)
        (.add f.value) := by
  obtain ⟨-, -, hrunning, hawake, -, -, -, -, hending⟩ := ccRuns_iff.1 hruns
  have hcore := core_setCore d c (fun k => { k with ending := some i }) hlen
  have hquiet' : (d.setCore c fun k => { k with ending := some i }).coreQuiet c = true := by
    rw [← hquiet, Dev.coreQuiet, hcore]
    rfl
  have hfree : (d.setCore c fun k => { k with ending := some i }).setCore c (fun k =>
      { k with items := rest, ending := none, slots := settleSlots (endRun id k.slots) }) = d.setCore c fun k => { k with items := rest } := by
    rw [setCore_setCore]
    refine setCore_congr ?_
    simp only [Function.comp_apply, hslots, hending]
    rfl
  unfold Dev.finishEnd
  simp only [hcore, hrunning, hawake, hquiet', hitems, hdone, Bool.not_true, Bool.or_self, Bool.false_eq_true, if_false]
  rw [hfree, raiseOne_done]

/-- With no item END ends the control routine; while another's goes on nothing follows. -/
theorem end_routine {j : Job} (hitems : (d.core c).items = []) (hjob : d.job = some j) (hgoing : j.stopped = false) (hfree : j.hostHalt = false)
    (hother : ∃ p ∈ j.prog.cores, p.core ≠ c ∧ (d.core p.core).cc ≠ .ended) :
    (d.setCore c fun k => { k with ending := some i }).finishEnd c = d.setCore c fun k => { k with cc := .ended } := by
  obtain ⟨-, -, hrunning, hawake, -, -, -, -, hending⟩ := ccRuns_iff.1 hruns
  have hcore := core_setCore d c (fun k => { k with ending := some i }) hlen
  have hquiet' : (d.setCore c fun k => { k with ending := some i }).coreQuiet c = true := by
    rw [← hquiet, Dev.coreQuiet, hcore]
    rfl
  have hended : (d.setCore c fun k => { k with ending := some i }).setCore c (fun k => { k with cc := .ended, ending := none }) =
      d.setCore c fun k => { k with cc := .ended } := by
    rw [setCore_setCore]
    exact setCore_congr (by simp only [Function.comp_apply, hending])
  have hnotAll : (d.setCore c fun k => { k with cc := .ended }).allEnded j = false := by
    obtain ⟨p, hp, hne, hcc⟩ := hother
    rw [Dev.allEnded, List.all_eq_false]
    refine ⟨p, hp, ?_⟩
    rw [core_setCore_ne d c _ _ hne]
    simp [hcc]
  have hcheck : (d.setCore c fun k => { k with cc := .ended }).jobCheck = d.setCore c fun k => { k with cc := .ended } := by
    have hjob' : (d.setCore c fun k => { k with cc := .ended }).job = some j := hjob
    unfold Dev.jobCheck
    simp only [hjob', hfree, hgoing, hnotAll, Bool.and_false, Bool.false_eq_true, if_false, ite_self]
  unfold Dev.finishEnd
  simp only [hcore, hrunning, hawake, hquiet', hitems, Bool.not_true, Bool.or_self, Bool.false_eq_true, if_false]
  rw [hended, hcheck]

end

/-! ## CLOSE (R75, R80) -/

theorem runEnd_untracked {d : Dev} {c : Nat} (h : d.track? 0 c = none) : d.runEnd c = d := by
  have hnone : ∀ t ∈ d.ct.tracks, t.is 0 c = false := fun t ht => by simpa using List.find?_eq_none.1 h t ht
  have hsame (f : Track → Track) : d.setTrack 0 c f = d := by
    have htracks : d.ct.tracks.map (fun t => if t.is 0 c then f t else t) = d.ct.tracks := by
      conv_rhs => rw [← List.map_id d.ct.tracks]
      refine List.map_congr_left fun t ht => ?_
      rw [hnone t ht]
      rfl
    rw [Dev.setTrack, htracks]
  rw [Dev.runEnd, hsame, Dev.retireTrack, h]

/-- A core whose engines and station path have nothing once an engine frees is at rest. -/
theorem freed_atRest {d : Dev} {c : Nat} {u : EngUnit} {q : QCmd} (ha : d.lone c u q) (hst : (d.core c).st = [])
    (hwaiting : (d.core c).waiting = none) : ((d.freed c u).core c).atRest = true := by
  have hcc : u ≠ .cc := by rcases ha.engine with rfl | rfl | rfl <;> decide
  have hqueue (v : EngUnit) (hv : v ∈ [EngUnit.mx, .vx, .ls]) : ((d.core c).setQueue u []).queue v = [] := by
    by_cases hne : v = u
    · rw [hne, setQueue_queue _ hcc]
    · rw [setQueue_queue_ne _ hne, ha.others v hv hne]
  have hmx := hqueue .mx (by decide)
  have hvx := hqueue .vx (by decide)
  have hls := hqueue .ls (by decide)
  have hrest : ((d.core c).setQueue u []).st = [] ∧ ((d.core c).setQueue u []).waiting = none := by
    rcases ha.engine with rfl | rfl | rfl <;> exact ⟨hst, hwaiting⟩
  rw [freed_core ha.len]
  simp only [CoreSt.queue] at hmx hvx hls
  simp [CoreSt.atRest, hmx, hvx, hls, hrest.1, hrest.2, ha.pipe, ha.ending]

/-- A CLOSE that is alone closes its queue, and its entry frees. -/
theorem closeQueue_alone {d : Dev} {c n i : Nat} {u : EngUnit} {q : QCmd} {x : QState} (ha : d.lone c u q) (hran : q.ran = false)
    (hop : q.cmd.op = .close n) (hst : (d.core c).st = []) (hwaiting : (d.core c).waiting = none) (htail : d.tailIdx c u n = some i)
    (hx : d.q? i = some x) (hnear : d.farCons x = false) (hcons : x.decl.cons.core ≠ c → (d.core x.decl.cons.core).atRest = true)
    (htrack : u = .mx → d.track? 0 c = none) :
    d.closeQueue c u = (d.setQ i fun y => { y with closed := true }).setCore c (·.setQueue u []) := by
  let e := d.setQ i fun y => { y with closed := true }
  have hde : d.ringsTo e := .of_setQ d i fun _ => ⟨rfl, rfl⟩
  have hrunning : d.running c u = some q := by simp [Dev.running, ha.queue, ha.started]
  have hstays : ((d.core c).halted && !(d.core c).halted) = false := by cases (d.core c).halted <;> rfl
  have hcommit : e.commit c u [] [] = e.freed c u := Dev.lone.commit (d := e) (pops := []) (q := q) rfl (ha.ringsTo hde) .refl fun _ _ => rfl
  have hfreed : e.freed c u = e.setCore c (·.setQueue u []) := by
    unfold Dev.freed
    dsimp only
    split
    · rename_i h
      exact runEnd_untracked (htrack h.1)
    · rfl
  have hrest : ((e.freed c u).core x.decl.cons.core).atRest = true := by
    by_cases hself : x.decl.cons.core = c
    · rw [hself]
      exact freed_atRest (ha.ringsTo hde) hst hwaiting
    · rw [freed_core_ne _ hself]
      exact hcons hself
  unfold Dev.closeQueue
  simp only [hrunning, hran, hop, htail, Option.bind_some, hx, Option.map_some, hnear, hstays, Bool.false_eq_true, if_false]
  exact (congrArg (Dev.reevaluate · _) hcommit).trans ((reevaluate_rest _ _ hrest).trans hfreed)

/-! ## O12 -/

theorem exec_listPush (c : Nat) (s : State) : exec (.listPush c) s = .next (s.dev! (s.dev.listPush c)) := rfl
theorem exec_listTakeServed (die : Nat) (s : State) : exec (.listTakeServed die) s = .next (s.dev! (s.dev.listServe die)) := rfl
theorem exec_reservedSlotEnd (c : Nat) (s : State) : exec (.reservedSlotEnd c) s = .next (s.dev! (s.dev.slotEnd c)) := rfl
theorem exec_close (c : Nat) (u : EngUnit) (s : State) : exec (.close c u) s = .next (s.dev! (s.dev.closeQueue c u)) := rfl

theorem exec_listTake {c : Nat} {s : State} (hruns : s.dev.ccRuns c = true) (i : Nat) : exec (.listTake c i) s = .next (s.dev! (s.dev.takeNow c)) := by
  change State.onDev s _ = _
  rw [State.onDev_eq, hruns]
  rfl

theorem exec_endRoutine {c : Nat} {s : State} (hruns : s.dev.ccRuns c = true) (i : Nat) : exec (.endRoutine c i) s =
    .next (s.dev! ((s.dev.setCore c fun k => { k with ending := some i }).finishEnd c)) := by
  change State.onDev s _ = _
  rw [State.onDev_eq, hruns]
  rfl

/-- An item that has stood in its list for 2 µs loses its AFFINITY, and no time passes. -/
theorem exec_affinityExpire {s : State} {die id : Nat} {e : WorkEntry} (hfind : ((s.dev.list die).items.find? fun x => x.id == id) = some e)
    (hold : e.since + 2000 ≤ s.dev.now) : exec (.affinityExpire die id) s = .next (s.atList die fun l => { l with items := l.items.map fun x =>
      if x.id == id then { x with item := { x.item with affinity := none } } else x }) := by
  have hnow : s.dev.advanceTo (e.since + 2000) = s.dev := by
    rw [Dev.advanceTo, Nat.sub_eq_zero_of_le hold]
    rfl
  change execAffinityExpire die id s = _
  rw [execAffinityExpire, State.onDev_eq]
  simp only [hfind, hnow]
  rfl

/-- Settles O12: the order of takes is that of `bestOf`, and each list, slot and engine operation meets its one case. -/
theorem listsSlotsAndEndings : Obligations.ListsSlotsAndEndings := by
  unfold Obligations.ListsSlotsAndEndings
  refine ⟨fun items g e hcls hpick => pickItem_order hcls hpick, ⟨?push, ?take, ?served, ?expire⟩, ?slot, ?ends, ?close⟩
  case push =>
    intro s c q qs die it hqueue hstarted hop hsignals htrap hlen hending hunarmed hitem d hdie hroom
    rw [exec_listPush, listPush_room hqueue hstarted hop hsignals htrap hlen hending hunarmed hitem hdie hroom]
    rfl
  case take =>
    intro s c i hruns hslots hunarmed d hquiet hnotDue
    obtain ⟨-, -, -, hawake, -⟩ := ccRuns_iff.1 hruns
    have hservable : s.dev.servable c = true := by rw [Dev.servable, hawake, hnotDue]; rfl
    refine ⟨fun e htakes hpick => ?_, fun hitems => ?_⟩
    · rw [exec_listTake hruns, takeNow_given hslots hunarmed hservable hquiet htakes hpick]
      rfl
    · rw [exec_listTake hruns, takeNow_waits hslots hunarmed hitems]
      rfl
  case served =>
    intro s die c cs e htakes hnew hservable hquiet hpick
    rw [exec_listTakeServed, listServe_oldest htakes hnew hservable hquiet hpick]
    rfl
  case expire => exact fun s die id e hfind hold => exec_affinityExpire hfind hold
  case slot =>
    intro s c pre post m hslots hpre hempty hgoing hrunning hawake hidle
    rw [exec_reservedSlotEnd, slotEnd_empty hslots hpre hempty hgoing hrunning hawake hidle]
    rfl
  case ends =>
    intro s c i hruns hquiet hslots hlen
    refine ⟨fun id it rest f hitems hdone => ?_, fun j hitems hjob hgoing hfree hother => ?_⟩
    · rw [exec_endRoutine hruns, end_item hruns hquiet hlen hslots hitems hdone]
      rfl
    · rw [exec_endRoutine hruns, end_routine hruns hquiet hlen hitems hjob hgoing hfree hother]
      rfl
  case close =>
    intro s c n i u q x hu hqueue hstarted hran hop hsignals hnanTrap hlen hothers hwaiting hending htail hx hnear hlanded hwritten hcons hpipe htrack
    have hst : (s.dev.core c).st = [] := hothers .st (by rcases hu with rfl | rfl | rfl <;> decide)
    have halone : s.dev.lone c u q :=
      ⟨hu, hqueue, hstarted, hsignals, hnanTrap, fun v _ hne => hothers v hne, hpipe, hending, hlen, hlanded, hwritten⟩
    rw [exec_close, closeQueue_alone halone hran hop hst hwaiting htail hx hnear hcons htrack]
    rfl

end Sys2Proof.Machine
end

section
/-! Pushes into command queues, starts, WAIT, SIGNAL, updates that arrive and the wait-cycle detector (R73 to R76, R84 to R90, R110, R111). -/

namespace Sys2Proof.Machine

open Sys2Proof

/-! ## Pushes (R73, R74, R76) -/

theorem depthOf_eq {u : EngUnit} (hu : u ≠ .cc) : depthOf u = if u = .st then 32 else 64 := by
  cases u with
  | cc => exact absurd rfl hu
  | st => rfl
  | mx | vx | ls => rfl

theorem exec_commandPush (c : Nat) (u : EngUnit) (cmd : Cmd) (s : State) :
    exec (.commandPush c u cmd) s = .next (s.dev! (s.dev.commandPush c u cmd)) := rfl
theorem exec_commandQueueRoom (c : Nat) (s : State) : exec (.commandQueueRoom c) s = .next (s.dev! (s.dev.commandQueueRoom c)) := rfl

section
variable {d : Dev} {c : Nat} {u : EngUnit} {cmd : Cmd} (hruns : d.ccRuns c = true)
include hruns

/-- A push to a unit that the grade has enters its queue or stalls. -/
theorem commandPush_present (hu : u ≠ .cc) (hpresent : u = .st → d.absentStation cmd.op = none) :
    d.commandPush c u cmd =
      if (d.core c).depth u < depthOf u then d.enqueue c u cmd else d.setCore c fun k => { k with pushStall := some (u, cmd) } := by
  have hstation : (if u = .st then d.absentStation cmd.op else none) = none := by
    split
    · exact hpresent ‹_›
    · rfl
  simp only [Dev.commandPush, hruns, Bool.not_true, Bool.false_eq_true, if_false, hu, hstation]

/-- A push that names an absent station halts its core (R76). -/
theorem commandPush_absent {h : HaltInfo} (habsent : d.absentStation cmd.op = some h) : d.commandPush c .st cmd = d.haltCc c cmd.opIndex h := by
  simp only [Dev.commandPush, hruns, Bool.not_true, Bool.false_eq_true, if_false, if_true, habsent]
  rfl

end

/-- A stalled push goes on once an entry is free. -/
theorem commandQueueRoom_free {d : Dev} {c : Nat} {u : EngUnit} {cmd : Cmd} (hstall : (d.core c).pushStall = some (u, cmd))
    (hrunning : (d.core c).halted = false) (hawake : (d.core c).frozen = false) (hroom : (d.core c).depth u < depthOf u) :
    d.commandQueueRoom c = (d.setCore c fun k => { k with pushStall := none }).enqueue c u cmd := by
  simp only [Dev.commandQueueRoom, hstall, hrunning, hawake, ge_iff_le, Nat.not_le.2 hroom, decide_false, Bool.or_self, Bool.false_eq_true, if_false]

theorem absentStation_well {d : Dev} {w : Nat} (h : w ∉ presentWells d.grade) (r : Word64) (o : WellOp) :
    d.absentStation (.well w r o) = some { reason := rEngineAbsent, unit := 0, kind := 1, d0 := w } := by
  simp [Dev.absentStation, h]

theorem absentStation_collective {d : Dev} {a : CollArgs} (h : a.leadPort ∉ presentPorts d.grade) :
    d.absentStation (.collective a) = some { reason := rEngineAbsent, unit := 0, kind := 2, d0 := a.leadPort } := by
  simp [Dev.absentStation, h]

/-- Settles O7: a push meets its queue's depth or its absent station. -/
theorem pushesEnterStallOrHalt : Obligations.PushesEnterStallOrHalt := by
  unfold Obligations.PushesEnterStallOrHalt
  refine ⟨fun s c u cmd hu => ?_, fun s c cmd hruns => ⟨fun w r o hop hw => ?_, fun a hop ha => ?_⟩⟩
  · rw [← depthOf_eq hu]
    refine ⟨fun hruns hpresent => ⟨fun hroom => ?_, fun hfull => ?_⟩, fun hstall hrunning hawake hroom => ?_⟩
    · rw [exec_commandPush, commandPush_present hruns hu hpresent, if_pos hroom]
      rfl
    · rw [exec_commandPush, commandPush_present hruns hu hpresent, if_neg (Nat.not_lt.2 hfull)]
      rfl
    · rw [exec_commandQueueRoom, commandQueueRoom_free hstall hrunning hawake hroom, Dev.enqueue, setCore_setCore]
      cases u <;> rfl
  · rw [exec_commandPush, commandPush_absent hruns (hop ▸ absentStation_well hw r o)]
    rfl
  · rw [exec_commandPush, commandPush_absent hruns (hop ▸ absentStation_collective ha)]
    rfl

/-! ## Starts (R84, R85) -/

theorem exec_commandStart (c : Nat) (u : EngUnit) (s : State) : exec (.commandStart c u) s = .next (s.dev! (s.dev.tryStart c u)) := rfl

/-- The start of a MATMUL changes the tracks of the bound counters alone (R533). -/
theorem admitRun_eq (d : Dev) (c : Nat) (op : Op) : d.admitRun c op = { d with ct := (d.admitRun c op).ct } := by
  unfold Dev.admitRun
  split
  · dsimp only
    split <;> rfl
  · rfl

section
variable {d : Dev} {c : Nat} {u : EngUnit} {q : QCmd} {qs : List QCmd} (hst : u ≠ .st) (hrunning : (d.core c).halted = false)
  (hawake : (d.core c).frozen = false) (hqueue : (d.core c).queue u = q :: qs) (hwaits : q.started = false)
  (hfault : d.startFault c u q.cmd = none)
include hrunning hawake hqueue hwaits hfault

/-- A command of which a wait does not hold stays as it is. -/
theorem tryStart_waits (hnot : (d.core c).holdsAll q.cmd.waits = false) : d.tryStart c u = d := by
  simp only [Dev.tryStart, hqueue, hrunning, hawake, hwaits, hfault, hnot, Bool.or_self, Bool.false_eq_true, if_false, Bool.not_false,
    Bool.true_or, if_true]

include hst

/-- A command that may start consumes its waits and starts in one step. -/
theorem tryStart_starts (hunarmed : d.unarmed = true) (hchannel : d.channelFull q.cmd.op = false)
    (hpipe : (d.core c).behindPipe u q.cmd.op = false) (hpops : d.popShort c u (opPops q.cmd.op) = none)
    (hholds : (d.core c).holdsAll q.cmd.waits = true) :
    d.tryStart c u =
      (d.setCore c fun k => (k.consumeAll q.cmd.waits).setQueue u ({ q with started := true } :: qs)).admitRun c q.cmd.op := by
  have hstart : (d.setCore c fun k => k.consumeAll q.cmd.waits).setHead c u (fun q => { q with started := true }) =
      d.setCore c fun k => (k.consumeAll q.cmd.waits).setQueue u ({ q with started := true } :: qs) := by
    rw [Dev.setHead, setCore_setCore]
    refine setCore_congr ?_
    simp only [Function.comp_apply, setQueue_consume, hqueue]
  simp only [Dev.tryStart, hqueue, hrunning, hawake, hwaits, hfault, hholds, hchannel, hpipe, Bool.or_self, Bool.false_eq_true, if_false,
    Bool.not_true, hst, hpops, haltInject_unarmed d c hunarmed, mimic_unarmed d _ hunarmed]
  rw [← hstart]

end

/-- Settles O8: a command that meets every other condition of its start waits on its fields alone. -/
theorem startConsumesTogether : Obligations.StartConsumesTogether := by
  unfold Obligations.StartConsumesTogether
  intro s c u q qs _ hst hunarmed hrunning hawake hqueue hwaits hfault hchannel hpipe hpops
  refine ⟨fun hholds => ⟨?_, admitRun_eq _ _ _⟩, fun hnot => ?_⟩
  · rw [exec_commandStart, tryStart_starts hst hrunning hawake hqueue hwaits hfault hunarmed hchannel hpipe hpops hholds]
    rfl
  · rw [exec_commandStart, tryStart_waits hrunning hawake hqueue hwaits hfault hnot]
    rfl

/-! ## WAIT (R84) -/

/-- Where the control core waits has no part in whether a wait holds or in what it consumes. -/
theorem consume_waiting (k : CoreSt) (x : Option (Nat × Word64 × List WaitField)) (w : WaitField) :
    ({ k with waiting := x } : CoreSt).consume w = { k.consume w with waiting := x } := by
  unfold CoreSt.consume
  split
  · rfl
  · split <;> rfl

theorem consumeAll_waiting (ws : List WaitField) (k : CoreSt) (x : Option (Nat × Word64 × List WaitField)) :
    ({ k with waiting := x } : CoreSt).consumeAll ws = { k.consumeAll ws with waiting := x } := by
  induction ws generalizing k with
  | nil => rfl
  | cons w ws ih => exact (congrArg (fun y => CoreSt.consumeAll y ws) (consume_waiting k x w)).trans (ih (k.consume w))

theorem holdsAll_waiting (ws : List WaitField) (k : CoreSt) (x : Option (Nat × Word64 × List WaitField)) :
    ({ k with waiting := x } : CoreSt).holdsAll ws = k.holdsAll ws := by
  induction ws generalizing k with
  | nil => rfl
  | cons w ws ih =>
    have hholds : ({ k with waiting := x } : CoreSt).holds w = k.holds w := rfl
    unfold CoreSt.holdsAll
    rw [hholds, consume_waiting, ih, ih]

theorem exec_wait (c i : Nat) (raw : Word64) (ws : List WaitField) (s : State) :
    exec (.wait c i raw ws) s = .next (s.dev! (s.dev.waitOp c i raw ws)) := rfl

theorem tryWait_holds {d : Dev} {c i : Nat} {raw : Word64} {ws : List WaitField} (hwaiting : (d.core c).waiting = some (i, raw, ws))
    (hrunning : (d.core c).halted = false) (hawake : (d.core c).frozen = false) (hholds : (d.core c).holdsAll ws = true) :
    d.tryWait c = d.setCore c fun k => { k.consumeAll ws with waiting := none } := by
  simp only [Dev.tryWait, hwaiting, hrunning, hawake, hholds, Bool.not_true, Bool.or_self, Bool.false_eq_true, if_false]

theorem tryWait_stands {d : Dev} {c i : Nat} {raw : Word64} {ws : List WaitField} (hwaiting : (d.core c).waiting = some (i, raw, ws))
    (hnot : (d.core c).holdsAll ws = false) : d.tryWait c = d := by
  simp only [Dev.tryWait, hwaiting, hnot, Bool.not_false, Bool.or_true, if_true]

section
variable {d : Dev} {c : Nat} {raw : Word64} {ws : List WaitField} (hruns : d.ccRuns c = true) (hlen : c < d.cores.length)
  (hfields : d.fieldFault raw ws [] = none) (i : Nat)
include hruns hlen hfields

/-- A WAIT whose fields hold consumes them and the control core goes on. -/
theorem waitOp_holds (hholds : (d.core c).holdsAll ws = true) : d.waitOp c i raw ws = d.setCore c fun k => k.consumeAll ws := by
  obtain ⟨-, -, hrunning, hawake, -, -, hgoing, -, -⟩ := ccRuns_iff.1 hruns
  have hcore := core_setCore d c (fun k => { k with waiting := some (i, raw, ws) }) hlen
  have hgone : ({ (d.core c).consumeAll ws with waiting := none } : CoreSt) = (d.core c).consumeAll ws :=
    (consumeAll_waiting ws (d.core c) none).symm.trans (congrArg (CoreSt.consumeAll · ws) (by rw [← hgoing]))
  have htry := tryWait_holds (d := d.setCore c fun k => { k with waiting := some (i, raw, ws) }) (by rw [hcore]) (by rw [hcore]; exact hrunning)
    (by rw [hcore]; exact hawake) (by rw [hcore, holdsAll_waiting]; exact hholds)
  simp only [Dev.waitOp, hruns, Bool.not_true, Bool.false_eq_true, if_false, hfields, htry, setCore_setCore]
  refine setCore_congr ?_
  simp only [Function.comp_apply, consumeAll_waiting, hgone]

/-- A WAIT of which a field does not hold stands. -/
theorem waitOp_stands (hnot : (d.core c).holdsAll ws = false) :
    d.waitOp c i raw ws = d.setCore c fun k => { k with waiting := some (i, raw, ws) } := by
  have hcore := core_setCore d c (fun k => { k with waiting := some (i, raw, ws) }) hlen
  have htry := tryWait_stands (d := d.setCore c fun k => { k with waiting := some (i, raw, ws) }) (by rw [hcore])
    (by rw [hcore, holdsAll_waiting]; exact hnot)
  simp only [Dev.waitOp, hruns, Bool.not_true, Bool.false_eq_true, if_false, hfields, htry]

end

/-! ## The wait-cycle detector (R110, R111) -/

theorem exec_waitCycle (c : Nat) (s : State) : exec (.waitCycle c) s = .next (s.dev! (s.dev.waitCycle c)) := rfl

theorem waitCycle_fires {d : Dev} {c : Nat} {j : Job} {b0 b1 b2 b3 : Block} (hjob : d.job = some j) (hprimary : j.primary = none) (hc : c < d.n)
    (hrunning : (d.core c).halted = false) (hawake : (d.core c).frozen = false) (h0 : d.blockCc c = some b0) (h1 : d.blockEng c .mx = some b1)
    (h2 : d.blockEng c .vx = some b2) (h3 : d.blockEng c .ls = some b3) (hblocked : ∃ b ∈ [b0, b1, b2, b3], b.state ≠ 0)
    (hnothing : d.pendingToward c = false) :
    d.waitCycle c = (d.advance (1000 * (d.core c).waitWindowUs)).haltCore c
      { reason := rWaitCycle, unit := 5, d0 := 1000 * (d.core c).waitWindowUs,
        blocked := b0.bytes 0 ++ b1.bytes 1 ++ b2.bytes 2 ++ b3.bytes 3 } := by
  have hsome : [b0, b1, b2, b3].all (fun b => b.state == 0) = false := by
    obtain ⟨b, hb, hstate⟩ := hblocked
    rw [List.all_eq_false]
    exact ⟨b, hb, by simpa using hstate⟩
  simp only [Dev.waitCycle, hjob, hrunning, hawake, hprimary, Option.isSome_none, Bool.false_and, Bool.or_self, ge_iff_le, Nat.not_le.2 hc,
    decide_false, Bool.false_eq_true, if_false, h0, h1, h2, h3, hsome, hnothing]

/-! ## SIGNAL and updates that arrive (R86, R89, R90) -/

theorem exec_signal (c i : Nat) (raw : Word64) (ss : List SigField) (s : State) :
    exec (.signal c i raw ss) s = .next (s.dev! (s.dev.signalOp c i raw ss)) := rfl
theorem exec_signalArrival (c : Nat) (ids : List Nat) (s : State) : exec (.signalArrival c ids) s = .next (s.dev! (s.dev.signalArrival c ids)) := rfl

/-- A signal to a core of this device sets out toward it. -/
theorem signalOp_local {d : Dev} {c k : Nat} {raw : Word64} {g : SigField} (hruns : d.ccRuns c = true) (hrank : g.rank = none)
    (hcore : g.core = some k) (hform : d.sigFault raw g = none) (i : Nat) :
    d.signalOp c i raw [g] = d.sendLocal (if k = c then .own .cc i 0 else .core c) k g.obj g.op := by
  have hfields : d.fieldFault raw [] [g] = none := by simp [Dev.fieldFault, hform]
  have hraise : d.raiseOne c .cc i 0 (reqCore c) g = d.sendLocal (if k = c then .own .cc i 0 else .core c) k g.obj g.op := by
    simp [Dev.raiseOne, hrank, hcore]
  have hstays : ((d.core c).halted && !(d.core c).halted) = false := by cases (d.core c).halted <;> rfl
  simp only [Dev.signalOp, hruns, Bool.not_true, Bool.false_eq_true, if_false, hfields, Dev.raiseSignals, List.foldl_cons, List.foldl_nil, hraise]
  exact if_neg (ne_true_of_eq_false hstays)

/-- The one update in transit reaches its core. -/
theorem signalArrival_one {d : Dev} {f : InFlight} (hflight : d.inflight = [f]) (hawake : (d.core f.core).frozen = false) :
    d.signalArrival f.core [f.id] = (({ d with inflight := [] } : Dev).applyUpdate f).reevaluate f.core := by
  have hmine : (f.core == f.core && [f.id].contains f.id && !(d.core f.core).frozen) = true := by simp [hawake]
  simp only [Dev.signalArrival, hflight, List.filter_cons, List.filter_nil, hmine, Bool.not_true, Bool.false_eq_true, if_true, if_false, sortSigs,
    List.foldl_cons, List.foldl_nil, insertSig]

/-- An update that changes flags and counters of a core at rest starts nothing. -/
theorem reevaluate_updated {d : Dev} {c : Nat} {f : CoreSt → CoreSt} (hlen : c < d.cores.length) (hrest : (f (d.core c)).atRest = true) :
    (d.setCore c f).reevaluate c = d.setCore c f :=
  reevaluate_rest _ c (by rw [core_setCore d c f hlen]; exact hrest)

/-- A counter after an ADD that it can hold (R86). -/
theorem modify_counter_add (cs : List Word32) (n v : Nat) :
    cs.modify n (fun _ => BitVec.ofNat 32 ((cs.getD n 0).toNat + v)) = cs.modify n fun x => x + BitVec.ofNat 32 v := by
  refine List.ext_getElem (by simp) fun i h1 h2 => ?_
  have hi : i < cs.length := by simpa using h1
  simp only [List.getElem_modify]
  split
  · rename_i hn
    subst hn
    have hget : cs.getD n 0 = cs[n] := by simp [hi]
    rw [hget]
    apply BitVec.eq_of_toNat_eq
    simp [BitVec.toNat_add]
  · rfl

section
variable {d : Dev} {f : InFlight} (hrunning : (d.core f.core).halted = false)
include hrunning

theorem applyUpdate_set {n : Nat} (hobj : f.obj = .flag n) (hop : f.op = .set) :
    d.applyUpdate f = d.setCore f.core fun k => { k with flags := k.flags ||| BitVec.ofNat 256 (2 ^ n) } := by
  simp only [Dev.applyUpdate, hrunning, hobj, hop, Bool.false_eq_true, if_false]

theorem applyUpdate_clear {n : Nat} (hobj : f.obj = .flag n) (hop : f.op = .clear) :
    d.applyUpdate f = d.setCore f.core fun k => { k with flags := k.flags &&& ~~~(BitVec.ofNat 256 (2 ^ n)) } := by
  simp only [Dev.applyUpdate, hrunning, hobj, hop, Bool.false_eq_true, if_false]

theorem applyUpdate_add {n v : Nat} (hobj : f.obj = .counter n) (hop : f.op = .add v)
    (hfits : ((d.core f.core).counters.getD n 0).toNat + v ≤ 0xFFFFFFFF) :
    d.applyUpdate f = d.setCore f.core fun k => { k with counters := k.counters.modify n fun x => x + BitVec.ofNat 32 v } := by
  simp only [Dev.applyUpdate, hrunning, hobj, hop, Bool.false_eq_true, if_false, gt_iff_lt, Nat.not_lt.2 hfits]
  refine setCore_congr ?_
  simp only [modify_counter_add]

theorem applyUpdate_overflow {n v : Nat} (hobj : f.obj = .counter n) (hop : f.op = .add v)
    (hover : ((d.core f.core).counters.getD n 0).toNat + v > 0xFFFFFFFF) :
    ∃ h : HaltInfo, h.reason = 0x04 ∧ h.kind = 4 ∧ h.d0 = n ∧ h.d1 = ((d.core f.core).counters.getD n 0).toNat + v * 2 ^ 32 ∧
      d.applyUpdate f = d.haltCore f.core h := by
  simp only [Dev.applyUpdate, hrunning, hobj, hop, Bool.false_eq_true, if_false, if_pos hover]
  split <;> exact ⟨_, rfl, rfl, rfl, rfl, rfl⟩

end

/-- Settles O9: a WAIT, the detector, SIGNAL, the arrival of one update, and the overflow of a counter. -/
theorem waitsAndSignals : Obligations.WaitsAndSignals := by
  unfold Obligations.WaitsAndSignals
  refine ⟨?wait, ?cycle, ⟨?signal, ?arrival⟩, ?overflow⟩
  case wait =>
    intro s c i raw ws hruns hlen hfields
    refine ⟨fun hholds => ?_, fun hnot => ?_⟩
    · rw [exec_wait, waitOp_holds hruns hlen hfields i hholds]
      rfl
    · rw [exec_wait, waitOp_stands hruns hlen hfields i hnot]
      rfl
  case cycle =>
    intro s c j b0 b1 b2 b3 hjob hprimary hc hrunning hawake h0 h1 h2 h3 hblocked hnothing
    rw [exec_waitCycle, waitCycle_fires hjob hprimary hc hrunning hawake h0 h1 h2 h3 hblocked hnothing]
    rfl
  case signal =>
    intro s c i k raw g hruns hrank hcore hform
    rw [exec_signal, signalOp_local hruns hrank hcore hform]
    rfl
  case arrival =>
    intro s f hflight hlen hrunning hawake hrest
    let d : Dev := { s.dev with inflight := [] }
    have harrives {g : CoreSt → CoreSt} (happly : d.applyUpdate f = d.setCore f.core g) (hg : (g (d.core f.core)).atRest = true) :
        exec (.signalArrival f.core [f.id]) s = .next (({ s with dev := d } : State).atCore f.core g) := by
      rw [exec_signalArrival, signalArrival_one hflight hawake, happly, reevaluate_updated (d := d) hlen hg]
      rfl
    exact ⟨fun n hobj hop => harrives (applyUpdate_set (d := d) hrunning hobj hop) hrest,
      fun n hobj hop => harrives (applyUpdate_clear (d := d) hrunning hobj hop) hrest,
      fun n v hobj hop hfits => harrives (applyUpdate_add (d := d) hrunning hobj hop hfits) hrest⟩
  case overflow =>
    intro d f n v hobj hop _ hrunning hover
    exact applyUpdate_overflow hrunning hobj hop hover

end Sys2Proof.Machine
end

section
/-! Results leave whole (R79, R87, R135 to R150): pops and pushes of several queues at once, and the drain of a MATMUL. -/

namespace Sys2Proof.Machine

open Sys2Proof

/-! ## Pops (R78, R81) -/

/-- A device after pops: rings are shorter, and their queues are declared as before. -/
structure Dev.poppedTo (d e : Dev) : Prop where
  rings : d.ringsTo e
  shorter : ∀ i x, d.q? i = some x → ∃ y, e.q? i = some y ∧ y.decl = x.decl ∧ y.ring.length ≤ x.ring.length

theorem Dev.poppedTo.refl (d : Dev) : d.poppedTo d := ⟨.refl, fun _ x hx => ⟨x, hx, rfl, Nat.le_refl _⟩⟩

theorem Dev.poppedTo.trans {d e f : Dev} (hde : d.poppedTo e) (hef : e.poppedTo f) : d.poppedTo f := by
  refine ⟨hde.rings.trans hef.rings, fun i x hx => ?_⟩
  obtain ⟨y, hy, hdecl, hlen⟩ := hde.shorter i x hx
  obtain ⟨z, hz, hdecl', hlen'⟩ := hef.shorter i y hy
  exact ⟨z, hz, hdecl'.trans hdecl, Nat.le_trans hlen' hlen⟩

theorem poppedTo_setQ (d : Dev) (i : Nat) {g : QState → QState} (hg : keepsEnds g) (hring : ∀ x, (g x).ring.length ≤ x.ring.length) :
    d.poppedTo (d.setQ i g) := by
  refine ⟨.of_setQ d i hg, fun j x hx => ?_⟩
  by_cases hj : j = i
  · subst hj
    exact ⟨g x, q_setQ d j g x hx, (hg x).1, hring x⟩
  · exact ⟨x, (q_setQ_ne d g hj).trans hx, rfl, Nat.le_refl _⟩

theorem Dev.ringsTo.farProd {d e : Dev} (h : d.ringsTo e) (x : QState) : e.farProd x = d.farProd x := by
  rw [Dev.farProd, h.isHere, Dev.farProd]

theorem Dev.ringsTo.farCons {d e : Dev} (h : d.ringsTo e) (x : QState) : e.farCons x = d.farCons x := by
  rw [Dev.farCons, h.isHere, Dev.farCons]

/-- Pops and pushes leave every queue's producer here. -/
theorem Dev.ringsTo.nearQueues {d e : Dev} (h : d.ringsTo e) (hnear : d.nearQueues) : e.nearQueues := by
  induction h with
  | refl => exact hnear
  | @step e i g he hg ih =>
    intro x hx
    obtain ⟨j, hj, rfl⟩ := List.mem_iff_getElem.1 hx
    have hlen : j < e.queues.length := by simpa [Dev.setQ] using hj
    have hprod : ((e.setQ i g).queues[j]).decl = (e.queues[j]).decl := by
      simp only [Dev.setQ, List.getElem_modify]
      split
      · exact (hg _).1
      · rfl
    have := ih _ (List.getElem_mem hlen)
    rw [Dev.farProd, hprod]
    exact this

/-- Tiles pop from a queue whose producer lies here. -/
theorem popTiles_near {d : Dev} (hnear : d.nearQueues) (i n : Nat) : d.poppedTo (d.popTiles i n) := by
  unfold Dev.popTiles
  split
  · exact .refl d
  · rename_i x hx
    have hprod : d.farProd x = false := hnear x (List.mem_of_getElem? hx)
    have hring (k : Nat) : d.poppedTo (d.setQ i fun s => { s with ring := s.ring.drop k }) :=
      poppedTo_setQ d i (fun _ => ⟨rfl, rfl⟩) fun y => by simp only [List.length_drop]; omega
    simp only [hprod, Bool.false_eq_true, if_false]
    split
    · exact (hring _).trans (poppedTo_setQ _ i (fun _ => ⟨rfl, rfl⟩) fun _ => Nat.le_refl _)
    · exact hring _

theorem popAll_near (c : Nat) (u : EngUnit) (ps : List (Nat × Nat × Bool × Nat)) {d : Dev} (hnear : d.nearQueues) :
    d.poppedTo (d.popAll c u ps) := by
  induction ps generalizing d with
  | nil => exact .refl d
  | cons p ps ih =>
    have hone : d.poppedTo (if p.2.2.1 then d else match d.headIdx c u p.1 with | none => d | some i => d.popTiles i p.2.1) := by
      split
      · exact .refl d
      · split
        · exact .refl d
        · exact popTiles_near hnear _ _
    exact hone.trans (ih (hone.rings.nearQueues hnear))

/-! ## Pushes of several queues (R79) -/

/-- The tiles of a queue among those of a command, in order. -/
def tilesFor (outs : List (Nat × List Byte)) (n : Nat) : List (List Byte) := (outs.filter fun p => p.1 == n).map (·.2)

theorem tilesFor_same (n : Nat) (t : List Byte) (outs : List (Nat × List Byte)) : tilesFor ((n, t) :: outs) n = t :: tilesFor outs n := by
  simp [tilesFor]

theorem tilesFor_other {n m : Nat} (h : n ≠ m) (t : List Byte) (outs : List (Nat × List Byte)) : tilesFor ((n, t) :: outs) m = tilesFor outs m := by
  simp [tilesFor, h]

/-- The device after tiles pushed to queues of one core, one after another. -/
def Dev.pushAll (d : Dev) (c : Nat) (u : EngUnit) : List (Nat × List Byte) → Dev
  | [] => d
  | (n, t) :: outs => Dev.pushAll (match d.tailIdx c u n with | none => d | some i => d.setQ i (.withPushed [t])) c u outs

/-- Every queue to which a command pushes has both its ends on the core, and room for all that the command pushes to it. -/
def Dev.hasRoom (d : Dev) (c : Nat) (u : EngUnit) (outs : List (Nat × List Byte)) : Prop :=
  ∀ o ∈ outs, ∃ i x, d.tailIdx c u o.1 = some i ∧ d.q? i = some x ∧ x.decl.prod.core = c ∧ x.decl.cons.core = c ∧ d.farCons x = false ∧
    x.ring.length + (tilesFor outs o.1).length ≤ x.decl.cap

section
variable {d : Dev} {c : Nat} {u : EngUnit}

theorem pushAll_ringsTo (outs : List (Nat × List Byte)) (d : Dev) : d.ringsTo (d.pushAll c u outs) := by
  induction outs generalizing d with
  | nil => exact .refl
  | cons o outs ih =>
    obtain ⟨n, t⟩ := o
    unfold Dev.pushAll
    split
    · exact ih d
    · exact (Dev.ringsTo.of_setQ d _ (keepsEnds_withPushed [t])).trans (ih _)

theorem pushAll_setCore (outs : List (Nat × List Byte)) (d : Dev) (f : CoreSt → CoreSt) :
    (d.setCore c f).pushAll c u outs = (d.pushAll c u outs).setCore c f := by
  induction outs generalizing d with
  | nil => rfl
  | cons o outs ih =>
    obtain ⟨n, t⟩ := o
    unfold Dev.pushAll
    rw [← ih, show (d.setCore c f).tailIdx c u n = d.tailIdx c u n from rfl]
    cases d.tailIdx c u n <;> rfl

/-- Queues of different numbers have different places. -/
theorem tailIdx_num {n i : Nat} {x : QState} (htail : d.tailIdx c u n = some i) (hx : d.q? i = some x) : x.decl.num = n := by
  obtain ⟨hlt, hend, -⟩ := List.findIdx?_eq_some_iff_getElem.1 htail
  obtain rfl : d.queues[i] = x := by simpa [Dev.q?, hlt] using hx
  simp only [Bool.and_eq_true, beq_iff_eq] at hend
  exact hend.1.1.1

theorem tailIdx_ne {n m i j : Nat} (hn : d.tailIdx c u n = some i) (hm : d.tailIdx c u m = some j) (hne : n ≠ m) : i ≠ j := by
  rintro rfl
  obtain ⟨hlt, -, -⟩ := List.findIdx?_eq_some_iff_getElem.1 hn
  have hx : d.q? i = some d.queues[i] := by simp [Dev.q?, hlt]
  exact hne ((tailIdx_num hn hx).symm.trans (tailIdx_num hm hx))

/-- A queue gets the tiles that name it. -/
theorem pushAll_q {n i : Nat} (outs : List (Nat × List Byte)) {d : Dev} {x : QState} (htail : d.tailIdx c u n = some i) (hx : d.q? i = some x) :
    (d.pushAll c u outs).q? i = some (x.withPushed (tilesFor outs n)) := by
  induction outs generalizing d x with
  | nil => rw [Dev.pushAll, hx, tilesFor, List.filter_nil, List.map_nil, withPushed_nil]; rfl
  | cons o outs ih =>
    obtain ⟨m, t⟩ := o
    unfold Dev.pushAll
    by_cases hm : m = n
    · subst hm
      simp only [htail]
      rw [ih ((tailIdx_setQ (keepsEnds_withPushed [t]) d i c u m).trans htail) (q_setQ d i _ x hx), tilesFor_same]
      exact congrArg some (congrFun (withPushed_comp t (tilesFor outs m)) x)
    · rw [tilesFor_other hm]
      cases hj : d.tailIdx c u m with
      | none => exact ih htail hx
      | some j =>
        exact ih ((tailIdx_setQ (keepsEnds_withPushed [t]) d j c u n).trans htail)
          ((q_setQ_ne d _ (tailIdx_ne htail hj (Ne.symm hm))).trans hx)

/-- A queue that no tile names is as it was. -/
theorem pushAll_q_other {i : Nat} (outs : List (Nat × List Byte)) {d : Dev} (hno : ∀ o ∈ outs, d.tailIdx c u o.1 ≠ some i) :
    (d.pushAll c u outs).q? i = d.q? i := by
  induction outs generalizing d with
  | nil => rfl
  | cons o outs ih =>
    obtain ⟨n, t⟩ := o
    have hrest (o) (ho : o ∈ outs) : d.tailIdx c u o.1 ≠ some i := hno o (List.mem_cons_of_mem _ ho)
    unfold Dev.pushAll
    cases hj : d.tailIdx c u n with
    | none => exact ih hrest
    | some j =>
      have hne : i ≠ j := fun h => hno (n, t) (List.mem_cons_self ..) (hj.trans (congrArg some h.symm))
      have hsame (m) : (d.setQ j (.withPushed [t])).tailIdx c u m = d.tailIdx c u m := tailIdx_setQ (keepsEnds_withPushed [t]) d j c u m
      refine Eq.trans (ih fun o ho => ?_) (q_setQ_ne d _ hne)
      rw [hsame]
      exact hrest o ho

/-- After one tile of those to push, the rest still has room. -/
theorem hasRoom_rest {n i : Nat} {t : List Byte} {outs : List (Nat × List Byte)} (hroom : d.hasRoom c u ((n, t) :: outs))
    (htail : d.tailIdx c u n = some i) : (d.setQ i (.withPushed [t])).hasRoom c u outs := by
  intro o ho
  obtain ⟨j, y, hj, hy, hprod, hcons, hnear, hcap⟩ := hroom o (List.mem_cons_of_mem _ ho)
  have hj' : (d.setQ i (.withPushed [t])).tailIdx c u o.1 = some j := (tailIdx_setQ (keepsEnds_withPushed [t]) d i c u o.1).trans hj
  by_cases hn : n = o.1
  · have hij : i = j := Option.some_inj.1 (htail.symm.trans (hn ▸ hj))
    subst hij
    rw [← hn, tilesFor_same, List.length_cons] at hcap
    refine ⟨i, _, hj', q_setQ d i _ y hy, hprod, hcons, hnear, ?_⟩
    simp only [QState.withPushed, List.length_append, List.length_singleton, ← hn]
    omega
  · rw [tilesFor_other hn] at hcap
    exact ⟨j, y, hj', (q_setQ_ne d _ (tailIdx_ne hj htail (Ne.symm hn))).trans hy, hprod, hcons, hnear, hcap⟩

/-- Tiles that all have room go out in order, and none is held. -/
theorem pushHeld_all (outs : List (Nat × List Byte)) {d : Dev} (hroom : d.hasRoom c u outs) (hpusher : ((d.core c).pusher u).isSome = true) :
    d.pushHeld c u outs = ([], d.pushAll c u outs) := by
  induction outs generalizing d with
  | nil => rfl
  | cons o outs ih =>
    obtain ⟨n, t⟩ := o
    obtain ⟨i, x, htail, hx, hprod, hcons, hnear, hcap⟩ := hroom (n, t) (List.mem_cons_self ..)
    have hrest := hasRoom_rest hroom htail
    rw [tilesFor_same, List.length_cons] at hcap
    have hprodHere : d.isHere x.decl.prod = true := tailIdx_isHere htail hx
    have hconsHere : d.isHere x.decl.cons = true := by simpa [Dev.farCons] using hnear
    have hfree : d.freeSlots x > 0 := by
      simp only [Dev.freeSlots, hprodHere, hconsHere, Bool.and_self, if_true, hprod, hcons]
      omega
    have hpush : d.pushTile i t = d.setQ i (.withPushed [t]) := by
      simp only [Dev.pushTile, hx, hnear, Bool.false_eq_true, if_false, hprod, hcons, if_true]
      rfl
    simp only [Dev.pushHeld, htail, Option.bind_some, hx, Option.map_some, hfree, decide_true, hpusher, Bool.and_self, if_true, hpush, Dev.pushAll]
    exact ih hrest hpusher

end

/-- Room found before the pops is there after them. -/
theorem hasRoom_popped {d e : Dev} {c : Nat} {u : EngUnit} {outs : List (Nat × List Byte)} (h : d.poppedTo e)
    (hroom : ∀ o ∈ outs, ∃ i x, d.tailRoom c u o.1 i (tilesFor outs o.1).length x) : e.hasRoom c u outs := by
  intro o ho
  obtain ⟨i, x, htail, hx, hprod, hcons, hnear, -, hcap⟩ := hroom o ho
  obtain ⟨y, hy, hdecl, hlen⟩ := h.shorter i x hx
  refine ⟨i, y, (h.rings.tailIdx c u o.1).trans htail, hy, by rw [hdecl, hprod], by rw [hdecl, hcons], ?_, by rw [hdecl]; omega⟩
  rw [h.rings.farCons, Dev.farCons, hdecl]
  exact hnear

/-- Open queues refuse no push (R80). -/
theorem closedPush_open {d : Dev} {c : Nat} {u : EngUnit} {outs : List (Nat × List Byte)}
    (hopen : ∀ o ∈ outs, ∃ i x, d.tailIdx c u o.1 = some i ∧ d.q? i = some x ∧ x.closed = false) : d.closedPush c u outs = none := by
  rw [Dev.closedPush, List.findSome?_eq_none_iff]
  intro o ho
  obtain ⟨i, x, htail, hx, hclosed⟩ := hopen o ho
  simp [htail, hx, hclosed]

/-- A command that is alone, with room for all its tiles, commits. -/
theorem commit_room {d : Dev} {c : Nat} {u : EngUnit} {q : QCmd} (ha : d.lone c u q) (hnear : d.nearQueues)
    (pops : List (Nat × Nat × Bool × Nat)) {outs : List (Nat × List Byte)}
    (hroom : ∀ o ∈ outs, ∃ i x, d.tailRoom c u o.1 i (tilesFor outs o.1).length x) :
    d.commit c u pops outs = ((d.popAll c u pops).pushAll c u outs).freed c u := by
  have hpopped := popAll_near c u pops hnear
  refine Dev.lone.commit (q := q) (closedPush_open fun o ho => ?_) (ha.ringsTo hpopped.rings) (pushAll_ringsTo outs _) fun f hpusher => ?_
  · obtain ⟨i, x, htail, hx, -, -, -, hopen, -⟩ := hroom o ho
    exact ⟨i, x, htail, hx, hopen⟩
  · have hroom' : (d.popAll c u pops).hasRoom c u outs := hasRoom_popped hpopped hroom
    rw [pushHeld_all outs (d := (d.popAll c u pops).setCore c f) hroom' hpusher, pushAll_setCore]

/-- What a command that commits leaves. -/
theorem resultsLeave {d : Dev} {c : Nat} {u : EngUnit} {q : QCmd} (ha : d.lone c u q) (hnear : d.nearQueues)
    (pops : List (Nat × Nat × Bool × Nat)) {outs : List (Nat × List Byte)}
    (hroom : ∀ o ∈ outs, ∃ i x, d.tailRoom c u o.1 i (tilesFor outs o.1).length x) :
    let e := d.commit c u pops outs
    (e.core c).queue u = [] ∧
    (∀ (n i : Nat) (x : QState), d.tailIdx c u n = some i → (d.popAll c u pops).q? i = some x →
      (e.q? i).map (·.ring) = some (x.ring ++ tilesFor outs n)) ∧
    (∀ i, (∀ o ∈ outs, d.tailIdx c u o.1 ≠ some i) → e.q? i = (d.popAll c u pops).q? i) ∧
    e.mem = d.mem ∧ (u ≠ .mx → e.er = d.er) ∧ e.er = { d.er with coalesce := e.er.coalesce } ∧ (∀ k, k ≠ c → e.core k = d.core k) ∧
    (e.core c).flags = (d.core c).flags ∧ (e.core c).counters = (d.core c).counters := by
  have hpopped := popAll_near c u pops hnear
  have hrings := hpopped.rings.trans (pushAll_ringsTo (c := c) (u := u) outs _)
  rw [commit_room ha hnear pops hroom]
  set p := d.popAll c u pops
  set r := p.pushAll c u outs
  have hlen : c < r.cores.length := by rw [hrings.cores]; exact ha.len
  have hcc : u ≠ .cc := by rcases ha.engine with rfl | rfl | rfl <;> decide
  have hcore : (r.freed c u).core c = (d.core c).setQueue u [] := by rw [freed_core hlen, hrings.core]
  have hq (i : Nat) : (r.freed c u).q? i = r.q? i := by rw [freed_eq]; rfl
  have her : r.er = d.er := by rw [hrings.eq]; rfl
  intro e
  refine ⟨?_, fun n i x htail hx => ?_, fun i hno => ?_, ?_, fun hu => ?_, ?_, fun k hk => ?_, ?_, ?_⟩
  · rw [show e.core c = _ from hcore, setQueue_queue _ hcc]
  · rw [show e.q? i = _ from hq i, pushAll_q outs ((hpopped.rings.tailIdx c u n).trans htail) hx]
    rfl
  · rw [show e.q? i = _ from hq i]
    exact pushAll_q_other outs fun o ho => by rw [hpopped.rings.tailIdx]; exact hno o ho
  · show (r.freed c u).mem = d.mem
    rw [freed_eq, hrings.eq]
    rfl
  · show (r.freed c u).er = d.er
    rw [freed_other hu]
    exact her
  · show (r.freed c u).er = { d.er with coalesce := (r.freed c u).er.coalesce }
    conv_lhs => rw [freed_eq]
    rw [← her]
  · rw [show e.core k = _ from freed_core_ne r hk u, hrings.core]
  · rw [show e.core c = _ from hcore]
    cases u <;> rfl
  · rw [show e.core c = _ from hcore]
    cases u <;> rfl

end Sys2Proof.Machine
end

section
/-! The drain of a MATMUL alone in the pipe (R135, R137, R139, R150, R156, R163), and O16. -/

namespace Sys2Proof.Machine

open Sys2Proof

/-! ## The oldest MATMUL of the pipe completes (R139, R150) -/

/-- The device once its core's pipe is empty: without an open accumulation MX idles, and its run ends. -/
def Dev.drained (d : Dev) (c : Nat) : Dev :=
  let e := d.setCore c fun s => { s with pipe := [] }
  if (d.core c).acc.pairs = [] then e.runEnd c else e

theorem drained_eq (d : Dev) (c : Nat) :
    d.drained c = { d.setCore c (fun s => { s with pipe := [] }) with
      ct := (d.drained c).ct, er := { d.er with coalesce := (d.drained c).er.coalesce } } := by
  unfold Dev.drained
  dsimp only
  split
  · rw [runEnd_eq]; rfl
  · rfl

theorem drained_core {d : Dev} {c : Nat} (hlen : c < d.cores.length) : (d.drained c).core c = { d.core c with pipe := [] } := by
  rw [drained_eq]
  exact core_setCore d c _ hlen

theorem drained_core_ne (d : Dev) {c k : Nat} (hk : k ≠ c) : (d.drained c).core k = d.core k := by
  rw [drained_eq]
  exact core_setCore_ne d c k _ hk

/-- What the command of the oldest MATMUL becomes does not matter once the pipe is empty. -/
theorem setJob_drained {d : Dev} {c : Nat} (hlen : c < d.cores.length) (f : QCmd → QCmd) :
    (d.setCore c (·.setJob f)).drained c = d.drained c := by
  unfold Dev.drained
  rw [core_setCore d c _ hlen, setCore_setCore]
  rfl

/-- A MATMUL alone in the pipe of its core: it raises nothing, and nothing that MX wrote is still under way. -/
structure Dev.lastJob (d : Dev) (c : Nat) (q : QCmd) (a : AccSt) : Prop where
  pipe : (d.core c).pipe = [⟨q, a⟩]
  trap : q.trap = none
  signals : q.cmd.signals = []
  queues : ∀ v ∈ [EngUnit.mx, .vx, .ls], (d.core c).queue v = []
  ending : (d.core c).ending = none
  len : c < d.cores.length
  landed : d.landed c .mx = true

section
variable {d : Dev} {c : Nat} {q : QCmd} {a : AccSt}

theorem pipeAlone.lastJob (h : pipeAlone d c q a) : d.lastJob c q a := by
  obtain ⟨hpipe, -, -, htrap, hsignals, -, hqueues, -, hending, hlen, -, hlanded⟩ := h
  exact ⟨hpipe, htrap, hsignals, hqueues, hending, hlen, hlanded⟩

theorem Dev.lastJob.ringsTo {e : Dev} (ha : d.lastJob c q a) (h : d.ringsTo e) : e.lastJob c q a := by
  have hcore := h.core c
  exact ⟨by rw [hcore, ha.pipe], ha.trap, ha.signals, by rw [hcore]; exact ha.queues, by rw [hcore, ha.ending], by rw [h.cores]; exact ha.len,
    by rw [h.landed, ha.landed]⟩

/-- Its command changed. -/
theorem Dev.lastJob.setJob (ha : d.lastJob c q a) {f : QCmd → QCmd} (htrap : (f q).trap = none) (hcmd : (f q).cmd = q.cmd) :
    (d.setCore c (·.setJob f)).lastJob c (f q) a := by
  have hcore : (d.setCore c (·.setJob f)).core c = (d.core c).setJob f := core_setCore d c _ ha.len
  refine ⟨by rw [hcore, CoreSt.setJob, ha.pipe], htrap, by rw [hcmd, ha.signals], fun v hv => ?_, by rw [hcore]; exact ha.ending,
    by simpa [Dev.setCore] using ha.len, ha.landed⟩
  rw [hcore]
  exact ha.queues v hv

theorem Dev.lastJob.completeJob (ha : d.lastJob c q a) : d.completeJob c = d.drained c := by
  have hcore : (d.setCore c fun s => { s with pipe := [] }).core c = { d.core c with pipe := [] } := core_setCore d c _ ha.len
  have hmx : (d.core c).mx = [] := ha.queues .mx (by decide)
  have hidle : (d.setCore c fun s => { s with pipe := [] }).mxIdle c (d.core c) = d.drained c := by
    unfold Dev.mxIdle Dev.drained
    rw [hcore]
    simp [hmx, ha.pipe]
  have hdrained := drained_core ha.len
  have hstays : ((d.core c).halted && !(d.core c).halted) = false := by cases (d.core c).halted <;> rfl
  unfold Dev.completeJob Dev.leave
  simp only [ha.pipe, ha.trap, hidle, ha.signals, Dev.raiseSignals, List.foldl_nil, Dev.afterHalt, hdrained, hstays, Bool.false_eq_true, if_false]
  exact finishEnd_none (by rw [hdrained, ha.ending])

/-- Once drained, with room for all its tiles, it pushes them and its bank is free. -/
theorem Dev.lastJob.settleJob (ha : d.lastJob c q a) (hran : q.ran = true) (hroom : d.hasRoom c .mx q.hold) :
    d.settleJob c = (d.pushAll c .mx q.hold).drained c := by
  let out (x : QCmd) : QCmd := { x with hold := [] }
  have hpusher : (d.core c).pusher .mx = some q := by simp [CoreSt.pusher, ha.pipe, hran]
  have hrings : d.ringsTo (d.pushAll c .mx q.hold) := pushAll_ringsTo q.hold d
  have hout : ((d.pushAll c .mx q.hold).setCore c (·.setJob out)).lastJob c (out q) a := (ha.ringsTo hrings).setJob ha.trap rfl
  have hstill : ((((d.pushAll c .mx q.hold).setCore c (·.setJob out)).core c).pusher .mx).isSome = true := by
    simp [CoreSt.pusher, hout.pipe, out, hran]
  unfold Dev.settleJob
  simp only [hpusher, ha.pipe, pushHeld_all q.hold hroom (by rw [hpusher]; rfl)]
  rw [if_pos]
  · exact hout.completeJob.trans (setJob_drained (by rw [hrings.cores]; exact ha.len) out)
  · change (((((d.pushAll c .mx q.hold).setCore c (·.setJob out)).core c).pusher .mx).isSome && List.isEmpty ([] : List (Nat × List Byte)) &&
      ((d.pushAll c .mx q.hold).setCore c (·.setJob out)).landed c .mx) = true
    rw [hstill, hout.landed]
    rfl

/-- A drained MATMUL that is alone commits: its tiles go out in order, and its bank is free (R139). -/
theorem Dev.lastJob.commitJob (ha : d.lastJob c q a) (hnanTrap : q.cmd.nanTrap = false) {outs : List (Nat × List Byte)}
    (hclosed : d.closedPush c .mx outs = none) (hroom : d.hasRoom c .mx outs) : d.commitJob c outs = (d.pushAll c .mx outs).drained c := by
  unfold Dev.commitJob
  simp only [hclosed]
  set run := fun q : QCmd => { q with ran := true, hold := outs, trap := if q.cmd.nanTrap then nanTrapOf outs else none }
  have hjob : (d.setCore c (·.setJob run)).lastJob c (run q) a := ha.setJob (by simp [run, hnanTrap]) rfl
  have hrings : d.ringsTo (d.pushAll c .mx outs) := pushAll_ringsTo outs d
  have hlen : c < (d.pushAll c .mx outs).cores.length := by rw [hrings.cores]; exact ha.len
  have hsettle : (d.setCore c (·.setJob run)).settleJob c = (d.pushAll c .mx outs).drained c := by
    rw [hjob.settleJob rfl hroom, pushAll_setCore]
    exact setJob_drained hlen run
  have hidle (v : EngUnit) (hv : v ∈ [EngUnit.mx, .vx, .ls]) :
      ((d.pushAll c .mx outs).drained c).settleCmd c v = (d.pushAll c .mx outs).drained c := by
    refine settleCmd_empty ?_
    rw [drained_core hlen, hrings.core]
    exact ha.queues v hv
  rw [Dev.settleCore, hsettle, hidle .mx (by decide), hidle .vx (by decide), hidle .ls (by decide)]

end

/-! ## The report to a scale entry of the open iterations (R156, R163) -/

section
variable {d : Dev} {ref : ScaleRef} {rule : ScaleRule}

theorem readFor_unarmed {a n : Nat} (hunarmed : d.unarmed = true) (hwhole : d.poisonedIn a n = none) (req : Nat) :
    ∃ e, d.readFor req a n = (some (d.peek a n), e) ∧ d.readsTo e := by
  unfold Dev.readFor
  simp only [hwhole, mimic_unarmed d _ hunarmed, Bool.false_eq_true, if_false]
  refine ⟨_, rfl, ?_⟩
  split <;> exact ⟨_, _, _, rfl⟩

/-- An entry with a rule exists, is valid and can be read. -/
theorem ruleAt_entry (hrule : d.ruleAt (some ref) = some rule) :
    ref.idx < d.scale.count.toNat ∧ (d.entry ref.idx).valid = 1 ∧ d.poisonedIn (d.entryAddr ref.idx) 64 = none := by
  simp only [Dev.ruleAt] at hrule
  split at hrule
  · exact absurd hrule (by simp)
  · rename_i hopen
    simp only [Bool.or_eq_true, decide_eq_true_eq, not_or, Nat.not_le, ne_eq, Classical.not_not, Bool.not_eq_true,
      Option.isSome_eq_false_iff, Option.isNone_iff_eq_none] at hopen
    obtain ⟨⟨hcount, hvalid⟩, hwhole⟩ := hopen
    exact ⟨hcount, hvalid, hwhole⟩

theorem readEntry_open (hunarmed : d.unarmed = true) (hrule : d.ruleAt (some ref) = some rule) (req : Nat) :
    ∃ e, d.readEntry req ref.idx = (.ok (d.entry ref.idx), e) ∧ d.readsTo e := by
  obtain ⟨hcount, hvalid, hwhole⟩ := ruleAt_entry hrule
  obtain ⟨e, hread, hde⟩ := readFor_unarmed hunarmed hwhole req
  refine ⟨e, ?_, hde⟩
  have hvalid' : (entryOf (d.peek (d.entryAddr ref.idx) 64)).valid = 1 := hvalid
  simp only [Dev.readEntry, hread, if_neg (Nat.not_le.2 hcount), if_pos hvalid']
  rfl

/-- A reference to an open iteration takes the entry as it stands, and seals nothing. -/
theorem touchEntry_open (hunarmed : d.unarmed = true) (hrule : d.ruleAt (some ref) = some rule) (req : Nat) :
    ∃ slot e, d.touchEntry req ref = (.ok (d.entry ref.idx, slot), e) ∧ d.readsTo e ∧ (d.entry ref.idx).rule slot = rule := by
  obtain ⟨e, hread, hde⟩ := readEntry_open hunarmed hrule req
  have hlt := (d.entry ref.idx).iter.isLt
  simp only [Dev.ruleAt] at hrule
  simp only [Dev.touchEntry, hread]
  split at hrule
  · exact absurd hrule (by simp)
  · split at hrule
    · rename_i hcur
      refine ⟨.cur, e, ?_, hde, Option.some_inj.1 hrule⟩
      rw [if_neg (by omega), if_pos hcur]
    · split at hrule
      · rename_i hcur hprev
        refine ⟨.prev, e, ?_, hde, Option.some_inj.1 hrule⟩
        rw [if_neg (by omega), if_neg hcur, if_pos (by omega)]
      · exact absurd hrule (by simp)

/-- An entry written back changes its own bytes alone. -/
theorem setEntry_accessesTo (d : Dev) (i : Nat) (x : ScaleEntry) : d.accessesTo (d.setEntry i x) := by
  unfold Dev.setEntry
  split
  · exact d.write_accessesTo _ _
  · exact .refl d

theorem setEntry_read {d : Dev} (hwf : d.mem.wf = true) (i : Nat) (x : ScaleEntry) {b : Nat} (hb : b < d.entryAddr i ∨ d.entryAddr i + 64 ≤ b) :
    (d.setEntry i x).mem.read b = d.mem.read b := by
  unfold Dev.setEntry
  split
  · rw [Dev.write_mem]
    exact Memory.read_writes_outside hwf _ (by rwa [length_entryBytes])
  · rfl

/-- The bytes of an entry are those between its ends. -/
theorem entryBytesAt_outside {b : Nat} (hb : d.entryBytesAt (some ref) b = false) : b < d.entryAddr ref.idx ∨ d.entryAddr ref.idx + 64 ≤ b := by
  rw [Dev.entryBytesAt, Option.any_some, Bool.and_eq_false_iff, decide_eq_false_iff_not, decide_eq_false_iff_not] at hb
  exact hb.imp Nat.lt_of_not_le Nat.le_of_not_lt

theorem Dev.readsTo.entryAddr {e : Dev} (h : d.readsTo e) (i : Nat) : e.entryAddr i = d.entryAddr i := by obtain ⟨_, _, _, rfl⟩ := h; rfl

theorem reportScale_open (hunarmed : d.unarmed = true) (hrule : d.ruleAt (some ref) = some rule) (hwf : d.mem.wf = true) (req : Nat)
    (amax : Fl) (ovf retry : Nat) :
    ∃ e, d.reportScale req ref amax ovf retry = (.ok (), e) ∧ d.accessesTo e ∧
      ∀ b, d.entryBytesAt (some ref) b = false → e.mem.read b = d.mem.read b := by
  obtain ⟨slot, e, htouch, hde, -⟩ := touchEntry_open hunarmed hrule req
  have hreport : d.reportScale req ref amax ovf retry = (.ok (), e.setEntry ref.idx ((d.entry ref.idx).report slot amax ovf retry)) := by
    rw [Dev.reportScale, htouch]
  refine ⟨_, hreport, hde.accesses.trans (setEntry_accessesTo e _ _), fun b hb => ?_⟩
  have hout := entryBytesAt_outside hb
  rw [← hde.entryAddr] at hout
  rw [setEntry_read (by rw [hde.mem]; exact hwf) _ _ hout, hde.mem]

end

/-- The steps that a conversion made twice takes more (R138). -/
def ScaleRule.retries : ScaleRule → Nat
  | .actual .. => 16
  | .fixed _ => 0

/-- A core whose count of conversions made twice has grown (R138). -/
def CoreSt.retried (n : Nat) (s : CoreSt) : CoreSt := { s with retrySteps := s.retrySteps + n }

theorem setCore_retried_zero (d : Dev) (c : Nat) : d.setCore c (.retried 0) = d := by
  show { d with cores := d.cores.modify c id } = d
  rw [List.modify_id]

/-- A conversion whose rule is found and whose report is made delivers its tile. -/
theorem drainConvert_of {d e g : Dev} {ref : ScaleRef} {used : ScaleRule} {c : Nat} {f : Fmt} {rows cols epoch retry : Nat} {val : Nat → Nat → Fl}
    (hlookup : (if fmtScaled f then d.lookupScale (reqCore c) ref else (.ok (.fixed 0x7F), d)) = (.ok used, e))
    (hreport : (e.setCore c (.retried used.retries)).reportScale (reqCore c) ref (convTile f rows cols epoch used (fun _ _ => .nearest) false val).amax
      (convTile f rows cols epoch used (fun _ _ => .nearest) false val).sat retry = (.ok (), g)) :
    d.drainConvert c f (some ref) rows cols epoch retry val = (.ok (convTile f rows cols epoch used (fun _ _ => .nearest) false val).tile, g) := by
  unfold Dev.drainConvert
  simp only [hlookup]
  cases used with
  | actual h lo =>
    have hsame : (e.setCore c fun s => { s with retrySteps := s.retrySteps + 16 }) = e.setCore c (.retried (ScaleRule.actual h lo).retries) := rfl
    simp only [if_true, hsame, hreport]
  | fixed sc =>
    rw [show (ScaleRule.fixed sc).retries = 0 from rfl, setCore_retried_zero] at hreport
    simp only [Bool.false_eq_true, if_false, hreport]

/-- The rule of a conversion to a format: only a scaled one takes its scales from the entry. -/
theorem drainConvert_open {d : Dev} {ref : ScaleRef} {rule : ScaleRule} (hunarmed : d.unarmed = true) (hrule : d.ruleAt (some ref) = some rule)
    (hwf : d.mem.wf = true) (c : Nat) (f : Fmt) (rows cols epoch retry : Nat) (val : Nat → Nat → Fl) :
    ∃ n e, d.drainConvert c f (some ref) rows cols epoch retry val =
        (.ok (convTile f rows cols epoch (if fmtScaled f then rule else .fixed 0x7F) (fun _ _ => .nearest) false val).tile, e) ∧
      (d.setCore c (.retried n)).accessesTo e ∧ ∀ b, d.entryBytesAt (some ref) b = false → e.mem.read b = d.mem.read b := by
  have hconv : ∃ e, (if fmtScaled f then d.lookupScale (reqCore c) ref else (.ok (.fixed 0x7F), d)) =
      (.ok (if fmtScaled f then rule else .fixed 0x7F), e) ∧ d.readsTo e := by
    split
    · obtain ⟨slot, e, htouch, hde, hslot⟩ := touchEntry_open hunarmed hrule (reqCore c)
      exact ⟨e, by simp only [Dev.lookupScale, htouch, hslot], hde⟩
    · exact ⟨d, rfl, .refl d⟩
  obtain ⟨e, hlookup, depot, work, ct, rfl⟩ := hconv
  set used : ScaleRule := if fmtScaled f then rule else .fixed 0x7F
  obtain ⟨g, hreport, hg, hmem⟩ := reportScale_open (rule := rule)
    (d := ({ d with depot := depot, work := work, ct := ct } : Dev).setCore c (.retried used.retries)) hunarmed hrule hwf (reqCore c)
    (convTile f rows cols epoch used (fun _ _ => .nearest) false val).amax (convTile f rows cols epoch used (fun _ _ => .nearest) false val).sat retry
  have hstart : (d.setCore c (.retried used.retries)).readsTo (({ d with depot := depot, work := work, ct := ct } : Dev).setCore c (.retried used.retries)) :=
    ⟨_, _, _, rfl⟩
  exact ⟨used.retries, g, drainConvert_of hlookup hreport, hstart.accesses.trans hg, hmem⟩

/-! ## The drain -/

theorem exec_drainEnd (c : Nat) (s : State) : exec (.drainEnd c) s = .next (s.dev! (s.dev.drain c)) := rfl

section
variable {d : Dev} {c : Nat} {q : QCmd} {a : AccSt} {m : MatmulArgs} (ha : pipeAlone d c q a) (hop : q.cmd.op = .matmul m)
  (hcells : a.cells.isSome = true) (hresidue : a.residueFail (accShape a.pairs).1 (accShape a.pairs).2 = none)
include ha hop hcells hresidue

/-- With every residue right, the drain delivers the product tile, if any, and what the span emits; a span that ends is gone. -/
theorem drain_of {e : Dev} {outs : List (Nat × List Byte)}
    (hproduct : d.productTile c m a ((a.pairs.head?.map fun p => tileEpoch p.1).getD 0) = (.ok outs, e)) :
    let span := spanStep (d.core c).span m.kind (accShape a.pairs).1 (accShape a.pairs).2 ((a.pairs.head?.map fun p => tileEpoch p.1).getD 0)
      (a.valueAt (accShape a.pairs).2)
    d.drain c = (e.setCore c fun s => { s with span := if spanEnds m.kind then none else span }).commitJob c (outs ++ spanTiles span m.kind) := by
  obtain ⟨hpipe, hran, -, -, -, -, -, -, -, -, hunarmed, -⟩ := ha
  have hcheck : d.checkResidue c a = (none, d) := by
    unfold Dev.checkResidue
    simp only [hresidue, mimic_unarmed d _ hunarmed, Bool.false_eq_true, if_false]
  intro span
  unfold Dev.drain
  simp only [hpipe, hop, hcells, hran, Bool.not_false, Bool.and_self, if_true]
  unfold Dev.drainMatmul
  simp only [hcheck, hproduct]
  rfl

end

/-- The product tile of a drained accumulation under a rule (R137, R138, R139). -/
def productOf (m : MatmulArgs) (a : AccSt) (rule : ScaleRule) : List Byte :=
  (convTile m.outFmt (accShape a.pairs).1 (accShape a.pairs).2 ((a.pairs.head?.map fun p => tileEpoch p.1).getD 0)
    (if fmtScaled m.outFmt then rule else .fixed 0x7F) (fun _ _ => .nearest) false (a.valueAt (accShape a.pairs).2)).tile

/-- A core without a span of outputs. -/
def CoreSt.spanless (s : CoreSt) : CoreSt := { s with span := none }

/-- A MATMUL alone in the pipe is so whatever memory, the count of retries and the span are. -/
theorem pipeAlone.lastJob_after {d e : Dev} {c k : Nat} {q : QCmd} {a : AccSt} (ha : pipeAlone d c q a) (h : (d.setCore c (.retried k)).accessesTo e) :
    (e.setCore c .spanless).lastJob c q a := by
  have hjob := ha.lastJob
  have hlen : c < e.cores.length := by rw [h.cores]; simpa [Dev.setCore] using hjob.len
  have hcore : (e.setCore c .spanless).core c = ((d.core c).retried k).spanless := by
    rw [core_setCore e c _ hlen, h.core, core_setCore d c _ hjob.len]
  refine ⟨by rw [hcore]; exact hjob.pipe, hjob.trap, hjob.signals, by rw [hcore]; exact hjob.queues, by rw [hcore]; exact hjob.ending,
    by simpa [Dev.setCore] using hlen, ?_⟩
  obtain ⟨_, _, _, _, _, _, _, rfl⟩ := h
  exact hjob.landed

/-- A product under a scale entry, for a queue with room: it enters whole, and only the entry's bytes change. -/
theorem drain_scaled {d : Dev} {c n i : Nat} {q : QCmd} {a : AccSt} {m : MatmulArgs} {ref : ScaleRef} {rule : ScaleRule} {x : QState}
    (ha : pipeAlone d c q a) (hop : q.cmd.op = .matmul m) (hcells : a.cells.isSome = true)
    (hresidue : a.residueFail (accShape a.pairs).1 (accShape a.pairs).2 = none) (hout : m.out = some n) (hentry : m.entry = some ref)
    (hrule : d.ruleAt (some ref) = some rule) (hkind : m.kind = .plain) (hroom : d.tailRoom c .mx n i 1 x) (hwf : d.mem.wf = true) :
    ∃ k e, (d.setCore c (.retried k)).accessesTo e ∧ (∀ b, d.entryBytesAt (some ref) b = false → e.mem.read b = d.mem.read b) ∧
      d.drain c = ((e.setCore c .spanless).setQ i (.withPushed [productOf m a rule])).drained c := by
  obtain ⟨hpipe, -, -, -, -, hnanTrap, -, -, -, -, hunarmed, -⟩ := id ha
  obtain ⟨k, e, hconv, haccess, hmem⟩ := drainConvert_open hunarmed hrule hwf c m.outFmt (accShape a.pairs).1 (accShape a.pairs).2
    ((a.pairs.head?.map fun p => tileEpoch p.1).getD 0) a.retry.sum (a.valueAt (accShape a.pairs).2)
  refine ⟨k, e, haccess, hmem, ?_⟩
  have hproduct : d.productTile c m a ((a.pairs.head?.map fun p => tileEpoch p.1).getD 0) = (.ok [(n, productOf m a rule)], e) := by
    unfold Dev.productTile
    simp only [hout, hentry, hconv]
    rfl
  obtain ⟨htail, hx, hprod, hcons, hnear, hopen, hcap⟩ := hroom
  have htail' : (e.setCore c .spanless).tailIdx c .mx n = some i := (haccess.tailIdx c .mx n).trans htail
  have hx' : (e.setCore c .spanless).q? i = some x := (haccess.q? i).trans hx
  have hnear' : (e.setCore c .spanless).farCons x = false := by
    obtain ⟨_, _, _, _, _, _, _, rfl⟩ := haccess
    exact hnear
  have hclosed : (e.setCore c .spanless).closedPush c .mx [(n, productOf m a rule)] = none :=
    closedPush_open fun o ho => by rw [List.mem_singleton.1 ho]; exact ⟨i, x, htail', hx', hopen⟩
  have hroom' : (e.setCore c .spanless).hasRoom c .mx [(n, productOf m a rule)] := by
    intro o ho
    rw [List.mem_singleton.1 ho]
    exact ⟨i, x, htail', hx', hprod, hcons, hnear', by rw [tilesFor_same]; exact hcap⟩
  have hdrain := drain_of ha hop hcells hresidue hproduct
  rw [hkind] at hdrain
  rw [hdrain]
  have hspan (s : Option SpanSt) : spanTiles s .plain = [] := by cases s <;> rfl
  rw [hspan, List.append_nil]
  refine ((ha.lastJob_after haccess).commitJob hnanTrap hclosed hroom').trans ?_
  rw [Dev.pushAll, htail', Dev.pushAll]

/-- What the drain of a MATMUL leaves of its core. -/
def CoreSt.afterDrain (k : Nat) (s : CoreSt) : CoreSt := { (s.retried k).spanless with pipe := [] }

theorem afterDrain_keeps (k : Nat) (s : CoreSt) :
    (s.afterDrain k).pipe = [] ∧ (s.afterDrain k).acc = s.acc ∧ (s.afterDrain k).mx = s.mx ∧ (s.afterDrain k).flags = s.flags ∧
      (s.afterDrain k).counters = s.counters ∧ (s.afterDrain k).halted = s.halted := ⟨rfl, rfl, rfl, rfl, rfl, rfl⟩

theorem drained_after {d e : Dev} {c k i : Nat} {g : QState → QState} (hlen : c < d.cores.length) (haccess : (d.setCore c (.retried k)).accessesTo e) :
    (((e.setCore c .spanless).setQ i g).drained c).core c = (d.core c).afterDrain k ∧
      ∀ j, j ≠ c → (((e.setCore c .spanless).setQ i g).drained c).core j = d.core j := by
  have helen : c < e.cores.length := by rw [haccess.cores]; simpa [Dev.setCore] using hlen
  have hflen : c < ((e.setCore c .spanless).setQ i g).cores.length := by simpa [Dev.setQ, Dev.setCore] using helen
  have hcore : ((e.setCore c .spanless).setQ i g).core c = ((d.core c).retried k).spanless := by
    rw [← core_setCore d c (.retried k) hlen, ← haccess.core]
    exact core_setCore e c _ helen
  refine ⟨by rw [drained_core hflen, hcore]; rfl, fun j hj => ?_⟩
  rw [drained_core_ne _ hj, ← core_setCore_ne d c j _ hj, ← haccess.core, ← core_setCore_ne e c j _ hj]
  rfl

/-- A device whose core has drained its MATMUL, with the rest as it was. -/
theorem engFrame_drained {s : State} {g : Dev} {c k : Nat} {but : Nat → Bool} (hqueue : (s.dev.core c).mx = [])
    (hcore : g.core c = (s.dev.core c).afterDrain k) (hothers : ∀ j, j ≠ c → g.core j = s.dev.core j)
    (her : g.er = { s.dev.er with coalesce := g.er.coalesce }) (hmem : ∀ b, but b = false → g.mem.read b = s.dev.mem.read b) :
    (g.core c).pipe = [] ∧ (g.core c).acc = (s.dev.core c).acc ∧ engFrame s (s.dev! g) c .mx but := by
  obtain ⟨hpipe, hacc, hmx, hflags, hcounters, hhalted⟩ := afterDrain_keeps k (s.dev.core c)
  rw [← hcore] at hpipe hacc hmx hflags hcounters hhalted
  exact ⟨hpipe, hacc, hmx.trans hqueue, rfl, rfl, hothers, hflags, hcounters, hhalted, fun h => absurd rfl h, her, hmem⟩

/-- What is left after a MATMUL has drained into a queue. -/
theorem drained_frame {s : State} {c k i : Nat} {q : QCmd} {a : AccSt} {ref : ScaleRef} {e : Dev} {x : QState} {ts : List (List Byte)}
    (ha : pipeAlone s.dev c q a) (haccess : (s.dev.setCore c (.retried k)).accessesTo e)
    (hmem : ∀ b, s.dev.entryBytesAt (some ref) b = false → e.mem.read b = s.dev.mem.read b) (hx : s.dev.q? i = some x) :
    let g := ((e.setCore c .spanless).setQ i (.withPushed ts)).drained c
    (g.q? i).map (·.ring) = some (x.ring ++ ts) ∧ (g.core c).pipe = [] ∧ (g.core c).acc = (s.dev.core c).acc ∧
      engFrame s (s.dev! g) c .mx (s.dev.entryBytesAt (some ref)) := by
  have hjob := ha.lastJob
  obtain ⟨hcore, hothers⟩ := drained_after (i := i) (g := .withPushed ts) hjob.len haccess
  have her : e.er = s.dev.er := haccess.er
  have hq : ((e.setCore c .spanless).setQ i (.withPushed ts)).q? i = some (x.withPushed ts) := q_setQ _ i _ x ((haccess.q? i).trans hx)
  have heq := drained_eq ((e.setCore c .spanless).setQ i (.withPushed ts)) c
  intro g
  have hgq : g.q? i = some (x.withPushed ts) := (congrArg (Dev.q? · i) heq).trans hq
  have hger : g.er = { s.dev.er with coalesce := g.er.coalesce } := (congrArg Dev.er heq).trans (by rw [← her]; rfl)
  have hgmem (b : Nat) (hb : s.dev.entryBytesAt (some ref) b = false) : g.mem.read b = s.dev.mem.read b :=
    (congrArg (fun d : Dev => d.mem.read b) heq).trans (hmem b hb)
  exact ⟨by rw [hgq]; rfl, engFrame_drained (hjob.queues .mx (by decide)) hcore hothers hger hgmem⟩

/-! ## O16 -/

/-- Settles O16: what `Dev.commit` and `Dev.commitJob` leave when every tile has room, by induction on the tiles; and the drain, whose report to the
entry changes the entry's bytes alone. -/
theorem resultsLeaveWhole : Obligations.ResultsLeaveWhole := by
  unfold Obligations.ResultsLeaveWhole
  refine ⟨fun d c u q pops outs hcc hst ha hnear hroom => ?_, fun s c q a m ha hop => ?_⟩
  · refine resultsLeave (ha.lone hcc hst) hnear pops fun o ho => ?_
    rw [tilesFor, List.length_map]
    exact hroom o ho
  · intro rows cols hcells hresidue val epoch span last drained
    have hlast : last = spanEnds m.kind := by
      cases hkind : m.kind <;> simp only [last, hkind] <;> rfl
    refine ⟨fun hout hentry => ?_, fun n hout hentry => ?_, fun n ref rule i x hout hentry hrule hkind hroom hwf => ?_⟩
    · have hproduct : s.dev.productTile c m a epoch = (.ok [], s.dev) := by
        unfold Dev.productTile
        simp only [hout, hentry]
        rfl
      rw [exec_drainEnd, drain_of ha hop hcells hresidue hproduct]
      simp only [drained, hlast]
      rfl
    · have hproduct : s.dev.productTile c m a epoch =
          (.ok [(n, (convTile m.outFmt rows cols epoch (.fixed 0x7F) (fun _ _ => .nearest) false val).tile)], s.dev) := by
        unfold Dev.productTile Dev.drainConvert
        simp only [hout, hentry]
        rfl
      rw [exec_drainEnd, drain_of ha hop hcells hresidue hproduct]
      simp only [drained, hlast]
      rfl
    · obtain ⟨k, e, haccess, hmem, hdrain⟩ := drain_scaled ha hop hcells hresidue hout hentry hrule hkind hroom hwf
      exact ⟨_, by rw [exec_drainEnd, hdrain], drained_frame ha haccess hmem hroom.2.1⟩

end Sys2Proof.Machine
end

section
/-! What reports, rings, packets and the ends of rounds and of a job leave of a core that has halted: everything (R102, R103). -/

namespace Sys2Proof.Machine

open Sys2Proof

/-! ## Steps that touch no core -/

theorem foldl_cores {α : Type} {f : Dev → α → Dev} (hf : ∀ d x, (f d x).cores = d.cores) (xs : List α) (d : Dev) :
    (xs.foldl f d).cores = d.cores := by
  induction xs generalizing d with
  | nil => rfl
  | cons x xs ih => exact (ih (f d x)).trans (hf d x)

@[simp] theorem putHost_cores (d : Dev) (a : Nat) (bs : List Byte) : (d.putHost a bs).cores = d.cores := rfl

@[simp] theorem writePieces_cores (ps : List (Nat × Nat)) (d : Dev) (bs : List Byte) : (d.writePieces ps bs).cores = d.cores := by
  induction ps generalizing d bs with
  | nil => rfl
  | cons p ps ih =>
    rw [Dev.writePieces, ih, Dev.writePiece1]
    split <;> simp

@[simp] theorem writeHandle_cores (d : Dev) (h : Word64) (off : Nat) (bs : List Byte) : (d.writeHandle h off bs).cores = d.cores := by
  unfold Dev.writeHandle
  split
  · rfl
  · exact writePieces_cores _ _ _

@[simp] theorem release_cores (d : Dev) (slot : Nat) : (d.release slot).cores = d.cores := by
  unfold Dev.release
  split
  · rfl
  · split <;> rfl

@[simp] theorem dropRefs_cores (d : Dev) (slots : List Nat) : (d.dropRefs slots).cores = d.cores := foldl_cores release_cores slots d

@[simp] theorem dropAcc_cores (d : Dev) (id : Nat) : (d.dropAcc id).cores = d.cores := by
  unfold Dev.dropAcc
  split
  · rfl
  · exact dropRefs_cores _ _

@[simp] theorem moveTsv_cores (d : Dev) (w n : Nat) : (d.moveTsv w n).cores = d.cores := rfl
@[simp] theorem moveHbm_cores (d : Dev) (a n : Nat) (write : Bool) : (d.moveHbm a n write).cores = d.cores := rfl

@[simp] theorem readFor_cores (d : Dev) (req a n : Nat) : (d.readFor req a n).2.cores = d.cores := by
  unfold Dev.readFor
  dsimp only
  split
  · exact Dev.detect_cores ..
  · split
    · simp
    · simp [apply_ite Dev.cores]

/-! ## Rings -/

@[simp] theorem setRing_cores (d : Dev) (r : Ring) : (d.setRing r).cores = d.cores := rfl
@[simp] theorem setDesc_cores (d : Dev) (n slot : Nat) (f : Desc → Desc) : (d.setDesc n slot f).cores = d.cores := rfl
@[simp] theorem deliverAll_cores (d : Dev) : d.deliverAll.cores = d.cores := foldl_cores (fun d _ => d.deliverOne_cores) _ d
@[simp] theorem fireRing_cores (d : Dev) (v : Nat) : (d.fireRing v).cores = d.cores := Dev.fire_cores _ v

@[simp] theorem countIrq_cores (d : Dev) (n : Nat) : (d.countIrq n).cores = d.cores := by
  unfold Dev.countIrq
  extract_lets r d1 total
  split
  · rfl
  · split
    · exact fireRing_cores _ _
    · rfl

@[simp] theorem putRecord_cores (d : Dev) (n slot status reason result detail errSeq : Nat) :
    (d.putRecord n slot status reason result detail errSeq).cores = d.cores := by
  unfold Dev.putRecord
  split
  · rfl
  · dsimp only
    rw [setRing_cores]
    split <;> simp

theorem askHost_cores {d e : Dev} {addr len : Nat} {use : HostUse} (h : d.askHost addr len use = some e) : e.cores = d.cores := by
  unfold Dev.askHost at h
  dsimp only at h
  split at h
  · exact absurd h (by simp)
  · rw [← Option.some_inj.1 h]
    rfl

@[simp] theorem askArgs_cores (d : Dev) (n : Nat) (x : Desc) : (d.askArgs n x).cores = d.cores := by
  unfold Dev.askArgs
  split
  · rfl
  · split
    · split
      · exact putRecord_cores ..
      · have hread := readFor_cores d reqFirmware x.argAddr x.argLen
        split
        · rename_i hnone
          rw [hnone] at hread
          exact (putRecord_cores ..).trans hread
        · rename_i hsome
          rw [hsome] at hread
          exact hread
    · split
      · rfl
      · rename_i hask
        exact (setDesc_cores ..).trans (askHost_cores hask)

@[simp] theorem startDesc_cores (d : Dev) (n : Nat) : (d.startDesc n).cores = d.cores := by
  unfold Dev.startDesc
  dsimp only
  split
  · rfl
  · split
    · split
      · simp
      · split
        · simp
        · split <;> simp
    · rfl

@[simp] theorem fetchDesc_cores (d : Dev) (n : Nat) : (d.fetchDesc n).cores = d.cores := by
  unfold Dev.fetchDesc
  dsimp only
  split
  · split
    · rfl
    · rename_i hask
      exact (setRing_cores ..).trans (askHost_cores hask)
  · rfl

@[simp] theorem advanceRing_cores (d : Dev) (n : Nat) : (d.advanceRing n).cores = d.cores := by
  unfold Dev.advanceRing
  dsimp only
  rw [setRing_cores, foldl_cores fun d _ => fetchDesc_cores d n, foldl_cores fun d _ => startDesc_cores d n]
  refine foldl_cores (fun d x => ?_) _ d
  split
  · exact askArgs_cores d n x
  · rfl

@[simp] theorem finishDesc_cores (d : Dev) (n slot status reason result detail errSeq : Nat) :
    (d.finishDesc n slot status reason result detail errSeq).cores = d.cores :=
  (foldl_cores (fun d (r : Ring) => advanceRing_cores d r.num) _ _).trans (putRecord_cores ..)

/-! ## The end of a job (R444, R445) -/

@[simp] theorem endStart_cores (d : Dev) (j : Job) (status reason detail errSeq : Nat) : (d.endStart j status reason detail errSeq).cores = d.cores := by
  unfold Dev.endStart
  split
  · rfl
  · exact finishDesc_cores ..

@[simp] theorem endHalts_cores (d : Dev) : d.endHalts.cores = d.cores := by
  unfold Dev.endHalts
  split
  · rfl
  · split
    · exact foldl_cores (fun d x => finishDesc_cores ..) _ _
    · rfl

@[simp] theorem jobCheck_cores (d : Dev) : d.jobCheck.cores = d.cores := by
  unfold Dev.jobCheck
  split
  · rfl
  · split
    · rfl
    · split
      · split
        · simp
        · rfl
      · split
        · split
          · split <;> simp
          · rfl
        · split
          · simp
          · rfl

/-! ## Packets -/

@[simp] theorem cplErr_cores (d : Dev) (port addr : Option Nat) (status req : Nat) (inj : Bool) : (d.cplErr port addr status req inj).cores = d.cores :=
  Dev.detect_cores ..

@[simp] theorem takeStream_cores (d : Dev) (dest : Nat) (key : List Nat) : (d.takeStream dest key).2.2.cores = d.cores := by
  unfold Dev.takeStream
  split <;> rfl

@[simp] theorem noteTiles_cores (d : Dev) (key port inward n : Nat) : (d.noteTiles key port inward n).cores = d.cores := by
  unfold Dev.noteTiles
  split <;> rfl

@[simp] theorem issue_cores (d : Dev) (use : FxUse) (p : Packet) (nonPosted addrValid : Bool) : (d.issue use p nonPosted addrValid).cores = d.cores := by
  unfold Dev.issue
  dsimp only
  split
  · split
    · rfl
    · dsimp only [Dev.emit_cores]
      split <;> simp
  · rfl

@[simp] theorem sendMessage_cores (d : Dev) (use : FxUse) (req rank : Nat) (key : List Nat) (payload : List Byte) :
    (d.sendMessage use req rank key payload).cores = d.cores := by
  unfold Dev.sendMessage
  split
  · exact cplErr_cores ..
  · split
    · exact cplErr_cores ..
    · exact foldl_cores (fun d i => (issue_cores ..).trans (takeStream_cores ..)) _ d

@[simp] theorem sendBz_cores (d : Dev) (core kind phase fmt layer mb dst epoch hTiles : Nat) (body : List Byte) :
    (d.sendBz core kind phase fmt layer mb dst epoch hTiles body).cores = d.cores := sendMessage_cores ..

/-! ## Steps that leave a halted core as it is -/

/-- A core that has halted in a device is the same in another. -/
def Dev.keepsHalted (c : Nat) (d e : Dev) : Prop := (d.core c).halted = true → e.core c = d.core c

theorem Dev.keepsHalted.refl (c : Nat) (d : Dev) : d.keepsHalted c d := fun _ => rfl

theorem keepsHalted_of_cores {c : Nat} {d e : Dev} (h : e.cores = d.cores) : d.keepsHalted c e := fun _ => by rw [Dev.core, h, Dev.core]

theorem Dev.keepsHalted.trans {c : Nat} {d e f : Dev} (hde : d.keepsHalted c e) (hef : e.keepsHalted c f) : d.keepsHalted c f := fun h => by
  have he := hde h
  exact (hef (by rw [he]; exact h)).trans he

theorem foldl_keepsHalted_from {α : Type} {c : Nat} {f : Dev → α → Dev} {d e : Dev} (he : e.cores = d.cores) (hf : ∀ (d : Dev) x, d.keepsHalted c (f d x))
    (xs : List α) : d.keepsHalted c (xs.foldl f e) := by
  induction xs generalizing d e with
  | nil => exact keepsHalted_of_cores he
  | cons x xs ih => exact ((keepsHalted_of_cores he).trans (hf e x)).trans (ih rfl)

theorem foldl_keepsHalted {α : Type} {c : Nat} {f : Dev → α → Dev} (hf : ∀ (d : Dev) x, d.keepsHalted c (f d x)) (xs : List α) (d : Dev) :
    d.keepsHalted c (xs.foldl f d) := foldl_keepsHalted_from rfl hf xs

section
variable (c : Nat) (d : Dev)

theorem haltBase_keepsHalted (k : Nat) (h : HaltInfo) : d.keepsHalted c (d.haltBase k h) := fun hhalted => by
  by_cases hk : c = k
  · subst hk
    rw [haltBase_halted hhalted]
  · exact haltBase_core_ne d k h hk

theorem raiseOne_keepsHalted (k : Nat) (u : EngUnit) (opIndex seq req : Nat) (s : SigField) :
    d.keepsHalted c (d.raiseOne k u opIndex seq req s) := by
  have hfail (st : Nat) (h : HaltInfo) : d.keepsHalted c (if u = .st then d.cplErr none none st req false
      else (d.cplErr none none st req false).haltBase k h) := by
    split
    · exact keepsHalted_of_cores (cplErr_cores ..)
    · exact (keepsHalted_of_cores (cplErr_cores ..)).trans (haltBase_keepsHalted c _ k h)
  unfold Dev.raiseOne
  extract_lets remote target src fail
  split
  · exact keepsHalted_of_cores rfl
  · split
    · exact hfail _ _
    · split
      · exact hfail _ _
      · exact keepsHalted_of_cores (issue_cores ..)

theorem finishEnd_keepsHalted (k : Nat) : d.keepsHalted c (d.finishEnd k) := fun hhalted => by
  by_cases hk : c = k
  · subst hk
    unfold Dev.finishEnd
    dsimp only
    split
    · rfl
    · rw [if_pos (by rw [hhalted]; rfl)]
  · unfold Dev.finishEnd
    dsimp only
    split
    · rfl
    · split
      · rfl
      · split
        · have hset (f : CoreSt → CoreSt) : (d.setCore k f).core c = d.core c := core_setCore_ne d k c f hk
          split
          · exact hset _
          · exact (raiseOne_keepsHalted c _ k _ _ _ _ _ (by rw [hset]; exact hhalted)).trans (hset _)
        · rw [Dev.core, jobCheck_cores]
          exact core_setCore_ne d k c _ hk

theorem completeAcc_keepsHalted (id : Nat) : d.keepsHalted c (d.completeAcc id) := by
  unfold Dev.completeAcc
  split
  · exact .refl c d
  · exact ((keepsHalted_of_cores (dropAcc_cores d id)).trans (foldl_keepsHalted (fun d s => raiseOne_keepsHalted c d _ _ _ _ _ s) _ _)).trans
      (finishEnd_keepsHalted c _ _)

theorem closePhase_keepsHalted (r : Round) (p : PhaseSt) (status : Nat) : d.keepsHalted c (d.closePhase r p status) := by
  unfold Dev.closePhase
  split
  · exact .refl c d
  · exact (keepsHalted_of_cores (writeHandle_cores ..)).trans (completeAcc_keepsHalted c _ _)

theorem endRound_keepsHalted (r : Round) : d.keepsHalted c (d.endRound r) := by
  unfold Dev.endRound
  extract_lets others abort d1 phases bz ct d2
  have habort (d : Dev) (ret : Bool) : (abort d ret).cores = d.cores := by
    unfold abort
    dsimp only
    split
    · rfl
    · exact foldl_cores (fun d m => sendBz_cores ..) _ d
  have hcores : d2.cores = d.cores := (habort _ true).trans (habort d false)
  exact (keepsHalted_of_cores hcores).trans (foldl_keepsHalted (fun d a => closePhase_keepsHalted c d r _ _) _ _)

theorem endRoundsOf_keepsHalted (k : Nat) : d.keepsHalted c (d.endRoundsOf k) := by
  unfold Dev.endRoundsOf
  extract_lets d1 gone
  have hrounds : d.keepsHalted c d1 := foldl_keepsHalted (fun d r => endRound_keepsHalted c d r) _ d
  refine hrounds.trans (foldl_keepsHalted_from ?_ (fun d w => ?_) gone)
  · rfl
  · split
    · split
      · split
        · exact closePhase_keepsHalted c d _ _ _
        · exact .refl c d
      · exact .refl c d
    · exact .refl c d

end

/-- A core halts; what its halt ends leaves it as the halt made it (R102, R103). -/
theorem haltCore_core {d : Dev} {c : Nat} (hrunning : (d.core c).halted = false) (hlen : c < d.cores.length) (h : HaltInfo) :
    (d.haltCore c h).core c = (d.core c).haltedBy h := by
  have hcore := haltBase_core d c h hrunning hlen
  have hends := endRoundsOf_keepsHalted c (d.haltBase c h) c (by rw [hcore]; rfl)
  unfold Dev.haltCore Dev.haltWith
  rw [if_neg (by rw [hrunning]; decide), Dev.core, jobCheck_cores]
  exact hends.trans hcore

end Sys2Proof.Machine
end

section
/-! READ, WRITE, ATOMIC and SIGNAL packets served (R378, R382, R385, R400), and O36. -/

namespace Sys2Proof.Machine

open Sys2Proof

theorem exec_read (port : Nat) (p : Packet) (s : State) : exec (.read port p) s = .next (s.dev! (s.dev.serveRead port p)) := rfl
theorem exec_write (port : Nat) (p : Packet) (s : State) : exec (.write port p) s = .next (s.dev! (s.dev.serveWrite port p)) := rfl
theorem exec_atomic (port : Nat) (p : Packet) (s : State) : exec (.atomic port p) s = .next (s.dev! (s.dev.serveAtomic port p)) := rfl
theorem exec_signalPacket (port : Nat) (p : Packet) (s : State) : exec (.signalPacket port p) s = .next (s.dev! (s.dev.serveSignal port p)) := rfl

/-! ## Packets that arrive, and their answers (R381, R385, R386) -/

/-- The device with its work counts replaced. -/
def Dev.withWork (d : Dev) (w : WorkCounts) : Dev := { d with work := w }

/-- A packet that arrives whole counts its bytes alone. -/
theorem arrives_taken {d : Dev} {p : Packet} (h : d.takesPkt p) (port : Nat) : ∃ w, d.arrives port p = (true, d.withWork w) := by
  obtain ⟨hstate, hunarmed, hcrc, hversion, hfid⟩ := h
  refine ⟨d.work.addFab (dieOfPort port) p.payload.length, ?_⟩
  have hmimic := mimic_unarmed ({ d with work := d.work.addFab (dieOfPort port) p.payload.length } : Dev) (detId 0x28 port) hunarmed
  unfold Dev.arrives Dev.awake
  rw [if_pos hstate]
  simp [hmimic, hcrc, hversion, hfid, Dev.withWork]

/-- An answer goes out, and counts as work. -/
theorem answer_eq (d : Dev) (p : Packet) (op status : Nat) (data : List Byte) :
    d.answer p op status data = { d with out := d.reply p op status data :: d.out, work := (d.answer p op status data).work } := rfl

section
variable {p : Packet} {op st : Nat} {data : List Byte}

/-- What a served request leaves of the device beside memory, the error block and the fabric's counts. -/
structure Dev.servedTo (d e : Dev) : Prop where
  cores : e.cores = d.cores
  queues : e.queues = d.queues
  accepted : e.accepted = d.accepted

theorem Dev.accessesTo.servedTo {d e : Dev} (h : d.accessesTo e) : d.servedTo e := by
  obtain ⟨_, _, _, _, _, _, _, rfl⟩ := h
  exact ⟨rfl, rfl, rfl⟩

/-- What an answer names of the device. -/
structure Dev.repliesAs (d e : Dev) : Prop where
  fid : e.fx.fid = d.fx.fid
  jobId : e.fx.jobId = d.fx.jobId
  ports : e.fx.ports = d.fx.ports
  out : e.out = d.out

theorem Dev.repliesAs.answer {d e : Dev} (h : d.repliesAs e) : (e.answer p op st data).out = d.reply p op st data :: d.out := by
  rw [answer_eq, Dev.reply, Dev.reply, Dev.pickPort, Dev.pickPort, Fabric.upPorts, Fabric.upPorts, h.fid, h.jobId, h.ports, h.out]

end

/-! ## Checks (R378, R393) -/

/-- The device with a refusal counted by its status. -/
def Dev.countRefusal (d : Dev) (st : Nat) : Dev :=
  if st = 1 then d.fxCount 0 1 else if st = 2 then d.fxCount 1 2 else if st = 3 then d.fxCount 2 4 else d

theorem rxRefuse_of_count (d : Dev) (port src job st : Nat) (inj : Bool) :
    d.rxRefuse port src job st inj =
      if st = 1 || st = 2 || st = 3 then (d.countRefusal st).detect (detId 0x2A port) 1 inj none st src job else d.countRefusal st := rfl

theorem countRefusal_eq (d : Dev) (st : Nat) : ∃ counts err, d.countRefusal st = { d with fx := { d.fx with counts := counts, err := err } } := by
  unfold Dev.countRefusal
  split
  · exact ⟨_, _, rfl⟩
  · split
    · exact ⟨_, _, rfl⟩
    · split
      · exact ⟨_, _, rfl⟩
      · exact ⟨_, _, rfl⟩

/-- A refusal changes counts and error records of the fabric alone. -/
theorem rxRefuse_eq (d : Dev) (port src job st : Nat) (inj : Bool) :
    ∃ counts err er, d.rxRefuse port src job st inj = { d with fx := { d.fx with counts := counts, err := err }, er := er } := by
  obtain ⟨counts, err, hcount⟩ := countRefusal_eq d st
  rw [rxRefuse_of_count, hcount]
  split
  · rw [Dev.detect_eq]
    exact ⟨_, _, _, rfl⟩
  · exact ⟨_, _, _, rfl⟩

theorem getD_modify (xs : List Nat) (i k : Nat) (f : Nat → Nat) :
    (xs.modify i f).getD k 0 = if i = k ∧ k < xs.length then f (xs.getD k 0) else xs.getD k 0 := by
  simp only [List.getD_eq_getElem?_getD, List.getElem?_modify]
  by_cases hk : k < xs.length
  · by_cases hi : i = k <;> simp [hi, hk]
  · simp [hk]

/-- JOB, ACCESS and RANGE are counted, each in its register. -/
theorem rxRefuse_counts (d : Dev) (port src job st : Nat) (inj : Bool) (k : Nat) :
    (d.rxRefuse port src job st inj).fx.counts.getD k 0 =
      if st = k + 1 ∧ k < d.fx.counts.length ∧ k < 3 then sat32 (d.fx.counts.getD k 0 + 1) else d.fx.counts.getD k 0 := by
  have hcount : (d.countRefusal st).fx.counts.getD k 0 =
      if st = k + 1 ∧ k < d.fx.counts.length ∧ k < 3 then sat32 (d.fx.counts.getD k 0 + 1) else d.fx.counts.getD k 0 := by
    have hone (i : Nat) (bit : Nat) (hi : st = i + 1) (hi3 : i < 3) : (d.fxCount i bit).fx.counts.getD k 0 =
        if st = k + 1 ∧ k < d.fx.counts.length ∧ k < 3 then sat32 (d.fx.counts.getD k 0 + 1) else d.fx.counts.getD k 0 := by
      refine (getD_modify d.fx.counts i k _).trans (if_congr ?_ rfl rfl)
      omega
    unfold Dev.countRefusal
    split
    · exact hone 0 1 (by omega) (by omega)
    · split
      · exact hone 1 2 (by omega) (by omega)
      · split
        · exact hone 2 4 (by omega) (by omega)
        · rw [if_neg (by omega)]
  rw [rxRefuse_of_count, ← hcount]
  split
  · rw [Dev.detect_eq]
  · rfl

/-- Without an armed slot the checks are those of R378 alone. -/
theorem rxCheck_ok {d : Dev} {port src job addr len perm a : Nat} {coherent : Bool} (hunarmed : d.unarmed = true)
    (hok : d.rxAddr job addr len perm coherent = .ok a) : d.rxCheck port src job addr len perm coherent = (.ok a, d) := by
  simp only [Dev.rxCheck, hok, mimic_unarmed d _ hunarmed, Bool.false_eq_true, if_false]

theorem rxCheck_error {d : Dev} {port src job addr len perm st : Nat} {coherent : Bool} (herror : d.rxAddr job addr len perm coherent = .error st) :
    d.rxCheck port src job addr len perm coherent = (.error st, d.rxRefuse port src job st false) := by
  simp only [Dev.rxCheck, herror]

/-! ## Memory for a fabric requester -/

section
variable {d : Dev} (hunarmed : d.unarmed = true)
include hunarmed

/-- Without an armed slot the bridge carries every transfer. -/
theorem crossTo_carries (die : Nat) (ps : List (Nat × Nat)) : d.crossTo die ps = (true, d) := by
  unfold Dev.crossTo Dev.cross
  extract_lets dies
  split
  · rfl
  · exact bridge_unarmed d die hunarmed

theorem writeAcross_carries (die a : Nat) (bs : List Byte) : d.writeAcross die a bs = d.write a bs := by
  simp only [Dev.writeAcross, crossTo_carries hunarmed]

theorem rxData_whole {port src a n : Nat} (hhere : d.lostIn a n = false) (hwhole : d.poisonedIn a n = none) :
    ∃ e, d.rxData port src a n = (.ok (d.peek a n), e) ∧ d.readsTo e := by
  obtain ⟨e, hread, hde⟩ := readFor_unarmed hunarmed hwhole (reqFabric src)
  refine ⟨e, ?_, hde⟩
  simp only [Dev.rxData, hhere, Bool.false_eq_true, if_false, hwhole, mimic_unarmed d _ hunarmed, Dev.readAcross, crossTo_carries hunarmed, hread]

end

/-- A poisoned line gives no data. -/
theorem rxData_poisoned {d : Dev} {port src a n l : Nat} (hhere : d.lostIn a n = false) (hpoison : d.poisonedIn a n = some l) :
    d.rxData port src a n = (.error 4, (d.detect (detId 0x2B port) 1 false (some (l * lineBytes)) 0 src 0).poisonAnswer) := by
  simp only [Dev.rxData, hhere, Bool.false_eq_true, if_false, hpoison]

/-! ## READ (R378, R382) -/

/-- A request that fails a check of R378 is not held. -/
theorem requestHeld_error {d : Dev} {p : Packet} {len perm st : Nat} {coherent : Bool} (h : d.rxAddr p.jobId p.addr len perm coherent = .error st) :
    d.requestHeld p len perm coherent = false := by
  simp only [Dev.requestHeld, h]

/-- One that passes them waits as its lines do. -/
theorem requestHeld_ok {d : Dev} {p : Packet} {len perm a : Nat} {coherent : Bool} (h : d.rxAddr p.jobId p.addr len perm coherent = .ok a) :
    d.requestHeld p len perm coherent = d.heldAt a len := by
  simp only [Dev.requestHeld, h]

section
variable {d : Dev} {port : Nat} {p : Packet}

theorem serveRead_taken (h : d.takesPkt p) : ∃ w, d.serveRead port p = (d.withWork w).doRead port p := by
  obtain ⟨w, hw⟩ := arrives_taken h port
  exact ⟨w, by simp only [Dev.serveRead, hw]⟩

theorem doRead_refused {st : Nat} (herror : d.rxAddr p.jobId p.addr p.len 0 false = .error st) :
    d.doRead port p = (d.rxRefuse port p.srcId p.jobId st false).answer p 6 st [] := by
  simp only [Dev.doRead, requestHeld_error herror, Bool.false_eq_true, if_false, rxCheck_error herror]

theorem doRead_held {a : Nat} (hok : d.rxAddr p.jobId p.addr p.len 0 false = .ok a) (hheld : d.heldAt a p.len = true) :
    d.doRead port p = d.holdRequest port p := by
  simp only [Dev.doRead, requestHeld_ok hok, hheld, if_true]

/-- The form of a READ in the LOAD_STORE class (R382). -/
def goodRead (p : Packet) : Prop := p.cls = 0 ∧ p.op = 1 ∧ 32 ≤ p.len ∧ p.len ≤ 4096 ∧ p.len % 32 = 0

section
variable {a : Nat} (hunarmed : d.unarmed = true) (hform : goodRead p) (hok : d.rxAddr p.jobId p.addr p.len 0 false = .ok a)
  (hfree : d.heldAt a p.len = false)
include hunarmed hform hok hfree

/-- A READ that passes every check answers with the data. -/
theorem doRead_data {bs : List Byte} {e : Dev} (hdata : d.rxData port p.srcId a p.len = (.ok bs, e)) : d.doRead port p = e.answer p 6 0 bs := by
  obtain ⟨hcls, hop, hmin, hmax, hwhole⟩ := hform
  simp only [Dev.doRead, requestHeld_ok hok, hfree, Bool.false_eq_true, if_false, rxCheck_ok hunarmed hok, hdata]
  rw [if_neg (by simp [hcls, hop, hwhole, Nat.not_lt.2 hmin, Nat.not_lt.2 hmax])]

/-- One whose lines cannot be read answers with their status. -/
theorem doRead_fails {st : Nat} {e : Dev} (hdata : d.rxData port p.srcId a p.len = (.error st, e)) : d.doRead port p = e.answer p 6 st [] := by
  obtain ⟨hcls, hop, hmin, hmax, hwhole⟩ := hform
  simp only [Dev.doRead, requestHeld_ok hok, hfree, Bool.false_eq_true, if_false, rxCheck_ok hunarmed hok, hdata]
  rw [if_neg (by simp [hcls, hop, hwhole, Nat.not_lt.2 hmin, Nat.not_lt.2 hmax])]

end

/-! ## WRITE (R385) -/

theorem serveWrite_taken (h : d.takesPkt p) : ∃ w, d.serveWrite port p = (d.withWork w).doWrite port p := by
  obtain ⟨w, hw⟩ := arrives_taken h port
  exact ⟨w, by simp only [Dev.serveWrite, hw]⟩

theorem doWrite_refused {st : Nat} (herror : d.rxAddr p.jobId p.addr p.payload.length 1 false = .error st) :
    d.doWrite port p = (d.rxRefuse port p.srcId p.jobId st false).answer p 7 st [] := by
  simp only [Dev.doWrite, requestHeld_error herror, Bool.false_eq_true, if_false, rxCheck_error herror]

theorem doWrite_held {a : Nat} (hok : d.rxAddr p.jobId p.addr p.payload.length 1 false = .ok a) (hheld : d.heldAt a p.payload.length = true) :
    d.doWrite port p = d.holdRequest port p := by
  simp only [Dev.doWrite, requestHeld_ok hok, hheld, if_true]

theorem doWrite_lands {a : Nat} (hunarmed : d.unarmed = true) (hcls : p.cls = 0) (hop : p.op = 2) (hlen : p.len = p.payload.length)
    (hmin : 32 ≤ p.len) (hmax : p.len ≤ 4096) (hwhole : p.len % 32 = 0) (hok : d.rxAddr p.jobId p.addr p.payload.length 1 false = .ok a)
    (hfree : d.heldAt a p.payload.length = false) : d.doWrite port p = (d.write a p.payload).answer p 7 0 [] := by
  have hform : ¬((p.cls ≠ 0 || p.op ≠ 2 || p.len ≠ p.payload.length || p.len < 32 || p.len > 4096 || p.len % 32 ≠ 0) = true) := by
    rw [← hlen]
    simp [hcls, hop, hwhole, Nat.not_lt.2 hmin, Nat.not_lt.2 hmax]
  simp only [Dev.doWrite, requestHeld_ok hok, hfree, Bool.false_eq_true, if_false, rxCheck_ok hunarmed hok]
  rw [if_neg hform, writeAcross_carries hunarmed]

/-! ## ATOMIC (R382) -/

theorem serveAtomic_taken (h : d.takesPkt p) : ∃ w, d.serveAtomic port p = (d.withWork w).loadStoreAtomic port p := by
  obtain ⟨w, hw⟩ := arrives_taken h port
  exact ⟨w, by simp only [Dev.serveAtomic, hw]⟩

theorem loadStoreAtomic_refused {st : Nat} (herror : d.rxAddr p.jobId p.addr 8 2 false = .error st) :
    d.loadStoreAtomic port p = (d.rxRefuse port p.srcId p.jobId st false).answer p 6 st [] := by
  simp only [Dev.loadStoreAtomic, requestHeld_error herror, Bool.false_eq_true, if_false, rxCheck_error herror]

theorem loadStoreAtomic_held {a : Nat} (hok : d.rxAddr p.jobId p.addr 8 2 false = .ok a) (hheld : d.heldAt a 8 = true) :
    d.loadStoreAtomic port p = d.holdRequest port p := by
  simp only [Dev.loadStoreAtomic, requestHeld_ok hok, hheld, if_true]

/-- An ATOMIC that passes every check reads its location, writes the new value and answers with the old one. -/
theorem loadStoreAtomic_done {a new : Nat} (hunarmed : d.unarmed = true) (hcls : p.cls = 0) (hop : p.op = 3) (hbody : p.payload.length = 32)
    (hok : d.rxAddr p.jobId p.addr 8 2 false = .ok a) (hfree : d.heldAt a 8 = false) (hapart : d.inCoh a 8 = false) (halign : a % 8 = 0)
    (hhere : d.lostIn a 8 = false) (hwhole : d.poisonedIn a 8 = none)
    (hnew : atomicNew (fieldAt p.payload 0 1) (leNat (d.peek a 8)) (fieldAt p.payload 8 8) (fieldAt p.payload 16 8) = some new) :
    ∃ e, d.readsTo e ∧
      d.loadStoreAtomic port p = (e.write a (leBytes 8 new)).answer p 6 0 (if fieldAt p.payload 0 1 = 4 then [] else d.peek a 8) := by
  obtain ⟨e, hdata, hde⟩ := rxData_whole (port := port) (src := p.srcId) hunarmed hhere hwhole
  refine ⟨e, hde, ?_⟩
  have hunarmed' : e.unarmed = true := by obtain ⟨_, _, _, rfl⟩ := hde; exact hunarmed
  have hform : ¬((p.cls ≠ 0 || p.op ≠ 3 || d.inCoh a 8) = true) := by simp [hcls, hop, hapart]
  have hplace : ¬((a % 8 ≠ 0 || p.payload.length ≠ 32) = true) := by simp [halign, hbody]
  simp only [Dev.loadStoreAtomic, requestHeld_ok hok, hfree, Bool.false_eq_true, if_false, rxCheck_ok hunarmed hok]
  rw [if_neg hform, Dev.doAtomic, if_neg hplace]
  simp only [hdata, hnew, writeAcross_carries hunarmed']

end

/-! ## Outcomes of a request -/

section
variable {d : Dev} {port op st : Nat} {p : Packet}

/-- A refusal is answered with its status, and counted. -/
theorem refused_answer (d : Dev) (port src job op st : Nat) (p : Packet) :
    let e := (d.rxRefuse port src job st false).answer p op st []
    d.servedTo e ∧ e.mem = d.mem ∧ e.out = d.reply p op st [] :: d.out ∧
      ∀ k, e.fx.counts.getD k 0 =
        if st = k + 1 ∧ k < d.fx.counts.length ∧ k < 3 then sat32 (d.fx.counts.getD k 0 + 1) else d.fx.counts.getD k 0 := by
  have hcounts := rxRefuse_counts d port src job st false
  obtain ⟨counts, err, er, hrefuse⟩ := rxRefuse_eq d port src job st false
  rw [hrefuse] at hcounts ⊢
  exact ⟨⟨rfl, rfl, rfl⟩, rfl, Dev.repliesAs.answer (d := d) ⟨rfl, rfl, rfl, rfl⟩, hcounts⟩

/-- Reads of memory have no part in an answer. -/
theorem Dev.readsTo.repliesAs {d e : Dev} (h : d.readsTo e) : d.repliesAs e := by
  obtain ⟨_, _, _, rfl⟩ := h
  exact ⟨rfl, rfl, rfl, rfl⟩

theorem Dev.accessesTo.repliesAs {d e : Dev} (h : d.accessesTo e) : d.repliesAs e := by
  obtain ⟨_, _, _, _, _, _, _, rfl⟩ := h
  exact ⟨rfl, rfl, rfl, rfl⟩

/-- An answer after accesses to memory. -/
theorem accessed_answer {d e : Dev} (h : d.accessesTo e) (p : Packet) (op st : Nat) (data : List Byte) :
    let t := e.answer p op st data
    d.servedTo t ∧ t.mem = e.mem ∧ t.er = d.er ∧ t.out = d.reply p op st data :: d.out :=
  ⟨⟨h.cores, h.queues, h.servedTo.accepted⟩, rfl, h.er, h.repliesAs.answer⟩

end

/-! ## SIGNAL (R378, R400) -/

section
variable {d : Dev} {port : Nat} {p : Packet}

/-- A SIGNAL packet that has arrived. -/
def Dev.doSignal (d : Dev) (port : Nat) (p : Packet) : Dev :=
  if p.stream = 0 then d.fxCount 6 0x80
  else if p.jobId ≠ d.fx.jobId || d.fx.jobId = 0 || !wbit d.fx.ctrl 0 then (d.rxRefuse port p.srcId p.jobId 1 false).answer p 7 1 []
  else if bits p.addr 15 0 ≥ d.n then (d.rxRefuse port p.srcId p.jobId 3 false).answer p 7 3 []
  else (d.applySignal p.srcId (bits p.addr 15 0) (bits p.addr 23 16) (bits p.addr 31 24) (bits p.addr 63 32) p.stream).answer p 7 0 []

theorem serveSignal_taken (h : d.takesPkt p) : ∃ w, d.serveSignal port p = (d.withWork w).doSignal port p := by
  obtain ⟨w, hw⟩ := arrives_taken h port
  have hunarmed : (d.withWork w).unarmed = true := h.2.1
  refine ⟨w, ?_⟩
  simp only [Dev.serveSignal, hw, mimic_unarmed _ _ hunarmed, Bool.false_eq_true, if_false]
  rfl

theorem doSignal_none (hstream : p.stream = 0) : d.doSignal port p = d.fxCount 6 0x80 := if_pos hstream

variable (hstream : p.stream ≠ 0)
include hstream

theorem doSignal_job (hjob : p.jobId ≠ d.fx.jobId ∨ d.fx.jobId = 0 ∨ wbit d.fx.ctrl 0 = false) :
    d.doSignal port p = (d.rxRefuse port p.srcId p.jobId 1 false).answer p 7 1 [] := by
  rw [Dev.doSignal, if_neg hstream, if_pos]
  simpa [or_assoc] using hjob

variable (hjob : p.jobId = d.fx.jobId) (hset : d.fx.jobId ≠ 0) (henabled : wbit d.fx.ctrl 0 = true)
include hjob hset henabled

theorem doSignal_range (hcore : d.n ≤ bits p.addr 15 0) :
    d.doSignal port p = (d.rxRefuse port p.srcId p.jobId 3 false).answer p 7 3 [] := by
  rw [Dev.doSignal, if_neg hstream, if_neg (by simp [hjob, hset, henabled]), if_pos hcore]

theorem doSignal_applies (hcore : bits p.addr 15 0 < d.n) :
    d.doSignal port p =
      (d.applySignal p.srcId (bits p.addr 15 0) (bits p.addr 23 16) (bits p.addr 31 24) (bits p.addr 63 32) p.stream).answer p 7 0 [] := by
  rw [Dev.doSignal, if_neg hstream, if_neg (by simp [hjob, hset, henabled]), if_neg (Nat.not_le.2 hcore)]

end

/-- The update of a SIGNAL packet, from the device that it names (R89, R577). -/
def Dev.signalUpdate (d : Dev) (src c : Nat) (obj : SigObj) (op : SigOp) : InFlight :=
  { id := 0, core := c, src := match d.fidRank src with | some r => .rank r | none => .unranked src, obj := obj, op := op }

section
variable (d : Dev) (src c i v count : Nat)

theorem applySignal_one : d.applySignal src c 1 i v count = (d.applyUpdate (d.signalUpdate src c (.flag i) .set)).reevaluate c := rfl
theorem applySignal_two : d.applySignal src c 2 i v count = (d.applyUpdate (d.signalUpdate src c (.flag i) .clear)).reevaluate c := rfl

theorem applySignal_three :
    d.applySignal src c 3 i v count =
      if i > 63 then d.haltCore c { reason := rFlagRange, unit := 5, kind := 2, d0 := i }
      else if v = 0 || v > 65535 * count then d.haltCore c { reason := rFlagRange, unit := 5, kind := 5, d0 := v }
      else (d.applyUpdate (d.signalUpdate src c (.counter i) (.add v))).reevaluate c := rfl

variable {d src c i v count}

/-- A counter outside 0 to 63, or a value out of range, halts the core (R90). -/
theorem applySignal_halts (hbad : 63 < i ∨ v = 0 ∨ 65535 * count < v) : ∃ h, d.applySignal src c 3 i v count = d.haltCore c h := by
  rw [applySignal_three]
  split
  · exact ⟨_, rfl⟩
  · rw [if_pos (by simp; omega)]
    exact ⟨_, rfl⟩

variable (hrest : d.restful c) (hrunning : (d.core c).halted = false)
include hrest hrunning

theorem applySignal_set : d.applySignal src c 1 i v count = d.setCore c fun k => { k with flags := k.flags ||| BitVec.ofNat 256 (2 ^ i) } := by
  rw [applySignal_one, applyUpdate_set hrunning rfl rfl]
  exact reevaluate_updated hrest.2 hrest.1

theorem applySignal_clear : d.applySignal src c 2 i v count = d.setCore c fun k => { k with flags := k.flags &&& ~~~(BitVec.ofNat 256 (2 ^ i)) } := by
  rw [applySignal_two, applyUpdate_clear hrunning rfl rfl]
  exact reevaluate_updated hrest.2 hrest.1

theorem applySignal_add (hi : i ≤ 63) (hv : 1 ≤ v) (hmax : v ≤ 65535 * count) (hfits : ((d.core c).counters.getD i 0).toNat + v ≤ 0xFFFFFFFF) :
    d.applySignal src c 3 i v count = d.setCore c fun k => { k with counters := k.counters.modify i fun x => x + BitVec.ofNat 32 v } := by
  rw [applySignal_three, if_neg (by omega), if_neg (by simp; omega), applyUpdate_add hrunning rfl rfl hfits]
  exact reevaluate_updated hrest.2 hrest.1

end

/-! ## O36 -/

section
variable {s : State} {port : Nat} {p : Packet} {i : Instr} {w : WorkCounts}

/-- A request that fails a check: it is answered with its status, changes no memory and is counted once. -/
def State.fails (s : State) (p : Packet) (i : Instr) (op st : Nat) : Prop :=
  ∃ t, exec i s = .next t ∧ fabricFrame s t ∧ t.dev.mem = s.dev.mem ∧ t.dev.out = s.dev.reply p op st [] :: s.dev.out ∧
    (∀ k, t.dev.fx.counts.getD k 0 = if st = k + 1 ∧ k < s.dev.fx.counts.length ∧ k < 3 then sat32 (s.dev.fx.counts.getD k 0 + 1)
      else s.dev.fx.counts.getD k 0)

theorem fails_of {op st : Nat} (h : exec i s = .next (s.dev! (((s.dev.withWork w).rxRefuse port p.srcId p.jobId st false).answer p op st []))) :
    s.fails p i op st := by
  obtain ⟨hserved, hmem, hout, hcounts⟩ := refused_answer (s.dev.withWork w) port p.srcId p.jobId op st p
  exact ⟨_, h, ⟨rfl, rfl, hserved.cores, hserved.queues, hserved.accepted⟩, hmem, hout, hcounts⟩

/-- A request for held lines waits behind those before it. -/
def State.holds (s : State) (port : Nat) (p : Packet) (i : Instr) : Prop :=
  ∃ t, exec i s = .next t ∧ fabricFrame s t ∧ t.dev.mem = s.dev.mem ∧ t.dev.out = s.dev.out ∧
    t.dev.wells.heldIo = s.dev.wells.heldIo ++ [.request port p]

theorem holds_of (h : exec i s = .next (s.dev! ((s.dev.withWork w).holdRequest port p))) : s.holds port p i :=
  ⟨_, h, ⟨rfl, rfl, rfl, rfl, rfl⟩, rfl, rfl, rfl⟩

/-- A request that reads or writes memory is answered after it. -/
theorem answered_of {e : Dev} {op st : Nat} {data : List Byte} (haccess : (s.dev.withWork w).accessesTo e)
    (h : exec i s = .next (s.dev! (e.answer p op st data))) :
    ∃ t, exec i s = .next t ∧ fabricFrame s t ∧ t.dev.mem = e.mem ∧ t.dev.er = s.dev.er ∧ t.dev.fx = e.fx ∧
      t.dev.out = s.dev.reply p op st data :: s.dev.out := by
  obtain ⟨hserved, hmem, her, hout⟩ := accessed_answer haccess p op st data
  exact ⟨_, h, ⟨rfl, rfl, hserved.cores, hserved.queues, hserved.accepted⟩, hmem, her, rfl, hout⟩

end

section
variable {s : State} {port : Nat} {p : Packet} (htakes : s.dev.takesPkt p)
include htakes

/-- READ by the outcome of its checks. -/
theorem read_served (hform : goodRead p) :
    (∀ st, s.dev.rxAddr p.jobId p.addr p.len 0 false = .error st → s.fails p (.read port p) 6 st) ∧
    (∀ a, s.dev.rxAddr p.jobId p.addr p.len 0 false = .ok a → s.dev.heldAt a p.len = true → s.holds port p (.read port p)) ∧
    (∀ a, s.dev.rxAddr p.jobId p.addr p.len 0 false = .ok a → s.dev.lostIn a p.len = false → s.dev.heldAt a p.len = false →
      (s.dev.poisonedIn a p.len = none → ∃ t, exec (.read port p) s = .next t ∧ fabricFrame s t ∧ t.dev.mem = s.dev.mem ∧
        t.dev.fx = s.dev.fx ∧ t.dev.er = s.dev.er ∧ t.dev.out = s.dev.reply p 6 0 (s.dev.peek a p.len) :: s.dev.out) ∧
      (∀ l, s.dev.poisonedIn a p.len = some l → ∃ t, exec (.read port p) s = .next t ∧ fabricFrame s t ∧ t.dev.mem = s.dev.mem ∧
        t.dev.out = s.dev.reply p 6 4 [] :: s.dev.out)) := by
  obtain ⟨w, hserve⟩ := serveRead_taken (port := port) htakes
  have hunarmed : (s.dev.withWork w).unarmed = true := htakes.2.1
  refine ⟨fun st herror => fails_of (w := w) (port := port) ?_, fun a hok hheld => holds_of (w := w) ?_, fun a hok hhere hfree => ⟨fun hwhole => ?_, fun l hpoison => ?_⟩⟩
  · rw [exec_read, hserve, doRead_refused (d := s.dev.withWork w) herror]
  · rw [exec_read, hserve, doRead_held (d := s.dev.withWork w) hok hheld]
  · obtain ⟨e, hdata, hde⟩ := rxData_whole (d := s.dev.withWork w) (port := port) (src := p.srcId) hunarmed hhere hwhole
    obtain ⟨t, hexec, hframe, hmem, her, hfx, hout⟩ := answered_of (p := p) (op := 6) (st := 0) hde.accesses
      (by rw [exec_read, hserve, doRead_data (d := s.dev.withWork w) hunarmed hform hok hfree hdata])
    obtain ⟨_, _, _, rfl⟩ := hde
    exact ⟨t, hexec, hframe, hmem, hfx, her, hout⟩
  · have hdata := rxData_poisoned (d := s.dev.withWork w) (port := port) (src := p.srcId) hhere hpoison
    rw [Dev.detect_eq] at hdata
    have hexec := exec_read port p s
    rw [hserve, doRead_fails (d := s.dev.withWork w) hunarmed hform hok hfree hdata] at hexec
    exact ⟨_, hexec, ⟨rfl, rfl, rfl, rfl, rfl⟩, rfl, Dev.repliesAs.answer (d := s.dev) ⟨rfl, rfl, rfl, rfl⟩⟩

/-- WRITE by the outcome of its checks. -/
theorem write_served (hcls : p.cls = 0) (hop : p.op = 2) (hlen : p.len = p.payload.length) (hmin : 32 ≤ p.len) (hmax : p.len ≤ 4096)
    (hwhole : p.len % 32 = 0) :
    (∀ st, s.dev.rxAddr p.jobId p.addr p.len 1 false = .error st → s.fails p (.write port p) 7 st) ∧
    (∀ a, s.dev.rxAddr p.jobId p.addr p.len 1 false = .ok a → s.dev.heldAt a p.len = true → s.holds port p (.write port p)) ∧
    (∀ a, s.dev.rxAddr p.jobId p.addr p.len 1 false = .ok a → s.dev.heldAt a p.len = false → ∃ t, exec (.write port p) s = .next t ∧
      fabricFrame s t ∧ t.dev.mem = s.dev.mem.writes a p.payload ∧ t.dev.er = s.dev.er ∧ t.dev.out = s.dev.reply p 7 0 [] :: s.dev.out) := by
  obtain ⟨w, hserve⟩ := serveWrite_taken (port := port) htakes
  have hunarmed : (s.dev.withWork w).unarmed = true := htakes.2.1
  refine ⟨fun st herror => fails_of (w := w) (port := port) ?_, fun a hok hheld => holds_of (w := w) ?_, fun a hok hfree => ?_⟩
  · rw [exec_write, hserve, doWrite_refused (d := s.dev.withWork w) (hlen ▸ herror)]
  · rw [exec_write, hserve, doWrite_held (d := s.dev.withWork w) (hlen ▸ hok) (hlen ▸ hheld)]
  · obtain ⟨t, hexec, hframe, hmem, her, -, hout⟩ := answered_of (p := p) (op := 7) (st := 0) (data := []) ((s.dev.withWork w).write_accessesTo a p.payload)
      (by rw [exec_write, hserve, doWrite_lands (d := s.dev.withWork w) hunarmed hcls hop hlen hmin hmax hwhole (hlen ▸ hok) (hlen ▸ hfree)])
    exact ⟨t, hexec, hframe, hmem.trans (Dev.write_mem ..), her, hout⟩

/-- ATOMIC by the outcome of its checks. -/
theorem atomic_served (hcls : p.cls = 0) (hop : p.op = 3) (hbody : p.payload.length = 32) :
    (∀ st, s.dev.rxAddr p.jobId p.addr 8 2 false = .error st → s.fails p (.atomic port p) 6 st) ∧
    (∀ a, s.dev.rxAddr p.jobId p.addr 8 2 false = .ok a → s.dev.heldAt a 8 = true → s.holds port p (.atomic port p)) ∧
    (∀ a old new, s.dev.rxAddr p.jobId p.addr 8 2 false = .ok a → s.dev.heldAt a 8 = false → s.dev.inCoh a 8 = false → a % 8 = 0 →
      s.dev.lostIn a 8 = false → s.dev.poisonedIn a 8 = none → old = leNat (s.dev.peek a 8) →
      atomicNew (fieldAt p.payload 0 1) old (fieldAt p.payload 8 8) (fieldAt p.payload 16 8) = some new →
      ∃ t, exec (.atomic port p) s = .next t ∧ fabricFrame s t ∧ t.dev.mem = s.dev.mem.writes a (leBytes 8 new) ∧
        t.dev.er = s.dev.er ∧ t.dev.out = s.dev.reply p 6 0 (if fieldAt p.payload 0 1 = 4 then [] else s.dev.peek a 8) :: s.dev.out) := by
  obtain ⟨w, hserve⟩ := serveAtomic_taken (port := port) htakes
  have hunarmed : (s.dev.withWork w).unarmed = true := htakes.2.1
  refine ⟨fun st herror => fails_of (w := w) (port := port) ?_, fun a hok hheld => holds_of (w := w) ?_,
    fun a old new hok hfree hapart halign hhere hwhole hold hnew => ?_⟩
  · rw [exec_atomic, hserve, loadStoreAtomic_refused (d := s.dev.withWork w) herror]
  · rw [exec_atomic, hserve, loadStoreAtomic_held (d := s.dev.withWork w) hok hheld]
  · obtain ⟨e, hde, hdone⟩ := loadStoreAtomic_done (d := s.dev.withWork w) (port := port) hunarmed hcls hop hbody hok hfree hapart halign hhere
      hwhole (hold ▸ hnew)
    obtain ⟨t, hexec, hframe, hmem, her, -, hout⟩ := answered_of (hde.accesses.trans (e.write_accessesTo a (leBytes 8 new)))
      (by rw [exec_atomic, hserve, hdone])
    exact ⟨t, hexec, hframe, by rw [hmem, Dev.write_mem, hde.mem]; rfl, her, hout⟩

end

section
variable {s : State} {port : Nat} {p : Packet} {w : WorkCounts} (hserve : s.dev.serveSignal port p = (s.dev.withWork w).doSignal port p)
include hserve

/-- A SIGNAL that changes its core alone is answered OK. -/
theorem signal_applied {c : Nat} {f : CoreSt → CoreSt} (happly : (s.dev.withWork w).doSignal port p = ((s.dev.withWork w).setCore c f).answer p 7 0 []) :
    ∃ t, exec (.signalPacket port p) s = .next t ∧ t.dev.cores = (s.dev.setCore c f).cores ∧ t.dev.mem = s.dev.mem ∧
      t.dev.queues = s.dev.queues ∧ t.pending = s.pending ∧ t.toll = s.toll ∧ t.dev.er = s.dev.er ∧ t.dev.out = s.dev.reply p 7 0 [] :: s.dev.out := by
  have hexec := exec_signalPacket port p s
  rw [hserve, happly] at hexec
  exact ⟨_, hexec, rfl, rfl, rfl, rfl, rfl, rfl, rfl⟩

/-- One that halts its core leaves the core's flags and counters as they were (R90). -/
theorem signal_halts {c : Nat} {h : HaltInfo} (hrunning : (s.dev.core c).halted = false) (hlen : c < s.dev.cores.length)
    (hhalt : (s.dev.withWork w).doSignal port p = ((s.dev.withWork w).haltCore c h).answer p 7 0 []) :
    ∃ t, exec (.signalPacket port p) s = .next t ∧ (t.dev.core c).halted = true ∧ (t.dev.core c).flags = (s.dev.core c).flags ∧
      (t.dev.core c).counters = (s.dev.core c).counters := by
  have hexec := exec_signalPacket port p s
  rw [hserve, hhalt] at hexec
  have hcore : ((s.dev.withWork w).haltCore c h).core c = (s.dev.core c).haltedBy h := haltCore_core (d := s.dev.withWork w) hrunning hlen h
  obtain ⟨hflags, hcounters, -⟩ := haltedBy_keeps (s.dev.core c) h
  generalize (s.dev.withWork w).haltCore c h = e at hexec hcore
  have hanswer : (s.dev! (e.answer p 7 0 [])).dev.core c = (s.dev.core c).haltedBy h := hcore
  exact ⟨_, hexec, by rw [hanswer]; rfl, by rw [hanswer, hflags], by rw [hanswer, hcounters]⟩

end

/-- Settles O36: each request by the outcome of its checks. -/
theorem requestsAndSignalsServed : Obligations.RequestsAndSignalsServed := by
  unfold Obligations.RequestsAndSignalsServed
  refine ⟨fun s port p htakes => ⟨fun hcls hop hmin hmax hwhole => read_served htakes ⟨hcls, hop, hmin, hmax, hwhole⟩,
    fun hcls hop hlen hmin hmax hwhole => write_served htakes hcls hop hlen hmin hmax hwhole,
    fun hcls hop hbody => atomic_served htakes hcls hop hbody⟩, fun s port p htakes => ?_⟩
  obtain ⟨w, hserve⟩ := serveSignal_taken (port := port) htakes
  set d := s.dev.withWork w with hd
  intro c act i v refused
  have hrefused {st : Nat} (h : d.doSignal port p = (d.rxRefuse port p.srcId p.jobId st false).answer p 7 st []) : refused st := by
    obtain ⟨t, hexec, hframe, hmem, hout, -⟩ := fails_of (s := s) (w := w) (port := port) (i := .signalPacket port p)
      (by rw [exec_signalPacket, hserve, h])
    exact ⟨t, hexec, hframe, hmem, hout⟩
  refine ⟨fun hstream => ?_, fun hstream hjob => hrefused (doSignal_job hstream hjob),
    fun hstream hjob hset henabled => ⟨fun hcore => hrefused (doSignal_range hstream hjob hset henabled hcore), fun hcore hrest hrunning => ?_⟩⟩
  · have hexec := exec_signalPacket port p s
    rw [hserve, doSignal_none hstream] at hexec
    exact ⟨_, hexec, ⟨rfl, rfl, rfl, rfl, rfl⟩, rfl, rfl⟩
  · have happlies := doSignal_applies (d := d) (port := port) hstream hjob hset henabled hcore
    intro applied
    refine ⟨fun hact => ?set, fun hact => ?clear, fun hact hi hv hmax hfits => ?add, fun hact hbad => ?halt⟩
    case set =>
      rw [show bits p.addr 23 16 = 1 from hact, applySignal_set (d := d) hrest hrunning] at happlies
      exact signal_applied hserve happlies
    case clear =>
      rw [show bits p.addr 23 16 = 2 from hact, applySignal_clear (d := d) hrest hrunning] at happlies
      exact signal_applied hserve happlies
    case add =>
      have hsum : (fun x : Word32 => BitVec.ofNat 32 (x.toNat + v)) = fun x => x + BitVec.ofNat 32 v := by
        funext x
        exact BitVec.eq_of_toNat_eq (by simp [BitVec.toNat_add])
      rw [show bits p.addr 23 16 = 3 from hact, applySignal_add (d := d) hrest hrunning hi hv hmax hfits, ← hsum] at happlies
      exact signal_applied hserve happlies
    case halt =>
      obtain ⟨h, hhalt⟩ := applySignal_halts (d := d) (src := p.srcId) (c := c) hbad
      rw [show bits p.addr 23 16 = 3 from hact, hhalt] at happlies
      exact signal_halts hserve hrunning hrest.2 happlies

end Sys2Proof.Machine
end

section
/-! The statement on Well commands (O31) does not hold as it stands: of an OPT_UPDATE on a FROZEN group it says that its record is written (R309)
and that nothing of the Wells changes, and on a tracked stack that write sets the valid bits of the record's lines (R327, R333). -/

namespace Sys2Proof.Machine

open Sys2Proof

/-- A live buffer of 4 KiB at 0x11000, in slot 1 of pool 1. -/
def recordBuf : Buf :=
  { slot := 1, pool := 1, kind := 0, gen := 0, bytes := 4096, fmt := none, k0 := 0, eb := 4096, extents := [0x11000], refs := 1, torn := false,
    tornTiles := 0 }

/-- The handle of that buffer. -/
def recordHandle : Word64 := (Dev.reset .zx9440).handleOf recordBuf

/-- An OPT_UPDATE of iteration 7 on group 0. -/
def frozenUpdate : WellOp := .optUpdate 0 7 0 none none

/-- It is accepted for core 0, with its RECORD in that buffer. -/
def frozenAcc : Accepted :=
  ⟨5, 0, 1, ⟨0, 0, [], [], false, .well 0 recordHandle frozenUpdate⟩, false, false, [], [], 0, 0⟩

/-- A ZX9440 with one parameter group at 0x3000, which is FROZEN (TRAIN_MODE 1, R311); firmware has started stack 0 tracked (R327), with no
line written yet. -/
def trackedState : State :=
  let d := Dev.reset .zx9440
  { pending := [], toll := Toll.reset,
    dev := { d with
      nextId := 9, accepted := [frozenAcc], mem := Memory.writes [] 0x3001 [1, 0x10],
      depot := { Depot.reset with ctrl := 1, bufs := [recordBuf], pools := [⟨1, 1, 0, 12, 1, 1, 64, 0, [(0, 0x10000, 64)]⟩] },
      wells := { d.wells with ctrl := 1, baseLo := 0x3000, count := 1,
                              wells := d.wells.wells.map fun w => { w with track := ⟨true, [], [], []⟩ } } } }

theorem trackedState_serves : trackedState.dev.serves 0 frozenAcc [] [] :=
  ⟨rfl, rfl, rfl, fun _ h => absurd h List.not_mem_nil, fun _ h => absurd h List.not_mem_nil, rfl, rfl⟩

/-- The update passes the lead Well's checks, and its RECORD can be written. -/
theorem trackedState_checks :
    trackedState.dev.wellPlan 0 frozenUpdate = .ok ⟨[], []⟩ ∧ trackedState.dev.opEntry frozenUpdate = none ∧
    trackedState.dev.wRange recordHandle 0 (wellRecordBytes 0) 8 true = .ok recordBuf ∧ trackedState.dev.trainMode 0 = 1 ∧
    trackedState.dev.accLive 0 = false := by decide +kernel

theorem exec_optUpdate (c : Nat) (s : State) :
    exec (.optUpdate c) s = .next (s.dev! (s.dev.wellRow c fun o => match o with | .optUpdate .. => true | _ => false)) := rfl

/-- Line 34 of stack 0, in which the record lies, is valid after the update and was not before. -/
theorem trackedState_record :
    (trackedState.dev.well 0).track.valid = [] ∧
    ((trackedState.dev.wellRow 0 fun o => match o with | .optUpdate .. => true | _ => false).well 0).track.valid = [34] := by decide +kernel

/-- Refutes O31: the record of an update on a FROZEN group is a write, so on a tracked stack it sets valid bits of its Well (R327, R333), where
the statement asks that the Wells stay as they were. -/
theorem not_wellCommandsAdmitted : ¬ Obligations.WellCommandsAdmitted := by
  rintro ⟨h, -⟩
  obtain ⟨hplan, hentry, hrange, hmode, hacc⟩ := trackedState_checks
  obtain ⟨hbefore, hafter⟩ := trackedState_record
  obtain ⟨-, haccepted⟩ := h trackedState 0 0 frozenAcc [] [] recordHandle frozenUpdate trackedState_serves rfl
    (fun _ hk => absurd hk List.not_mem_nil) (fun g hg _ => .inr (Option.some_inj.1 hg ▸ hacc))
  obtain ⟨-, hfrozen⟩ := haccepted ⟨[], []⟩ recordBuf hplan hentry hrange
  obtain ⟨t, hexec, hwells, -⟩ := hfrozen 0 7 0 none none rfl hmode rfl
  have ht : trackedState.dev! (trackedState.dev.wellRow 0 fun o => match o with | .optUpdate .. => true | _ => false) = t :=
    Host.Outcome.next.inj ((exec_optUpdate 0 trackedState).symm.trans hexec)
  generalize (trackedState.dev.wellRow 0 fun o => match o with | .optUpdate .. => true | _ => false) = d at ht hafter
  have hkept : (t.dev.well 0).track.valid = [] := by rw [Dev.well, hwells, ← Dev.well, hbefore]
  have hset : (t.dev.well 0).track.valid = [34] := by rw [← ht]; exact hafter
  exact absurd (hset.symm.trans hkept) (by decide)

end Sys2Proof.Machine
end

section
/-! The accumulator of a cell over one pass (R121, R126, R128 to R130, R133, R134): the exact sum of its products, and the residue beside it. -/

namespace Sys2Proof.Machine

open Sys2Proof

/-! ## One chunk of one cell (R128, R133, R134) -/

/-- The special state of a product, its integer at the window, and its residue, as `chunkStep` adds them up. -/
def chunkTerm (l w : Int) (x : IntEl × IntEl) : Int × Nat × Nat :=
  if prodSpecial x.1 x.2 ≠ 0 then (0, 0, prodSpecial x.1 x.2)
  else (shifted (x.1.n * x.2.n) w l,
    if w ≥ l then res255 x.1.n * res255 x.2.n * 2 ^ ((w - l).toNat % 8) % 255 else res255 (shifted (x.1.n * x.2.n) w l), 0)

/-- What the products of a chunk add to V. -/
def productSum (l w : Int) (es : List (IntEl × IntEl)) : Int := (es.map fun e => (chunkTerm l w e).1).sum

theorem chunkStep_eq (l : Int) (s : PassCell) (w : Int) (as bs : List IntEl) :
    chunkStep l s w as bs =
      { v := wrap96 (s.v + productSum l w (as.zip bs)),
        ovf := s.ovf || decide (s.v + productSum l w (as.zip bs) < -(2 ^ 95)) || decide (s.v + productSum l w (as.zip bs) > 2 ^ 95 - 1),
        sp := ((as.zip bs).map (chunkTerm l w)).foldl (fun a t => joinSpecial a t.2.2) s.sp,
        rho := ((as.zip bs).map (chunkTerm l w)).foldl (fun a t => (a + t.2.1) % 255) s.rho } := by
  have hsum : ((as.zip bs).map (chunkTerm l w)).foldl (fun a t => a + t.1) 0 = productSum l w (as.zip bs) := by
    rw [productSum, List.sum_eq_foldl, List.foldl_map, List.foldl_map]
  rw [← hsum]
  rfl

theorem wrap96_of_range {v : Int} (hlo : -(2 ^ 95) ≤ v) (hhi : v ≤ 2 ^ 95 - 1) : wrap96 v = v := by
  have hmod : (v + 2 ^ 95) % 2 ^ 96 = v + 2 ^ 95 := Int.emod_eq_of_lt (by omega) (by omega)
  exact (congrArg (· - 2 ^ 95) hmod).trans (add_sub_cancel_right v _)

/-- A chunk after which no overflow is marked met none before, and added its products exactly (R129). -/
theorem chunkStep_of_not_ovf {l : Int} {s : PassCell} {w : Int} {as bs : List IntEl} (h : (chunkStep l s w as bs).ovf = false) :
    s.ovf = false ∧ (chunkStep l s w as bs).v = s.v + productSum l w (as.zip bs) := by
  rw [chunkStep_eq] at h ⊢
  simp only [Bool.or_eq_false_iff, decide_eq_false_iff_not, not_lt] at h
  obtain ⟨⟨hovf, hlo⟩, hhi⟩ := h
  exact ⟨hovf, wrap96_of_range hlo hhi⟩

/-! ## A pass, chunk by chunk (R126) -/

/-- The operands of one chunk of a cell: its weight, and the integer forms of the row of A and the column of B. -/
abbrev CellChunk := Chunk × List IntEl × List IntEl

/-- The chunk of block column `k` of A and block row `k` of B of a pair, for the cell (i, j). -/
def cellChunk (fa fb : Fmt) (i j : Nat) (p : List Byte × List Byte) (k : Nat) : CellChunk :=
  ({ w := fOf fa + fOf fb + blockExp fa p.1 (2 * (i / 16) + k) + blockExp fb p.2 (2 * k + j / 16),
     live := blockLive fa p.1 (2 * (i / 16) + k) && blockLive fb p.2 (2 * k + j / 16) }, rowForms fa p.1 i k, colForms fb p.2 j k)

/-- The chunks of a cell in ascending K. -/
def cellChunks (fa fb : Fmt) (pairs : List (List Byte × List Byte)) (i j : Nat) : List CellChunk :=
  pairs.flatMap fun p => [0, 1].map (cellChunk fa fb i j p)

/-- A pass over chunks from a state of the cell. -/
def passFrom (l : Int) (s : PassCell) (xs : List CellChunk) : PassCell := xs.foldl (fun s x => chunkStep l s x.1.w x.2.1 x.2.2) s

theorem chunksOf_eq (fa fb : Fmt) (pairs : List (List Byte × List Byte)) (i j : Nat) :
    chunksOf fa fb pairs (i / 16) (j / 16) = (cellChunks fa fb pairs i j).map (·.1) := by
  rw [cellChunks, List.map_flatMap]
  rfl

theorem cellPass_eq (fa fb : Fmt) (pairs : List (List Byte × List Byte)) (l : Int) (i j : Nat) :
    cellPass fa fb pairs l i j = passFrom l ⟨0, false, 0, 0⟩ (cellChunks fa fb pairs i j) := by
  have hrows : (pairs.flatMap fun p => [0, 1].map fun k => (rowForms fa p.1 i k, colForms fb p.2 j k)) =
      (cellChunks fa fb pairs i j).map (·.2) := by
    rw [cellChunks, List.map_flatMap]
    rfl
  rw [cellPass, chunksOf_eq, hrows, List.zip_map', passFrom]
  simp

/-- A pass that ends without overflow met none, and V has grown by the sum of its chunks. -/
theorem passFrom_of_not_ovf {l : Int} {xs : List CellChunk} {s : PassCell} (h : (passFrom l s xs).ovf = false) :
    s.ovf = false ∧ (passFrom l s xs).v = s.v + (xs.map fun x => productSum l x.1.w (x.2.1.zip x.2.2)).sum := by
  induction xs generalizing s with
  | nil => exact ⟨h, (add_zero _).symm⟩
  | cons x xs ih =>
    obtain ⟨hstep, hv⟩ := ih h
    obtain ⟨hovf, hchunk⟩ := chunkStep_of_not_ovf hstep
    refine ⟨hovf, ?_⟩
    rw [List.map_cons, List.sum_cons, ← add_assoc, ← hchunk]
    exact hv

/-- V of a cell after a pass without overflow: the sums of its chunks, two of each operand pair (R126, R130). -/
theorem cellPass_v {fa fb : Fmt} {pairs : List (List Byte × List Byte)} {l : Int} {i j : Nat} (h : (cellPass fa fb pairs l i j).ovf = false) :
    (cellPass fa fb pairs l i j).v = (pairs.map fun p => ([0, 1].map fun k =>
      let x := cellChunk fa fb i j p k
      productSum l x.1.w (x.2.1.zip x.2.2)).sum).sum := by
  rw [cellPass_eq] at h ⊢
  rw [(passFrom_of_not_ovf h).2, zero_add, cellChunks, List.map_flatMap, List.flatMap_def, List.sum_flatten, List.map_map]
  simp only [Function.comp_def, List.map_map]

/-! ## Residues (R134) -/

theorem res255_eq (n : Int) : (res255 n : Int) = n % 255 := Int.toNat_of_nonneg (Int.emod_nonneg n (by decide))

/-- 2^8 leaves 1 modulo 255, so a residue is shifted by the shift modulo 8. -/
theorem two_pow_mod_eight (k : Nat) : (2 ^ (k % 8) : Int) ≡ 2 ^ k [ZMOD 255] := by
  have hperiod : ((2 ^ 8) ^ (k / 8) : Int) ≡ 1 ^ (k / 8) [ZMOD 255] := Int.ModEq.pow _ (by decide)
  calc (2 ^ (k % 8) : Int) = 1 ^ (k / 8) * 2 ^ (k % 8) := by rw [one_pow, one_mul]
    _ ≡ (2 ^ 8) ^ (k / 8) * 2 ^ (k % 8) [ZMOD 255] := hperiod.symm.mul_right _
    _ = 2 ^ k := by rw [← pow_mul, ← pow_add, Nat.div_add_mod]

/-- The residue of a product is that of its integer at the window, whether it was shifted exactly or rounded. -/
theorem chunkTerm_residue (l w : Int) (e : IntEl × IntEl) : ((chunkTerm l w e).2.1 : Int) ≡ (chunkTerm l w e).1 [ZMOD 255] := by
  unfold chunkTerm
  by_cases hsp : prodSpecial e.1 e.2 ≠ 0
  · rw [if_pos hsp]
    rfl
  · rw [if_neg hsp]
    by_cases hexact : w ≥ l
    · simp only [if_pos hexact, shifted]
      push_cast
      rw [res255_eq, res255_eq]
      exact (Int.mod_modEq _ _).trans
        (((Int.mod_modEq _ _).mul (Int.mod_modEq _ _)).mul (two_pow_mod_eight _))
    · simp only [if_neg hexact]
      rw [res255_eq]
      exact Int.mod_modEq _ _

/-- The residues of products added one after another are the residue of their sum. -/
theorem foldl_residue {v : Int} {a : Nat} (ha : (a : Int) = v % 255) (l w : Int) (es : List (IntEl × IntEl)) :
    (((es.map (chunkTerm l w)).foldl (fun a t => (a + t.2.1) % 255) a : Nat) : Int) = (v + productSum l w es) % 255 := by
  induction es generalizing v a with
  | nil => simpa [productSum] using ha
  | cons e es ih =>
    have hadd : (((a + (chunkTerm l w e).2.1) % 255 : Nat) : Int) = (v + (chunkTerm l w e).1) % 255 := by
      push_cast
      rw [ha]
      exact (Int.mod_modEq v 255).add (chunkTerm_residue l w e)
    rw [List.map_cons, List.foldl_cons, ih hadd, productSum, productSum, List.map_cons, List.sum_cons, add_assoc]

/-- The residue beside the accumulator stays that of V as long as no overflow is marked (R134, R135). -/
theorem passFrom_residue {l : Int} {xs : List CellChunk} {s : PassCell} (hs : (s.rho : Int) = s.v % 255) (h : (passFrom l s xs).ovf = false) :
    ((passFrom l s xs).rho : Int) = (passFrom l s xs).v % 255 := by
  induction xs generalizing s with
  | nil => exact hs
  | cons x xs ih =>
    have hstep : (chunkStep l s x.1.w x.2.1 x.2.2).ovf = false := (passFrom_of_not_ovf (xs := xs) h).1
    refine ih (s := chunkStep l s x.1.w x.2.1 x.2.2) ?_ h
    rw [(chunkStep_of_not_ovf hstep).2, chunkStep_eq]
    exact foldl_residue hs l x.1.w _

/-! ## Blocks without a non-zero element (R128) -/

theorem mem_blockCells {rows cols r c : Nat} (hr : r < rows) (hc : c < cols) (hcol : c < 32) : (r, c) ∈ blockCells rows cols (blockOf r c) := by
  have hr16 : 16 * (blockOf r c / 2) + r % 16 = r := by unfold blockOf; omega
  have hc16 : 16 * (blockOf r c % 2) + c % 16 = c := by unfold blockOf; omega
  refine List.mem_flatMap.2 ⟨r % 16, List.mem_range.2 (Nat.mod_lt _ (by decide)), List.mem_filterMap.2
    ⟨c % 16, List.mem_range.2 (Nat.mod_lt _ (by decide)), ?_⟩⟩
  simp only [hr16, hc16, hr, hc, decide_true, Bool.and_self, if_true]

theorem roundInt_zero (x q : Int) : roundInt .nearest 0 x q = 0 := by
  unfold roundInt alignUp
  simp

/-- The integer form of a zero, an infinity or a NaN is 0 or special. -/
theorem intForm_of_not_live {f : Fmt} {e : Int} {scale code : Nat}
    (h : (fmtScaled f && scale == 0xFF) = true ∨ ((decodeElem f code).isFinite && !(decodeElem f code).isZero) = false)
    (hsp : (intForm f e scale code).sp = 0) : (intForm f e scale code).n = 0 := by
  unfold intForm at hsp ⊢
  split at hsp
  · exact absurd hsp (by decide)
  · rename_i hscale
    have hzero := h.resolve_left (by simpa using hscale)
    rw [if_neg hscale]
    cases hel : decodeElem f code with
    | nan => rfl
    | inf neg => rfl
    | fin neg m x =>
      obtain rfl : m = 0 := by
        cases m with
        | zero => rfl
        | succ m => simp [hel, Fl.isFinite, Fl.isZero] at hzero
      simp only [roundInt_zero]
      cases neg <;> rfl

/-- The integer form of the element (r, c) of a tile, in block `b` of exponent `e`; padding is zero (R38). -/
def elemForm (f : Fmt) (t : List Byte) (e : Int) (b r c : Nat) : IntEl :=
  if r < tileRows t && c < tileCols t then intForm f e ((tileScales t).getD b 0x7F) (codeAt f t r c) else ⟨0, 0⟩

theorem mem_rowForms {f : Fmt} {t : List Byte} {r k : Nat} {x : IntEl} (hx : x ∈ rowForms f t r k) :
    ∃ i, i < 16 ∧ elemForm f t (blockExp f t (2 * (r / 16) + k)) (2 * (r / 16) + k) r (16 * k + i) = x := by
  obtain ⟨i, hi, hform⟩ := List.mem_map.1 hx
  exact ⟨i, List.mem_range.1 hi, hform⟩

theorem mem_colForms {f : Fmt} {t : List Byte} {c h : Nat} {x : IntEl} (hx : x ∈ colForms f t c h) :
    ∃ i, i < 16 ∧ elemForm f t (blockExp f t (2 * h + c / 16)) (2 * h + c / 16) (16 * h + i) c = x := by
  obtain ⟨i, hi, hform⟩ := List.mem_map.1 hx
  exact ⟨i, List.mem_range.1 hi, hform⟩

/-- An element of a block without a non-zero one has the integer form 0 or a special one. -/
theorem elemForm_of_not_live {f : Fmt} {t : List Byte} {e : Int} {b r c : Nat} (hb : b = blockOf r c) (hcol : c < 32)
    (hdead : blockLive f t b = false) (hsp : (elemForm f t e b r c).sp = 0) : (elemForm f t e b r c).n = 0 := by
  unfold elemForm at hsp ⊢
  split at hsp
  · rename_i hvalid
    rw [if_pos hvalid]
    rw [Bool.and_eq_true, decide_eq_true_eq, decide_eq_true_eq] at hvalid
    obtain ⟨hr, hc⟩ := hvalid
    refine intForm_of_not_live ?_ hsp
    rw [blockLive, Bool.and_eq_false_iff, Bool.not_eq_false', List.any_eq_false] at hdead
    refine hdead.imp_right fun hall => Bool.eq_false_iff.2 (hall _ ?_)
    exact List.mem_map.2 ⟨(r, c), hb ▸ mem_blockCells hr hc hcol, rfl⟩
  · rename_i hpad
    rw [if_neg hpad]

theorem rowForms_of_not_live {f : Fmt} {t : List Byte} {r k : Nat} (hk : k < 2) (hdead : blockLive f t (2 * (r / 16) + k) = false) {x : IntEl}
    (hx : x ∈ rowForms f t r k) (hsp : x.sp = 0) : x.n = 0 := by
  obtain ⟨i, hi, rfl⟩ := mem_rowForms hx
  exact elemForm_of_not_live (by unfold blockOf; omega) (by omega) hdead hsp

theorem colForms_of_not_live {f : Fmt} {t : List Byte} {c h : Nat} (hcol : c < 32) (hdead : blockLive f t (2 * h + c / 16) = false) {x : IntEl}
    (hx : x ∈ colForms f t c h) (hsp : x.sp = 0) : x.n = 0 := by
  obtain ⟨i, hi, rfl⟩ := mem_colForms hx
  exact elemForm_of_not_live (by unfold blockOf; omega) hcol hdead hsp

/-! ## The window as first placed (R128) -/

/-- No active chunk lies below the window. -/
theorem placeWindow_le {cs : List Chunk} {x : Chunk} (hx : x ∈ cs) (hlive : x.live = true) : placeWindow cs ≤ x.w := by
  have hmem : x.w ∈ (cs.filter (·.live)).map (·.w) := List.mem_map.2 ⟨x, List.mem_filter.2 ⟨hx, hlive⟩, rfl⟩
  unfold placeWindow
  cases hws : (cs.filter (·.live)).map (·.w) with
  | nil => rw [hws] at hmem; exact absurd hmem List.not_mem_nil
  | cons y ys =>
    rw [hws] at hmem
    exact (List.min?_eq_some_iff.1 (List.min?_cons' (x := y) (xs := ys))).2 _ hmem

theorem prodSpecial_eq_zero {a b : IntEl} (h : prodSpecial a b = 0) : a.sp = 0 ∧ b.sp = 0 := by
  unfold prodSpecial at h
  split at h
  · rename_i hsp
    simpa using hsp
  · dsimp only at h
    split_ifs at h

theorem shifted_zero (w l : Int) : shifted 0 w l = 0 := by
  unfold shifted
  simp [roundInt_zero]

/-- A product of a chunk, exact as an integer at the window: its weight is not below the window, or it is zero. -/
theorem chunkTerm_exact {l w : Int} {e : IntEl × IntEl} (h : l ≤ w ∨ (prodSpecial e.1 e.2 = 0 → e.1.n * e.2.n = 0)) :
    (chunkTerm l w e).1 = if prodSpecial e.1 e.2 = 0 then e.1.n * e.2.n * 2 ^ (w - l).toNat else 0 := by
  by_cases hsp : prodSpecial e.1 e.2 = 0
  · simp only [chunkTerm, hsp, ne_eq, not_true_eq_false, if_false, if_true]
    rcases h with hle | hzero
    · rw [shifted, if_pos hle]
    · rw [hzero hsp, shifted_zero, zero_mul]
  · simp only [chunkTerm, hsp, ne_eq, not_false_eq_true, if_true, if_false]

/-- Every product of an inactive chunk is zero or special. -/
theorem cellChunk_product_zero {fa fb : Fmt} {i j : Nat} {p : List Byte × List Byte} {k : Nat} (hk : k < 2) (hj : j < 32)
    (hdead : (cellChunk fa fb i j p k).1.live = false) {e : IntEl × IntEl} (he : e ∈ (rowForms fa p.1 i k).zip (colForms fb p.2 j k))
    (hsp : prodSpecial e.1 e.2 = 0) : e.1.n * e.2.n = 0 := by
  obtain ⟨hrow, hcol⟩ := List.of_mem_zip (a := e.1) (b := e.2) he
  obtain ⟨hspA, hspB⟩ := prodSpecial_eq_zero hsp
  rcases Bool.and_eq_false_iff.1 hdead with hA | hB
  · rw [rowForms_of_not_live hk hA hrow hspA, zero_mul]
  · rw [colForms_of_not_live hj hB hcol hspB, mul_zero]

/-- With the window as first placed, no product of any chunk is rounded (R128). -/
theorem productSum_placed {fa fb : Fmt} {pairs : List (List Byte × List Byte)} {i j : Nat} (hj : j < 32) {p : List Byte × List Byte}
    (hp : p ∈ pairs) {k : Nat} (hk : k ∈ [0, 1]) {l : Int} (hl : l = placeWindow (chunksOf fa fb pairs (i / 16) (j / 16))) :
    let x := cellChunk fa fb i j p k
    productSum l x.1.w (x.2.1.zip x.2.2) = ((x.2.1.zip x.2.2).map fun e =>
      if prodSpecial e.1 e.2 = 0 then e.1.n * e.2.n * 2 ^ (x.1.w - l).toNat else 0).sum := by
  intro x
  refine congrArg List.sum (List.map_congr_left fun e he => chunkTerm_exact ?_)
  cases hlive : x.1.live with
  | true =>
    have hmem : x ∈ cellChunks fa fb pairs i j := List.mem_flatMap.2 ⟨p, hp, List.mem_map.2 ⟨k, hk, rfl⟩⟩
    left
    rw [hl, chunksOf_eq]
    exact placeWindow_le (List.mem_map.2 ⟨x, hmem, rfl⟩) hlive
  | false =>
    have hk2 : k < 2 := by rcases List.mem_pair.1 hk with rfl | rfl <;> decide
    exact .inr (cellChunk_product_zero hk2 hj hlive he)

/-! ## O15 -/

/-- Settles O15: V by induction on the chunks, each of which adds its products unrounded; the residue by the same induction, as 2^8 leaves 1
modulo 255. -/
theorem accumulatorIsExact : Obligations.AccumulatorIsExact := by
  unfold Obligations.AccumulatorIsExact
  refine ⟨fun fa fb pairs i j _ _ hj => ?_, fun fa fb pairs l i j hovf => ?_⟩
  · intro l x hovf
    rw [cellPass_v hovf, List.flatMap_def, List.sum_flatten, List.map_map]
    refine congrArg List.sum (List.map_congr_left fun p hp => ?_)
    rw [Function.comp_apply, List.flatMap_def, List.sum_flatten, List.map_map]
    exact congrArg List.sum (List.map_congr_left fun k hk => productSum_placed hj hp hk rfl)
  · rw [cellPass_eq] at hovf ⊢
    have hrho := passFrom_residue (s := ⟨0, false, 0, 0⟩) rfl hovf
    have hlt := Int.emod_lt_of_pos (passFrom l ⟨0, false, 0, 0⟩ (cellChunks fa fb pairs i j)).v (b := 255) (by decide)
    exact ⟨hrho, by omega⟩

end Sys2Proof.Machine
end

section
/-! The statement on accumulations (O14) does not hold as it stands: it asks that the pairs of a MATMUL with CHAIN stay in the accumulation and does
not ask that the core runs. A command under way when its core halts runs to completion, and the partial sums that it holds for a CHAIN whose final
command has not started are discarded (R149). -/

namespace Sys2Proof.Machine

open Sys2Proof

theorem exec_matmul (c : Nat) (s : State) :
    exec (.matmul c) s = .next (s.dev! (s.dev.runMatmul c fun k => match k with | .plain => true | _ => false)) := rfl

/-! ## Operand pairs from queues (R67, R124) -/

/-- A good tile at a place of a queue is delivered as an operand, turned where it is read transposed. -/
theorem pairTile_queue {d : Dev} (hd : d.Undisturbed) {c qn skip j : Nat} {keep tr : Bool} {o : Operand} {x : QState} {t : List Byte}
    (hsrc : o.src = .queue qn keep tr) (hhead : (d.headIdx c .mx qn).bind d.q? = some x) (htile : (x.ring.drop (skip + j)).take 1 = [t])
    (hgood : tileGood (fun g => g == x.decl.fmt && o.accept g) t = true) : d.pairTile c o [] skip j = (.ok (turned tr t), d) := by
  simp only [Dev.pairTile, Dev.operandTiles, hsrc, Dev.queueTiles, hhead, sramRead_unarmed hd, htile, List.foldl_cons, List.foldl_nil,
    checkTile_good hd hgood, List.nil_append]
  cases tr <;> rfl

/-- One pair that passes its checks joins an accumulation with room. -/
theorem takePairs_one {d : Dev} {c skip : Nat} {a b : Operand} {ps : List (List Byte × List Byte)} {ta tb : List Byte}
    (ha : d.pairTile c a [] 0 0 = (.ok ta, d)) (hb : d.pairTile c b [] skip 0 = (.ok tb, d)) (hfault : pairFault ps ta tb = none)
    (hroom : ps.length < 256) : d.takePairs c a b [] [] skip 1 0 ps = (.ok (ps ++ [(ta, tb)]), d) := by
  simp only [Dev.takePairs, ha, hb, hfault, if_neg (Nat.not_le.2 hroom), Option.none_or]

/-! ## A MATMUL with CHAIN (R124, R149) -/

/-- What a MATMUL with CHAIN leaves of its core's accumulation: the pairs, or nothing where the core has halted (R149). -/
def CoreSt.chained (ps : List (List Byte × List Byte)) (s : CoreSt) : CoreSt :=
  { s with acc := if s.halted then s.acc.fresh else { s.acc with pairs := ps } }

theorem Dev.lone.chained {d : Dev} {c : Nat} {u : EngUnit} {q : QCmd} (ha : d.lone c u q) (ps : List (List Byte × List Byte)) :
    (d.setCore c (.chained ps)).lone c u q := by
  have hcore : (d.setCore c (.chained ps)).core c = (d.core c).chained ps := core_setCore d c _ ha.len
  exact ⟨ha.engine, by rw [hcore]; exact ha.queue, ha.started, ha.signals, ha.nanTrap, by rw [hcore]; exact ha.others, by rw [hcore]; exact ha.pipe,
    by rw [hcore]; exact ha.ending, by simpa [Dev.setCore] using ha.len, ha.landed, ha.written⟩

section
variable {d : Dev} {c : Nat} {q : QCmd} {m : MatmulArgs} {kindOk : DrainKind → Bool} {qa qb : Nat} {turnA keepB turnB : Bool}
  {ps : List (List Byte × List Byte)}

/-- A MATMUL with CHAIN that takes its pairs from queues, A's tiles kept, pops what it does not keep and completes. -/
theorem runMatmul_chain (ha : engAlone d c .mx q) (hnear : d.nearQueues) (hop : q.cmd.op = .matmul m) (hkind : kindOk m.kind = true)
    (hchain : m.chain = true) (hA : m.a = .queue qa true turnA) (hB : m.b = .queue qb keepB turnB)
    (htake : d.takePairs c ⟨m.a, m.kt, 0, mxTakes⟩ ⟨m.b, m.kt, 1, mxTakes⟩ [] [] 0 m.kt 0 (d.core c).acc.pairs = (.ok ps, d)) :
    d.runMatmul c kindOk = ((d.popAll c .mx (opPops q.cmd.op)).setCore c (.chained ps)).freed c .mx := by
  obtain ⟨-, -, -, -, -, htrap, -, -, -, hpipe, -⟩ := id ha
  have hmay : (d.core c).mayTake m = true := by simp [CoreSt.mayTake, hpipe]
  have hspans : d.allSpans .mx [⟨m.a, m.kt, 0, mxTakes⟩, ⟨m.b, m.kt, 1, mxTakes⟩] = .ok [[], []] := by
    simp only [Dev.allSpans, Dev.operandSpans, hA, hB]
    rfl
  have hgather : d.gather c .mx [] ([] ++ []) = .tiles [] d := by simp [Dev.gather, Dev.allSpans, Dev.mustAsk, Dev.inputsIn, Dev.readOperands]
  have hlone := ((ha.lone (by decide) (by decide)).ringsTo (popAll_near c .mx (opPops q.cmd.op) hnear).rings).chained ps
  have hdone := hlone.complete htrap
  rw [hA, hB] at hspans htake
  unfold Dev.runMatmul
  simp only [fresh_alone ha, hop, hkind, hmay, hchain, Bool.not_true, Bool.or_self, Bool.false_eq_true, if_false, if_true, hA, hB, hspans,
    List.getD_cons_zero, List.getD_cons_succ, hgather, htake]
  rw [hop] at hdone
  exact hdone

/-- On a core that has halted its pairs are gone. -/
theorem runMatmul_chain_halted (ha : engAlone d c .mx q) (hnear : d.nearQueues) (hop : q.cmd.op = .matmul m) (hkind : kindOk m.kind = true)
    (hchain : m.chain = true) (hA : m.a = .queue qa true turnA) (hB : m.b = .queue qb keepB turnB)
    (htake : d.takePairs c ⟨m.a, m.kt, 0, mxTakes⟩ ⟨m.b, m.kt, 1, mxTakes⟩ [] [] 0 m.kt 0 (d.core c).acc.pairs = (.ok ps, d))
    (hhalted : (d.core c).halted = true) : ((d.runMatmul c kindOk).core c).acc = (d.core c).acc.fresh := by
  have hrings := (popAll_near c .mx (opPops q.cmd.op) hnear).rings
  have hlen : c < (d.popAll c .mx (opPops q.cmd.op)).cores.length := by rw [hrings.cores]; exact (ha.lone (by decide) (by decide)).len
  rw [runMatmul_chain ha hnear hop hkind hchain hA hB htake, freed_core (by simpa [Dev.setCore] using hlen), core_setCore _ c _ hlen, hrings.core]
  simp only [CoreSt.setQueue, CoreSt.chained, hhalted, if_true]

end

/-! ## The counterexample -/

/-- The header of an FP4 tile of one element. -/
def unitHdr : Hdr :=
  { format := BitVec.ofNat 8 (fmtCode .fp4), rows := 1, cols := 1, tagValid := 0, nan := 0, ovf := 0, unf := 0, stoch := 0, resv1 := 0, s0 := 0x7F,
    s1 := 0x7F, s2 := 0x7F, s3 := 0x7F, tagEpoch := 0, crc := 0, resv2 := 0 }

/-- The tile, its element 1.0; opaque, so that no check evaluates its bytes. -/
@[irreducible] def unitTile : List Byte :=
  sealTile (leBytes 32 (packHdr unitHdr).toNat ++ payloadOf .fp4 fun r c => if r = 0 ∧ c = 0 then 2 else 0)

theorem tileHdr_unitTile : tileHdr unitTile = { unitHdr with crc := (tileHdr unitTile).crc } := by
  have h := tileHdr_setCrc (header_le_length (length_leBytes 32 (packHdr unitHdr).toNat) (payloadOf .fp4 fun r c => if r = 0 ∧ c = 0 then 2 else 0))
    (tileCrc (leBytes 32 (packHdr unitHdr).toNat ++ payloadOf .fp4 fun r c => if r = 0 ∧ c = 0 then 2 else 0))
  rw [unitTile]
  rwa [tileHdr_append, unpackHdr_packHdr] at h

theorem unitTile_shape : tileFmt unitTile = .fp4 ∧ tileRows unitTile = 1 ∧ tileCols unitTile = 1 := by
  rw [tileFmt, tileRows, tileCols, tileHdr_unitTile]
  exact ⟨rfl, rfl, rfl⟩

theorem tileGood_unitTile {accept : Fmt → Bool} (h : accept .fp4 = true) : tileGood accept unitTile = true := by
  have hcrc : crcKind unitTile = .ok := by
    rw [unitTile]
    exact crcKind_sealTile (header_le_length (length_leBytes 32 _) _)
  refine tileGood_iff.2 ⟨hcrc, ?_⟩
  have hfmt : fmtOf unitHdr.format.toNat = some .fp4 := rfl
  rw [hdrKind, tileHdr_unitTile]
  simp only [hfmt, h]
  rfl

/-- The tile may multiply itself. -/
theorem pairOk_unitTile : pairOk (tileFmt unitTile) (tileFmt unitTile) = true ∧ tileCols unitTile = tileRows unitTile := by
  obtain ⟨hfmt, hrows, hcols⟩ := unitTile_shape
  exact ⟨by rw [hfmt]; rfl, hcols.trans hrows.symm⟩

/-- A MATMUL with CHAIN of the tile at the head of queue 0 with itself, kept there. -/
def chainArgs : MatmulArgs :=
  { a := .queue 0 true false, b := .queue 0 true false, kt := 1, out := none, outFmt := .fp32, entry := none, chain := true, kind := .plain }

/-- It stands at the head of MX, started. -/
def chainCmd : QCmd :=
  { seq := 0, cmd := { opIndex := 0, raw := 0, waits := [], signals := [], nanTrap := false, op := .matmul chainArgs },
    started := true, asked := false, inputs := [], ran := false, hold := [], trap := none }

/-- Queue 0, from LS to MX of core 0, with the tile. -/
def chainQueue : QState :=
  { QState.fresh { num := 0, fmt := .fp4, cap := 2, prod := ⟨none, 0, .ls⟩, cons := ⟨none, 0, .mx⟩, remoteWaitMs := 0 } 0 with
    ring := [unitTile] }

/-- A ZX9440 whose core 0 has halted, for a reason raised elsewhere, while that MATMUL was under way. -/
def haltedState : State :=
  { pending := [], toll := Toll.reset,
    dev := { Dev.reset .zx9440 with cores := [{ CoreSt.reset with halted := true, mx := [chainCmd] }], queues := [chainQueue] } }

theorem haltedState_alone : engAlone haltedState.dev 0 .mx chainCmd ∧ haltedState.dev.nearQueues := by
  unfold engAlone Dev.nearQueues
  decide +kernel

theorem haltedState_head : (haltedState.dev.headIdx 0 .mx 0).bind haltedState.dev.q? = some chainQueue := rfl

theorem haltedState_tiles (pos : Nat) : haltedState.dev.tilesAt 0 .mx pos (.queue 0 true false) 0 1 [unitTile] :=
  ⟨chainQueue, haltedState_head, Nat.le_refl 1, rfl, fun t ht => by rw [List.mem_singleton.1 ht]; exact unitTile_shape.1⟩

theorem haltedState_pair (pos : Nat) : haltedState.dev.pairTile 0 ⟨.queue 0 true false, 1, pos, mxTakes⟩ [] 0 0 = (.ok unitTile, haltedState.dev) :=
  pairTile_queue (skip := 0) (tr := false) haltedState_alone.1.undisturbed rfl haltedState_head rfl (tileGood_unitTile rfl)

/-- The MATMUL completes, and its pair is gone. -/
theorem haltedState_discards :
    ((haltedState.dev.runMatmul 0 fun k => match k with | .plain => true | _ => false).core 0).acc.pairs = [] := by
  obtain ⟨halone, hnear⟩ := haltedState_alone
  obtain ⟨hpair, hinner⟩ := pairOk_unitTile
  have hfault : pairFault [] unitTile unitTile = none := by simp [pairFault, hpair, hinner]
  have htake := takePairs_one (haltedState_pair 0) (haltedState_pair 1) hfault (by decide)
  rw [runMatmul_chain_halted halone hnear (m := chainArgs) rfl rfl rfl rfl rfl htake rfl]
  rfl

/-- Refutes O14: a MATMUL with CHAIN on a core that has halted leaves no partial sums (R149), where the statement asks for its pair. -/
theorem not_accumulationsTakeAndMove : ¬ Obligations.AccumulationsTakeAndMove := by
  rintro ⟨h, -⟩
  obtain ⟨halone, hnear⟩ := haltedState_alone
  obtain ⟨hpair, hinner⟩ := pairOk_unitTile
  have hgood : ∀ t ∈ [unitTile] ++ [unitTile], tileGood mxTakes t = true := by
    rintro t ht
    obtain rfl : t = unitTile := by simpa using ht
    exact tileGood_unitTile rfl
  obtain ⟨t, hexec, -, hchain, -⟩ := h haltedState 0 chainCmd chainArgs [unitTile] [unitTile] halone rfl (Nat.le_refl 1) hnear
    (haltedState_tiles 0) (haltedState_tiles 1) hgood (by decide)
    (fun p hp p0 hp0 => by
      obtain rfl : p = (unitTile, unitTile) := List.mem_singleton.1 hp
      obtain rfl : (unitTile, unitTile) = p0 := Option.some_inj.1 hp0
      exact ⟨hpair, hinner, rfl, rfl, rfl, rfl⟩)
    (fun h => absurd h (by decide))
  rw [show mxRow 0 chainArgs.kind = .matmul 0 from rfl, exec_matmul] at hexec
  obtain rfl := Host.Outcome.next.inj hexec
  obtain ⟨hacc, -⟩ := hchain rfl
  have hkept := congrArg AccSt.pairs hacc
  exact absurd (haltedState_discards.symm.trans hkept) (List.cons_ne_nil (unitTile, unitTile) []).symm

end Sys2Proof.Machine
end

section
/-! Entries of the scale table in job memory with every line readable: seals (R157, R158), FORCE_WARM (R165, R169) and ST_SNAPSHOT (R168, R573). -/

namespace Sys2Proof.Machine

open Sys2Proof

/-! ## The seal on an entry (R157 to R160) -/

theorem magCode_lt (x : Fl) : magCode x < 2 ^ 8 := by
  unfold magCode
  split
  · split
    · decide
    · omega
  · decide
  · decide

theorem testBit_hist (e : ScaleEntry) (k j : Nat) : (e.hist k).testBit j = (decide (j < 8) && e.history.getLsbD (8 * k + j)) := by
  rw [ScaleEntry.hist, bits, show 8 * k + 7 + 1 - 8 * k = 8 by omega, Nat.testBit_mod_two_pow, Nat.testBit_shiftRight]
  rfl

/-- A seal shifts the history by a byte and adds the code of the previous iteration's maximum (R157, R159). -/
theorem seal_history (e : ScaleEntry) : e.seal.history = (e.history <<< 8) ||| BitVec.ofNat 128 (magCode (f32 e.prevAmax)) := rfl

theorem hist_seal_zero (e : ScaleEntry) : e.seal.hist 0 = magCode (f32 e.prevAmax) := by
  have hcode := magCode_lt (f32 e.prevAmax)
  refine Nat.eq_of_testBit_eq fun j => ?_
  rw [testBit_hist, seal_history, BitVec.getLsbD_or, BitVec.getLsbD_shiftLeft, BitVec.getLsbD_ofNat]
  by_cases hj : j < 8
  · simp [hj, show j < 128 by omega]
  · simp [hj, Nat.testBit_lt_two_pow (hcode.trans_le (Nat.pow_le_pow_right (by decide) (Nat.not_lt.1 hj)))]

theorem hist_seal_succ (e : ScaleEntry) {k : Nat} (hk : k < 15) : e.seal.hist (k + 1) = e.hist k := by
  have hcode := magCode_lt (f32 e.prevAmax)
  refine Nat.eq_of_testBit_eq fun j => ?_
  rw [testBit_hist, testBit_hist, seal_history, BitVec.getLsbD_or, BitVec.getLsbD_shiftLeft, BitVec.getLsbD_ofNat,
    Nat.testBit_lt_two_pow (hcode.trans_le (Nat.pow_le_pow_right (by decide) (by omega))), show 8 * (k + 1) + j - 8 = 8 * k + j by omega]
  by_cases hj : j < 8
  · simp [hj, show 8 * (k + 1) + j < 128 by omega, show ¬ 8 * (k + 1) + j < 8 by omega]
  · simp [hj]

/-- The estimate reads an entry's history, WINDOW, FORMAT, HEADROOM and BOOST, and nothing else (R160). -/
theorem estimate_congr {e f : ScaleEntry} (hhistory : e.history = f.history) (hwindow : e.window = f.window) (hformat : e.format = f.format)
    (hheadroom : e.headroom = f.headroom) (hboost : e.boost = f.boost) : e.estimate = f.estimate := by
  have hhist : e.hist = f.hist := funext fun k => by rw [ScaleEntry.hist, hhistory, ScaleEntry.hist]
  simp only [ScaleEntry.estimate, ScaleEntry.fmt, hhist, hwindow, hformat, hheadroom, hboost]

/-- A seal estimates SCALE from the entry that it leaves (R157, R160). -/
theorem seal_scale (e : ScaleEntry) : e.seal.scale = BitVec.ofNat 8 e.seal.estimate :=
  congrArg (BitVec.ofNat 8) (estimate_congr rfl rfl rfl rfl rfl)

/-- A seal ends the current iteration: its reports, SCALE and WARM become the previous ones, and ITER counts it (R157). -/
theorem seal_moves (e : ScaleEntry) : e.seal.prevAmax = e.curAmax ∧ e.seal.prevOvf = e.curOvf ∧ e.seal.prevRetry = e.curRetry ∧
    e.seal.curAmax = 0 ∧ e.seal.curOvf = 0 ∧ e.seal.curRetry = 0 ∧ e.seal.prevScale = e.scale ∧ e.seal.prevWarm = e.warm ∧
    e.seal.iter = e.iter + 1 ∧ e.seal.span = e.span :=
  ⟨rfl, rfl, rfl, rfl, rfl, rfl, rfl, rfl, rfl, rfl⟩

/-- Settles O18: of what the estimate reads, a seal takes nothing from CUR_AMAX, CUR_OVF and CUR_RETRY. -/
theorem scaleIgnoresOpenIteration : Obligations.ScaleIgnoresOpenIteration := by
  intro e amax ovf retry
  rw [seal_scale, seal_scale]
  exact congrArg (BitVec.ofNat 8) (estimate_congr rfl rfl rfl rfl rfl)

/-! ## A table in job memory with every line readable (R17, R330, R573) -/

/-- No injection slot is armed, no line is poisoned, memory is in canonical form, and the table lies in job memory. -/
structure Dev.TableReady (d : Dev) : Prop where
  unarmed : d.unarmed = true
  whole : d.poison = []
  wf : d.mem.wf = true
  inside : d.tableIn = true

theorem write_whole {d : Dev} (h : d.poison = []) (a : Nat) (bs : List Byte) : (d.write a bs).poison = [] := by
  simp [Dev.write, Dev.moveHbm, Dev.land, h]

theorem Dev.accessesTo.entryAddr {d e : Dev} (h : d.accessesTo e) (i : Nat) : e.entryAddr i = d.entryAddr i := by
  obtain ⟨_, _, _, _, _, _, _, rfl⟩ := h; rfl

theorem Dev.accessesTo.scale {d e : Dev} (h : d.accessesTo e) : e.scale = d.scale := by obtain ⟨_, _, _, _, _, _, _, rfl⟩ := h; rfl

theorem Dev.accessesTo.scaleBase {d e : Dev} (h : d.accessesTo e) : e.scaleBase = d.scaleBase := by
  rw [Dev.scaleBase, h.scale, Dev.scaleBase]

theorem Dev.TableReady.readsTo {d e : Dev} (hd : d.TableReady) (h : d.readsTo e) : e.TableReady := by
  obtain ⟨_, _, _, rfl⟩ := h
  exact ⟨hd.unarmed, hd.whole, hd.wf, hd.inside⟩

section
variable {d : Dev} (hd : d.TableReady)
include hd

theorem readFor_ready (req a n : Nat) : ∃ e, d.readFor req a n = (some (d.peek a n), e) ∧ d.readsTo e :=
  readFor_unarmed hd.unarmed (by simp [Dev.poisonedIn, hd.whole]) req

theorem entry_inJobMem {i : Nat} (hi : i < d.scale.count.toNat) : inJobMem d.grade (d.entryAddr i) 64 = true := by
  rw [Dev.entryAddr, Nat.add_assoc]
  exact inJobMem_part hd.inside (by omega)

theorem setEntry_inside {i : Nat} (hi : i < d.scale.count.toNat) (x : ScaleEntry) :
    d.setEntry i x = d.write (d.entryAddr i) (entryBytes x) := by
  rw [Dev.setEntry, if_pos (entry_inJobMem hd hi)]

theorem Dev.TableReady.setEntry (i : Nat) (x : ScaleEntry) : (d.setEntry i x).TableReady := by
  unfold Dev.setEntry
  split
  · refine ⟨?_, write_whole hd.whole _ _, ?_, ?_⟩
    · rw [Dev.unarmed, Dev.write_er]; exact hd.unarmed
    · rw [Dev.write_mem]; exact Memory.wf_writes hd.wf _ _
    · rw [Dev.tableIn, Dev.scaleBase, Dev.write_grade, Dev.write_scale]; exact hd.inside
  · exact hd

theorem entry_setEntry_same {i : Nat} (hi : i < d.scale.count.toNat) (x : ScaleEntry) : (d.setEntry i x).entry i = x := by
  have hread := Memory.reads_writes hd.wf (d.entryAddr i) (entryBytes x)
  rw [length_entryBytes] at hread
  rw [Dev.entry, (setEntry_accessesTo d i x).entryAddr, setEntry_inside hd hi, Dev.peek, Dev.write_mem, hread, entryOf_entryBytes]

/-- An entry depends on its own 64 bytes: one that is written leaves the others. -/
theorem entry_setEntry_ne {i j : Nat} (hij : j ≠ i) (x : ScaleEntry) : (d.setEntry i x).entry j = d.entry j := by
  have hbytes : (d.setEntry i x).peek (d.entryAddr j) 64 = d.peek (d.entryAddr j) 64 := by
    refine List.map_congr_left fun b hb => setEntry_read hd.wf i x ?_
    have hb := List.mem_range.1 hb
    simp only [Dev.entryAddr]
    omega
  rw [Dev.entry, (setEntry_accessesTo d i x).entryAddr, hbytes, Dev.entry]

/-! ## Sources of a seal (R157) -/

theorem Dev.TableReady.narrowEntry (i : Nat) : (d.narrowEntry i).TableReady := by
  unfold Dev.narrowEntry
  split
  · exact hd.setEntry i _
  · exact hd

theorem entry_narrowEntry_ne {i j : Nat} (hij : j ≠ i) : (d.narrowEntry i).entry j = d.entry j := by
  unfold Dev.narrowEntry
  split
  · exact entry_setEntry_ne hd hij _
  · rfl

theorem entry_narrowEntry_same {i : Nat} (hi : i < d.scale.count.toNat) (hvalid : (d.entry i).valid = 1) :
    (d.narrowEntry i).entry i = (d.entry i).narrow := by
  rw [Dev.narrowEntry, if_pos hvalid, entry_setEntry_same hd hi]

end

theorem narrowEntry_accessesTo (d : Dev) (i : Nat) : d.accessesTo (d.narrowEntry i) := by
  unfold Dev.narrowEntry
  split
  · exact setEntry_accessesTo d i _
  · exact .refl d

theorem narrowAll_accessesTo (d : Dev) (is : List Nat) : d.accessesTo (is.foldl Dev.narrowEntry d) := by
  induction is generalizing d with
  | nil => exact .refl d
  | cons i is ih => exact (narrowEntry_accessesTo d i).trans (ih _)

theorem Dev.TableReady.narrowAll {d : Dev} (hd : d.TableReady) (is : List Nat) : (is.foldl Dev.narrowEntry d).TableReady := by
  induction is generalizing d with
  | nil => exact hd
  | cons i is ih => exact ih (hd.narrowEntry i)

theorem entry_narrowAll_notMem {d : Dev} (hd : d.TableReady) {is : List Nat} {j : Nat} (hj : j ∉ is) :
    (is.foldl Dev.narrowEntry d).entry j = d.entry j := by
  induction is generalizing d with
  | nil => rfl
  | cons i is ih =>
    obtain ⟨hne, hrest⟩ := List.ne_and_not_mem_of_not_mem_cons hj
    rw [List.foldl_cons, ih (hd.narrowEntry i) hrest, entry_narrowEntry_ne hd hne]

/-- A source that can be read hands the search on. The kernel must not evaluate the address inside the search, whose 2^32 it would count down in
unary, so the proof holds for every read and every address: `id` keeps the two as variables in the proof term. -/
theorem sourceFail_cons {d e : Dev} {req i : Nat} {bs : List Byte} (hread : d.readFor req (d.entryAddr i) 64 = (some bs, e)) (is : List Nat) :
    d.sourceFail req (i :: is) = e.sourceFail req is := by
  generalize hsearch : @Dev.sourceFail = search
  delta Dev.sourceFail at hsearch
  generalize hbody : @Dev.sourceFail._f = body at hsearch
  delta Dev.sourceFail._f at hbody
  generalize Dev.readFor = read, Dev.entryAddr = addr at hread hbody
  revert read addr
  refine id ?_
  intro read addr hread hbody
  subst hbody hsearch
  simp only [hread]

theorem sourceFail_ready {d : Dev} (hd : d.TableReady) (req : Nat) (is : List Nat) :
    ∃ e, d.sourceFail req is = (none, e) ∧ d.readsTo e := by
  induction is generalizing d with
  | nil => exact ⟨d, rfl, .refl d⟩
  | cons i is ih =>
    obtain ⟨e, hread, hde⟩ := readFor_ready hd req (d.entryAddr i) 64
    obtain ⟨f, hrest, hef⟩ := ih (hd.readsTo hde)
    exact ⟨f, (sourceFail_cons hread is).trans hrest, hde.trans hef⟩

/-- The entries whose SPAN a seal narrows (R157): the sources, where the previous iteration retried. -/
def ScaleEntry.sources (e : ScaleEntry) (count : Nat) : List Nat :=
  if e.prevRetry.toNat > 0 then [e.srcA.toNat, e.srcB.toNat].filter (fun j => decide (j ≠ 0xFFFF ∧ j < count)) else []

theorem mem_sources {e : ScaleEntry} {count k : Nat} (h : k ∈ e.sources count) : (k = e.srcA.toNat ∨ k = e.srcB.toNat) ∧ e.prevRetry ≠ 0 := by
  unfold ScaleEntry.sources at h
  split at h
  · rename_i hretry
    exact ⟨List.mem_pair.1 (List.mem_filter.1 h).1, fun hzero => by simp [hzero] at hretry⟩
  · exact absurd h List.not_mem_nil

/-- SRC_A, when SRC_B names another entry, is narrowed once. -/
theorem sources_eq_cons {e : ScaleEntry} {count : Nat} (hretry : e.prevRetry ≠ 0) (hsome : e.srcA.toNat ≠ 0xFFFF) (hcount : e.srcA.toNat < count)
    (hother : e.srcA.toNat ≠ e.srcB.toNat) : ∃ is, e.sources count = e.srcA.toNat :: is ∧ e.srcA.toNat ∉ is := by
  have hpos : e.prevRetry.toNat > 0 := Nat.pos_of_ne_zero fun hzero => hretry (BitVec.eq_of_toNat_eq hzero)
  refine ⟨[e.srcB.toNat].filter fun j => decide (j ≠ 0xFFFF ∧ j < count), ?_, fun hmem => ?_⟩
  · rw [ScaleEntry.sources, if_pos hpos, List.filter_cons_of_pos (by simp [hsome, hcount])]
  · exact hother (List.mem_singleton.1 (List.mem_filter.1 hmem).1)

/-! ## A reference that seals (R156, R157) -/

theorem readEntry_ready {d : Dev} (hd : d.TableReady) {i : Nat} (hi : i < d.scale.count.toNat) (hvalid : (d.entry i).valid = 1) (req : Nat) :
    ∃ e, d.readEntry req i = (.ok (d.entry i), e) ∧ d.readsTo e := by
  obtain ⟨e, hread, hde⟩ := readFor_ready hd req (d.entryAddr i) 64
  have hvalid' : (entryOf (d.peek (d.entryAddr i) 64)).valid = 1 := hvalid
  refine ⟨e, ?_, hde⟩
  simp only [Dev.readEntry, hread, if_neg (Nat.not_le.2 hi), if_pos hvalid']
  rfl

/-- The device after a seal: its sources are narrowed, then the entry is sealed as it then stands. -/
def Dev.sealed (d : Dev) (is : List Nat) (i : Nat) : Dev :=
  (is.foldl Dev.narrowEntry d).setEntry i ((is.foldl Dev.narrowEntry d).entry i).seal

theorem touchEntry_seals {d : Dev} (hd : d.TableReady) {ref : ScaleRef} (hi : ref.idx < d.scale.count.toNat)
    (hvalid : (d.entry ref.idx).valid = 1) (hnext : ref.iter % 65536 = ((d.entry ref.idx).iter.toNat + 1) % 65536)
    (hself : ref.idx ∉ (d.entry ref.idx).sources d.scale.count.toNat) (req : Nat) :
    ∃ g, d.readsTo g ∧ d.touchEntry req ref =
      (.ok ((d.entry ref.idx).seal, .cur), g.sealed ((d.entry ref.idx).sources d.scale.count.toNat) ref.idx) := by
  obtain ⟨e, hread, hde⟩ := readEntry_ready hd hi hvalid req
  have hcount : e.scale.count = d.scale.count := by rw [hde.accesses.scale]
  obtain ⟨g, hsources, heg⟩ := sourceFail_ready (hd.readsTo hde) req ((d.entry ref.idx).sources d.scale.count.toNat)
  have hdg := hde.trans heg
  have hkept : (((d.entry ref.idx).sources d.scale.count.toNat).foldl Dev.narrowEntry g).entry ref.idx = d.entry ref.idx := by
    rw [entry_narrowAll_notMem (hd.readsTo hdg) hself, entry_readsTo hdg]
  refine ⟨g, hdg, ?_⟩
  unfold ScaleEntry.sources at hsources hkept ⊢
  simp only [Dev.touchEntry, hread, if_pos hnext, hcount, hsources, hkept, Dev.sealed]

section
variable {d : Dev} (hd : d.TableReady) {is : List Nat} {i : Nat}
include hd

theorem entry_sealed_same (hi : i < d.scale.count.toNat) (hself : i ∉ is) : (d.sealed is i).entry i = (d.entry i).seal := by
  have hcount : (is.foldl Dev.narrowEntry d).scale.count = d.scale.count := by rw [(narrowAll_accessesTo d is).scale]
  rw [Dev.sealed, entry_setEntry_same (hd.narrowAll is) (by rwa [hcount]), entry_narrowAll_notMem hd hself]

theorem entry_sealed_notMem {k : Nat} (hk : k ≠ i) (hout : k ∉ is) : (d.sealed is i).entry k = d.entry k := by
  rw [Dev.sealed, entry_setEntry_ne (hd.narrowAll is) hk, entry_narrowAll_notMem hd hout]

theorem entry_sealed_head {k : Nat} (hk : k ≠ i) (hcount : k < d.scale.count.toNat) (hvalid : (d.entry k).valid = 1) (hout : k ∉ is) :
    (d.sealed (k :: is) i).entry k = (d.entry k).narrow := by
  rw [Dev.sealed, entry_setEntry_ne (hd.narrowAll _) hk, List.foldl_cons,
    entry_narrowAll_notMem (hd.narrowEntry k) hout, entry_narrowEntry_same hd hcount hvalid]

end

/-! ## FORCE_WARM (R165, R169) -/

/-- The scale tables with another ST_STATUS. -/
def Dev.withScaleStatus (d : Dev) (v : Word32) : Dev := { d with scale := { d.scale with status := v } }

theorem Dev.TableReady.withScaleStatus {d : Dev} (hd : d.TableReady) (v : Word32) : (d.withScaleStatus v).TableReady :=
  ⟨hd.unarmed, hd.whole, hd.wf, hd.inside⟩

@[simp] theorem withScaleStatus_mem (d : Dev) (v : Word32) : (d.withScaleStatus v).mem = d.mem := rfl
@[simp] theorem withScaleStatus_status (d : Dev) (v : Word32) : (d.withScaleStatus v).scale.status = v := rfl
@[simp] theorem withScaleStatus_scaleBase (d : Dev) (v : Word32) : (d.withScaleStatus v).scaleBase = d.scaleBase := rfl
@[simp] theorem withScaleStatus_entryAddr (d : Dev) (v : Word32) (i : Nat) : (d.withScaleStatus v).entryAddr i = d.entryAddr i := rfl
@[simp] theorem withScaleStatus_peek (d : Dev) (v : Word32) (a n : Nat) : (d.withScaleStatus v).peek a n = d.peek a n := rfl
@[simp] theorem withScaleStatus_entry (d : Dev) (v : Word32) (i : Nat) : (d.withScaleStatus v).entry i = d.entry i := rfl

/-- What FORCE_WARM makes of an entry's line once it is read: a line that cannot be read is flagged, a valid entry enters warm-up (R165, R573). -/
def Dev.warmFrom (i : Nat) : Option (List Byte) × Dev → Dev
  | (none, d) => d.withScaleStatus (wset d.scale.status 0x10)
  | (some bs, d) => if (entryOf bs).valid = 1 then d.setEntry i (entryOf bs).enterWarm else d

/-- One entry's turn in FORCE_WARM. -/
def Dev.warmEntry (d : Dev) (i : Nat) : Dev := Dev.warmFrom i (d.readFor reqFirmware (d.entryAddr i) 64)

/-- FORCE_WARM clears its flag and gives the entries their turns. -/
theorem forceWarm_eq (d : Dev) : d.forceWarm =
    (List.range d.scale.count.toNat).foldl Dev.warmEntry (d.withScaleStatus (wclr d.scale.status 0x10)) := by
  unfold Dev.forceWarm
  refine congrArg (fun turn => List.foldl turn _ _) (funext fun e => funext fun i => ?_)
  rw [Dev.warmEntry]
  rcases e.readFor reqFirmware (e.entryAddr i) 64 with ⟨_ | bs, f⟩ <;> rfl

/-- The turn of an entry that can be read: it enters warm-up if it is valid, and nothing outside its 64 bytes changes. -/
theorem warmEntry_ready {d : Dev} (hd : d.TableReady) {i : Nat} (hi : i < d.scale.count.toNat) :
    d.accessesTo (d.warmEntry i) ∧ (d.warmEntry i).TableReady ∧
      (d.warmEntry i).entry i = (if (d.entry i).valid = 1 then (d.entry i).enterWarm else d.entry i) ∧
      (∀ j, j ≠ i → (d.warmEntry i).entry j = d.entry j) ∧
      ∀ b, b < d.entryAddr i ∨ d.entryAddr i + 64 ≤ b → (d.warmEntry i).mem.read b = d.mem.read b := by
  obtain ⟨e, hread, hde⟩ := readFor_ready hd reqFirmware (d.entryAddr i) 64
  have he := hd.readsTo hde
  have hwarm : d.warmEntry i = if (d.entry i).valid = 1 then e.setEntry i (d.entry i).enterWarm else e := by
    rw [Dev.warmEntry, hread]; rfl
  rw [hwarm]
  split
  · refine ⟨hde.accesses.trans (setEntry_accessesTo e i _), he.setEntry i _, entry_setEntry_same he (by rwa [hde.accesses.scale]) _,
      fun j hj => ?_, fun b hb => ?_⟩
    · rw [entry_setEntry_ne he hj, entry_readsTo hde]
    · rw [setEntry_read he.wf i _ (by rwa [hde.entryAddr]), hde.mem]
  · exact ⟨hde.accesses, he, entry_readsTo hde i, fun j _ => entry_readsTo hde j, fun b _ => by rw [hde.mem]⟩

/-- The first `n` entries of a table have had their turn. -/
structure Dev.WarmedTo (d : Dev) (n : Nat) (e : Dev) : Prop where
  accesses : d.accessesTo e
  ready : e.TableReady
  entries : ∀ i, e.entry i = if i < n ∧ (d.entry i).valid = 1 then (d.entry i).enterWarm else d.entry i
  outside : ∀ a, a < d.entryAddr 0 ∨ d.entryAddr n ≤ a → e.mem.read a = d.mem.read a

theorem warmedTo_zero {d : Dev} (hd : d.TableReady) : d.WarmedTo 0 d := ⟨.refl d, hd, by simp, fun _ _ => rfl⟩

theorem warmedTo_succ {d e : Dev} {n : Nat} (h : d.WarmedTo n e) (hn : n < d.scale.count.toNat) : d.WarmedTo (n + 1) (e.warmEntry n) := by
  obtain ⟨haccess, hready, hentries, houtside⟩ := h
  obtain ⟨hturn, hready', hsame, hother, hbytes⟩ := warmEntry_ready hready (i := n) (by rwa [haccess.scale])
  refine ⟨haccess.trans hturn, hready', fun i => ?_, fun a ha => ?_⟩
  · by_cases hi : i = n
    · subst hi
      rw [hsame, hentries]
      simp
    · rw [hother i hi, hentries]
      simp only [show i < n + 1 ↔ i < n by omega]
  · simp only [haccess.entryAddr] at hbytes
    simp only [Dev.entryAddr] at hbytes houtside ha
    rw [hbytes a (by omega), houtside a (by omega)]

theorem warmedTo_foldl {d : Dev} (hd : d.TableReady) {n : Nat} (hn : n ≤ d.scale.count.toNat) :
    d.WarmedTo n ((List.range n).foldl Dev.warmEntry d) := by
  induction n with
  | zero => exact warmedTo_zero hd
  | succ n ih =>
    rw [List.range_succ, List.foldl_append, List.foldl_cons, List.foldl_nil]
    exact warmedTo_succ (ih (Nat.le_of_succ_le hn)) hn

/-- FORCE_WARM on a table that can be read: every valid entry enters warm-up and the flag stays clear. -/
theorem forceWarm_ready {d : Dev} (hd : d.TableReady) : d.forceWarm.scale.status = wclr d.scale.status 0x10 ∧
    (∀ i, i < d.scale.count.toNat → d.forceWarm.entry i = if (d.entry i).valid = 1 then (d.entry i).enterWarm else d.entry i) ∧
    ∀ a, a < d.entryAddr 0 ∨ d.entryAddr d.scale.count.toNat ≤ a → d.forceWarm.mem.read a = d.mem.read a := by
  obtain ⟨haccess, -, hentries, houtside⟩ :=
    warmedTo_foldl (hd.withScaleStatus (wclr d.scale.status 0x10)) (Nat.le_refl d.scale.count.toNat)
  simp only [withScaleStatus_entry, withScaleStatus_entryAddr, withScaleStatus_mem] at hentries houtside
  rw [forceWarm_eq]
  refine ⟨by rw [haccess.scale, withScaleStatus_status], fun i hi => ?_, houtside⟩
  rw [hentries]
  simp only [hi, true_and]

/-! ## Bits of ST_STATUS (R169) -/

theorem wbit_wclr {m i : Nat} (hm : m.testBit i = true) (w : Word32) : wbit (wclr w m) i = false := by
  rw [wbit, wclr, BitVec.getLsbD_and, BitVec.getLsbD_not, BitVec.getLsbD_ofNat, hm]
  by_cases hi : i < 32 <;> simp [hi]

theorem wbit_wset (w : Word32) (m i : Nat) : wbit (wset w m) i = (wbit w i || (decide (i < 32) && m.testBit i)) := by
  rw [wbit, wset, BitVec.getLsbD_or, BitVec.getLsbD_ofNat, wbit]

/-! ## ST_SNAPSHOT (R168, R573) -/

/-- What ST_SNAPSHOT makes of the entries' bytes once they are read: it writes their CRC, or sets its failure bit (R168, R573). -/
def Dev.snapshotFrom : Option (List Byte) × Dev → Dev
  | (none, d) => d.withScaleStatus (wset d.scale.status 8)
  | (some bs, d) =>
    let d := d.write (d.scaleBase + 12) (leBytes 4 (crc32c bs))
    d.withScaleStatus (wset d.scale.status 4)

/-- ST_SNAPSHOT of a table in job memory clears its two bits and reads the entries. -/
theorem snapshotScale_eq {d e : Dev} (hinside : d.tableIn = true) (he : d.withScaleStatus (wclr d.scale.status 0xC) = e) :
    d.snapshotScale = Dev.snapshotFrom (e.readFor reqFirmware (e.entryAddr 0) (64 * e.scale.count.toNat)) := by
  have hin : inJobMem d.grade d.scaleBase (32 + 64 * d.scale.count.toNat) = true := hinside
  rw [Dev.withScaleStatus] at he
  unfold Dev.snapshotScale
  refine (if_neg (ne_true_of_eq_false (congrArg Bool.not hin))).trans ?_
  rw [he]
  rcases e.readFor reqFirmware (e.entryAddr 0) (64 * e.scale.count.toNat) with ⟨_ | bs, f⟩ <;> rfl

/-- ST_SNAPSHOT of a table that can be read writes the CRC over its entries into the header, and sets SNAPSHOT_DONE alone. -/
theorem snapshotScale_ready {d : Dev} (hd : d.TableReady) : d.snapshotScale.scale.status = wset (wclr d.scale.status 0xC) 4 ∧
    d.snapshotScale.mem =
      d.mem.writes (d.scaleBase + 12) (leBytes 4 (crc32c (d.peek (d.entryAddr 0) (64 * d.scale.count.toNat)))) := by
  obtain ⟨e, hread, hde⟩ := readFor_ready (hd.withScaleStatus (wclr d.scale.status 0xC)) reqFirmware _ _
  rw [snapshotScale_eq hd.inside rfl, hread]
  simp only [Dev.snapshotFrom, withScaleStatus_status, Dev.write_scale, withScaleStatus_mem, Dev.write_mem, withScaleStatus_peek, hde.mem,
    hde.accesses.scale, hde.accesses.scaleBase, withScaleStatus_entryAddr, withScaleStatus_scaleBase, true_and]
  rfl

/-! ## FORCE_WARM and ST_SNAPSHOT from the host, the device awake (R465, R524) -/

theorem onBar_awakeUp {s : State} (h : s.dev.awakeUp = true) (f : Dev → Dev) : s.onBar f = .next (s.dev! (f s.dev)) := by
  obtain ⟨hserved, hawake⟩ := Bool.and_eq_true_iff.1 h
  rw [State.onBar_eq, if_pos hserved, Dev.awake, if_pos (beq_iff_eq.1 hawake)]

theorem exec_forceWarm {s : State} (h : s.dev.awakeUp = true) : exec .forceWarm s = .next (s.dev! s.dev.forceWarm) := onBar_awakeUp h _

theorem exec_stSnapshot {s : State} (h : s.dev.awakeUp = true) : exec .stSnapshot s = .next (s.dev! s.dev.snapshotScale) := onBar_awakeUp h _

/-! ## O19 -/

/-- A first reference of ITER + 1 (R157): what each entry of the table is after it. -/
theorem touchEntry_seal_entries {d : Dev} (hd : d.TableReady) (req : Nat) (ref : ScaleRef) (hidx : ref.idx < d.scale.count.toNat)
    (hvalid : (d.entry ref.idx).valid = 1) (hnext : ref.iter % 65536 = ((d.entry ref.idx).iter.toNat + 1) % 65536)
    (hA : (d.entry ref.idx).srcA.toNat ≠ ref.idx) (hB : (d.entry ref.idx).srcB.toNat ≠ ref.idx) :
    ∃ d', d.touchEntry req ref = (.ok ((d.entry ref.idx).seal, .cur), d') ∧ d'.entry ref.idx = (d.entry ref.idx).seal ∧
      (∀ k, k ≠ ref.idx → k ∉ (d.entry ref.idx).sources d.scale.count.toNat → d'.entry k = d.entry k) ∧
      (∀ k is, k ≠ ref.idx → (d.entry ref.idx).sources d.scale.count.toNat = k :: is → k ∉ is → k < d.scale.count.toNat →
        (d.entry k).valid = 1 → d'.entry k = (d.entry k).narrow) := by
  have hself : ref.idx ∉ (d.entry ref.idx).sources d.scale.count.toNat := fun hmem =>
    (mem_sources hmem).1.elim (fun h => hA h.symm) (fun h => hB h.symm)
  obtain ⟨g, hdg, htouch⟩ := touchEntry_seals hd hidx hvalid hnext hself req
  have hg := hd.readsTo hdg
  have hcount : g.scale.count = d.scale.count := by rw [hdg.accesses.scale]
  refine ⟨_, htouch, ?_, fun k hk hout => ?_, fun k is hk hsources hout hkcount hkvalid => ?_⟩
  · rw [entry_sealed_same hg (by rwa [hcount]) hself, entry_readsTo hdg]
  · rw [entry_sealed_notMem hg hk hout, entry_readsTo hdg]
  · rw [hsources, entry_sealed_head hg hk (by rwa [hcount]) (by rwa [entry_readsTo hdg]) hout, entry_readsTo hdg]

/-- Settles O19: a seal narrows its sources and seals its entry, each in its own 64 bytes; FORCE_WARM by induction on the entries; ST_SNAPSHOT as
one write. -/
theorem scaleTablesSealWarmSnapshot : Obligations.ScaleTablesSealWarmSnapshot := by
  unfold Obligations.ScaleTablesSealWarmSnapshot
  refine ⟨?_, fun s hawake hunarmed hwhole hwf hinside => ?_⟩
  · intro d req ref hwf hunarmed hwhole hinside hidx e hvalid hnext hA hB
    obtain ⟨d', htouch, hsealed, hframe, hnarrowed⟩ :=
      touchEntry_seal_entries ⟨hunarmed, hwhole, hwf, hinside⟩ req ref hidx hvalid hnext hA hB
    obtain ⟨hpamax, hpovf, hpretry, hcamax, hcovf, hcretry, hscale, hwarm, hiter, hspan⟩ := seal_moves e
    refine ⟨e.seal, d', htouch, hsealed, hist_seal_zero e, fun k => hist_seal_succ e, hpamax, hpovf, hpretry, hcamax, hcovf, hcretry, hscale,
      hwarm, hiter, hspan, ?_, fun k _ hk hout => hframe k hk fun hmem => ?_, fun k hk hsome hother hcount hkvalid hretry => ?_⟩
    · rw [seal_scale, BitVec.toNat_ofNat]
    · obtain ⟨hsource, hretry⟩ := mem_sources hmem
      exact hout.elim (fun ⟨hneA, hneB⟩ => hsource.elim hneA hneB) hretry
    · subst hk
      obtain ⟨is, hsources, hrest⟩ := sources_eq_cons hretry hsome hcount hother
      exact hnarrowed _ is hA hsources hrest hcount hkvalid
  · have hd : s.dev.TableReady := ⟨hunarmed, hwhole, hwf, hinside⟩
    refine ⟨⟨_, exec_forceWarm hawake, State.dev!_pending .., State.dev!_toll .., ?_⟩,
      ⟨_, exec_stSnapshot hawake, State.dev!_pending .., State.dev!_toll .., ?_⟩⟩
    · obtain ⟨hstatus, hentries, houtside⟩ := forceWarm_ready hd
      rw [State.dev!_dev, hstatus]
      exact ⟨wbit_wclr (by decide) _, hentries, houtside⟩
    · obtain ⟨hstatus, hmem⟩ := snapshotScale_ready hd
      rw [State.dev!_dev, hstatus, Dev.peek, hmem]
      generalize crc32c _ = crc
      have hlen := length_leBytes 4 crc
      refine ⟨?_, ?_, ?_, fun a ha => Memory.read_writes_outside hwf _ (by omega)⟩
      · rw [wbit_wset]
        exact Bool.or_true _
      · rw [wbit_wset, wbit_wclr (by decide)]
        decide
      · have hread := Memory.reads_writes hwf (s.dev.scaleBase + 12) (leBytes 4 crc)
        rwa [hlen] at hread

end Sys2Proof.Machine
end

section
/-! Admission, grants and kept rows (R191 to R194, R217 to R220): the counts of an expert never pass what it was given. -/

namespace Sys2Proof.Machine

open Sys2Proof

/-! ## Shares (R192, R217) -/

/-- The positions below the remainder hold one row more than the quotient. -/
theorem sum_range_quota (cap n k : Nat) :
    ((List.range k).map (quota cap n)).sum = k * (cap / max 1 n) + min k (cap % max 1 n) := by
  induction k with
  | zero => simp
  | succ k ih =>
    rw [List.range_succ, List.map_append, List.sum_append, ih, Nat.succ_mul]
    simp only [List.map_cons, List.map_nil, List.sum_cons, List.sum_nil, quota]
    split <;> omega

/-- R192: under QUOTA the shares of an expert add up to its capacity. -/
theorem sum_quota (cap : Nat) {n : Nat} (hn : 1 ≤ n) : ((List.range n).map (quota cap n)).sum = cap := by
  have hmod : cap % n < n := Nat.mod_lt _ hn
  rw [sum_range_quota, Nat.max_eq_right hn, Nat.min_eq_right hmod.le, Nat.div_add_mod]

theorem grantFold_cons (cap want : Nat) (wants : List Nat) (base : Nat) :
    grantFold cap (want :: wants) base = (min want (cap - base), base) :: grantFold cap wants (base + min want (cap - base)) := rfl

theorem length_grantFold (cap : Nat) (wants : List Nat) (base : Nat) : (grantFold cap wants base).length = wants.length := by
  induction wants generalizing base with
  | nil => rfl
  | cons want wants ih => simp [grantFold_cons, ih]

/-- What is granted above a base: all that is asked, or the room that is left. -/
theorem sum_grantFold (cap : Nat) (wants : List Nat) (base : Nat) :
    ((grantFold cap wants base).map (·.1)).sum = min (cap - base) wants.sum := by
  induction wants generalizing base with
  | nil => simp [grantFold]
  | cons want wants ih =>
    rw [grantFold_cons, List.map_cons, List.sum_cons, List.sum_cons, ih]
    omega

/-- R217: each grant starts where those before it end, is no more than was asked, and falls short only where the capacity ends. -/
theorem grantFold_getD {cap : Nat} (wants : List Nat) {base : Nat} (hbase : base ≤ cap) {i : Nat} (hi : i < wants.length) :
    let g := grantFold cap wants base
    (g.getD i (0, 0)).2 = base + ((g.take i).map (·.1)).sum ∧ (g.getD i (0, 0)).1 ≤ wants.getD i 0 ∧
      ((g.getD i (0, 0)).1 < wants.getD i 0 → (g.getD i (0, 0)).2 + (g.getD i (0, 0)).1 = cap) := by
  induction wants generalizing base i with
  | nil => exact absurd hi (Nat.not_lt_zero i)
  | cons want wants ih =>
    rw [grantFold_cons]
    cases i with
    | zero =>
      simp only [List.getD_cons_zero, List.take_zero, List.map_nil, List.sum_nil]
      omega
    | succ i =>
      obtain ⟨hstart, hwithin, hshort⟩ := ih (base := base + min want (cap - base)) (by omega) (Nat.lt_of_succ_lt_succ hi)
      simp only [List.getD_cons_succ, List.take_succ_cons, List.map_cons, List.sum_cons]
      exact ⟨by omega, hwithin, hshort⟩

/-! ## Admission in rank order (R191, R193) -/

/-- How many of the choices an expert has admitted. -/
def admittedTo (e : Nat) (cs : List Choice) : Nat := (cs.filter fun c => c.expert == e && !c.dropped).length

theorem admittedTo_cons (e : Nat) (c : Choice) (cs : List Choice) :
    admittedTo e (c :: cs) = (if c.expert = e ∧ c.dropped = false then 1 else 0) + admittedTo e cs := by
  by_cases h : c.expert = e ∧ c.dropped = false
  · simp [admittedTo, h]; omega
  · have hout : (c.expert == e && !c.dropped) = false := by simpa using h
    simp [admittedTo, hout, h]

/-- The experts' counts after a choice. -/
def countsAfter (counts : List Nat) (c : Choice) (fits : Bool) : List Nat := if fits then counts.modify c.expert (· + 1) else counts

/-- The front choice is admitted exactly when its expert has room; the counts that the others find have grown by it. -/
theorem admitChoices_cons (room : Nat → Nat → Bool) (counts : List Nat) (c : Choice) (cs : List Choice) :
    let fits := room c.expert (counts.getD c.expert 0)
    let r := admitChoices room (countsAfter counts c fits) cs
    admitChoices room counts (c :: cs) = (r.1, { c with dropped := !fits } :: r.2) := by
  cases hfits : room c.expert (counts.getD c.expert 0) <;> simp [admitChoices, countsAfter, -List.getD_eq_getElem?_getD, hfits]

/-- An admitted choice raises the count of its own expert and no other. -/
theorem getD_countsAfter {counts : List Nat} {c : Choice} (hc : c.expert < counts.length) (fits : Bool) (e : Nat) :
    (countsAfter counts c fits).getD e 0 = counts.getD e 0 + if c.expert = e ∧ (!fits) = false then 1 else 0 := by
  cases fits
  · simp [countsAfter]
  · by_cases he : c.expert = e
    · subst he; simp [countsAfter, hc]
    · simp [countsAfter, he]

theorem length_countsAfter (counts : List Nat) (c : Choice) (fits : Bool) :
    (countsAfter counts c fits).length = counts.length := by
  cases fits <;> simp [countsAfter]

theorem map_admitChoices (room : Nat → Nat → Bool) (counts : List Nat) (cs : List Choice) :
    (admitChoices room counts cs).2.map (fun c => (c.expert, c.raw)) = cs.map fun c => (c.expert, c.raw) := by
  induction cs generalizing counts with
  | nil => rfl
  | cons c cs ih => simp only [admitChoices_cons, List.map_cons, ih]

/-- R191: the experts' counts grow by the choices admitted. -/
theorem counts_admitChoices (room : Nat → Nat → Bool) {counts : List Nat} {cs : List Choice} (hcs : ∀ c ∈ cs, c.expert < counts.length)
    (e : Nat) :
    (admitChoices room counts cs).1.getD e 0 = counts.getD e 0 + admittedTo e (admitChoices room counts cs).2 := by
  induction cs generalizing counts with
  | nil => rfl
  | cons c cs ih =>
    obtain ⟨hc, hcs⟩ := List.forall_mem_cons.1 hcs
    rw [admitChoices_cons]
    dsimp only
    rw [admittedTo_cons, ih (by rwa [length_countsAfter]), getD_countsAfter hc]
    exact Nat.add_assoc ..

/-- R191, R193: a choice is admitted exactly when its own expert has room after the admitted choices before it. -/
theorem dropped_admitChoices (room : Nat → Nat → Bool) {counts : List Nat} {cs : List Choice} (hcs : ∀ c ∈ cs, c.expert < counts.length)
    (b : Choice) {i : Nat} (hi : i < cs.length) :
    let r := admitChoices room counts cs
    (r.2.getD i b).dropped = !room (cs.getD i b).expert (counts.getD (cs.getD i b).expert 0 + admittedTo (cs.getD i b).expert (r.2.take i)) := by
  induction cs generalizing counts i with
  | nil => exact absurd hi (Nat.not_lt_zero i)
  | cons c cs ih =>
    obtain ⟨hc, hcs⟩ := List.forall_mem_cons.1 hcs
    rw [admitChoices_cons]
    dsimp only
    cases i with
    | zero => rfl
    | succ i =>
      simp only [List.getD_cons_succ, List.take_succ_cons, admittedTo_cons]
      rw [ih (by rwa [length_countsAfter]) (Nat.lt_of_succ_lt_succ hi), getD_countsAfter hc, Nat.add_assoc]

/-- Settles O20: shares and grants by induction on the sources, admission by induction on the choices, each of which moves one count. -/
theorem admissionAndShares : Obligations.AdmissionAndShares := by
  unfold Obligations.AdmissionAndShares
  refine ⟨⟨fun cap n hn => sum_quota cap hn, fun cap wants => ⟨length_grantFold cap wants 0, sum_grantFold cap wants 0, fun i hi => ?_⟩⟩,
    fun room counts cs hcs => ⟨map_admitChoices room counts cs, fun i hi => dropped_admitChoices room hcs _ hi, counts_admitChoices room hcs⟩⟩
  simpa only [Nat.zero_add] using grantFold_getD wants (Nat.zero_le cap) hi

/-! ## Rows kept by a dispatch phase (R194, R219, R220) -/

/-- The rows that a phase holds of a source for a local expert. -/
def PhaseSt.held (p : PhaseSt) (e pos : Nat) : List RowSt := p.rows.filter fun y => y.pos == pos && y.key == e

/-- A phase holds of each source and expert at most its share, under the indexes 0, 1, …, and no tag twice. -/
structure PhaseSt.WithinShare (p : PhaseSt) (share : Nat → Nat → Nat) : Prop where
  share : ∀ e pos, (p.held e pos).length ≤ share e pos
  tags : (p.rows.map (·.tag)).Nodup
  indexes : ∀ e pos, (p.held e pos).map (·.j) = List.range (p.held e pos).length

theorem PhaseSt.WithinShare.of_rows_eq {p q : PhaseSt} {share : Nat → Nat → Nat} (h : p.WithinShare share) (hrows : q.rows = p.rows) :
    q.WithinShare share := by
  have hheld : q.held = p.held := by unfold PhaseSt.held; rw [hrows]
  exact ⟨hheld ▸ h.share, hrows ▸ h.tags, hheld ▸ h.indexes⟩

/-- What a phase holds once one row more is kept. -/
theorem PhaseSt.held_append (p : PhaseSt) (x : RowSt) (e pos : Nat) :
    ({ p with rows := p.rows ++ [x] } : PhaseSt).held e pos = p.held e pos ++ if x.pos = pos ∧ x.key = e then [x] else [] := by
  unfold PhaseSt.held
  rw [List.filter_append]
  by_cases h : x.pos = pos ∧ x.key = e
  · simp [h]
  · have hout : (x.pos == pos && x.key == e) = false := by simpa using h
    simp [hout, h]

/-- A row with a new tag is kept at the next index of its source and expert while the share has room. -/
theorem PhaseSt.WithinShare.append {p : PhaseSt} {share : Nat → Nat → Nat} (h : p.WithinShare share) {x : RowSt}
    (htag : ∀ y ∈ p.rows, y.tag ≠ x.tag) (hindex : x.j = (p.held x.key x.pos).length) (hroom : x.j < share x.key x.pos) :
    ({ p with rows := p.rows ++ [x] } : PhaseSt).WithinShare share where
  share e pos := by
    rw [PhaseSt.held_append]
    split
    · obtain ⟨rfl, rfl⟩ := ‹_ ∧ _›
      rw [List.length_append, List.length_singleton]
      omega
    · rw [List.append_nil]
      exact h.share e pos
  tags := by
    rw [List.map_append, List.nodup_append]
    refine ⟨h.tags, List.nodup_singleton _, fun t ht u hu => ?_⟩
    obtain ⟨y, hy, rfl⟩ := List.mem_map.1 ht
    rw [List.mem_singleton.1 hu]
    exact htag y hy
  indexes e pos := by
    rw [PhaseSt.held_append]
    split
    · obtain ⟨rfl, rfl⟩ := ‹_ ∧ _›
      rw [List.map_append, List.length_append, List.length_singleton, List.range_succ, h.indexes, List.map_singleton, hindex]
    · rw [List.append_nil]
      exact h.indexes e pos

theorem PhaseSt.mapMember_rows (p : PhaseSt) (pos : Nat) (f : MemberSt → MemberSt) : (p.mapMember pos f).rows = p.rows := rfl

/-- What one row does to the rows kept (R219, R220): nothing, or it joins them under a new tag, at the next index of its source and expert. -/
theorem keepDispatch_rows (d : Dev) {r : Round} (hbwd : r.bwd = false) (p : PhaseSt) (res : Option Nat) (x : RowSt) :
    (d.keepDispatch r p res x).1.rows = p.rows ∨
    ∃ e, (d.keepDispatch r p res x).1.rows = p.rows ++ [{ x with key := e, j := (p.held e x.pos).length }] ∧
      (∀ y ∈ p.rows, y.tag ≠ x.tag) ∧ (p.held e x.pos).length < d.shareOf r res e x.pos := by
  unfold Dev.keepDispatch
  split
  · exact .inl rfl
  · next e _ =>
    dsimp only
    split
    · exact .inl rfl
    · next hnew =>
      split
      · exact .inl rfl
      · next hroom =>
        simp only [PhaseSt.mapMember_rows, Bool.or_eq_true, not_or, List.any_eq_true, beq_iff_eq, not_exists, not_and] at hnew
        simp only [hbwd, Bool.not_false, Bool.true_and, decide_eq_true_eq, ge_iff_le, not_le] at hroom
        exact .inr ⟨e, rfl, hnew.1, hroom⟩

theorem keepDispatch_withinShare (d : Dev) {r : Round} (hbwd : r.bwd = false) {p : PhaseSt} (res : Option Nat) (x : RowSt)
    (h : p.WithinShare (d.shareOf r res)) :
    (d.keepDispatch r p res x).1.WithinShare (d.shareOf r res) ∧ p.rows <+: (d.keepDispatch r p res x).1.rows := by
  obtain hsame | ⟨e, hkept, htag, hroom⟩ := keepDispatch_rows d hbwd p res x
  · exact ⟨h.of_rows_eq hsame, hsame ▸ List.prefix_rfl⟩
  · exact ⟨(h.append (x := { x with key := e, j := (p.held e x.pos).length }) htag rfl hroom).of_rows_eq hkept, hkept ▸ List.prefix_append ..⟩

/-- The rows of a message enter one after another, so each keeps the bound of its source and expert. -/
theorem keepRows_withinShare (d : Dev) {r : Round} (hbwd : r.bwd = false) (res : Option Nat) (xs : List RowSt) {p : PhaseSt}
    (h : p.WithinShare (d.shareOf r res)) :
    (d.keepRows r false res p xs).1.WithinShare (d.shareOf r res) ∧ p.rows <+: (d.keepRows r false res p xs).1.rows := by
  induction xs generalizing p with
  | nil => exact ⟨h, List.prefix_rfl⟩
  | cons x xs ih =>
    obtain ⟨hkept, hprefix⟩ := keepDispatch_withinShare d hbwd res x h
    obtain ⟨hrest, hprefix'⟩ := ih hkept
    exact ⟨hrest, hprefix.trans hprefix'⟩

/-- Settles O25: a row joins those kept only under a new tag and below the share, by induction on the rows of the message. -/
theorem keptRowsWithinShare : Obligations.KeptRowsWithinShare := by
  unfold Obligations.KeptRowsWithinShare
  intro d r res p xs hbwd held ok ⟨hshare, htags, hindexes⟩
  obtain ⟨hkept, hprefix⟩ := keepRows_withinShare d hbwd res xs ⟨hshare, htags, hindexes⟩
  exact ⟨⟨hkept.share, hkept.tags, hkept.indexes⟩, hprefix⟩

end Sys2Proof.Machine
end

section
/-! The tables of a GATE (R185, R208): its routing table and the members of its exchange group, read from device memory with no slot armed. Of the
device's surroundings only the stream caches and counts of work change. -/

namespace Sys2Proof.Machine

open Sys2Proof

/-! ## What a GATE may change before it pops -/

/-- A device after reads of its tables and a step of a GATE: only the stream caches, work counts, HBM use, the Bazaar and the cores may differ, so
that queues, buffers, addresses and memory are as they were. -/
def Dev.gateTo (d e : Dev) : Prop :=
  ∃ cached work ct bz cores, e = { d with depot := { d.depot with cached := cached }, work := work, ct := ct, bz := bz, cores := cores }

/-- A device after reads of its tables: the Bazaar and the cores are as they were too. -/
def Dev.cachesTo (d e : Dev) : Prop := ∃ cached work ct, e = { d with depot := { d.depot with cached := cached }, work := work, ct := ct }

theorem Dev.cachesTo.refl (d : Dev) : d.cachesTo d := ⟨_, _, _, rfl⟩

theorem Dev.cachesTo.gate {d e : Dev} (h : d.cachesTo e) : d.gateTo e := by
  obtain ⟨_, _, _, rfl⟩ := h
  exact ⟨_, _, _, _, _, rfl⟩

theorem Dev.gateTo.trans {d e f : Dev} (hde : d.gateTo e) (hef : e.gateTo f) : d.gateTo f := by
  obtain ⟨_, _, _, _, _, rfl⟩ := hde
  obtain ⟨_, _, _, _, _, rfl⟩ := hef
  exact ⟨_, _, _, _, _, rfl⟩

theorem Dev.gateTo.openRound (d : Dev) (r : Round) : d.gateTo (d.openRound r) := ⟨_, _, _, _, _, rfl⟩

section
variable {d e : Dev} (h : d.cachesTo e)
include h

theorem Dev.cachesTo.bz : e.bz = d.bz := by obtain ⟨_, _, _, rfl⟩ := h; rfl
theorem Dev.cachesTo.cores : e.cores = d.cores := by obtain ⟨_, _, _, rfl⟩ := h; rfl
theorem Dev.cachesTo.core (c : Nat) : e.core c = d.core c := by obtain ⟨_, _, _, rfl⟩ := h; rfl
theorem Dev.cachesTo.round? (bwd : Bool) (layer mb : Nat) : e.round? bwd layer mb = d.round? bwd layer mb := by
  obtain ⟨_, _, _, rfl⟩ := h; rfl
theorem Dev.cachesTo.bzRoom (bwd : Bool) (need : Nat) : e.bzRoom bwd need = d.bzRoom bwd need := by obtain ⟨_, _, _, rfl⟩ := h; rfl
theorem Dev.cachesTo.routeEntry (w : Nat) : e.routeEntry w = d.routeEntry w := by obtain ⟨_, _, _, rfl⟩ := h; rfl
theorem Dev.cachesTo.engAlone {c : Nat} {u : EngUnit} {q : QCmd} (ha : engAlone d c u q) : engAlone e c u q := by
  obtain ⟨_, _, _, rfl⟩ := h; exact ha

end

section
variable {d e : Dev} (h : d.gateTo e)
include h

theorem Dev.gateTo.mem : e.mem = d.mem := by obtain ⟨_, _, _, _, _, rfl⟩ := h; rfl
theorem Dev.gateTo.er : e.er = d.er := by obtain ⟨_, _, _, _, _, rfl⟩ := h; rfl
theorem Dev.gateTo.queues : e.queues = d.queues := by obtain ⟨_, _, _, _, _, rfl⟩ := h; rfl
theorem Dev.gateTo.unarmed (hd : d.unarmed = true) : e.unarmed = true := by rw [Dev.unarmed, h.er]; exact hd
theorem Dev.gateTo.nearQueues (hd : d.nearQueues) : e.nearQueues := by obtain ⟨_, _, _, _, _, rfl⟩ := h; exact hd
theorem Dev.gateTo.poisonedIn (a n : Nat) : e.poisonedIn a n = d.poisonedIn a n := by obtain ⟨_, _, _, _, _, rfl⟩ := h; rfl
theorem Dev.gateTo.head (c : Nat) (u : EngUnit) (n : Nat) : (e.headIdx c u n).bind e.q? = (d.headIdx c u n).bind d.q? := by
  obtain ⟨_, _, _, _, _, rfl⟩ := h; rfl
theorem Dev.gateTo.shortPops (c : Nat) (u : EngUnit) (used : List (Nat × Nat)) (ps : List (Nat × Nat × Bool × Nat)) :
    e.shortPops c u used ps = d.shortPops c u used ps := by
  induction ps generalizing used with
  | nil => rfl
  | cons p ps ih => simp only [Dev.shortPops, h.head, ih]
theorem Dev.gateTo.popShort (c : Nat) (u : EngUnit) (ps : List (Nat × Nat × Bool × Nat)) : e.popShort c u ps = d.popShort c u ps := by
  rw [Dev.popShort, h.shortPops, Dev.popShort]
theorem Dev.gateTo.gateTilesAt {c pos skip : Nat} {src : TileSrc} {is : List Nat} {ts : List (List Byte)}
    (ht : d.gateTilesAt c pos src skip is ts) : e.gateTilesAt c pos src skip is ts := by
  obtain ⟨_, _, _, _, _, rfl⟩ := h; exact ht

end

/-! ## Reads of tables (R23, R339) -/

section
variable {d : Dev} (hunarmed : d.unarmed = true) {a n : Nat} (hwhole : d.poisonedIn a n = none)
include hunarmed hwhole

/-- A read of whole memory counts its bytes and delivers them. -/
theorem readFor_counts (req : Nat) : ∃ work ct, d.readFor req a n = (some (d.peek a n), { d with work := work, ct := ct }) := by
  unfold Dev.readFor
  simp only [hwhole, mimic_unarmed d _ hunarmed, Bool.false_eq_true, if_false]
  split <;> exact ⟨_, _, rfl⟩

/-- Through a stream cache only what the cache holds changes besides. -/
theorem readStream_caches (die req : Nat) : ∃ e, d.readStream die req a n = (some (d.peek a n), e) ∧ d.cachesTo e := by
  obtain ⟨work, ct, hread⟩ := readFor_counts hunarmed hwhole req
  unfold Dev.readStream
  simp only [hread, mimic_unarmed d _ hunarmed]
  split
  · exact ⟨_, rfl, _, _, _, rfl⟩
  · split
    · exact ⟨_, rfl, _, _, _, rfl⟩
    · split <;> exact ⟨_, rfl, _, _, _, rfl⟩

theorem readUnit_whole (r : Reader) : ∃ e, d.readUnit r a n = (some (d.peek a n), e) ∧ d.cachesTo e := by
  have hcross (die : Nat) (ps : List (Nat × Nat)) : d.crossTo die ps = (true, d) := by
    unfold Dev.crossTo Dev.cross
    dsimp only
    split
    · rfl
    · exact bridge_unarmed d die hunarmed
  unfold Dev.readUnit
  simp only [hcross, Dev.readCached]
  split
  · exact readStream_caches hunarmed hwhole _ _
  · obtain ⟨work, ct, hread⟩ := readFor_counts hunarmed hwhole (d.readerReq r)
    exact ⟨_, hread, _, _, _, rfl⟩

end

/-- Part of the bytes read from an address are those read from within. -/
theorem slice_peek (d : Dev) (a : Nat) {n o k : Nat} (hpart : o + k ≤ n) : slice (d.peek a n) o k = d.peek (a + o) k := by
  have hlen : (((d.peek a n).drop o).take k).length = k := by
    simp only [Dev.peek, Memory.reads, List.length_take, List.length_drop, List.length_map, List.length_range]
    omega
  have hpeek : (d.peek (a + o) k).length = k := by simp [Dev.peek, Memory.reads]
  rw [slice, hlen, Nat.sub_self, List.replicate_zero, List.append_nil]
  refine List.ext_getElem (hlen.trans hpeek.symm) fun i _ _ => ?_
  simp only [Dev.peek, Memory.reads, List.getElem_take, List.getElem_drop, List.getElem_map, List.getElem_range, Nat.add_assoc]

/-- A fold that adds what each element of a list gives, none of which fails. -/
theorem foldl_bind_append {α β ε : Type} {step : β → List α → Except ε (List α)} {out : β → List α} {l : List β}
    (hstep : ∀ x ∈ l, ∀ ys, step x ys = .ok (ys ++ out x)) (ys : List α) :
    l.foldl (fun (e : Except ε (List α)) x => e.bind (step x)) (.ok ys) = .ok (ys ++ l.flatMap out) := by
  induction l generalizing ys with
  | nil => simp
  | cons x l ih =>
    obtain ⟨hx, hl⟩ := List.forall_mem_cons.1 hstep
    rw [List.foldl_cons, show (Except.ok ys : Except ε (List α)).bind (step x) = .ok (ys ++ out x) from hx ys, ih hl, List.flatMap_cons,
      List.append_assoc]

/-- A routing table that can be read, each of its entries valid, is read whole (R185). -/
theorem readRoute_valid {d : Dev} (hunarmed : d.unarmed = true) {addr n : Nat} {route : List (Nat × Nat × Nat)}
    (hreadable : d.readable addr (8 * n) = true) (hlen : route.length = n)
    (hroute : ∀ i, i < n → d.routeEntry (leNat (d.peek (addr + 8 * i) 8)) = .ok (route.getD i (0, 0, 0))) (r : Reader) (pos : Nat) :
    ∃ e, d.readRoute r pos addr n = (.ok route, e) ∧ d.cachesTo e := by
  obtain ⟨hin, hwhole⟩ := Bool.and_eq_true_iff.1 hreadable
  obtain ⟨e, hread, hde⟩ := readUnit_whole hunarmed (Option.isNone_iff_eq_none.1 hwhole) r
  have hentry : ∀ i ∈ List.range n, e.routeEntry (fieldAt (d.peek addr (8 * n)) (8 * i) 8) = .ok (route.getD i (0, 0, 0)) := by
    intro i hi
    have hi := List.mem_range.1 hi
    rw [hde.routeEntry, fieldAt, slice_peek d addr (by omega), hroute i hi]
  have hall : (List.range n).flatMap (fun i => [route.getD i (0, 0, 0)]) = route := by
    rw [← List.map_eq_flatMap, ← hlen]
    exact (map_range_getD route (0, 0, 0) id).trans (List.map_id _)
  refine ⟨e, ?_, hde⟩
  simp only [Dev.readRoute, hin, hread, Bool.not_true, Bool.false_eq_true, if_false]
  rw [foldl_bind_append (out := fun i => [route.getD i (0, 0, 0)]) (fun i hi ys => by simp only [hentry i hi]), hall]
  rfl

/-- Under QUOTA the members are read where MEMBERS holds ranks of the job, and none are known otherwise (log entry 99). -/
theorem gateMembers_quota {d : Dev} (hunarmed : d.unarmed = true) (c : Nat) {g : GateArgs} (hquota : g.negotiated = false)
    (hwhole : d.poisonedIn g.members (2 * g.group) = none) : ∃ ms e, d.gateMembers c g = (.ok ms, e) ∧ d.cachesTo e := by
  obtain ⟨e, hread, hde⟩ := readUnit_whole hunarmed hwhole (.eng c .mx)
  unfold Dev.gateMembers Dev.readRanks
  cases hin : inJobMem d.grade g.members (2 * g.group) with
  | false => exact ⟨[], d, by simp [hquota, rBadOperand, rBusError], .refl d⟩
  | true =>
    simp only [hread, Bool.not_true, Bool.false_eq_true, if_false]
    split_ifs with hranks
    · exact ⟨_, e, rfl, hde⟩
    · exact ⟨[], e, by simp [hquota, badShape, rBadOperand, rBusError], hde⟩

end Sys2Proof.Machine
end

section
/-! The operands of a GATE (R48, R67, R179, R180): tiles of X and WG that are there are delivered, and their pairs enter the accumulation. -/

namespace Sys2Proof.Machine

open Sys2Proof

/-! ## Operand tiles of a GATE (R48, R67, R179) -/

/-- A tile that MX takes and that has a queue's or operand's format is good for it (R572). -/
theorem tileGood_of_tileFmt {accept : Fmt → Bool} {t : List Byte} {f : Fmt} (hgood : tileGood accept t = true) (hfmt : tileFmt t = f) :
    tileGood (fun g => g == f && accept g) t = true := by
  obtain ⟨hcrc, hhdr⟩ := tileGood_iff.1 hgood
  refine tileGood_iff.2 ⟨hcrc, ?_⟩
  unfold hdrKind at hhdr ⊢
  unfold tileFmt at hfmt
  cases hcode : fmtOf (tileHdr t).format.toNat with
  | none => simp [hcode] at hhdr
  | some g =>
    have hg : g = f := by simpa [hcode] using hfmt
    simpa [hcode, hg] using hhdr

/-- What a GATE needs of an operand once its tiles are there: spans that lie here, and a read of them that delivers the tiles, whatever was read
before. -/
def Dev.gateOperand (d : Dev) (c pos : Nat) (src : TileSrc) (skip : Nat) (is : List Nat) (ts : List (List Byte)) : Prop :=
  ∃ spans, d.gateSpans pos src is = .ok spans ∧ (∀ x ∈ spans, d.spanRemote x.2 = false) ∧
    ∀ e, d.readsTo e → ∃ f, e.gateRead c pos is.length src spans skip = (.ok (ts.map (asRead src)), f) ∧ e.readsTo f

theorem gateSpans_queue (d : Dev) (pos q : Nat) (keep tr : Bool) (is : List Nat) : d.gateSpans pos (.queue q keep tr) is = .ok [] := by
  unfold Dev.gateSpans
  rw [foldl_bind_append (out := fun _ => []) (fun i _ ys => by simp [Dev.gateTile, Except.bind])]
  simp

theorem map_turned (tr : Bool) (ts : List (List Byte)) : ts.map (turned tr) = if tr then ts.map transposeTile else ts := by
  cases tr
  · exact List.map_id _
  · rfl

theorem gateOperand_queue {d : Dev} (hd : d.Undisturbed) {c pos q skip : Nat} {keep tr : Bool} {is : List Nat} {ts : List (List Byte)}
    (ht : d.gateTilesAt c pos (.queue q keep tr) skip is ts) (hgood : ∀ t ∈ ts, tileGood mxTakes t = true) :
    d.gateOperand c pos (.queue q keep tr) skip is ts := by
  obtain ⟨x, hhead, -, rfl, hfmt⟩ := ht
  refine ⟨[], gateSpans_queue d pos q keep tr is, fun x hx => absurd hx List.not_mem_nil, fun e hde => ⟨e, ?_, .refl e⟩⟩
  have he := hde.accesses.undisturbed hd
  have hhead' : (e.headIdx c .mx q).bind e.q? = some x := by
    rw [hde.accesses.headIdx, ← hhead]
    exact congrArg _ (funext hde.accesses.q?)
  have hqueue : e.queueTiles c .mx ⟨.queue q keep tr, is.length, pos, mxTakes⟩ q skip = (.ok ((x.ring.drop skip).take is.length), e) := by
    simp only [Dev.queueTiles, hhead', sramRead_unarmed he]
    refine foldl_collect (fun t ht ts => ?_) []
    simp only [checkTile_good he (tileGood_of_tileFmt (hgood t ht) (hfmt t ht))]
  rw [show asRead (.queue q keep tr) = turned tr from rfl, map_turned]
  simp only [Dev.gateRead, Dev.operandTiles, hqueue]

theorem gateOperand_mem {d : Dev} (hd : d.Undisturbed) {c pos skip : Nat} {ref : MemRef} {stride : Option Nat} {f : Fmt} {tr : Bool} {is : List Nat}
    {ts : List (List Byte)} (ht : d.gateTilesAt c pos (.mem ref stride f tr) skip is ts) (hgood : ∀ t ∈ ts, tileGood mxTakes t = true) :
    d.gateOperand c pos (.mem ref stride f tr) skip is ts := by
  obtain ⟨pss, hspans, hlen, hclean, hts, hfmt⟩ := ht
  obtain rfl : ts = pss.map d.peekAll := hts
  obtain ⟨keys, hkeys⟩ : ∃ keys, keys = is.map fun i => 2 ^ 40 * pos + i := ⟨_, rfl⟩
  have hklen : pss.length = keys.length := by rw [hkeys, List.length_map, hlen]
  have hkeyed : keys.zip (pss.map Span.mem) = (keys.zip pss).map fun x => (x.1, .mem x.2) := List.zip_map_right ..
  rw [← hkeys, hkeyed] at hspans
  have hpieces : ∀ x ∈ keys.zip pss, x.2 ∈ pss := fun x hx => (List.of_mem_zip hx).2
  refine ⟨_, hspans, fun x hx => ?_, fun e hde => ?_⟩
  · obtain ⟨y, -, rfl⟩ := List.mem_map.1 hx
    rfl
  · obtain ⟨g, hread, heg⟩ := readTiles_good (hde.accesses.undisturbed hd) c .mx pos (xs := keys.zip pss)
      (accept := fun g => g == f && mxTakes g) (fun x hx => hde.clean (hclean _ (hpieces x hx))) fun x hx => by
        have hmem : d.peekAll x.2 ∈ pss.map d.peekAll := List.mem_map_of_mem (hpieces x hx)
        rw [hde.peekAll]
        exact tileGood_of_tileFmt (hgood _ hmem) (hfmt _ hmem)
    have htiles : (keys.zip pss).map (fun x => e.peekAll x.2) = pss.map d.peekAll := by
      conv_rhs => rw [← List.map_snd_zip hklen.le, List.map_map]
      exact List.map_congr_left fun x _ => hde.peekAll x.2
    rw [htiles] at hread
    refine ⟨g, ?_, heg⟩
    rw [show asRead (.mem ref stride f tr) = turned tr from rfl, map_turned]
    simp only [Dev.gateRead, Dev.operandTiles, hread]

/-- Tiles that are there and that MX takes are delivered, from a queue and from memory. -/
theorem gateOperand_good {d : Dev} (hd : d.Undisturbed) {c pos skip : Nat} {src : TileSrc} {is : List Nat} {ts : List (List Byte)}
    (ht : d.gateTilesAt c pos src skip is ts) (hgood : ∀ t ∈ ts, tileGood mxTakes t = true) : d.gateOperand c pos src skip is ts := by
  cases src with
  | queue => exact gateOperand_queue hd ht hgood
  | mem => exact gateOperand_mem hd ht hgood

/-! ## The first pairs of a GATE (R179, R180) -/

/-- What a source pops joins what earlier operands of the command take. -/
def usedWith (used : List (Nat × Nat)) (n : Nat) : TileSrc → List (Nat × Nat)
  | .queue q keep _ => if keep then used else (q, n) :: used
  | .mem .. => used

/-- The tiles of a queue that earlier operands of a command take. -/
def takenOf (used : List (Nat × Nat)) (q : Nat) : Nat := ((used.filter fun x => x.1 == q).map (·.2)).sum

/-- The tiles of WG's queue that X takes before it. -/
def gateSkip (n : Nat) : TileSrc → TileSrc → Nat
  | .queue qa false _, .queue qb _ _ => if qa = qb then n else 0
  | _, _ => 0

theorem takenOf_usedWith (n : Nat) (x : TileSrc) (q : Nat) (keep tr : Bool) : takenOf (usedWith [] n x) q = gateSkip n x (.queue q keep tr) := by
  cases x with
  | queue qa keepX trX =>
    cases keepX
    · by_cases h : qa = q <;> simp [usedWith, takenOf, gateSkip, h]
    · rfl
  | mem => rfl

/-- The pop of a source whose tiles are there lacks none. -/
theorem shortPops_srcPop {d : Dev} {c pos skip : Nat} {src : TileSrc} {is : List Nat} {ts : List (List Byte)}
    (ht : d.gateTilesAt c pos src skip is ts) (used : List (Nat × Nat)) (hused : ∀ q keep tr, src = .queue q keep tr → takenOf used q = skip)
    (ps : List (Nat × Nat × Bool × Nat)) :
    d.shortPops c .mx used (srcPop is.length pos src ++ ps) = d.shortPops c .mx (usedWith used is.length src) ps := by
  cases src with
  | queue q keep tr =>
    obtain ⟨x, hhead, hroom, -⟩ := ht
    have hfits : ((used.filter fun x => x.1 == q).map (·.2)).sum + is.length ≤ x.ring.length := by
      rw [← hused q keep tr rfl] at hroom
      exact hroom
    simp only [srcPop, List.cons_append, List.nil_append, Dev.shortPops, hhead, if_pos hfits, usedWith]
  | mem => rfl

theorem length_gateXIdx (g : GateArgs) (row : Nat) : (gateXIdx g row).length = gateKt g := by simp [gateXIdx]

theorem length_gateWIdx (g : GateArgs) (col : Nat) : (gateWIdx g col).length = gateKt g := by simp [gateWIdx]

/-- The pops of a GATE for its first pairs. -/
def gatePops (g : GateArgs) : List (Nat × Nat × Bool × Nat) := srcPop (gateKt g) 0 g.x ++ srcPop (gateKt g) 1 g.wg

theorem popShort_gatePops {d : Dev} {c row col : Nat} {g : GateArgs} {xs ws : List (List Byte)}
    (hxs : d.gateTilesAt c 0 g.x 0 (gateXIdx g row) xs)
    (hws : d.gateTilesAt c 1 g.wg (gateSkip (gateKt g) g.x g.wg) (gateWIdx g col) ws) : d.popShort c .mx (gatePops g) = none := by
  have hx := shortPops_srcPop hxs [] (fun _ _ _ _ => rfl) (srcPop (gateKt g) 1 g.wg)
  have hw := shortPops_srcPop hws (usedWith [] (gateKt g) g.x) (fun q keep tr h => by rw [h, takenOf_usedWith]) []
  rw [length_gateXIdx] at hx
  rw [length_gateWIdx, List.append_nil] at hw
  rw [Dev.popShort, gatePops, hx, hw]
  rfl

/-- A command at the head that has not run goes no further, and nothing else stands on its core. -/
theorem settleCore_unrun {d : Dev} {c : Nat} {q : QCmd} (hmx : (d.core c).queue .mx = [q]) (hstarted : q.started = true) (hran : q.ran = false)
    (hpipe : (d.core c).pipe = [])
    (hothers : ∀ v ∈ [EngUnit.mx, .vx, .ls], v ≠ .mx → (d.core c).queue v = []) : d.settleCore c = d := by
  have hstays : d.settleCmd c .mx = d := by
    simp [Dev.settleCmd, Dev.running, hmx, hstarted, hran]
  rw [Dev.settleCore, settleJob_empty hpipe, hstays, settleCmd_empty (hothers .vx (by decide) (by decide)),
    settleCmd_empty (hothers .ls (by decide) (by decide))]

/-- A core whose GATE has taken operand pairs, and keeps the tiles of X for its further column tiles. -/
def CoreSt.gateLoaded (ps : List (List Byte × List Byte)) (g : GateSt) (xs : List (List Byte)) (s : CoreSt) : CoreSt :=
  { s with acc := { s.acc with pairs := ps, closedAcc := true }, gate := some { g with x := xs } }

/-- A device whose core has a GATE that runs and has read no tile of its row tile yet. -/
structure Dev.gateReady (d : Dev) (c : Nat) (q : QCmd) (g : GateSt) : Prop where
  alone : engAlone d c .mx q
  near : d.nearQueues
  gate : (d.core c).gate = some g
  phase : g.phase = 1
  x : g.x = []
  rows : g.rowTile < gateRt g.args
  free : (d.core c).acc.closedAcc = false

section
variable {d : Dev} {c : Nat} {q : QCmd} {g : GateSt}

/-- The pairs enter the accumulation, the tiles are popped, and MX goes on no further. -/
theorem settle_gateLoaded {e : Dev} (h : d.gateReady c q g) (hde : d.readsTo e) (ps : List (List Byte × List Byte)) (xs : List (List Byte)) :
    let f := ((e.popAll c .mx (gatePops g.args)).setCore c (.gateLoaded ps g xs)).countMacs c ps
    f.settleCore c = f ∧ f.core c = (d.core c).gateLoaded ps g xs ∧ f.mem = d.mem ∧ f.er = d.er ∧ f.bz = d.bz := by
  intro f
  have hnear : e.nearQueues := by obtain ⟨_, _, _, rfl⟩ := hde; exact h.near
  have hrings := (popAll_near c .mx (gatePops g.args) hnear).rings
  obtain ⟨hqueue, hstarted, hran, -, -, -, -, -, hothers, hpipe, -, -, hlen, -⟩ := h.alone
  have hcore : f.core c = (d.core c).gateLoaded ps g xs := by
    have hlen : c < (e.popAll c .mx (gatePops g.args)).cores.length := by rw [hrings.cores, hde.accesses.cores]; exact hlen
    exact (core_setCore _ c _ hlen).trans (by rw [hrings.core, hde.accesses.core])
  have hstays : f.settleCore c = f :=
    settleCore_unrun (q := q) (by rw [hcore]; exact hqueue) hstarted hran (by rw [hcore]; exact hpipe) (by rw [hcore]; exact hothers)
  refine ⟨hstays, hcore, ?_, ?_, ?_⟩
  · exact (congrArg Dev.mem hrings.eq).trans hde.mem
  · exact (congrArg Dev.er hrings.eq).trans hde.accesses.er
  · exact (congrArg Dev.bz hrings.eq).trans (by obtain ⟨_, _, _, rfl⟩ := hde; rfl)

/-- With the tiles of its next output tile there and good, a GATE takes their pairs. -/
theorem gateGo_first (h : d.gateReady c q g) {xs ws : List (List Byte)} {ps : List (List Byte × List Byte)}
    (hxs : d.gateTilesAt c 0 g.args.x 0 (gateXIdx g.args g.rowTile) xs)
    (hws : d.gateTilesAt c 1 g.args.wg (gateSkip (gateKt g.args) g.args.x g.args.wg) (gateWIdx g.args g.colTile) ws)
    (hgood : ∀ t ∈ xs ++ ws, tileGood mxTakes t = true)
    (hpairs : gatePairs g.args g.rowTile g.colTile (xs.map (asRead g.args.x)) (ws.map (asRead g.args.wg)) = .ok ps) :
    (d.gateGo c).core c = (d.core c).gateLoaded ps g (xs.map (asRead g.args.x)) ∧ (d.gateGo c).mem = d.mem ∧ (d.gateGo c).er = d.er ∧
      (d.gateGo c).bz = d.bz := by
  obtain ⟨sx, hsx, hherex, hreadx⟩ := gateOperand_good h.alone.undisturbed hxs fun t ht => hgood t (List.mem_append_left _ ht)
  obtain ⟨sw, hsw, hherew, hreadw⟩ := gateOperand_good h.alone.undisturbed hws fun t ht => hgood t (List.mem_append_right _ ht)
  obtain ⟨e, hx, hde⟩ := hreadx d (.refl d)
  obtain ⟨f, hw, hef⟩ := hreadw e hde
  rw [length_gateXIdx] at hx
  rw [length_gateWIdx] at hw
  have hskip (k : Nat) (hk : k = gateSkip (gateKt g.args) g.args.x g.args.wg) :
      e.gateRead c 1 (gateKt g.args) g.args.wg sw k = (.ok (ws.map (asRead g.args.wg)), f) := hk ▸ hw
  have hruns : (decide (g.phase ≠ 1) || (d.core c).acc.closedAcc || decide (g.rowTile ≥ gateRt g.args)) = false := by
    simp [h.phase, h.free, h.rows]
  have hin : d.inputsIn (.eng c .mx) (sx ++ sw) = true := by
    refine List.all_eq_true.2 fun x hx => ?_
    rw [(List.mem_append.1 hx).elim (hherex x) (hherew x)]
    rfl
  have hpops := popShort_gatePops hxs hws
  rw [gatePops] at hpops
  obtain ⟨hsettle, hloaded⟩ := settle_gateLoaded h (hde.trans hef) ps (xs.map (asRead g.args.x))
  have hgo : d.gateGo c = ((f.popAll c .mx (gatePops g.args)).setCore c (.gateLoaded ps g (xs.map (asRead g.args.x)))).countMacs c ps := by
    unfold Dev.gateGo
    simp only [h.gate, fresh_alone h.alone, hruns, h.x, List.isEmpty_nil, hpops, hsx, hsw, hin, hx, Bool.not_true, Bool.false_eq_true, if_false,
      if_true, Bool.and_true]
    rw [hskip _ (by rcases g.args.x with ⟨qa, _ | _, _⟩ | _ <;> rcases g.args.wg with _ | _ <;> simp [gateSkip])]
    simp only [hpairs]
    exact hsettle
  rw [hgo]
  exact hloaded

end

end Sys2Proof.Machine
end

section
/-! A GATE that starts, and one that is served (R179, R185, R203, R227, R229): its entries are reserved and its round opens, or its reservation
waits in line. -/

namespace Sys2Proof.Machine

open Sys2Proof

/-! ## A reservation that is granted (R203, R227, R229) -/

/-- A core with its GATE in a state. -/
def CoreSt.withGate (g : GateSt) (s : CoreSt) : CoreSt := { s with gate := some g }

/-- A device with the GATE of one core in a state. -/
def Dev.setGate (d : Dev) (c : Nat) (g : GateSt) : Dev := d.setCore c (.withGate g)

section
variable {d : Dev} {c : Nat} {g : GateSt}

theorem gateTo_setGate : d.gateTo (d.setGate c g) := ⟨_, _, _, _, _, rfl⟩

theorem setGate_core (hlen : c < d.cores.length) : (d.setGate c g).core c = (d.core c).withGate g := core_setCore d c _ hlen

theorem setGate_core_ne {k : Nat} (hk : k ≠ c) : (d.setGate c g).core k = d.core k := core_setCore_ne d c k _ hk

theorem length_setGate : (d.setGate c g).cores.length = d.cores.length := by simp [Dev.setGate, Dev.setCore]

theorem engAlone.cores_length {u : EngUnit} {q : QCmd} (h : engAlone d c u q) : c < d.cores.length := by
  obtain ⟨-, -, -, -, -, -, -, -, -, -, -, -, hlen, -⟩ := h
  exact hlen

/-- The GATE of a core is no part of the surroundings of its command. -/
theorem engAlone.setGate {u : EngUnit} {q : QCmd} (h : engAlone d c u q) : engAlone (d.setGate c g) c u q := by
  unfold engAlone
  rw [setGate_core h.cores_length, length_setGate]
  exact h

end

/-- The round that a GATE opens. -/
def Dev.gateRound (d : Dev) (c : Nat) (g : GateSt) (ms : List Nat) : Round :=
  { bwd := false, layer := g.args.layer, mb := g.args.microBatch, core := c, tokens := g.args.tokens, k := g.args.k,
    epoch := d.rd.epoch.toNat, members := ms, pos := g.args.pos, negotiated := g.args.negotiated, route := g.route,
    gateDone := false, fmt := d.srcFmt c g.args.x, hTiles := gateKt g.args, requests := [], granted := false, shares := [], grants := [],
    reqMissing := [], entries := g.args.tokens * g.args.k, gateStart := g.since, opener := none, early := [], disp := none, comb := none,
    arranged := [] }

/-- The device once that round is open and the GATE runs. -/
def Dev.gateOpened (d : Dev) (c : Nat) (g : GateSt) (ms : List Nat) : Dev := (d.openRound (d.gateRound c g ms)).setGate c { g with phase := 1 }

/-- A GATE under QUOTA of a layer without a round is granted: its members are read, its round opens, and it runs. -/
theorem gateGranted_opens {d : Dev} {c : Nat} {g : GateSt} (hunarmed : d.unarmed = true) (hgate : (d.core c).gate = some g)
    (hquota : g.args.negotiated = false) (hwhole : d.poisonedIn g.args.members (2 * g.args.group) = none)
    (hnone : d.round? false g.args.layer g.args.microBatch = none) :
    ∃ ms e, d.cachesTo e ∧ d.gateGranted c = (e.gateOpened c g ms).gateGo c := by
  obtain ⟨ms, e, hmembers, hde⟩ := gateMembers_quota hunarmed c hquota hwhole
  refine ⟨ms, e, hde, ?_⟩
  simp only [Dev.gateGranted, hgate, hnone, Option.isSome_none, Bool.false_eq_true, if_false, hmembers]
  rfl

section
variable {d : Dev} {c : Nat} {g : GateSt} {ms : List Nat}

theorem gateTo_gateOpened : d.gateTo (d.gateOpened c g ms) := (Dev.gateTo.openRound d _).trans gateTo_setGate

theorem gateOpened_core (hlen : c < d.cores.length) : (d.gateOpened c g ms).core c = (d.core c).withGate { g with phase := 1 } :=
  setGate_core (d := d.openRound (d.gateRound c g ms)) hlen

theorem gateOpened_core_ne {k : Nat} (hk : k ≠ c) : (d.gateOpened c g ms).core k = d.core k := setGate_core_ne hk

/-- The GATE whose round has opened may take its first pairs. -/
theorem gateReady_gateOpened {q : QCmd} (ha : engAlone d c .mx q) (hnear : d.nearQueues) (hfree : (d.core c).acc.closedAcc = false) (hx : g.x = [])
    (hrows : g.rowTile < gateRt g.args) : (d.gateOpened c g ms).gateReady c q { g with phase := 1 } := by
  have hcore := gateOpened_core (g := g) (ms := ms) ha.cores_length
  exact ⟨engAlone.setGate (d := d.openRound (d.gateRound c g ms)) ha, hnear, by rw [hcore]; rfl, rfl, hx, hrows, by rw [hcore]; exact hfree⟩

/-- The entries of the round are in use. -/
theorem tagsInUse_gateOpened : (d.gateOpened c g ms).bz.tagsInUse = d.bz.tagsInUse + g.args.tokens * g.args.k := by
  change ((d.bz.rounds ++ [d.gateRound c g ms]).map (·.entries)).sum = _
  rw [List.map_append, List.sum_append]
  rfl

end

/-! ## A GATE that starts (R179, R185, R227 to R229) -/

/-- A GATE as it starts. -/
def gateStarted (now : Nat) (g : GateArgs) (route : List (Nat × Nat × Nat)) : GateSt :=
  { args := g, since := now, route := route, x := [], rowTile := 0, colTile := 0, nanRows := [], phase := 0,
    admitted := List.replicate g.experts 0, tokens := [] }

/-- What GATE checks as it starts: its limits and handles, the spans of X and WG, its routing table (R179, R185, R228, R348). -/
structure Dev.gateStarts (d : Dev) (g : GateArgs) (route : List (Nat × Nat × Nat)) : Prop where
  enabled : wbit d.bz.ctrl 0 = true
  limits : d.gateLimits g = none
  choices : d.gateHandle g.choices (g.tokens * (16 * g.k + 8)) = none
  summary : d.gateHandle g.summary (64 + 16 * g.experts) = none
  noRound : d.round? false g.layer g.microBatch = none
  spansX : ∃ sx, d.gateSpans 0 g.x (List.range (gateRt g * gateKt g)) = .ok sx ∧ ∀ x ∈ sx, d.goodSpan x.2
  spansW : ∃ sw, d.gateSpans 1 g.wg (List.range (gateKt g * gateEt g)) = .ok sw ∧ ∀ x ∈ sw, d.goodSpan x.2
  table : d.readable g.routeTable (8 * g.experts) = true
  length : route.length = g.experts
  entries : ∀ i, i < g.experts → d.routeEntry (leNat (d.peek (g.routeTable + 8 * i) 8)) = .ok (route.getD i (0, 0, 0))

/-- Spans that lie here are not asked for. -/
theorem mustAsk_here {d : Dev} (r : Reader) {ss : List (Nat × Span)} (hhere : ∀ x ∈ ss, ∃ ps, x.2 = .mem ps) : d.mustAsk r ss = false := by
  have hnone : (ss.any fun x => d.spanRemote x.2) = false := by
    refine List.any_eq_false.2 fun x hx => ?_
    obtain ⟨ps, hps⟩ := hhere x hx
    rw [hps]
    exact Bool.false_ne_true
  rw [Dev.mustAsk, hnone, Bool.and_false]

/-- The reservation of a GATE of core `c` that waits. -/
def gateWait (c : Nat) (g : GateArgs) : BzWait := ⟨c, false, 0, g.layer, g.microBatch, g.tokens * g.k⟩

/-- GATE with operands within their limits: its routing table is read and its entries are reserved, or wait in line. -/
theorem gateStart_reserves {d : Dev} {g : GateArgs} {route : List (Nat × Nat × Nat)} (hunarmed : d.unarmed = true)
    (h : d.gateStarts g route) (c : Nat) :
    ∃ e, d.cachesTo e ∧ d.gateStart c g =
      (let f := e.setGate c (gateStarted e.now g route)
       if d.bz.waits.isEmpty && d.bzRoom false (g.tokens * g.k) then f.gateGranted c
       else { f with bz := { f.bz with waits := f.bz.waits ++ [gateWait c g] } }) := by
  obtain ⟨e, hroute, hde⟩ := readRoute_valid hunarmed h.table h.length h.entries (.eng c .mx) 7
  obtain ⟨sx, hsx, hgoodx⟩ := h.spansX
  obtain ⟨sw, hsw, hgoodw⟩ := h.spansW
  have hhere : ∀ x ∈ sx ++ sw, ∃ ps, x.2 = Span.mem ps := fun x hx => by
    obtain ⟨ps, hps, -⟩ := (List.mem_append.1 hx).elim (hgoodx x) (hgoodw x)
    exact ⟨ps, hps⟩
  refine ⟨e, hde, ?_⟩
  unfold Dev.gateStart
  simp only [h.enabled, h.limits, h.choices, h.summary, h.noRound, hsx, hsw, hroute,
    tableCheck_unarmed (hde.gate.unarmed hunarmed), mustAsk_here _ hhere, Option.none_or, Option.isSome_none, Bool.not_true,
    Bool.false_eq_true, if_false]
  rw [← hde.bz, ← hde.bzRoom]
  rfl

theorem gateRt_pos {d : Dev} {g : GateArgs} (hlimits : d.gateLimits g = none) : 0 < gateRt g := by
  have htokens : g.tokens ≠ 0 := fun h => by simp [Dev.gateLimits, h] at hlimits
  rw [gateRt, ceilDiv, if_neg (by decide)]
  exact Nat.div_pos (by omega) (by decide)

theorem exec_gate_starts {s : State} {c : Nat} {q : QCmd} {g : GateArgs} (ha : engAlone s.dev c .mx q) (hop : q.cmd.op = .gate g)
    (hgate : (s.dev.core c).gate = none) : exec (.gate c) s = .next (s.dev! (s.dev.gateStart c g)) := by
  have hrun : s.dev.runGate c = s.dev.gateStart c g := by
    simp only [Dev.runGate, fresh_alone ha, hop, hgate, Option.isSome_none, Bool.false_eq_true, if_false]
  rw [← hrun]
  rfl

section
variable {d : Dev} {c : Nat} {q : QCmd} {g : GateArgs} {route : List (Nat × Nat × Nat)} (ha : engAlone d c .mx q) (h : d.gateStarts g route)
include ha h

/-- Without room its reservation joins the line (R229). -/
theorem gateStart_waits (hroom : ¬ (d.bz.waits = [] ∧ d.bzRoom false (g.tokens * g.k) = true)) :
    let t := d.gateStart c g
    t.bz = { d.bz with waits := d.bz.waits ++ [gateWait c g] } ∧ (∃ now, (t.core c).gate = some (gateStarted now g route)) ∧
      t.queues = d.queues ∧ t.mem = d.mem := by
  obtain ⟨e, hde, hstart⟩ := gateStart_reserves ha.undisturbed.unarmed h c
  have hline : ¬ (d.bz.waits.isEmpty && d.bzRoom false (g.tokens * g.k)) = true := by
    rwa [Bool.and_eq_true, List.isEmpty_iff]
  have hcore := setGate_core (g := gateStarted e.now g route) (hde.engAlone ha).cores_length
  dsimp only at hstart ⊢
  rw [hstart, if_neg hline, ← hde.bz]
  exact ⟨rfl, ⟨e.now, congrArg CoreSt.gate hcore⟩, hde.gate.queues, hde.gate.mem⟩

/-- With room its round opens, and once X and WG have the tiles the first pairs enter the accumulation (R180, R227). -/
theorem gateStart_takes (hfree : (d.core c).acc.closedAcc = false) (hnear : d.nearQueues) (hquota : g.negotiated = false)
    (hwhole : d.poisonedIn g.members (2 * g.group) = none) (hwaits : d.bz.waits = []) (hroom : d.bzRoom false (g.tokens * g.k) = true)
    {xs ws : List (List Byte)} {ps : List (List Byte × List Byte)} (hxs : d.gateTilesAt c 0 g.x 0 (gateXIdx g 0) xs)
    (hws : d.gateTilesAt c 1 g.wg (gateSkip (gateKt g) g.x g.wg) (gateWIdx g 0) ws) (hgood : ∀ t ∈ xs ++ ws, tileGood mxTakes t = true)
    (hpairs : gatePairs g 0 0 (xs.map (asRead g.x)) (ws.map (asRead g.wg)) = .ok ps) :
    let t := d.gateStart c g
    ∃ (e : Dev) (ms : List Nat) (now : Nat), t.bz.rounds = d.bz.rounds ++ [e.gateRound c (gateStarted now g route) ms] ∧
      t.core c = (d.core c).gateLoaded ps { gateStarted now g route with phase := 1 } (xs.map (asRead g.x)) ∧ t.mem = d.mem ∧ t.er = d.er := by
  obtain ⟨e, hde, hstart⟩ := gateStart_reserves ha.undisturbed.unarmed h c
  let gs := gateStarted e.now g route
  have hef : d.gateTo (e.setGate c gs) := hde.gate.trans gateTo_setGate
  have hstarted : (e.setGate c gs).core c = (d.core c).withGate gs := by rw [setGate_core (hde.engAlone ha).cores_length, hde.core]
  obtain ⟨ms, f, hf, hgranted⟩ := gateGranted_opens (d := e.setGate c gs) (hef.unarmed ha.undisturbed.unarmed) (congrArg CoreSt.gate hstarted)
    hquota ((hef.poisonedIn _ _).trans hwhole) ((hde.round? _ _ _).trans h.noRound)
  have hdf : d.gateTo f := hef.trans hf.gate
  have hopened : d.gateTo (f.gateOpened c gs ms) := hdf.trans gateTo_gateOpened
  have halone : engAlone f c .mx q := hf.engAlone (hde.engAlone ha).setGate
  have hcore : f.core c = (d.core c).withGate gs := (hf.core c).trans hstarted
  have hready : (f.gateOpened c gs ms).gateReady c q { gs with phase := 1 } :=
    gateReady_gateOpened halone (hdf.nearQueues hnear) (by rw [hcore]; exact hfree) rfl (gateRt_pos h.limits)
  obtain ⟨htaken, hmem, her, hbz⟩ := gateGo_first hready (hopened.gateTilesAt hxs) (hopened.gateTilesAt hws) hgood hpairs
  dsimp only at hstart ⊢
  rw [hstart, if_pos (by rw [hwaits, hroom]; rfl), hgranted]
  refine ⟨f, ms, e.now, ?_, htaken.trans (by rw [gateOpened_core halone.cores_length, hcore]; rfl), hmem.trans hopened.mem, her.trans hopened.er⟩
  have hrounds : f.bz.rounds = d.bz.rounds := by rw [← hde.bz, hf.bz]; rfl
  rw [hbz, ← hrounds]
  rfl

end

/-! ## The reservation at the front of the line (R227, R229) -/

/-- A GATE that lacks tiles stays as it is. -/
theorem gateGo_short {d : Dev} {c : Nat} {g : GateSt} {short : Nat × Nat × Nat} (hgate : (d.core c).gate = some g) (hx : g.x = [])
    (hshort : d.popShort c .mx (gatePops g.args) = some (false, short)) : d.gateGo c = d := by
  rw [gatePops] at hshort
  unfold Dev.gateGo
  cases hfresh : d.fresh? c .mx with
  | none => simp only [hgate]
  | some q =>
    simp only [hgate, hx, List.isEmpty_nil, if_true, hshort]
    exact ite_self d

/-- Where the last round has no opener, no DISPATCH runs. -/
theorem afterServe_unopened {d : Dev} (h : ∀ r, d.bz.rounds.getLast? = some r → r.opener = none) : d.afterServe = d := by
  unfold Dev.afterServe
  cases hlast : d.bz.rounds.getLast? with
  | none => rfl
  | some r => simp only [h r hlast, Option.bind_none]

/-- A GATE's round has no opener. -/
theorem afterServe_gateOpened (d : Dev) (c : Nat) (g : GateSt) (ms : List Nat) : (d.gateOpened c g ms).afterServe = d.gateOpened c g ms := by
  refine afterServe_unopened fun r hr => ?_
  have hlast : (d.gateOpened c g ms).bz.rounds.getLast? = some (d.gateRound c g ms) := List.getLast?_concat
  obtain rfl : d.gateRound c g ms = r := Option.some_inj.1 (hlast.symm.trans hr)
  rfl

theorem serveWait_full {d : Dev} {w : BzWait} {ws : List BzWait} (hwaits : d.bz.waits = w :: ws) (hroom : d.bzRoom w.bwd w.need = false) :
    d.serveWait = d := by
  simp only [Dev.serveWait, hwaits, hroom, Bool.not_false, if_true]

/-- The device whose line has lost its front. -/
def Dev.withWaits (d : Dev) (ws : List BzWait) : Dev := { d with bz := { d.bz with waits := ws } }

/-- The GATE at the front of the line, which lacks tiles, is served: its round opens and it runs. -/
theorem serveWait_gate {d : Dev} {w : BzWait} {ws : List BzWait} {g : GateSt} {short : Nat × Nat × Nat} (hwaits : d.bz.waits = w :: ws)
    (hunarmed : d.unarmed = true) (hfwd : w.bwd = false) (hroom : d.bzRoom false w.need = true) (hgate : (d.core w.core).gate = some g)
    (hquota : g.args.negotiated = false) (hwhole : d.poisonedIn g.args.members (2 * g.args.group) = none)
    (hnone : d.round? false g.args.layer g.args.microBatch = none) (hx : g.x = []) (hlen : w.core < d.cores.length)
    (hshort : d.popShort w.core .mx (gatePops g.args) = some (false, short)) :
    ∃ e ms, (d.withWaits ws).cachesTo e ∧ d.serveWait = e.gateOpened w.core g ms := by
  obtain ⟨ms, e, hde, hgranted⟩ := gateGranted_opens (d := d.withWaits ws) hunarmed hgate hquota hwhole hnone
  have hwhole : d.gateTo (e.gateOpened w.core g ms) := (Dev.gateTo.trans ⟨_, _, _, _, _, rfl⟩ hde.gate).trans gateTo_gateOpened
  have hstays : (e.gateOpened w.core g ms).gateGo w.core = e.gateOpened w.core g ms :=
    gateGo_short (g := { g with phase := 1 }) (congrArg CoreSt.gate (gateOpened_core (by rw [hde.cores]; exact hlen))) hx
      ((hwhole.popShort ..).trans hshort)
  refine ⟨e, ms, hde, ?_⟩
  simp only [Dev.serveWait, hwaits, hfwd, hroom, Bool.not_true, Bool.not_false, Bool.false_eq_true, if_false, if_true]
  exact hgranted.trans hstays

theorem exec_served {i : Instr} (hi : i = .tagReserveServed ∨ i = .roundOpenServed) (s : State) :
    exec i s = .next (s.dev! s.dev.serveWait.afterServe) := by
  rcases hi with rfl | rfl <;> rfl

/-- Settles O21: a GATE that starts reads its tables and is granted or waits; the front of the line is granted once it fits. -/
theorem gatesReserveInOrder : Obligations.GatesReserveInOrder := by
  unfold Obligations.GatesReserveInOrder
  refine ⟨?_, ?_⟩
  · intro s c q g route ha hop hgate hfree _ hquota henabled hlimits hchoices hsummary hnone hnear hspansX hspansW htable hlength hentries
      hwhole
    have h : s.dev.gateStarts g route :=
      ⟨henabled, hlimits, hchoices, hsummary, hnone, hspansX, hspansW, htable, hlength, hentries⟩
    refine ⟨fun hroom => ?_, fun xs ws hwaits hroom hxs hws hgood ps hps => ?_⟩
    · obtain ⟨hbz, ⟨now, hstarted⟩, hqueues, hmem⟩ := gateStart_waits ha h hroom
      exact ⟨_, exec_gate_starts ha hop hgate, hbz, congrArg _ hstarted, hqueues, hmem, rfl, rfl⟩
    · have hws' : s.dev.gateTilesAt c 1 g.wg (gateSkip (gateKt g) g.x g.wg) (gateWIdx g 0) ws := hws
      obtain ⟨e, ms, now, hrounds, hcore, hmem, her⟩ := gateStart_takes ha h hfree hnear hquota hwhole hwaits hroom hxs hws' hgood hps
      refine ⟨_, exec_gate_starts ha hop hgate, ⟨_, hrounds, rfl, rfl, rfl, rfl, rfl, rfl, rfl, rfl⟩, ?_, ?_, ?_, hmem, rfl, rfl, her⟩
      · exact congrArg (fun k : CoreSt => k.gate.map fun x => (x.args, x.route, x.phase, x.rowTile, x.colTile)) hcore
      · exact congrArg (fun k : CoreSt => k.acc.pairs) hcore
      · exact congrArg (fun k : CoreSt => k.acc.closedAcc) hcore
  · intro s w ws i hi hwaits hunarmed hopeners
    refine ⟨fun hroom => ?_, fun g short hfwd hroom hgate hquota hwhole hnone hx _ _ hlen hneed hshort => ?_⟩
    · rw [exec_served hi, serveWait_full hwaits hroom, afterServe_unopened fun r hr => hopeners r (List.mem_of_getLast? hr)]
      rfl
    · obtain ⟨e, ms, hde, hserved⟩ := serveWait_gate hwaits hunarmed hfwd hroom hgate hquota hwhole hnone hx hlen hshort
      have hlen : w.core < e.cores.length := by rw [hde.cores]; exact hlen
      have hbz : e.bz = { s.dev.bz with waits := ws } := hde.bz
      refine ⟨s.dev! (e.gateOpened w.core g ms), e.gateRound w.core g ms, by rw [exec_served hi, hserved, afterServe_gateOpened], ?_, ?_,
        rfl, rfl, rfl, rfl, hneed.symm, ?_, ?_, fun k hk => ?_, ?_, rfl, rfl⟩
      · exact congrArg Bazaar.waits hbz
      · change e.bz.rounds ++ [e.gateRound w.core g ms] = _
        rw [hbz]
      · rw [hneed]
        exact tagsInUse_gateOpened.trans (by rw [hbz]; rfl)
      · exact congrArg CoreSt.gate (gateOpened_core hlen)
      · exact (gateOpened_core_ne hk).trans (hde.core k)
      · exact hde.gate.mem

end Sys2Proof.Machine
end

section
/-! The statement on messages of rounds and their upkeep (O23) does not hold as it stands: it is of every device, also of one that holds two rounds
under one direction, layer and micro-batch, which no command opens (R203, R229). Of those two a REQUEST meets the epoch of each by itself (R217). -/

namespace Sys2Proof.Machine

open Sys2Proof

/-- A NEGOTIATED round of three members in an epoch, its requests and grants still out. -/
def twinRound (epoch : Nat) : Round :=
  { bwd := false, layer := 3, mb := 2, core := 0, tokens := 1, k := 1, epoch := epoch, members := [0, 1, 2], pos := 0, negotiated := true, route := [],
    gateDone := false, fmt := .fp4, hTiles := 1, requests := [], granted := false, shares := [], grants := [], reqMissing := [], entries := 1,
    gateStart := 0, opener := none, early := [], disp := none, comb := none, arranged := [] }

/-- A ZX9440 of job 1, rank 0, with two such rounds of layer 3 and micro-batch 2, of epochs 0 and 1. -/
def twinState : State :=
  let d := Dev.reset .zx9440
  { pending := [], toll := Toll.reset,
    dev := { d with
      fx := { d.fx with ctrl := 1, jobId := 1, ranks := [some 5, some 6, some 7] }
      bz := { d.bz with rounds := [twinRound 0, twinRound 1] } } }

/-- A REQUEST of rank 1 for that round in epoch 0, which asks for nothing. -/
def twinRequest : BzMsg :=
  let m : BzMsg := { version := 1, kind := 3, phase := 0, format := 1, layer := 3, microBatch := 2, resv := 0, src := 1, dst := 0, epoch := 0,
                     crc := 0, hTiles := 1, resvHi := 0, body := zeros 32 }
  { m with crc := bzCrc m }

/-- How it comes. -/
def twinVia : Via := { srcId := 6, jobId := 1, reqTag := 0, port := 0 }

/-- It meets every condition of the statement. -/
theorem twinState_takes :
    twinState.takesMsg twinVia ∧ twinState.dev.fidRank twinVia.srcId = some twinRequest.src ∧ twinState.dev.headOk 3 twinRequest = true ∧
    twinState.dev.round? false 3 2 = some (twinRound 0) := by
  unfold State.takesMsg
  decide +kernel

theorem exec_request (via : Via) (m : BzMsg) (s : State) :
    exec (.request via m) s = .next (s.dev! (s.dev.bzIn via bzRequest m fun d => d.requestMsg m)) := rfl

/-- The first round holds it; of the second, whose epoch it does not name, its sender is missing. -/
theorem twinState_after :
    (twinState.dev.bzIn twinVia bzRequest twinRequest fun d => d.requestMsg twinRequest).bz.rounds.map (fun r => (r.requests, r.reqMissing)) =
      [([(1, [])], []), ([], [1])] := by decide +kernel

/-- Refutes O23: of two rounds under one key that differ in their epoch, a REQUEST that names the first one's epoch is held by that one alone, and its
sender is missing from the other (R217, R231), where the statement says that every round under the key holds it. -/
theorem not_roundMessagesAndUpkeep : ¬ Obligations.RoundMessagesAndUpkeep := by
  rintro ⟨-, h, -⟩
  obtain ⟨htakes, hrank, hhead, hround⟩ := twinState_takes
  have hphase : twinRequest.phase = 0 := by decide +kernel
  obtain ⟨hrequest, -⟩ := h twinState twinVia twinRequest (twinRound 0) htakes hrank hphase hround rfl (by decide +kernel) (by decide +kernel)
    (by decide +kernel) ⟨2, by decide +kernel⟩
  have hexec := hrequest hhead rfl (fun x hx => absurd hx List.not_mem_nil)
  rw [exec_request] at hexec
  have hrounds := congrArg (fun t : State => t.dev.bz.rounds.map fun r => (r.requests, r.reqMissing)) (Host.Outcome.next.inj hexec)
  simp only [State.dev!_dev, twinState_after] at hrounds
  exact absurd hrounds (by decide +kernel)

end Sys2Proof.Machine
end

section
/-! What the Bazaar's messages and reads leave of the device: cores, queues, memory and station commands (R207, R214 to R216). -/

namespace Sys2Proof.Machine

open Sys2Proof

/-! ## Messages and reads -/

/-- A device after messages sent or received and reads of its memory: the Bazaar, the fabric's traffic, stream caches, the error recorder, counts and
outputs may differ. No slot was armed, and handles are judged as before. -/
def Dev.exchTo (d e : Dev) : Prop :=
  ∃ cached bz fx er ct work out nextId,
    e = { d with depot := { d.depot with cached := cached }, bz := bz, fx := fx, er := er, ct := ct, work := work, out := out, nextId := nextId } ∧
    er.slots = d.er.slots ∧ fx.jobId = d.fx.jobId

theorem Dev.exchTo.refl (d : Dev) : d.exchTo d := ⟨_, _, _, _, _, _, _, _, rfl, rfl, rfl⟩

theorem Dev.exchTo.trans {d e f : Dev} (hde : d.exchTo e) (hef : e.exchTo f) : d.exchTo f := by
  obtain ⟨_, _, _, _, _, _, _, _, rfl, hslots, hjob⟩ := hde
  obtain ⟨_, _, _, _, _, _, _, _, rfl, hslots', hjob'⟩ := hef
  exact ⟨_, _, _, _, _, _, _, _, rfl, hslots'.trans hslots, hjob'.trans hjob⟩

theorem unarmed_of_slots {d e : Dev} (h : e.er.slots = d.er.slots) (hd : d.unarmed = true) : e.unarmed = true := by
  rw [Dev.unarmed, h]
  exact hd

section
variable {d e : Dev} (h : d.exchTo e)
include h

theorem Dev.exchTo.cores : e.cores = d.cores := by obtain ⟨_, _, _, _, _, _, _, _, rfl, -⟩ := h; rfl
theorem Dev.exchTo.queues : e.queues = d.queues := by obtain ⟨_, _, _, _, _, _, _, _, rfl, -⟩ := h; rfl
theorem Dev.exchTo.mem : e.mem = d.mem := by obtain ⟨_, _, _, _, _, _, _, _, rfl, -⟩ := h; rfl
theorem Dev.exchTo.accepted : e.accepted = d.accepted := by obtain ⟨_, _, _, _, _, _, _, _, rfl, -⟩ := h; rfl
theorem Dev.exchTo.place : e.place = d.place := by obtain ⟨_, _, _, _, _, _, _, _, rfl, -⟩ := h; rfl
theorem Dev.exchTo.slots : e.er.slots = d.er.slots := by obtain ⟨_, _, _, _, _, _, _, _, rfl, hslots, -⟩ := h; exact hslots
theorem Dev.exchTo.unarmed (hd : d.unarmed = true) : e.unarmed = true := unarmed_of_slots h.slots hd
theorem Dev.exchTo.checkHandle (w : Word64) (u : Access) : e.checkHandle w u = d.checkHandle w u := by
  obtain ⟨_, _, _, _, _, _, _, _, rfl, -, hjob⟩ := h
  simp only [Dev.checkHandle, hjob]
  rfl

end

/-- Messages and reads by which no round changes. -/
structure Dev.asideTo (d e : Dev) : Prop where
  exch : d.exchTo e
  rounds : e.bz.rounds = d.bz.rounds

theorem Dev.asideTo.refl (d : Dev) : d.asideTo d := ⟨.refl d, rfl⟩

theorem Dev.asideTo.trans {d e f : Dev} (hde : d.asideTo e) (hef : e.asideTo f) : d.asideTo f :=
  ⟨hde.exch.trans hef.exch, hef.rounds.trans hde.rounds⟩

theorem round?_of_rounds {d e : Dev} (h : e.bz.rounds = d.bz.rounds) (bwd : Bool) (layer mb : Nat) : e.round? bwd layer mb = d.round? bwd layer mb := by
  rw [Dev.round?, h, Dev.round?]

theorem Dev.cachesTo.aside {d e : Dev} (h : d.cachesTo e) : d.asideTo e := by
  obtain ⟨_, _, _, rfl⟩ := h
  exact ⟨⟨_, _, _, _, _, _, _, _, rfl, rfl, rfl⟩, rfl⟩

/-! ## Records and tracks -/

theorem detect_slots (d : Dev) (det sev : Nat) (inj : Bool) (addr : Option Nat) (d0 d1 d2 : Nat) :
    (d.detect det sev inj addr d0 d1 d2).er.slots = d.er.slots := by
  unfold Dev.detect Dev.record
  dsimp only
  split
  · split <;> rfl
  · rfl

theorem asideTo_detect (d : Dev) (det sev : Nat) (inj : Bool) (addr : Option Nat) (d0 d1 d2 : Nat) :
    d.asideTo (d.detect det sev inj addr d0 d1 d2) := by
  have hslots := detect_slots d det sev inj addr d0 d1 d2
  rw [Dev.detect_eq] at hslots ⊢
  exact ⟨⟨_, _, _, _, _, _, _, _, rfl, hslots, rfl⟩, rfl⟩

theorem asideTo_bzErr (d : Dev) (m : Nat) : d.asideTo (d.bzErr m) := ⟨⟨_, _, _, _, _, _, _, _, rfl, rfl, rfl⟩, rfl⟩

theorem asideTo_track (d : Dev) (row key unit : Nat) (ok : Bool) : d.asideTo (d.track row key unit ok) := ⟨⟨_, _, _, _, _, _, _, _, rfl, rfl, rfl⟩, rfl⟩

theorem asideTo_noteTiles (d : Dev) (key port inward n : Nat) : d.asideTo (d.noteTiles key port inward n) := by
  unfold Dev.noteTiles
  split
  · exact .refl d
  · exact ⟨⟨_, _, _, _, _, _, _, _, rfl, rfl, rfl⟩, rfl⟩

theorem exchTo_setRound (d : Dev) (bwd : Bool) (layer mb : Nat) (f : Round → Round) : d.exchTo (d.setRound bwd layer mb f) :=
  ⟨_, _, _, _, _, _, _, _, rfl, rfl, rfl⟩

theorem exchTo_mapPhase (d : Dev) (r : Round) (ret : Bool) (f : PhaseSt → PhaseSt) : d.exchTo (d.mapPhase r ret f) := exchTo_setRound d _ _ _ _

/-! ## Messages that leave (R215, R384, R389) -/

/-- What each step of a fold keeps, the fold keeps. -/
theorem foldl_keeps {α : Type} {I : Dev → Prop} {f : Dev → α → Dev} {xs : List α} (hf : ∀ e, ∀ x ∈ xs, I e → I (f e x)) {d : Dev} (h : I d) :
    I (xs.foldl f d) := by
  induction xs generalizing d with
  | nil => exact h
  | cons x xs ih =>
    obtain ⟨hx, hxs⟩ : (∀ e, I e → I (f e x)) ∧ ∀ e, ∀ y ∈ xs, I e → I (f e y) :=
      ⟨fun e => hf e x (List.mem_cons_self ..), fun e y hy => hf e y (List.mem_cons_of_mem _ hy)⟩
    exact ih hxs (hx d h)

theorem asideTo_foldl {α : Type} {f : Dev → α → Dev} (hf : ∀ (d : Dev) x, d.asideTo (f d x)) (xs : List α) (d : Dev) : d.asideTo (xs.foldl f d) :=
  foldl_keeps (fun e x _ he => Dev.asideTo.trans he (hf e x)) (.refl d)

theorem asideTo_cplErr (d : Dev) (port addr : Option Nat) (status req : Nat) (inj : Bool) : d.asideTo (d.cplErr port addr status req inj) := by
  have herr (bits : Nat) : d.asideTo { d with fx := { d.fx with err := wset d.fx.err bits } } := ⟨⟨_, _, _, _, _, _, _, _, rfl, rfl, rfl⟩, rfl⟩
  unfold Dev.cplErr
  exact (herr _).trans (asideTo_detect ..)

theorem asideTo_takeStream (d : Dev) (dest : Nat) (key : List Nat) : d.asideTo (d.takeStream dest key).2.2 := by
  unfold Dev.takeStream
  split <;> exact ⟨⟨_, _, _, _, _, _, _, _, rfl, rfl, rfl⟩, rfl⟩

theorem count_jobId (f : Fabric) (port : Option Nat) (n : Nat) : (f.count port n).jobId = f.jobId := by
  unfold Fabric.count
  split <;> rfl

theorem asideTo_issue (d : Dev) (use : FxUse) (p : Packet) (nonPosted addrValid : Bool) : d.asideTo (d.issue use p nonPosted addrValid) := by
  unfold Dev.issue
  dsimp only
  split
  · split
    · exact ⟨⟨_, _, _, _, _, _, _, _, rfl, rfl, rfl⟩, rfl⟩
    · split
      · next key n i _ =>
        have hfresh : d.asideTo d.fresh.2 := ⟨⟨_, _, _, _, _, _, _, _, rfl, rfl, rfl⟩, rfl⟩
        refine (hfresh.trans (asideTo_noteTiles _ key i 0 n)).trans ⟨⟨_, _, _, _, _, _, _, _, rfl, rfl, ?_⟩, rfl⟩
        rw [Dev.noteTiles]
        split <;> exact count_jobId _ _ _
      · exact ⟨⟨_, _, _, _, _, _, _, _, rfl, rfl, count_jobId _ _ _⟩, rfl⟩
  · exact ⟨⟨_, _, _, _, _, _, _, _, rfl, rfl, rfl⟩, rfl⟩

theorem asideTo_sendMessage (d : Dev) (use : FxUse) (req rank : Nat) (key : List Nat) (payload : List Byte) :
    d.asideTo (d.sendMessage use req rank key payload) := by
  unfold Dev.sendMessage
  split
  · exact asideTo_cplErr ..
  · split
    · exact asideTo_cplErr ..
    · exact asideTo_foldl (fun d i => (asideTo_takeStream ..).trans (asideTo_issue ..)) _ d

theorem cross_carries {d : Dev} (hunarmed : d.unarmed = true) (here there : Nat) : d.cross here there = (true, d) := by
  unfold Dev.cross
  split
  · rfl
  · exact bridge_unarmed d here hunarmed

theorem asideTo_bzSend {d : Dev} (hunarmed : d.unarmed = true) (core kind phase : Nat) (f : Fmt) (layer mb dst epoch hTiles : Nat) (body : List Byte) :
    d.asideTo (d.bzSend core kind phase f layer mb dst epoch hTiles body) := by
  simp only [Dev.bzSend, Dev.crossPort, cross_carries hunarmed]
  exact asideTo_sendMessage ..

/-! ## Reads that may fail (R330, R339, R545) -/

section
variable {d : Dev} (hunarmed : d.unarmed = true)
include hunarmed

theorem asideTo_readFor (req a n : Nat) : d.asideTo (d.readFor req a n).2 := by
  unfold Dev.readFor
  dsimp only
  split
  · dsimp only
    exact asideTo_detect ..
  · simp only [mimic_unarmed d _ hunarmed, Bool.false_eq_true, if_false]
    split <;> exact ⟨⟨_, _, _, _, _, _, _, _, rfl, rfl, rfl⟩, rfl⟩

theorem asideTo_readStream (die req a n : Nat) : d.asideTo (d.readStream die req a n).2 := by
  have hread := asideTo_readFor hunarmed req a n
  have hcache (e : Dev) (ls : List Nat) : e.asideTo (e.cacheFill die ls) := ⟨⟨_, _, _, _, _, _, _, _, rfl, rfl, rfl⟩, rfl⟩
  have hfill : d.asideTo (match d.readFor req a n with
      | (none, e) => ((none, e) : Option (List Byte) × Dev)
      | (some bs, e) => (some bs, e.cacheFill die (linesOf a n))).2 := by
    generalize d.readFor req a n = x at hread ⊢
    obtain ⟨_ | bs, e⟩ := x
    · exact hread
    · exact hread.trans (hcache e _)
  unfold Dev.readStream
  simp only [mimic_unarmed d _ hunarmed]
  split
  · exact hread
  · split
    · exact hfill
    · split
      · exact hcache d _
      · exact hfill

theorem asideTo_readPiece (hprimary : d.place.replicas = []) (cached : Bool) (die req a n : Nat) : d.asideTo (d.readPiece cached die req a n).2 := by
  have hnone : d.replicaFor die a n = none := by rw [Dev.replicaFor, hprimary]; rfl
  simp only [Dev.readPiece, hnone, Dev.readCached]
  split
  · exact asideTo_readStream hunarmed ..
  · exact asideTo_readFor hunarmed ..

end

theorem asideTo_readVia {d : Dev} (hunarmed : d.unarmed = true) (hprimary : d.place.replicas = []) (cached : Bool) (die req : Nat) (ps : List (Nat × Nat)) :
    d.asideTo (d.readVia cached die req ps).2 := by
  induction ps generalizing d with
  | nil => exact .refl d
  | cons p ps ih =>
    have hread := asideTo_readPiece hunarmed hprimary cached die req p.1 p.2
    rw [Dev.readVia]
    generalize d.readPiece cached die req p.1 p.2 = x at hread ⊢
    obtain ⟨_ | bs, e⟩ := x
    · exact hread
    · have hrest := hread.trans (ih (hread.exch.unarmed hunarmed) (by rw [hread.exch.place]; exact hprimary))
      dsimp only at hrest ⊢
      generalize e.readVia cached die req ps = y at hrest ⊢
      obtain ⟨_ | cs, f⟩ := y <;> exact hrest

theorem asideTo_readSpan {d : Dev} (hunarmed : d.unarmed = true) (hprimary : d.place.replicas = []) (r : Reader) (key : Nat) (ps : List (Nat × Nat)) :
    d.asideTo (d.readSpan r key (.mem ps)).2 := by
  have hread := asideTo_readVia hunarmed hprimary (d.readerCached r) (d.readerDie r) (d.readerReq r) ps
  simp only [Dev.readSpan, Dev.crossTo, cross_carries hunarmed]
  generalize d.readVia _ _ _ ps = x at hread ⊢
  obtain ⟨_ | bs, e⟩ := x <;> exact hread

/-! ## Checks of the Bazaar (R67, R214) -/

theorem bzCheck_good {d : Dev} (hunarmed : d.unarmed = true) (r : Round) (detail : Nat) : d.bzCheck r detail true = (true, d) := by
  simp only [Dev.bzCheck, Bool.not_true, Bool.false_eq_true, if_false, mimic_unarmed d _ hunarmed]

theorem asideTo_bzCheck {d : Dev} (hunarmed : d.unarmed = true) (r : Round) (detail : Nat) (good : Bool) : d.asideTo (d.bzCheck r detail good).2 := by
  cases good with
  | true =>
    rw [bzCheck_good hunarmed]
    exact .refl d
  | false => exact (asideTo_detect ..).trans (asideTo_bzErr ..)

theorem asideTo_badTiles {d : Dev} (hunarmed : d.unarmed = true) (r : Round) (f : Fmt) (tag : Nat) (ts : List (Nat × List Byte)) :
    d.asideTo (d.badTiles r f tag ts).2 := by
  induction ts generalizing d with
  | nil => exact .refl d
  | cons t ts ih =>
    have hcheck := asideTo_bzCheck hunarmed r tag (tileGood (fun g => g == f) t.2)
    rw [Dev.badTiles]
    generalize d.bzCheck r tag (tileGood (fun g => g == f) t.2) = x at hcheck ⊢
    exact hcheck.trans (ih (hcheck.exch.unarmed hunarmed))

theorem asideTo_bzRead {d : Dev} (hunarmed : d.unarmed = true) (hprimary : d.place.replicas = []) (r : Round) (id key : Nat) (ps : List (Nat × Nat))
    (f : Fmt) (rows cols epoch : Nat) : d.asideTo (d.bzRead r id key (.mem ps) f rows cols epoch).2 := by
  have hread : d.asideTo (if d.inputFailed (.acc id) key then (Except.error 0, d) else d.readSpan (.acc id) key (.mem ps)).2 := by
    split
    · exact .refl d
    · exact asideTo_readSpan hunarmed hprimary ..
  unfold Dev.bzRead
  dsimp only
  generalize (if d.inputFailed (.acc id) key then (Except.error 0, d) else d.readSpan (.acc id) key (.mem ps)) = x at hread ⊢
  obtain ⟨_ | t, e⟩ := x
  · exact hread
  · exact hread.trans (asideTo_bzCheck (hread.exch.unarmed hunarmed) r epoch (tileGood (fun g => g == f) t))

/-- Tiles that the Bazaar reads to send, whether or not they pass. -/
theorem asideTo_bzReads {d : Dev} (hunarmed : d.unarmed = true) (hprimary : d.place.replicas = []) (r : Round) (id : Nat) (f : Fmt) (epoch : Nat)
    {ws : List (Nat × Span × Nat × Nat)} (hhere : ∀ w ∈ ws, ∃ ps, w.2.1 = .mem ps) : d.asideTo (d.bzReads r id f epoch ws).2 := by
  induction ws generalizing d with
  | nil => exact .refl d
  | cons w ws ih =>
    obtain ⟨⟨ps, hps⟩, hrest⟩ := List.forall_mem_cons.1 hhere
    obtain ⟨key, sp, rows, cols⟩ := w
    obtain rfl : sp = .mem ps := hps
    have hread := asideTo_bzRead hunarmed hprimary r id key ps f rows cols epoch
    rw [Dev.bzReads]
    generalize d.bzRead r id key (.mem ps) f rows cols epoch = x at hread ⊢
    exact hread.trans (ih (hread.exch.unarmed hunarmed) (by rw [hread.exch.place]; exact hprimary) hrest)

end Sys2Proof.Machine
end

section
/-! What writes to memory, to host memory and torn marks leave of the device: its cores, queues, station commands, rounds and valid handles (R178, R185). -/

namespace Sys2Proof.Machine

open Sys2Proof

/-- What a valid handle's access asks (R185). -/
structure Dev.handleOk (d : Dev) (w : Word64) (u : Access) (b : Buf) : Prop where
  form : ((unpackHandle w).valid == 0 || (unpackHandle w).resv1 != 0 || (unpackHandle w).resv2 != 0) = false
  job : (unpackHandle w).jobTag.toNat = d.fx.jobId % 4096
  pool : (d.depot.pools.find? fun p => p.num == (unpackHandle w).pool.toNat).isSome = true
  buf : d.depot.buf (unpackHandle w).slot.toNat = some b
  same : (decide (b.gen ≠ (unpackHandle w).gen.toNat) || decide (b.pool ≠ (unpackHandle w).pool.toNat) ||
    decide (b.kind ≠ (unpackHandle w).kind.toNat)) = false
  inside : u.off + u.len ≤ b.bytes
  align : u.off % u.align = 0
  write : (u.write && decide (b.kind ≥ 2)) = false

theorem checkHandle_ok_iff {d : Dev} {w : Word64} {u : Access} {b : Buf} : d.checkHandle w u = .ok b ↔ d.handleOk w u b := by
  unfold Dev.checkHandle
  dsimp only
  constructor
  · intro h
    split at h
    · exact absurd h (by simp)
    · split at h
      · exact absurd h (by simp)
      · split at h
        · exact absurd h (by simp)
        · split at h
          · exact absurd h (by simp)
          · split at h
            · exact absurd h (by simp)
            · split at h
              · exact absurd h (by simp)
              · split at h
                · exact absurd h (by simp)
                · split at h
                  · exact absurd h (by simp)
                  · next hform hjob _ p hpool _ b' hbuf hsame hin halign hwrite =>
                    obtain rfl : b' = b := by injection h
                    exact ⟨Bool.eq_false_iff.2 hform, not_not.1 hjob, by rw [hpool]; rfl, hbuf, Bool.eq_false_iff.2 hsame, by omega, not_not.1 halign,
                      Bool.eq_false_iff.2 hwrite⟩
  · rintro ⟨hform, hjob, hpool, hbuf, hsame, hin, halign, hwrite⟩
    obtain ⟨p, hp⟩ := Option.isSome_iff_exists.1 hpool
    simp only [hform, hjob, hp, hbuf, hsame, hwrite, halign, show ¬(u.off + u.len > b.bytes) by omega, ne_eq, not_true_eq_false, Bool.false_eq_true,
      if_false]

/-- Cores, queues and station commands are as they were. -/
structure Dev.calmTo (d e : Dev) : Prop where
  cores : e.cores = d.cores
  queues : e.queues = d.queues
  accepted : e.accepted = d.accepted

theorem Dev.calmTo.refl (d : Dev) : d.calmTo d := ⟨rfl, rfl, rfl⟩

theorem Dev.calmTo.trans {d e f : Dev} (hde : d.calmTo e) (hef : e.calmTo f) : d.calmTo f :=
  ⟨hef.cores.trans hde.cores, hef.queues.trans hde.queues, hef.accepted.trans hde.accepted⟩

theorem Dev.calmTo.acc {d e : Dev} (h : d.calmTo e) (id : Nat) : e.acc id = d.acc id := by rw [Dev.acc, h.accepted, Dev.acc]

/-- A buffer changed in nothing that its handle is checked by (R185). -/
def keepsHandle (f : Buf → Buf) : Prop :=
  ∀ b, (f b).slot = b.slot ∧ (f b).gen = b.gen ∧ (f b).pool = b.pool ∧ (f b).kind = b.kind ∧ (f b).bytes = b.bytes

theorem keepsHandle_if (c : Buf → Bool) {g : Buf → Buf} (hg : keepsHandle g) : keepsHandle fun b => if c b then g b else b := by
  intro b
  dsimp only
  split
  · exact hg b
  · exact ⟨rfl, rfl, rfl, rfl, rfl⟩

/-- Moreover no slot was armed, and every valid handle is valid still. -/
structure Dev.heldTo (d e : Dev) : Prop where
  calm : d.calmTo e
  slots : e.er.slots = d.er.slots
  jobId : e.fx.jobId = d.fx.jobId
  pools : e.depot.pools = d.depot.pools
  bufs : ∃ f, keepsHandle f ∧ e.depot.bufs = d.depot.bufs.map f

theorem Dev.heldTo.refl (d : Dev) : d.heldTo d := ⟨.refl d, rfl, rfl, rfl, id, fun _ => ⟨rfl, rfl, rfl, rfl, rfl⟩, (List.map_id _).symm⟩

theorem Dev.heldTo.trans {d e f : Dev} (hde : d.heldTo e) (hef : e.heldTo f) : d.heldTo f := by
  obtain ⟨g, hg, hbufs⟩ := hde.bufs
  obtain ⟨g', hg', hbufs'⟩ := hef.bufs
  refine ⟨hde.calm.trans hef.calm, hef.slots.trans hde.slots, hef.jobId.trans hde.jobId, hef.pools.trans hde.pools, g' ∘ g, fun b => ?_, ?_⟩
  · obtain ⟨h1, h2, h3, h4, h5⟩ := hg b
    obtain ⟨h1', h2', h3', h4', h5'⟩ := hg' (g b)
    exact ⟨h1'.trans h1, h2'.trans h2, h3'.trans h3, h4'.trans h4, h5'.trans h5⟩
  · rw [hbufs', hbufs, List.map_map]

theorem Dev.heldTo.unarmed {d e : Dev} (h : d.heldTo e) (hd : d.unarmed = true) : e.unarmed = true := unarmed_of_slots h.slots hd

theorem Dev.heldTo.checkHandle {d e : Dev} (h : d.heldTo e) {w : Word64} {u : Access} {b : Buf} (hb : d.checkHandle w u = .ok b) :
    ∃ b', e.checkHandle w u = .ok b' := by
  obtain ⟨f, hf, hbufs⟩ := h.bufs
  have hbuf (slot : Nat) : e.depot.buf slot = (d.depot.buf slot).map f := by
    have hsame : ((fun b : Buf => b.slot == slot) ∘ f) = fun b => b.slot == slot := by
      funext x
      rw [Function.comp_apply, (hf x).1]
    rw [Depot.buf, hbufs, List.find?_map, hsame, Depot.buf]
  have hok := checkHandle_ok_iff.1 hb
  obtain ⟨-, hgen, hpool, hkind, hbytes⟩ := hf b
  exact ⟨f b, checkHandle_ok_iff.2 ⟨hok.form, by rw [h.jobId]; exact hok.job, by rw [h.pools]; exact hok.pool, by rw [hbuf, hok.buf]; rfl,
    by rw [hgen, hpool, hkind]; exact hok.same, by rw [hbytes]; exact hok.inside, hok.align, by rw [hkind]; exact hok.write⟩⟩

/-- A handle under which a whole buffer may be written is valid for a write at its start. -/
theorem checkHandle_start {d : Dev} {w : Word64} {len : Nat} {b : Buf} (h : d.checkHandle w ⟨0, len, 8, true⟩ = .ok b) :
    d.checkHandle w ⟨0, 0, 1, true⟩ = .ok b := by
  have hok := checkHandle_ok_iff.1 h
  exact checkHandle_ok_iff.2 ⟨hok.form, hok.job, hok.pool, hok.buf, hok.same, Nat.zero_le _, rfl, hok.write⟩

theorem Dev.exchTo.held {d e : Dev} (h : d.exchTo e) : d.heldTo e := by
  obtain ⟨_, _, _, _, _, _, _, _, rfl, hslots, hjob⟩ := h
  exact ⟨⟨rfl, rfl, rfl⟩, hslots, hjob, rfl, id, fun _ => ⟨rfl, rfl, rfl, rfl, rfl⟩, (List.map_id _).symm⟩

/-- Moreover no round changed. -/
structure Dev.storesTo (d e : Dev) : Prop where
  held : d.heldTo e
  rounds : e.bz.rounds = d.bz.rounds

theorem Dev.storesTo.refl (d : Dev) : d.storesTo d := ⟨.refl d, rfl⟩

theorem Dev.storesTo.trans {d e f : Dev} (hde : d.storesTo e) (hef : e.storesTo f) : d.storesTo f :=
  ⟨hde.held.trans hef.held, hef.rounds.trans hde.rounds⟩

theorem Dev.asideTo.stores {d e : Dev} (h : d.asideTo e) : d.storesTo e := ⟨h.exch.held, h.rounds⟩

/-- A change of none of these. -/
theorem Dev.storesTo.of_eq {d e : Dev} (hcores : e.cores = d.cores) (hqueues : e.queues = d.queues) (haccepted : e.accepted = d.accepted)
    (hslots : e.er.slots = d.er.slots) (hjob : e.fx.jobId = d.fx.jobId) (hpools : e.depot.pools = d.depot.pools) (hbufs : e.depot.bufs = d.depot.bufs)
    (hrounds : e.bz.rounds = d.bz.rounds) : d.storesTo e :=
  ⟨⟨⟨hcores, hqueues, haccepted⟩, hslots, hjob, hpools, id, fun _ => ⟨rfl, rfl, rfl, rfl, rfl⟩, by rw [hbufs, List.map_id]⟩, hrounds⟩

/-- A change of nothing but what the buffers' handles do not say. -/
theorem Dev.storesTo.of_bufs {d e : Dev} {f : Buf → Buf} (hf : keepsHandle f) (he : ∃ err, e = { d with depot := { d.depot with
    bufs := d.depot.bufs.map f, err := err } }) : d.storesTo e := by
  obtain ⟨_, rfl⟩ := he
  exact ⟨⟨⟨rfl, rfl, rfl⟩, rfl, rfl, rfl, f, hf, rfl⟩, rfl⟩

theorem storesTo_foldl {α : Type} {f : Dev → α → Dev} (hf : ∀ (d : Dev) x, d.storesTo (f d x)) (xs : List α) (d : Dev) :
    d.storesTo (xs.foldl f d) := foldl_keeps (fun e x _ he => Dev.storesTo.trans he (hf e x)) (.refl d)

/-! ## Writes and torn marks -/

theorem storesTo_write (d : Dev) (a : Nat) (bs : List Byte) : d.storesTo (d.write a bs) := by
  have hdepot : (d.write a bs).depot.pools = d.depot.pools ∧ (d.write a bs).depot.bufs = d.depot.bufs := by
    unfold Dev.write Dev.land Dev.moveHbm
    rw [Dev.markWritten_eq]
    exact ⟨rfl, rfl⟩
  have hjob : (d.write a bs).fx.jobId = d.fx.jobId := by
    unfold Dev.write Dev.land Dev.moveHbm
    rw [Dev.markWritten_eq]
  exact .of_eq (by simp) (by simp) (by simp) (by simp) hjob hdepot.1 hdepot.2 (by simp)

theorem storesTo_writePiece1 (d : Dev) (a : Nat) (bs : List Byte) : d.storesTo (d.writePiece1 a bs) := by
  unfold Dev.writePiece1
  split
  · exact .of_eq rfl rfl rfl rfl rfl rfl rfl rfl
  · exact storesTo_write d a bs

theorem storesTo_writePieces (ps : List (Nat × Nat)) (d : Dev) (bs : List Byte) : d.storesTo (d.writePieces ps bs) := by
  induction ps generalizing d bs with
  | nil => exact .refl d
  | cons p ps ih => exact (storesTo_writePiece1 ..).trans (ih ..)

theorem storesTo_storeBuf (d : Dev) (b : Buf) (off : Nat) (bs : List Byte) : d.storesTo (d.storeBuf b off bs) := storesTo_writePieces ..

theorem storesTo_noteTornSlot (d : Dev) (slot : Nat) : d.storesTo (d.noteTornSlot slot) :=
  .of_bufs (keepsHandle_if (fun b => b.slot == slot) (g := fun b => { b with torn := true, tornTiles := b.tornTiles + 1 })
    fun _ => ⟨rfl, rfl, rfl, rfl, rfl⟩) ⟨_, rfl⟩

theorem storesTo_storeTorn (d : Dev) (b : Buf) (off : Nat) (t : List Byte) : d.storesTo (d.storeTorn b off t) :=
  (storesTo_storeBuf ..).trans (storesTo_noteTornSlot ..)

theorem storesTo_noteTorn (d : Dev) (a n : Nat) : d.storesTo (d.noteTorn a n) :=
  .of_bufs (keepsHandle_if (fun b => b.meets a n) (g := fun b => { b with torn := true, tornTiles := b.tornTiles + 1 })
    fun _ => ⟨rfl, rfl, rfl, rfl, rfl⟩) ⟨_, rfl⟩

theorem storesTo_poisonLine (d : Dev) (l : Nat) : d.storesTo (d.poisonLine l) := by
  unfold Dev.poisonLine
  split <;> exact .of_eq rfl rfl rfl rfl rfl rfl rfl rfl

theorem storesTo_tearAt (d : Dev) (ps : List (Nat × Nat)) : d.storesTo (d.tearAt ps) := by
  unfold Dev.tearAt
  dsimp only
  split
  · split
    · exact storesTo_poisonLine ..
    · exact .refl d
  · exact (storesTo_writePieces ..).trans (storesTo_noteTorn ..)

theorem storesTo_askOrQueue (d : Dev) (addr len : Nat) (use : HostUse) : d.storesTo (d.askOrQueue addr len use) := by
  unfold Dev.askOrQueue
  split
  · next e hask =>
    unfold Dev.askHost at hask
    dsimp only at hask
    split at hask
    · exact absurd hask (by simp)
    · rw [← Option.some_inj.1 hask]
      exact .of_eq rfl rfl rfl rfl rfl rfl rfl rfl
  · exact .of_eq rfl rfl rfl rfl rfl rfl rfl rfl

theorem storesTo_tearBuf (d : Dev) (b : Buf) (off len : Nat) : d.storesTo (d.tearBuf b off len) := by
  unfold Dev.tearBuf Dev.tearPieces
  split
  · exact storesTo_tearAt ..
  · exact (storesTo_foldl (fun d i => storesTo_askOrQueue ..) _ d).trans (storesTo_noteTorn ..)

theorem storesTo_writeHandle (d : Dev) (h : Word64) (off : Nat) (bs : List Byte) : d.storesTo (d.writeHandle h off bs) := by
  unfold Dev.writeHandle
  split
  · exact .refl d
  · exact storesTo_storeBuf ..

theorem storesTo_retain (d : Dev) (slot : Nat) : d.storesTo (d.retain slot) :=
  .of_bufs (keepsHandle_if (fun b => b.slot == slot) (g := fun b => { b with refs := b.refs + 1 }) fun _ => ⟨rfl, rfl, rfl, rfl, rfl⟩) ⟨_, rfl⟩

end Sys2Proof.Machine
end

section
/-! A phase of a round on this device (R207, R214, R230): what its messages do to it, and how it waits for its members. -/

namespace Sys2Proof.Machine

open Sys2Proof

/-! ## Rounds and their phases -/

theorem round?_key {d : Dev} {bwd : Bool} {layer mb : Nat} {r : Round} (h : d.round? bwd layer mb = some r) :
    r.bwd = bwd ∧ r.layer = layer ∧ r.mb = mb := by
  have hkey := List.find?_some h
  simpa [Bool.and_eq_true, and_assoc] using hkey

/-- The open round of a key, changed by a function that keeps the key. -/
theorem round?_setRound {d : Dev} {r : Round} (h : d.round? r.bwd r.layer r.mb = some r) {f : Round → Round}
    (hkey : (f r).bwd = r.bwd ∧ (f r).layer = r.layer ∧ (f r).mb = r.mb) :
    (d.setRound r.bwd r.layer r.mb f).round? r.bwd r.layer r.mb = some (f r) := by
  unfold Dev.round? Dev.setRound at *
  generalize d.bz.rounds = rs at h
  induction rs with
  | nil => exact absurd h (by simp)
  | cons x rs ih =>
    rw [List.find?_cons] at h
    cases hx : (x.bwd == r.bwd && x.layer == r.layer && x.mb == r.mb) with
    | true =>
      rw [hx] at h
      obtain rfl : x = r := Option.some_inj.1 h
      simp [hkey]
    | false =>
      rw [hx] at h
      rw [List.map_cons, if_neg (by rw [hx]; exact Bool.false_ne_true), List.find?_cons, hx]
      exact ih h

/-- The device's round `r` is in phase `p`, a dispatch or a return. -/
structure Dev.phaseAt (d : Dev) (r : Round) (ret : Bool) (p : PhaseSt) : Prop where
  round : d.round? r.bwd r.layer r.mb = some r
  phase : r.phase? ret = some p

theorem Dev.phaseAt.of_rounds {d e : Dev} {r : Round} {ret : Bool} {p : PhaseSt} (h : d.phaseAt r ret p) (hrounds : e.bz.rounds = d.bz.rounds) :
    e.phaseAt r ret p := ⟨(round?_of_rounds hrounds ..).trans h.round, h.phase⟩

theorem Dev.phaseAt.mapPhase {d : Dev} {r : Round} {ret : Bool} {p : PhaseSt} (h : d.phaseAt r ret p) (f : PhaseSt → PhaseSt) :
    (d.mapPhase r ret f).phaseAt (r.mapPhase ret f) ret (f p) := by
  have hround := round?_setRound h.round (f := fun x => x.mapPhase ret f) (by cases ret <;> exact ⟨rfl, rfl, rfl⟩)
  have hphase := h.phase
  cases ret <;> exact ⟨hround, by simp_all [Round.phase?, Round.mapPhase]⟩

/-- What a round is made of apart from the state of its phases; a return phase retires entries. -/
structure Round.alike (r : Round) (ret : Bool) (x : Round) : Prop where
  bwd : x.bwd = r.bwd
  layer : x.layer = r.layer
  mb : x.mb = r.mb
  members : x.members = r.members
  pos : x.pos = r.pos
  tokens : x.tokens = r.tokens
  k : x.k = r.k
  entries : ret = false → x.entries = r.entries

theorem Round.alike.refl (r : Round) (ret : Bool) : r.alike ret r := ⟨rfl, rfl, rfl, rfl, rfl, rfl, rfl, fun _ => rfl⟩

theorem Round.alike.trans {r x y : Round} {ret : Bool} (hrx : r.alike ret x) (hxy : x.alike ret y) : r.alike ret y where
  bwd := hxy.bwd.trans hrx.bwd
  layer := hxy.layer.trans hrx.layer
  mb := hxy.mb.trans hrx.mb
  members := hxy.members.trans hrx.members
  pos := hxy.pos.trans hrx.pos
  tokens := hxy.tokens.trans hrx.tokens
  k := hxy.k.trans hrx.k
  entries h := (hxy.entries h).trans (hrx.entries h)

theorem alike_mapPhase (r : Round) (ret : Bool) (f : PhaseSt → PhaseSt) : r.alike ret (r.mapPhase ret f) := by
  cases ret <;> exact ⟨rfl, rfl, rfl, rfl, rfl, rfl, rfl, fun _ => rfl⟩

/-- Every member of a phase has sent its HEADER or is missing (R230). -/
def PhaseSt.settled (p : PhaseSt) : Prop := ∀ y ∈ p.members, y.header = true ∨ y.missing = true

/-- A phase that waits has not ended, for lack of this device's or another member's HEADER (R218, R230). -/
def PhaseSt.waiting (p : PhaseSt) : Prop := p.sentHeaders = false ∨ ¬ p.settled

/-- A phase after messages of the member at a position: its command, its progress and the other members are as they were. -/
structure PhaseSt.goesTo (p : PhaseSt) (pos : Nat) (q : PhaseSt) : Prop where
  acc : q.acc = p.acc
  phase : q.phase = p.phase
  sentHeaders : q.sentHeaders = p.sentHeaders
  arranged : q.arranged = p.arranged
  toPush : q.toPush = p.toPush
  positions : q.members.map (·.pos) = p.members.map (·.pos)
  others : ∀ y ∈ p.members, y.pos ≠ pos → y ∈ q.members
  settled : p.settled → q.settled

theorem PhaseSt.goesTo.of_members {p q : PhaseSt} (pos : Nat) (hacc : q.acc = p.acc) (hphase : q.phase = p.phase) (hsent : q.sentHeaders = p.sentHeaders)
    (harranged : q.arranged = p.arranged) (hpush : q.toPush = p.toPush) (hmembers : q.members = p.members) : p.goesTo pos q :=
  ⟨hacc, hphase, hsent, harranged, hpush, by rw [hmembers], fun y hy _ => hmembers ▸ hy, fun h y hy => h y (hmembers ▸ hy)⟩

theorem PhaseSt.goesTo.refl (p : PhaseSt) (pos : Nat) : p.goesTo pos p := .of_members pos rfl rfl rfl rfl rfl rfl

theorem PhaseSt.goesTo.trans {p q s : PhaseSt} {pos : Nat} (hpq : p.goesTo pos q) (hqs : q.goesTo pos s) : p.goesTo pos s where
  acc := hqs.acc.trans hpq.acc
  phase := hqs.phase.trans hpq.phase
  sentHeaders := hqs.sentHeaders.trans hpq.sentHeaders
  arranged := hqs.arranged.trans hpq.arranged
  toPush := hqs.toPush.trans hpq.toPush
  positions := hqs.positions.trans hpq.positions
  others y hy hpos := hqs.others y (hpq.others y hy hpos) hpos
  settled h := hqs.settled (hpq.settled h)

/-- One member's entry changed, with what it has sent or lost kept. -/
theorem goesTo_mapMember (p : PhaseSt) (pos : Nat) {f : MemberSt → MemberSt} (hpos : ∀ x, (f x).pos = x.pos)
    (hkeeps : ∀ x, x.header = true ∨ x.missing = true → (f x).header = true ∨ (f x).missing = true) : p.goesTo pos (p.mapMember pos f) where
  acc := rfl
  phase := rfl
  sentHeaders := rfl
  arranged := rfl
  toPush := rfl
  positions := by
    unfold PhaseSt.mapMember
    rw [List.map_map]
    refine List.map_congr_left fun x _ => ?_
    simp only [Function.comp_apply]
    split
    · exact hpos x
    · rfl
  others y hy hne := List.mem_map.2 ⟨y, hy, by simp [hne]⟩
  settled h y hy := by
    obtain ⟨x, hx, rfl⟩ := List.mem_map.1 hy
    split
    · exact hkeeps x (h x hx)
    · exact h x hx

theorem goesTo_lose (p : PhaseSt) (k pos : Nat) (stale : Bool) : p.goesTo pos (p.lose k pos stale) :=
  (goesTo_mapMember p pos (f := fun m => { m with missing := true, stale := m.stale || stale }) (fun _ => rfl) fun _ _ => .inr rfl).trans
    (.of_members pos rfl rfl rfl rfl rfl rfl)

theorem goesTo_header (p : PhaseSt) (pos : Nat) : p.goesTo pos (p.mapMember pos fun x => { x with header := true }) :=
  goesTo_mapMember p pos (fun _ => rfl) fun _ _ => .inl rfl

theorem goesTo_keepDispatch (d : Dev) (r : Round) (p : PhaseSt) (res : Option Nat) (x : RowSt) : p.goesTo x.pos (d.keepDispatch r p res x).1 := by
  unfold Dev.keepDispatch
  split
  · exact .refl p _
  · next e _ =>
    have hcount := goesTo_mapMember p x.pos (f := fun m => { m with byExpert := m.byExpert.modify e (· + 1) }) (fun _ => rfl) fun _ h => h
    dsimp only
    split
    · exact hcount.trans (.of_members _ rfl rfl rfl rfl rfl rfl)
    · split <;> exact hcount.trans (.of_members _ rfl rfl rfl rfl rfl rfl)

theorem goesTo_keepReturn (k : Nat) (p : PhaseSt) (x : RowSt) (pos : Nat) : p.goesTo pos (keepReturn k p x).1 := by
  unfold keepReturn
  extract_lets t key ok
  split <;> exact .of_members _ rfl rfl rfl rfl rfl rfl

theorem goesTo_keepRows (d : Dev) (r : Round) (ret : Bool) (res : Option Nat) {pos : Nat} (xs : List RowSt) (p : PhaseSt) (hpos : ∀ x ∈ xs, x.pos = pos) :
    p.goesTo pos (d.keepRows r ret res p xs).1 := by
  induction xs generalizing p with
  | nil => exact .refl p _
  | cons x xs ih =>
    obtain ⟨rfl, hrest⟩ := List.forall_mem_cons.1 hpos
    refine PhaseSt.goesTo.trans ?_ (ih _ hrest)
    cases ret with
    | true => exact goesTo_keepReturn ..
    | false => exact goesTo_keepDispatch ..

/-- The round, or what has become of it, is in a phase of which `P` holds. -/
def Dev.phaseIs (e : Dev) (ret : Bool) (r : Round) (P : PhaseSt → Prop) : Prop := ∃ x q, e.phaseAt x ret q ∧ r.alike ret x ∧ P q

/-- The device has come from phase `p` of round `r` to one after messages of the member at a position. -/
def Dev.reaches (e : Dev) (ret : Bool) (r : Round) (p : PhaseSt) (pos : Nat) : Prop := e.phaseIs ret r (p.goesTo pos)

theorem mapPhase_alike {r x : Round} {ret : Bool} (h : r.alike ret x) (d : Dev) (f : PhaseSt → PhaseSt) : d.mapPhase x ret f = d.mapPhase r ret f := by
  rw [Dev.mapPhase, h.bwd, h.layer, h.mb, Dev.mapPhase]

theorem Dev.phaseAt.key {d : Dev} {r x : Round} {ret : Bool} {p : PhaseSt} (h : d.phaseAt x ret p) (halike : r.alike ret x) :
    d.round? r.bwd r.layer r.mb = some x := by
  rw [← halike.bwd, ← halike.layer, ← halike.mb]
  exact h.round

section
variable {d e : Dev} {ret : Bool} {r : Round} {P Q : PhaseSt → Prop} {p : PhaseSt} {pos : Nat}

theorem Dev.phaseIs.of_rounds (h : d.phaseIs ret r P) (hrounds : e.bz.rounds = d.bz.rounds) : e.phaseIs ret r P := by
  obtain ⟨x, q, hat, hx, hq⟩ := h
  exact ⟨x, q, hat.of_rounds hrounds, hx, hq⟩

/-- The phase changed, through any round of the same key. -/
theorem Dev.phaseIs.mapPhase (h : d.phaseIs ret r P) {y : Round} (hy : r.alike ret y) {f : PhaseSt → PhaseSt} (hf : ∀ q, P q → Q (f q)) :
    (d.mapPhase y ret f).phaseIs ret r Q := by
  obtain ⟨x, q, hat, hx, hq⟩ := h
  rw [mapPhase_alike hy, ← mapPhase_alike hx]
  exact ⟨_, _, hat.mapPhase f, hx.trans (alike_mapPhase ..), hf q hq⟩

theorem Dev.phaseAt.reaches (h : d.phaseAt r ret p) (pos : Nat) : d.reaches ret r p pos := ⟨r, p, h, .refl r ret, .refl p pos⟩

theorem Dev.reaches.of_rounds (h : d.reaches ret r p pos) (hrounds : e.bz.rounds = d.bz.rounds) : e.reaches ret r p pos := Dev.phaseIs.of_rounds h hrounds

theorem Dev.reaches.trans {x : Round} {q : PhaseSt} (halike : r.alike ret x) (hgoes : p.goesTo pos q) (h : e.reaches ret x q pos) :
    e.reaches ret r p pos := by
  obtain ⟨y, s, hat, halike', hgoes'⟩ := h
  exact ⟨y, s, hat, halike.trans halike', hgoes.trans hgoes'⟩

theorem Dev.phaseAt.reaches_mapPhase (h : d.phaseAt r ret p) {f : PhaseSt → PhaseSt} (hf : p.goesTo pos (f p)) :
    (d.mapPhase r ret f).reaches ret r p pos := ⟨_, _, h.mapPhase f, alike_mapPhase r ret f, hf⟩

/-- A change that keeps every phase's progress. -/
theorem Dev.reaches.mapPhase (h : d.reaches ret r p pos) {f : PhaseSt → PhaseSt} (hf : ∀ q : PhaseSt, q.goesTo pos (f q)) {x : Round} (hx : r.alike ret x) :
    (d.mapPhase x ret f).reaches ret r p pos := Dev.phaseIs.mapPhase h hx fun q hq => hq.trans (hf q)

end

/-! ## A phase that waits (R230) -/

/-- A dispatch phase that waits stays as it is. -/
theorem phaseCheck_waits {d : Dev} {r x : Round} {p : PhaseSt} (h : d.phaseAt x false p) (hx : r.alike false x) (hwaits : p.waiting) :
    d.phaseCheck r.bwd r.layer r.mb false = d := by
  have hopen : (p.arranged || !p.sentHeaders || !p.members.all fun m => m.header || m.missing) = true := by
    rcases hwaits with hsent | hopen
    · simp [hsent]
    · have hall : p.members.all (fun m => m.header || m.missing) = false := by
        refine Bool.eq_false_iff.2 fun hall => hopen fun y hy => ?_
        simpa using List.all_eq_true.1 hall y hy
      simp [hall]
  simp only [Dev.phaseCheck, Bool.false_eq_true, if_false, h.key hx, h.phase, hopen, if_true]

theorem not_settled_of_open {p : PhaseSt} {y : MemberSt} (hy : y ∈ p.members) (hheader : y.header = false) (hmissing : y.missing = false) : ¬ p.settled :=
  fun h => by simpa [hheader, hmissing] using h y hy

/-! ## A message in a phase (R214, R219, R220, R230) -/

/-- What a message of an open member does before the phase is looked at again. -/
def Dev.enterBody (d : Dev) (r : Round) (ret : Bool) (p : PhaseSt) (pos : Nat) (m : BzMsg) : Dev :=
  if m.epoch ≠ p.epoch then d.markMissing r ret pos true
  else if m.format ≠ fmtCode p.fmt || m.hTiles ≠ p.hTiles then d.markMissing r ret pos false
  else if m.kind = bzRows then d.enterRows r ret p pos m
  else if m.kind = bzHeader then d.enterHeader r ret p pos m
  else if m.kind = bzDropList && ret then d.enterDrops r p pos m
  else d.markMissing r ret pos false

theorem enterMsg_open (d : Dev) {r : Round} {ret : Bool} {p : PhaseSt} {m : BzMsg} {x : MemberSt} (hphase : r.phase? ret = some p)
    (hmember : (p.members.find? fun y => y.pos == r.members.idxOf m.src) = some x) (hmissing : x.missing = false) (hheader : x.header = false) :
    d.enterMsg r ret m = (d.enterBody r ret p (r.members.idxOf m.src) m).phaseCheck r.bwd r.layer r.mb ret := by
  simp only [Dev.enterMsg, hphase, hmember, hmissing, hheader, Bool.or_self, Bool.false_eq_true, if_false]
  rfl

/-- A message of a member that has sent its HEADER or is missing, or of none, does nothing; any other enters the phase, which is looked at again. -/
theorem enterMsg_cases (d : Dev) {r : Round} {ret : Bool} {p : PhaseSt} (m : BzMsg) (hphase : r.phase? ret = some p) :
    d.enterMsg r ret m = d ∧ (∀ x, (p.members.find? fun y => y.pos == r.members.idxOf m.src) = some x → x.header = true ∨ x.missing = true) ∨
    d.enterMsg r ret m = (d.enterBody r ret p (r.members.idxOf m.src) m).phaseCheck r.bwd r.layer r.mb ret := by
  cases hmember : p.members.find? fun y => y.pos == r.members.idxOf m.src with
  | none => exact .inl ⟨by simp only [Dev.enterMsg, hphase, hmember], fun x hx => absurd hx (by simp)⟩
  | some x =>
    cases hdone : x.missing || x.header with
    | true =>
      refine .inl ⟨by simp only [Dev.enterMsg, hphase, hmember, hdone, if_true], fun y hy => ?_⟩
      obtain rfl := Option.some_inj.1 hy
      simpa [or_comm] using hdone
    | false =>
      obtain ⟨hmissing, hheader⟩ := Bool.or_eq_false_iff.1 hdone
      exact .inr (enterMsg_open d hphase hmember hmissing hheader)

/-- The column tiles of a ROWS message (R213). -/
def msgTiles (f : Fmt) (m : BzMsg) : List (List Byte) :=
  (List.range m.hTiles).map fun j => (m.body.drop (544 + j * tileTotal f)).take (tileTotal f)

/-- The rows of a ROWS message of the member at a position (R213). -/
def msgRows (f : Fmt) (m : BzMsg) (pos : Nat) (bad : List (Nat × Option Nat)) : List RowSt :=
  let side := m.body.take 544
  (List.range (min 32 (fieldAt side 1 1))).map fun i =>
    let e := slice side (32 + 16 * i) 16
    mkRow f (msgTiles f m) bad i pos ((msgTiles f m).map tileCols).sum (BitVec.ofNat 64 (fieldAt e 0 8)) (fieldAt e 8 2 % 4096) (fieldAt e 10 2)

theorem msgRows_pos (f : Fmt) (m : BzMsg) (pos : Nat) (bad : List (Nat × Option Nat)) : ∀ x ∈ msgRows f m pos bad, x.pos = pos := by
  intro x hx
  obtain ⟨i, -, rfl⟩ := List.mem_map.1 hx
  rfl

/-- The rows of a message of `n` rows kept by a phase, with the counts of R237. -/
def Dev.keepGroup (d : Dev) (r : Round) (ret : Bool) (p : PhaseSt) (pos n : Nat) (rows : List RowSt) : Dev :=
  let p := p.mapMember pos fun x => { x with rows := x.rows + n, groups := x.groups + 1 }
  let k := d.keepRows r ret ((d.dispatchOf p).bind (·.reservation)) p rows
  let d := d.mapPhase r ret fun _ => k.1
  let d := { d with bz := { d.bz with dup := sat32 (d.bz.dup + k.2.1), overrun := sat32 (d.bz.overrun + k.2.2) } }
  d.bzErr ((if k.2.1 > 0 then 4 else 0) + if k.2.2 > 0 then 8 else 0)

/-- The tiles of a message with their numbers. -/
def numberedTiles (f : Fmt) (m : BzMsg) : List (Nat × List Byte) :=
  (List.range m.hTiles).map fun j => (j, (m.body.drop (544 + j * tileTotal f)).take (tileTotal f))

theorem numberedTiles_snd (f : Fmt) (m : BzMsg) : (numberedTiles f m).map (·.2) = msgTiles f m := by
  simp [numberedTiles, msgTiles, Function.comp_def]

/-- A ROWS message of the right length: its side column and tiles are checked, and its rows are kept. -/
theorem enterRows_eq (d : Dev) (r : Round) (ret : Bool) (p : PhaseSt) (pos : Nat) {m : BzMsg} {f : Fmt} (hfmt : fmtOf m.format = some f)
    (hlen : m.body.length = 544 + m.hTiles * tileTotal f) :
    d.enterRows r ret p pos m =
      let side := m.body.take 544
      let tag0 := fieldAt side 32 8
      let a := d.bzCheck r tag0 (sideGood side && fieldAt side 2 2 == r.layer && fieldAt side 4 4 == p.epoch)
      let b := a.2.badTiles r f tag0 (numberedTiles f m)
      b.2.keepGroup r ret p pos (min 32 (fieldAt side 1 1))
        (msgRows f m pos (if a.1 then b.1 else (numberedTiles f m).map fun x => (x.1, some (storedCrc x.2)))) := by
  simp only [Dev.enterRows, hfmt, hlen, ne_eq, not_true_eq_false, if_false, msgRows, ← numberedTiles_snd]
  rfl

section
variable {d : Dev} {r : Round} {ret : Bool} {p : PhaseSt} (h : d.phaseAt r ret p) (pos : Nat)
include h

theorem markMissing_reaches (stale : Bool) : (d.markMissing r ret pos stale).reaches ret r p pos := h.reaches_mapPhase (goesTo_lose p r.k pos stale)

theorem enterHeader_reaches (m : BzMsg) : d.exchTo (d.enterHeader r ret p pos m) ∧ (d.enterHeader r ret p pos m).reaches ret r p pos := by
  unfold Dev.enterHeader
  split
  · exact ⟨.refl d, h.reaches pos⟩
  · extract_lets n counts ok
    split
    · exact ⟨exchTo_mapPhase .., h.reaches_mapPhase (goesTo_header p pos)⟩
    · exact ⟨exchTo_mapPhase .., markMissing_reaches h pos false⟩

theorem keepGroup_reaches (n : Nat) {rows : List RowSt} (hpos : ∀ x ∈ rows, x.pos = pos) :
    d.exchTo (d.keepGroup r ret p pos n rows) ∧ (d.keepGroup r ret p pos n rows).reaches ret r p pos := by
  unfold Dev.keepGroup
  extract_lets p' k d1 bz d2
  have hkept : p.goesTo pos k.1 :=
    (goesTo_mapMember p pos (f := fun x => { x with rows := x.rows + n, groups := x.groups + 1 }) (fun _ => rfl) fun _ hx => hx).trans
      (goesTo_keepRows d r ret _ rows p' hpos)
  have hcounts : d1.asideTo d2 := ⟨⟨_, _, _, _, _, _, _, _, rfl, rfl, rfl⟩, rfl⟩
  have hrest (bits : Nat) : d1.asideTo (d2.bzErr bits) := hcounts.trans (asideTo_bzErr d2 bits)
  exact ⟨(exchTo_mapPhase ..).trans (hrest _).exch, (h.reaches_mapPhase (f := fun _ => k.1) hkept).of_rounds (hrest _).rounds⟩

theorem enterRows_reaches (hunarmed : d.unarmed = true) (m : BzMsg) :
    d.exchTo (d.enterRows r ret p pos m) ∧ (d.enterRows r ret p pos m).reaches ret r p pos := by
  have hmissing : d.exchTo (d.markMissing r ret pos false) ∧ (d.markMissing r ret pos false).reaches ret r p pos :=
    ⟨exchTo_mapPhase .., markMissing_reaches h pos false⟩
  cases hfmt : fmtOf m.format with
  | none =>
    simp only [Dev.enterRows, hfmt]
    exact hmissing
  | some f =>
    by_cases hlen : m.body.length = 544 + m.hTiles * tileTotal f
    · rw [enterRows_eq d r ret p pos hfmt hlen]
      extract_lets side tag0 a b
      have hcheck : d.asideTo b.2 := (asideTo_bzCheck hunarmed ..).trans (asideTo_badTiles ((asideTo_bzCheck hunarmed ..).exch.unarmed hunarmed) ..)
      obtain ⟨hexch, hreaches⟩ := keepGroup_reaches (h.of_rounds hcheck.rounds) pos (min 32 (fieldAt side 1 1))
        (msgRows_pos f m pos (if a.1 then b.1 else (numberedTiles f m).map fun x => (x.1, some (storedCrc x.2))))
      exact ⟨hcheck.exch.trans hexch, hreaches⟩
    · simp only [Dev.enterRows, hfmt, hlen, ne_eq, not_false_eq_true, if_true]
      exact hmissing

/-- A message other than a DROP_LIST of a return phase writes nothing. -/
theorem enterBody_reaches (hunarmed : d.unarmed = true) {m : BzMsg} (hdrops : m.kind = bzDropList → ret = false) :
    d.exchTo (d.enterBody r ret p pos m) ∧ (d.enterBody r ret p pos m).reaches ret r p pos := by
  have hmissing (stale : Bool) : d.exchTo (d.markMissing r ret pos stale) ∧ (d.markMissing r ret pos stale).reaches ret r p pos :=
    ⟨exchTo_mapPhase .., markMissing_reaches h pos stale⟩
  unfold Dev.enterBody
  split
  · exact hmissing true
  · split
    · exact hmissing false
    · split
      · exact enterRows_reaches h pos hunarmed m
      · split
        · exact enterHeader_reaches h pos m
        · split
          · next hkind =>
            simp only [Bool.and_eq_true, decide_eq_true_eq] at hkind
            exact absurd (hdrops hkind.1) (by simp [hkind.2])
          · exact hmissing false

end

/-- A message in a dispatch phase that waits for this device's HEADERs. -/
theorem enterMsg_dispatch {d : Dev} (hunarmed : d.unarmed = true) {r : Round} {p : PhaseSt} (h : d.phaseAt r false p) (hsent : p.sentHeaders = false)
    (m : BzMsg) : d.exchTo (d.enterMsg r false m) ∧ (d.enterMsg r false m).reaches false r p (r.members.idxOf m.src) := by
  rcases enterMsg_cases d m h.phase with ⟨hsame, -⟩ | henter
  · rw [hsame]
    exact ⟨.refl d, h.reaches _⟩
  · obtain ⟨hexch, x, q, hat, halike, hgoes⟩ := enterBody_reaches h (r.members.idxOf m.src) hunarmed (m := m) fun _ => rfl
    rw [henter, phaseCheck_waits hat halike (.inl (hgoes.sentHeaders.trans hsent))]
    exact ⟨hexch, x, q, hat, halike, hgoes⟩

end Sys2Proof.Machine
end

section
/-! The sending of a phase (R207, R216, R218): to other members in messages, to itself through the same steps. -/

namespace Sys2Proof.Machine

open Sys2Proof

/-! ## A HEADER in a phase (R230) -/

/-- A phase after a member's HEADER: the member has sent it or is missing, and nothing else came in. -/
structure PhaseSt.headedTo (p : PhaseSt) (pos : Nat) (q : PhaseSt) : Prop where
  goes : p.goesTo pos q
  rows : p.rows = [] → q.rows = []
  choices : q.choices = p.choices
  alone : p.members.map (·.pos) = [pos] → q.settled

theorem settled_mapMember {p : PhaseSt} {pos : Nat} {f : MemberSt → MemberSt} (halone : p.members.map (·.pos) = [pos])
    (hf : ∀ x, (f x).header = true ∨ (f x).missing = true) : (p.mapMember pos f).settled := by
  intro y hy
  obtain ⟨x, hx, rfl⟩ := List.mem_map.1 hy
  have hpos : x.pos ∈ p.members.map (·.pos) := List.mem_map_of_mem hx
  rw [halone, List.mem_singleton] at hpos
  simp only [hpos, beq_self_eq_true, if_true]
  exact hf x

theorem headedTo_lose (p : PhaseSt) (k pos : Nat) (stale : Bool) : p.headedTo pos (p.lose k pos stale) where
  goes := goesTo_lose p k pos stale
  rows h := by simp [PhaseSt.lose, PhaseSt.mapMember, h]
  choices := rfl
  alone h := settled_mapMember (f := fun m => { m with missing := true, stale := m.stale || stale }) h fun _ => .inr rfl

theorem headedTo_header (p : PhaseSt) (pos : Nat) : p.headedTo pos (p.mapMember pos fun x => { x with header := true }) where
  goes := goesTo_header p pos
  rows h := h
  choices := rfl
  alone h := settled_mapMember h fun _ => .inl rfl

theorem enterBody_header (d : Dev) (r : Round) (ret : Bool) {p : PhaseSt} {pos : Nat} {m : BzMsg} (hkind : m.kind = bzHeader) {x : MemberSt}
    (hmember : (p.members.find? fun y => y.pos == pos) = some x) :
    ∃ f : PhaseSt → PhaseSt, d.enterBody r ret p pos m = d.mapPhase r ret f ∧ p.headedTo pos (f p) := by
  unfold Dev.enterBody Dev.enterHeader
  simp only [hkind, bzRows, bzHeader, hmember]
  split
  · exact ⟨_, rfl, headedTo_lose ..⟩
  · split
    · exact ⟨_, rfl, headedTo_lose ..⟩
    · rw [if_neg (by decide), if_pos trivial]
      split
      · exact ⟨_, rfl, headedTo_header p pos⟩
      · exact ⟨_, rfl, headedTo_lose ..⟩

/-- A HEADER leaves the phase as it is, its member being settled, or changes the phase alone before it is looked at again. -/
theorem enterMsg_header (d : Dev) {r : Round} {ret : Bool} {p : PhaseSt} {m : BzMsg} (hkind : m.kind = bzHeader) (hphase : r.phase? ret = some p) :
    d.enterMsg r ret m = d ∧ p.headedTo (r.members.idxOf m.src) p ∨
    ∃ f : PhaseSt → PhaseSt, d.enterMsg r ret m = (d.mapPhase r ret f).phaseCheck r.bwd r.layer r.mb ret ∧ p.headedTo (r.members.idxOf m.src) (f p) := by
  cases hmember : p.members.find? fun y => y.pos == r.members.idxOf m.src with
  | none =>
    have hnone := List.find?_eq_none.1 hmember
    refine .inl ⟨by simp only [Dev.enterMsg, hphase, hmember], ⟨.refl p _, id, rfl, fun halone y hy => ?_⟩⟩
    have hpos : y.pos ∈ p.members.map (·.pos) := List.mem_map_of_mem hy
    rw [halone, List.mem_singleton] at hpos
    exact absurd (hnone y hy) (by simp [hpos])
  | some x =>
    rcases enterMsg_cases d m hphase with ⟨hsame, hdone⟩ | henter
    · refine .inl ⟨hsame, .refl p _, id, rfl, fun halone y hy => ?_⟩
      obtain ⟨z, hz⟩ := List.map_eq_singleton_iff.1 halone
      have hx := List.mem_of_find?_eq_some hmember
      rw [hz.1, List.mem_singleton] at hx hy
      rw [hy, ← hx]
      exact hdone x hmember
    · obtain ⟨f, hbody, hheaded⟩ := enterBody_header d r ret hkind hmember
      exact .inr ⟨f, by rw [henter, hbody], hheaded⟩

/-! ## One message to a member (R207, R216) -/

/-- A message of this device to itself. -/
def ownMsg (bwd : Bool) (layer mb : Nat) (ret : Bool) (p : PhaseSt) (rank kind : Nat) (body : List Byte) : BzMsg :=
  { version := 1, kind := kind, phase := phaseCode bwd ret, format := fmtCode p.fmt, layer := layer, microBatch := mb, resv := 0, src := rank, dst := rank,
    epoch := p.epoch, crc := 0, hTiles := p.hTiles, resvHi := 0, body := body }

/-- One message of a phase goes to the member at a position of the round. -/
def Dev.sendOne (d : Dev) (bwd : Bool) (layer mb : Nat) (ret : Bool) (p : PhaseSt) (r : Round) (pos kind : Nat) (body : List Byte) : Dev :=
  if decide (pos = r.pos) then
    match d.round? bwd layer mb with
    | none => d
    | some x => d.enterMsg x ret (ownMsg bwd layer mb ret p (r.members.getD pos 0) kind body)
  else d.bzSend r.core kind (phaseCode bwd ret) p.fmt layer mb (r.members.getD pos 0) p.epoch p.hTiles body

theorem groupRows_nil : groupRows [] = [] := rfl

/-- What a member is sent ends with its HEADER; what holds before it, holds after each message of rows and drops. -/
theorem sendMember_last {I : Dev → Prop} {d : Dev} {bwd : Bool} {layer mb : Nat} {ret : Bool} {p : PhaseSt} {pos : Nat} {rows : List RowSt}
    {drops : List Word64} {r : Round} (hround : d.round? bwd layer mb = some r)
    (hcount : ∀ (e : Dev) (n k : Nat), I e → I (e.mapPhase r ret fun q => { q with reexpr := q.reexpr + n, rowsSent := q.rowsSent + k }))
    (hsend : ∀ (e : Dev) (kind : Nat) (body : List Byte), rows ≠ [] ∨ drops ≠ [] → I e → I (e.sendOne bwd layer mb ret p r pos kind body))
    (h : I d) (counts : List Nat) :
    ∃ (e : Dev) (body : List Byte), I e ∧ d.sendMember bwd layer mb ret p pos rows drops counts = e.sendOne bwd layer mb ret p r pos bzHeader body := by
  have hgroups (gs : List (List RowSt)) (hgs : gs ≠ [] → rows ≠ []) (e : Dev) (he : I e) :
      I (gs.foldl (fun e g => (e.mapPhase r ret fun q => { q with reexpr := q.reexpr + (rowsBody p.fmt layer p.epoch p.hTiles g).2 }).sendOne bwd layer mb
        ret p r pos bzRows (rowsBody p.fmt layer p.epoch p.hTiles g).1) e) := by
    induction gs generalizing e with
    | nil => exact he
    | cons g gs ih =>
      have hrows := hgs (by simp)
      exact ih (fun _ => hrows) _ (hsend _ _ _ (.inl hrows) (hcount e _ 0 he))
  have hrows := hgroups (groupRows rows) (fun hgs hnil => hgs (by rw [hnil, groupRows_nil])) d h
  simp only [Dev.sendMember, hround]
  refine ⟨_, _, ?_, rfl⟩
  refine hcount _ 0 _ ?_
  cases hdrops : drops.isEmpty with
  | true => exact hrows
  | false =>
    refine hsend _ _ _ (.inr ?_) hrows
    rintro rfl
    exact absurd hdrops (by simp)

/-! ## A phase begins (R216, R218) -/

/-- A round whose phase has just begun: what came early for it has been taken out. -/
def Round.begins (r : Round) (code : Nat) (ret : Bool) (p : PhaseSt) : Round :=
  let r := { r with early := r.early.filter fun x => x.1 != code }
  if ret then { r with comb := some p } else { r with disp := some p }

theorem alike_begins (r : Round) (code : Nat) (ret : Bool) (p : PhaseSt) :
    r.alike ret (r.begins code ret p) ∧ (r.begins code ret p).phase? ret = some p := by
  cases ret <;> exact ⟨⟨rfl, rfl, rfl, rfl, rfl, rfl, rfl, fun _ => rfl⟩, rfl⟩

/-- The device whose round is in a phase that has just begun. -/
def Dev.phaseOpened (d : Dev) (bwd : Bool) (layer mb : Nat) (ret : Bool) (p : PhaseSt) : Dev :=
  let code := phaseCode bwd ret
  let key := bzKey code layer mb
  let d := if (d.track? 2 key).isSome then d
    else d.track 2 key (bazaarUnit (dieOfCore d.grade ((d.round? bwd layer mb).elim 0 (·.core)))) true
  d.setRound bwd layer mb fun r => r.begins code ret p

/-- The device has sent its HEADERs in a phase. -/
def Dev.headersSent (d : Dev) (bwd : Bool) (layer mb : Nat) (ret : Bool) : Dev :=
  match d.round? bwd layer mb with
  | some r => d.mapPhase r ret fun p => { p with sentHeaders := true }
  | none => d

/-- A phase to which no message came early. -/
theorem runPhase_eq {d : Dev} {bwd : Bool} {layer mb : Nat} {r : Round} (hround : d.round? bwd layer mb = some r) (hearly : r.early = []) (ret : Bool)
    (p : PhaseSt) (jobs : List (Nat × List RowSt × List Word64 × List Nat)) :
    d.runPhase bwd layer mb ret p jobs =
      ((jobs.foldl (fun d j => d.sendMember bwd layer mb ret p j.1 j.2.1 j.2.2.1 j.2.2.2) (d.phaseOpened bwd layer mb ret p)).headersSent bwd layer mb
        ret).phaseCheck bwd layer mb ret := by
  have hnone : ((d.round? bwd layer mb).elim [] fun r => r.early.filter fun x => x.1 == phaseCode bwd ret) = [] := by
    rw [hround]
    simp [hearly]
  simp only [Dev.runPhase, hnone, List.foldl_nil]
  rfl

section
variable {d : Dev} {r : Round} (hround : d.round? r.bwd r.layer r.mb = some r) (ret : Bool) (p : PhaseSt)
include hround

theorem phaseOpened_at :
    d.exchTo (d.phaseOpened r.bwd r.layer r.mb ret p) ∧ ∃ x, r.alike ret x ∧ (d.phaseOpened r.bwd r.layer r.mb ret p).phaseAt x ret p := by
  unfold Dev.phaseOpened
  extract_lets code key d1
  have htrack : d.asideTo d1 := by
    unfold d1
    split
    · exact .refl d
    · exact asideTo_track ..
  have hround' : d1.round? r.bwd r.layer r.mb = some r := (round?_of_rounds htrack.rounds ..).trans hround
  refine ⟨htrack.exch.trans (exchTo_setRound ..), ?_⟩
  obtain ⟨halike, hphase⟩ := alike_begins r code ret p
  have hopened := round?_setRound hround' (f := fun x => x.begins code ret p) ⟨halike.bwd, halike.layer, halike.mb⟩
  exact ⟨_, halike, by rw [halike.bwd, halike.layer, halike.mb]; exact hopened, hphase⟩

end

theorem headersSent_at {d : Dev} {x : Round} {ret : Bool} {q : PhaseSt} (h : d.phaseAt x ret q) :
    d.exchTo (d.headersSent x.bwd x.layer x.mb ret) ∧
    (d.headersSent x.bwd x.layer x.mb ret).phaseAt (x.mapPhase ret fun p => { p with sentHeaders := true }) ret { q with sentHeaders := true } := by
  unfold Dev.headersSent
  rw [h.round]
  exact ⟨exchTo_mapPhase .., h.mapPhase _⟩

/-- The position under which a round's messages to itself enter. -/
def Round.ownPos (r : Round) : Nat := r.members.idxOf (r.members.getD r.pos 0)

/-! ## A device that sends in a phase -/

/-- A device that has exchanged messages, and whose round is in a phase of which `P` holds. -/
def Dev.exchIn (d : Dev) (ret : Bool) (r : Round) (P : PhaseSt → Prop) (e : Dev) : Prop := d.exchTo e ∧ e.phaseIs ret r P

section
variable {d e : Dev} {ret : Bool} {r : Round} {P Q : PhaseSt → Prop} (h : d.exchIn ret r P e)
include h

theorem Dev.exchIn.mapPhase {x : Round} (hx : r.alike ret x) {f : PhaseSt → PhaseSt} (hf : ∀ q, P q → Q (f q)) :
    d.exchIn ret r Q (e.mapPhase x ret f) := ⟨h.1.trans (exchTo_mapPhase ..), h.2.mapPhase hx hf⟩

theorem Dev.exchIn.bzSend (hunarmed : d.unarmed = true) (core kind phase : Nat) (f : Fmt) (layer mb dst epoch hTiles : Nat) (body : List Byte) :
    d.exchIn ret r P (e.bzSend core kind phase f layer mb dst epoch hTiles body) := by
  have hsends := asideTo_bzSend (h.1.unarmed hunarmed) core kind phase f layer mb dst epoch hTiles body
  exact ⟨h.1.trans hsends.exch, h.2.of_rounds hsends.rounds⟩

/-- The HEADERs count as sent. -/
theorem Dev.exchIn.headersSent : d.exchIn ret r (fun s => ∃ q, P q ∧ s = { q with sentHeaders := true }) (e.headersSent r.bwd r.layer r.mb ret) := by
  obtain ⟨hexch, x, q, hat, hx, hq⟩ := h
  obtain ⟨hheaders, hat'⟩ := headersSent_at hat
  rw [hx.bwd, hx.layer, hx.mb] at hheaders hat'
  exact ⟨hexch.trans hheaders, _, _, hat', hx.trans (alike_mapPhase ..), q, hq, rfl⟩

end

/-- A message of the device to itself enters under its own position. -/
theorem sendOne_own {e : Dev} {ret : Bool} {r z y : Round} {q : PhaseSt} (hat : e.phaseAt z ret q) (hz : r.alike ret z) (hy : r.alike ret y) (ph : PhaseSt)
    (kind : Nat) (body : List Byte) :
    ∃ m : BzMsg, m.kind = kind ∧ z.members.idxOf m.src = r.ownPos ∧
      e.sendOne r.bwd r.layer r.mb ret ph y y.pos kind body = e.enterMsg z ret m := by
  refine ⟨ownMsg r.bwd r.layer r.mb ret ph (y.members.getD y.pos 0) kind body, rfl, ?_, ?_⟩
  · rw [Round.ownPos, hz.members, ← hy.members, ← hy.pos]
    rfl
  · simp only [Dev.sendOne, decide_true, if_true, hat.key hz]

/-- The device's HEADER to itself leaves the phase as it is, being settled, or changes the phase alone before it is looked at again. -/
theorem sendOne_ownHeader {e : Dev} {ret : Bool} {r z y : Round} {q : PhaseSt} (hat : e.phaseAt z ret q) (hz : r.alike ret z) (hy : r.alike ret y)
    (ph : PhaseSt) (body : List Byte) :
    e.sendOne r.bwd r.layer r.mb ret ph y y.pos bzHeader body = e ∧ q.headedTo r.ownPos q ∨
    ∃ f : PhaseSt → PhaseSt, e.sendOne r.bwd r.layer r.mb ret ph y y.pos bzHeader body = (e.mapPhase z ret f).phaseCheck r.bwd r.layer r.mb ret ∧
      q.headedTo r.ownPos (f q) := by
  obtain ⟨m, hkind, hpos, hsend⟩ := sendOne_own hat hz hy ph bzHeader body
  rw [hsend, ← hpos, ← hz.bwd, ← hz.layer, ← hz.mb]
  exact enterMsg_header e hkind hat.phase

/-! ## The sending of a dispatch phase (R219) -/

section
variable {d : Dev} (hunarmed : d.unarmed = true) {r : Round} {p : PhaseSt} (hsent : p.sentHeaders = false)
include hunarmed hsent

theorem sendOne_dispatch {e : Dev} (h : d.exchIn false r (p.goesTo r.ownPos) e) {x : Round} (hx : r.alike false x) (ph : PhaseSt) (pos kind : Nat)
    (body : List Byte) : d.exchIn false r (p.goesTo r.ownPos) (e.sendOne r.bwd r.layer r.mb false ph x pos kind body) := by
  by_cases hown : pos = x.pos
  · subst hown
    obtain ⟨hexch, y, q, hat, hy, hgoes⟩ := h
    obtain ⟨m, -, hpos, hsend⟩ := sendOne_own hat hy hx ph kind body
    obtain ⟨hmsg, hreaches⟩ := enterMsg_dispatch (hexch.unarmed hunarmed) hat (hgoes.sentHeaders.trans hsent) m
    rw [hsend]
    exact ⟨hexch.trans hmsg, Dev.reaches.trans hy hgoes (hpos ▸ hreaches)⟩
  · simp only [Dev.sendOne, hown, decide_false, Bool.false_eq_true, if_false]
    exact h.bzSend hunarmed ..

theorem sendMember_dispatch {e : Dev} (h : d.exchIn false r (p.goesTo r.ownPos) e) (ph : PhaseSt) (pos : Nat) (rows : List RowSt) (drops : List Word64)
    (counts : List Nat) : d.exchIn false r (p.goesTo r.ownPos) (e.sendMember r.bwd r.layer r.mb false ph pos rows drops counts) := by
  obtain ⟨-, y, q, hat, hy, -⟩ := id h
  obtain ⟨f, body, hf, hlast⟩ := sendMember_last (I := d.exchIn false r (p.goesTo r.ownPos)) (p := ph) (pos := pos) (rows := rows) (drops := drops)
    (hat.key hy) (fun e n k he => he.mapPhase hy fun q hq => hq.trans (.of_members _ rfl rfl rfl rfl rfl rfl))
    (fun e kind body _ he => sendOne_dispatch hunarmed hsent he hy ph pos kind body) h counts
  rw [hlast]
  exact sendOne_dispatch hunarmed hsent hf hy ph pos bzHeader body

/-- A dispatch phase one of whose other members' HEADERs is still out, begins, sends to every member, and stays open (R218). -/
theorem runPhase_dispatch_open (hround : d.round? r.bwd r.layer r.mb = some r) (hearly : r.early = []) {y : MemberSt} (hy : y ∈ p.members)
    (hother : y.pos ≠ r.ownPos) (hheader : y.header = false) (hmissing : y.missing = false) (jobs : List (Nat × List RowSt × List Word64 × List Nat)) :
    d.exchIn false r (fun q => q.acc = p.acc ∧ q.phase = p.phase ∧ q.sentHeaders = true ∧ q.arranged = p.arranged)
      (d.runPhase r.bwd r.layer r.mb false p jobs) := by
  obtain ⟨hopened, x0, hx0, hat0⟩ := phaseOpened_at hround false p
  have hsends := foldl_keeps (I := d.exchIn false r (p.goesTo r.ownPos)) (xs := jobs)
    (f := fun d j => d.sendMember r.bwd r.layer r.mb false p j.1 j.2.1 j.2.2.1 j.2.2.2)
    (fun e j _ he => sendMember_dispatch hunarmed hsent he p j.1 j.2.1 j.2.2.1 j.2.2.2) ⟨hopened, x0, p, hat0, hx0, .refl p _⟩
  obtain ⟨hexch, x, _, hat, hx, q, hgoes, rfl⟩ := hsends.headersSent
  rw [runPhase_eq hround hearly false p jobs,
    phaseCheck_waits hat hx (.inr (not_settled_of_open (hgoes.others y hy hother) hheader hmissing))]
  exact ⟨hexch, x, _, hat, hx, hgoes.acc, hgoes.phase, rfl, hgoes.arranged⟩

end

end Sys2Proof.Machine
end

section
/-! DISPATCH reads its operands and begins its phase (R208, R216, R218, R219, R227, R229). -/

namespace Sys2Proof.Machine

open Sys2Proof

/-! ## Operands that are here -/

/-- Operands of a station command that lie on the device are not asked for. -/
theorem staInputs_here {d : Dev} (id : Nat) {ss : List (Nat × Span)} (hhere : ∀ x ∈ ss, ∃ ps, x.2 = .mem ps) : d.staInputs id ss = (some d, d) := by
  have hin : d.inputsIn (.acc id) ss = true := by
    refine List.all_eq_true.2 fun x hx => ?_
    obtain ⟨ps, hps⟩ := hhere x hx
    rw [hps]
    rfl
  simp only [Dev.staInputs, mustAsk_here _ hhere, hin, Bool.false_eq_true, if_false, if_true]

/-- The ranks of an exchange group, each of them in the job (R208, R372). -/
def Dev.ranksAt (d : Dev) (addr n : Nat) : List Nat := (List.range n).map fun i => leNat (d.peek (addr + 2 * i) 2)

theorem readRanks_valid {d : Dev} (hunarmed : d.unarmed = true) {addr n : Nat} (hreadable : d.readable addr (2 * n) = true)
    (hranks : ∀ i, i < n → d.rankValid (leNat (d.peek (addr + 2 * i) 2)) = true) (r : Reader) (pos : Nat) :
    ∃ e, d.readRanks r pos addr n = (.ok (d.ranksAt addr n), e) ∧ d.cachesTo e := by
  obtain ⟨hin, hwhole⟩ := Bool.and_eq_true_iff.1 hreadable
  obtain ⟨e, hread, hde⟩ := readUnit_whole hunarmed (Option.isNone_iff_eq_none.1 hwhole) r
  have hfields : ((List.range n).map fun i => fieldAt (d.peek addr (2 * n)) (2 * i) 2) = d.ranksAt addr n := by
    refine List.map_congr_left fun i hi => ?_
    have hi := List.mem_range.1 hi
    rw [fieldAt, slice_peek d addr (by omega)]
  have hall : (d.ranksAt addr n).all e.rankValid = true := by
    refine List.all_eq_true.2 fun x hx => ?_
    obtain ⟨i, hi, rfl⟩ := List.mem_map.1 hx
    obtain ⟨_, _, _, rfl⟩ := hde
    exact hranks i (List.mem_range.1 hi)
  refine ⟨e, ?_, hde⟩
  simp only [Dev.readRanks, hin, hread, Bool.not_true, Bool.false_eq_true, if_false, hfields, hall, if_true]

/-- A span found among good ones, or none, is of device memory. -/
theorem span_found {d : Dev} {ss : List (Nat × Span)} (hgood : ∀ y ∈ ss, d.goodSpan y.2) (f : Nat × Span → Bool) :
    ∃ ps, ((ss.find? f).map (·.2)).getD (.mem []) = .mem ps := by
  cases hfind : ss.find? f with
  | none => exact ⟨[], rfl⟩
  | some y =>
    obtain ⟨ps, hps, -⟩ := hgood y (List.mem_of_find?_eq_some hfind)
    exact ⟨ps, hps⟩

/-! ## A station command begins (R352) -/

section
variable (d : Dev) (id : Nat) (slots : List Nat)

theorem retainAll_eq : slots.foldl (fun d s => d.retain s) d = { d with depot := (slots.foldl (fun d s => d.retain s) d).depot } := by
  induction slots generalizing d with
  | nil => rfl
  | cons s slots ih =>
    rw [List.foldl_cons, ih]
    rfl

theorem beginAcc_eq : d.beginAcc id slots = { d with
    depot := (d.beginAcc id slots).depot, accepted := d.accepted.map fun a => if a.id == id then { a with begun := true, refs := slots } else a } := by
  unfold Dev.beginAcc
  dsimp only
  rw [retainAll_eq]

theorem beginAcc_cores : (d.beginAcc id slots).cores = d.cores := by rw [beginAcc_eq]
theorem beginAcc_queues : (d.beginAcc id slots).queues = d.queues := by rw [beginAcc_eq]
theorem beginAcc_mem : (d.beginAcc id slots).mem = d.mem := by rw [beginAcc_eq]
theorem beginAcc_bz : (d.beginAcc id slots).bz = d.bz := by rw [beginAcc_eq]
theorem beginAcc_er : (d.beginAcc id slots).er = d.er := by rw [beginAcc_eq]

theorem beginAcc_acc {a : Accepted} (h : d.acc a.id = some a) : (d.beginAcc a.id slots).acc a.id = some { a with begun := true, refs := slots } := by
  rw [beginAcc_eq]
  unfold Dev.acc at h ⊢
  rw [List.find?_map]
  have hsame : ((fun b : Accepted => b.id == a.id) ∘ fun b : Accepted => if b.id == a.id then { b with begun := true, refs := slots } else b) =
      fun b => b.id == a.id := by
    funext b
    simp only [Function.comp_apply]
    split <;> rfl
  rw [hsame, h]
  simp

end

/-! ## The operands of a DISPATCH -/

/-- The operands of a DISPATCH are there and large enough, its routing table and members valid (R185, R208). -/
structure Dev.dispatchReady (d : Dev) (x : DispatchArgs) (route : List (Nat × Nat × Nat)) (cs : Span) : Prop where
  rows : ∃ rs, d.rowsSpans x = .ok rs ∧ ∀ y ∈ rs, d.goodSpan y.2
  choices : d.handleSpan x.r.choices (x.r.tokens * (16 * x.r.k + 8)) false = .ok cs
  choicesGood : d.goodSpan cs
  members : d.readable x.r.members (2 * x.r.group) = true
  ranks : ∀ i, i < x.r.group → d.rankValid (leNat (d.peek (x.r.members + 2 * i) 2)) = true
  table : d.readable x.routeTable (8 * x.experts) = true
  length : route.length = x.experts
  entries : ∀ i, i < x.experts → d.routeEntry (leNat (d.peek (x.routeTable + 8 * i) 8)) = .ok (route.getD i (0, 0, 0))
  recv : ∃ sp, d.handleSpan x.recv ((List.range (localCount route d.fx.rankSelf)).map fun e =>
    localCap route d.fx.rankSelf e * rowSlot x.rowsFmt (ceilDiv x.r.hidden 32)).sum true = .ok sp
  expertIn : ∃ r : Round, r.route = route ∧ ∃ sp, d.handleSpan x.expertIn (d.partOff r x.reservation (groupBytes x.rowsFmt (ceilDiv x.r.hidden 32))
    (localCount route d.fx.rankSelf)) true = .ok sp
  record : ∃ sp, d.handleSpan x.r.record (64 + roundUp (ceilDiv x.r.group 8) 32) true = .ok sp

/-- The offsets of experts' parts depend on the routing table alone. -/
theorem partOff_congr (d : Dev) {r x : Round} (h : r.route = x.route) (res : Option Nat) (bytes e : Nat) :
    d.partOff r res bytes e = d.partOff x res bytes e := by
  simp only [Dev.partOff, Dev.roundCap, h]

/-- The phase that a DISPATCH begins. -/
def dispatchPhase (d : Dev) (a : Accepted) (x : DispatchArgs) (route : List (Nat × Nat × Nat)) : PhaseSt :=
  PhaseSt.opening (phaseCode x.r.bwd false) a x.r.epoch x.rowsFmt (ceilDiv x.r.hidden 32) x.r.group (localCount route d.fx.rankSelf) x.reservation []

/-- No choice of a span of CHOICES is admitted. -/
def Dev.noneAdmitted (d : Dev) (x : RoundArgs) (cs : Span) : Prop :=
  ∃ ps, cs = .mem ps ∧ ∀ l ∈ choicesOf (d.peekAll ps) x.tokens x.k, ∀ y ∈ l, y.1 = false

/-- What a command sends in a phase to the member at each position; nothing but HEADERs where no choice is admitted. -/
def headersOnly (job : Nat → Nat × List RowSt × List Word64 × List Nat) : Prop := ∀ p, (job p).2.1 = []

theorem flatMap_admitted_nil {α β : Type} {l : List (List (Bool × α))} (h : ∀ c ∈ l, ∀ y ∈ c, y.1 = false) (f : Nat → Bool × α → β) :
    ((List.range l.length).flatMap fun t => ((l.getD t []).filter (·.1)).map fun c => f t c) = [] := by
  refine List.flatMap_eq_nil_iff.2 fun t ht => ?_
  have hlen := List.mem_range.1 ht
  have hmem : l.getD t [] ∈ l := by
    rw [List.getD_eq_getElem _ _ hlen]
    exact List.getElem_mem hlen
  rw [List.filter_eq_nil_iff.2 fun y hy => by simp [h _ hmem y hy]]
  rfl

/-- DISPATCH with such operands: it reads them, and its phase begins under it. -/
theorem dispatchGo_runs {d : Dev} (hd : d.Undisturbed) {a : Accepted} {x : DispatchArgs} {route : List (Nat × Nat × Nat)} {cs : Span}
    (h : d.dispatchReady x route cs) {r : Round} (hround : d.round? x.r.bwd x.r.layer x.r.microBatch = some r) :
    ∃ e slots job, d.exchTo e ∧
      e.round? x.r.bwd x.r.layer x.r.microBatch = some { r with members := d.ranksAt x.r.members x.r.group, route := route, pos := x.r.pos } ∧
      (∀ p, (job p).1 = p) ∧ (d.noneAdmitted x.r cs → headersOnly job) ∧ (∀ p, (job p).2.2.1 = []) ∧
      d.dispatchGo a x = (e.beginAcc a.id slots).runPhase x.r.bwd x.r.layer x.r.microBatch false (dispatchPhase d a x route)
        ((List.range x.r.group).map job) := by
  obtain ⟨rs, hrs, hrsGood⟩ := h.rows
  obtain ⟨ps, rfl, hclean⟩ := h.choicesGood
  obtain ⟨e1, hranks, hde1⟩ := readRanks_valid hd.unarmed h.members h.ranks (.acc a.id) 3
  have htable : e1.readable x.routeTable (8 * x.experts) = true := by obtain ⟨_, _, _, rfl⟩ := hde1; exact h.table
  obtain ⟨e2, hroute, he12⟩ := readRoute_valid (hde1.gate.unarmed hd.unarmed) htable h.length
    (fun i hi => by obtain ⟨_, _, _, rfl⟩ := hde1; exact h.entries i hi) (.acc a.id) 5
  have hde2 : d.cachesTo e2 := by
    obtain ⟨_, _, _, rfl⟩ := hde1
    obtain ⟨_, _, _, rfl⟩ := he12
    exact ⟨_, _, _, rfl⟩
  have hhere : ∀ y ∈ rs ++ [(2 ^ 41, Span.mem ps)], ∃ qs, y.2 = Span.mem qs := by
    intro y hy
    rcases List.mem_append.1 hy with hy | hy
    · obtain ⟨qs, hqs, -⟩ := hrsGood y hy
      exact ⟨qs, hqs⟩
    · exact ⟨ps, by rw [List.mem_singleton.1 hy]⟩
  let f (r : Round) : Round := { r with members := d.ranksAt x.r.members x.r.group, route := route, pos := x.r.pos }
  obtain ⟨hb, hl, hm⟩ := round?_key hround
  have hround2 : e2.round? r.bwd r.layer r.mb = some r := by rw [hb, hl, hm, hde2.round?]; exact hround
  have hround3 : (e2.setRound x.r.bwd x.r.layer x.r.microBatch f).round? x.r.bwd x.r.layer x.r.microBatch = some (f r) := by
    rw [← hb, ← hl, ← hm]
    exact round?_setRound hround2 ⟨rfl, rfl, rfl⟩
  generalize he3 : e2.setRound x.r.bwd x.r.layer x.r.microBatch f = e3 at hround3
  have hde3 : d.exchTo e3 := he3 ▸ hde2.aside.exch.trans (exchTo_setRound ..)
  have he3d : e3.Undisturbed ∧ e3.clean ps ∧ (∀ qs, e3.peekAll qs = d.peekAll qs) ∧ (∀ h n w, e3.handleSpan h n w = d.handleSpan h n w) ∧
      e3.fx.rankSelf = d.fx.rankSelf ∧ (∀ r res b n, e3.partOff r res b n = d.partOff r res b n) := by
    obtain ⟨_, _, _, rfl⟩ := hde2
    subst he3
    exact ⟨⟨hd.unarmed, hd.apart, hd.primary⟩, hclean, fun _ => rfl, fun _ _ _ => rfl, rfl, fun _ _ _ _ => rfl⟩
  obtain ⟨hund3, hclean3, hpeek3, hspan3, hself3, hpart3⟩ := he3d
  obtain ⟨recv, hrecv⟩ := h.recv
  obtain ⟨rr, hrr, expertIn, hexpertIn⟩ := h.expertIn
  obtain ⟨record, hrecord⟩ := h.record
  rw [partOff_congr d (x := f r) hrr] at hexpertIn
  obtain ⟨e4, hread, -⟩ := readSpan_whole hund3 hclean3 (.acc a.id) (2 ^ 41)
  have he34 : e3.asideTo e4 := by
    have haside := asideTo_readSpan hund3.unarmed hund3.primary (.acc a.id) (2 ^ 41) ps
    rwa [hread] at haside
  have hde4 : d.exchTo e4 := hde3.trans he34.exch
  have hreads (ws : List (Nat × Span × Nat × Nat)) (hws : ∀ w ∈ ws, ∃ qs, w.2.1 = Span.mem qs) :=
    asideTo_bzReads (hde4.unarmed hd.unarmed) (by rw [hde4.place]; exact hd.primary) (f r) a.id x.rowsFmt x.r.epoch hws
  unfold Dev.dispatchGo
  simp only [hrs, h.choices, staInputs_here a.id hhere, hranks, hroute]
  simp only [show (fun r : Round => { r with members := d.ranksAt x.r.members x.r.group, route := route, pos := x.r.pos }) = f from rfl, he3, hround3]
  simp only [hspan3, hself3, hpart3, hrecv, hexpertIn, hrecord, hread, hpeek3]
  generalize hgot : e4.bzReads _ _ _ _ _ = got
  have he5 : e4.asideTo got.2 := by
    rw [← hgot]
    refine hreads _ fun w hw => ?_
    obtain ⟨i, -, rfl⟩ := List.mem_map.1 hw
    exact span_found hrsGood _
  refine ⟨got.2, _, _, hde4.trans he5.exch, ?_, ?_, ?_, ?_, rfl⟩
  · rw [round?_of_rounds (he34.trans he5).rounds]
    exact hround3
  · exact fun p => rfl
  · rintro ⟨qs, hqs, hnone⟩ p
    obtain rfl : ps = qs := by injection hqs
    dsimp only
    rw [flatMap_admitted_nil hnone]
    rfl
  · exact fun p => rfl

end Sys2Proof.Machine
end

section
/-! DISPATCH joins or opens its round (R208, R227, R229), and its phase waits for the other members (R218). -/

namespace Sys2Proof.Machine

open Sys2Proof

/-- A DISPATCH may go on: its forward round's GATE is done, or its backward round has room to open at once (R208, R227, R229). -/
def Dev.mayDispatch (d : Dev) (x : DispatchArgs) (r : Round) : Prop :=
  if x.r.bwd then d.round? true x.r.layer x.r.microBatch = none ∧ d.bz.waits = [] ∧ d.bzRoom true (x.r.tokens * x.r.k) = true
  else d.round? false x.r.layer x.r.microBatch = some r ∧ r.gateDone = true ∧ r.disp = none ∧ r.early = [] ∧ r.tokens = x.r.tokens ∧ r.k = x.r.k

/-- The device with its Bazaar replaced. -/
def Dev.withBz (d : Dev) (bz : Bazaar) : Dev := { d with bz := bz }

/-- The backward round of a DISPATCH that is first in line opens at once (R229). -/
theorem serveWait_backward {d : Dev} {c : Nat} {a : Accepted} {x : DispatchArgs} (hacc : d.acc a.id = some a) (hop : a.cmd.op = .dispatch x)
    (hnone : d.round? true x.r.layer x.r.microBatch = none) (hwaits : d.bz.waits = []) (hroom : d.bzRoom true (x.r.tokens * x.r.k) = true) :
    (d.withWaits (d.bz.waits ++ [⟨c, true, a.id, x.r.layer, x.r.microBatch, x.r.tokens * x.r.k⟩])).serveWait =
      (d.withWaits []).openRound (bwdRound c a.id (x.r.tokens * x.r.k) x) := by
  have hacc' : (d.withWaits []).acc a.id = some a := hacc
  have hnone' : (d.withWaits []).round? true x.r.layer x.r.microBatch = none := hnone
  have hroom' : ∀ ws, (d.withWaits ws).bzRoom true (x.r.tokens * x.r.k) = true := fun _ => hroom
  have hline : ∀ w ws, (d.withWaits (w :: ws)).bz.waits = w :: ws := fun _ _ => rfl
  rw [hwaits, List.nil_append]
  simp only [Dev.serveWait, hline, hroom', Bool.not_true, Bool.false_eq_true, if_false]
  rw [show ({ d.withWaits [(⟨c, true, a.id, x.r.layer, x.r.microBatch, x.r.tokens * x.r.k⟩ : BzWait)] with bz := { (d.withWaits
    [(⟨c, true, a.id, x.r.layer, x.r.microBatch, x.r.tokens * x.r.k⟩ : BzWait)]).bz with waits := [] } } : Dev) = d.withWaits [] from rfl]
  simp only [hacc', hop, hnone', Option.isSome_none, Bool.false_eq_true, if_false]

/-- The oldest DISPATCH of a core goes on in its round, from which nothing has come early. -/
theorem runDispatch_goes {d : Dev} {c : Nat} {a : Accepted} {x : DispatchArgs} {r : Round} (hunarmed : d.unarmed = true)
    (holdest : d.oldest c (fun op => match op with | .dispatch _ => true | _ => false) = some a) (hacc : d.acc a.id = some a)
    (hop : a.cmd.op = .dispatch x) (hfault : d.dispatchFault x = none) (hmay : d.mayDispatch x r) :
    ∃ bz r1, d.runDispatch c = (d.withBz bz).dispatchGo a x ∧ (d.withBz bz).round? x.r.bwd x.r.layer x.r.microBatch = some r1 ∧ r1.early = [] ∧
      (x.r.bwd = true → r1.entries = x.r.tokens * x.r.k) := by
  unfold Dev.mayDispatch at hmay
  unfold Dev.runDispatch
  split
  · next hnone => exact absurd (hnone.symm.trans holdest) (by simp)
  · next b hb =>
    obtain rfl : b = a := Option.some_inj.1 (hb.symm.trans holdest)
    cases hbwd : x.r.bwd with
    | true =>
      simp only [hbwd, if_true] at hmay
      obtain ⟨hnone, hwaits, hroom⟩ := hmay
      have hserved := serveWait_backward (c := c) hacc hop hnone hwaits hroom
      have hround : ((d.withWaits []).openRound (bwdRound c b.id (x.r.tokens * x.r.k) x)).round? true x.r.layer x.r.microBatch =
          some (bwdRound c b.id (x.r.tokens * x.r.k) x) := by
        change (d.bz.rounds ++ [_]).find? _ = _
        unfold Dev.round? at hnone
        rw [List.find?_append, hnone]
        simp [bwdRound]
      refine ⟨((d.withWaits []).openRound (bwdRound c b.id (x.r.tokens * x.r.k) x)).bz, _, ?_, hround, rfl, fun _ => rfl⟩
      have hfree : (d.bz.waits.any fun w => w.bwd && w.acc == b.id) = false := by rw [hwaits]; rfl
      have hfirst (ws : List BzWait) : (d.bz.waits.isEmpty && (d.withWaits ws).bzRoom true (x.r.tokens * x.r.k)) = true := by
        rw [hwaits]
        exact hroom
      simp only [hop, hfault, hbwd, hnone, hfree, tableCheck_unarmed hunarmed, Bool.false_eq_true, if_false]
      change (if (d.bz.waits.isEmpty && (d.withWaits _).bzRoom true (x.r.tokens * x.r.k)) = true then (d.withWaits _).serveWait.dispatchGo b x
        else d.withWaits _) = _
      rw [if_pos (hfirst _), hserved]
      rfl
    | false =>
      simp only [hbwd, Bool.false_eq_true, if_false] at hmay
      obtain ⟨hround, hgate, hdisp, hearly, htokens, hk⟩ := hmay
      refine ⟨d.bz, r, ?_, hround, hearly, fun h => absurd h Bool.false_ne_true⟩
      simp only [hop, hfault, hbwd, hround, hdisp, htokens, hk, hgate, Option.isSome_none, ne_eq, not_true_eq_false, decide_false, Bool.or_self,
        Bool.false_eq_true, if_false, if_true]
      rfl

theorem Dev.dispatchReady.withBz {d : Dev} {x : DispatchArgs} {route : List (Nat × Nat × Nat)} {cs : Span} (h : d.dispatchReady x route cs)
    (bz : Bazaar) : (d.withBz bz).dispatchReady x route cs :=
  ⟨h.rows, h.choices, h.choicesGood, h.members, h.ranks, h.table, h.length, h.entries, h.recv, h.expertIn, h.record⟩

theorem exec_dispatch (c : Nat) (s : State) : exec (.dispatch c) s = .next (s.dev! (s.dev.runDispatch c)) := rfl

/-- The phase that a DISPATCH has begun under it, as it stands before it sends: what its round keeps, and what it has not touched. -/
structure Dev.dispatchBegun (d : Dev) (a : Accepted) (x : DispatchArgs) (e : Dev) (r : Round) : Prop where
  round : e.round? r.bwd r.layer r.mb = some r
  bwd : r.bwd = x.r.bwd
  layer : r.layer = x.r.layer
  mb : r.mb = x.r.microBatch
  early : r.early = []
  members : r.members = d.ranksAt x.r.members x.r.group
  pos : r.pos = x.r.pos
  entries : x.r.bwd = true → r.entries = x.r.tokens * x.r.k
  cores : e.cores = d.cores
  queues : e.queues = d.queues
  mem : e.mem = d.mem
  unarmed : e.unarmed = true
  acc : ∃ slots, e.acc a.id = some { a with begun := true, refs := slots }

/-- DISPATCH with operands that are there and large enough begins its phase and sends in it. -/
theorem runDispatch_begins {d : Dev} (hd : d.Undisturbed) {c : Nat} {a : Accepted} {x : DispatchArgs} {r : Round} {route : List (Nat × Nat × Nat)}
    {cs : Span} (holdest : d.oldest c (fun op => match op with | .dispatch _ => true | _ => false) = some a) (hacc : d.acc a.id = some a)
    (hop : a.cmd.op = .dispatch x) (hfault : d.dispatchFault x = none) (hmay : d.mayDispatch x r) (hready : d.dispatchReady x route cs) :
    ∃ e r1 job, d.dispatchBegun a x e r1 ∧ (∀ p, (job p).1 = p) ∧ (d.noneAdmitted x.r cs → headersOnly job) ∧ (∀ p, (job p).2.2.1 = []) ∧
      d.runDispatch c = e.runPhase r1.bwd r1.layer r1.mb false (dispatchPhase d a x route) ((List.range x.r.group).map job) := by
  obtain ⟨bz, r0, hgoes, hround, hearly, hentries⟩ := runDispatch_goes hd.unarmed holdest hacc hop hfault hmay
  obtain ⟨e, slots, job, hexch, hround', hjob, hnone, hdrops, hrun⟩ := dispatchGo_runs (d := d.withBz bz) ⟨hd.unarmed, hd.apart, hd.primary⟩ (a := a)
    (hready.withBz bz) hround
  obtain ⟨hb, hl, hm⟩ := round?_key hround
  refine ⟨e.beginAcc a.id slots, { r0 with members := d.ranksAt x.r.members x.r.group, route := route, pos := x.r.pos }, job, ?_, hjob, hnone, hdrops, ?_⟩
  · have hround3 := (round?_of_rounds (congrArg (·.rounds) (beginAcc_bz e a.id slots)) x.r.bwd x.r.layer x.r.microBatch).trans hround'
    have haccE : e.acc a.id = some a := by rw [Dev.acc, hexch.accepted]; exact hacc
    refine ⟨?_, hb, hl, hm, hearly, rfl, rfl, hentries, ?_, ?_, ?_, ?_, slots, beginAcc_acc e slots haccE⟩
    · rw [← hb, ← hl, ← hm] at hround3
      exact hround3
    · rw [beginAcc_cores, hexch.cores]
      rfl
    · rw [beginAcc_queues, hexch.queues]
      rfl
    · rw [beginAcc_mem, hexch.mem]
      rfl
    · exact unarmed_of_slots (by rw [beginAcc_er]) (hexch.unarmed hd.unarmed)
  · rw [hgoes, hrun]
    dsimp only
    rw [hb, hl, hm]
    rfl

/-! ## The members of a phase that has begun -/

theorem opening_members (phase : Nat) (a : Accepted) (epoch : Nat) (f : Fmt) (hTiles s experts : Nat) (res : Option Nat) (choices : List (List (Bool × Nat))) :
    (PhaseSt.opening phase a epoch f hTiles s experts res choices).members.map (·.pos) = List.range s := by
  simp [PhaseSt.opening, Function.comp_def]

/-- Among two or more members one is at another position than a given one, and has sent nothing. -/
theorem opening_other {phase : Nat} {a : Accepted} {epoch : Nat} {f : Fmt} {hTiles s experts : Nat} {res : Option Nat}
    {choices : List (List (Bool × Nat))} (hs : 2 ≤ s) (pos : Nat) :
    ∃ y ∈ (PhaseSt.opening phase a epoch f hTiles s experts res choices).members, y.pos ≠ pos ∧ y.header = false ∧ y.missing = false := by
  obtain ⟨i, hi, hne⟩ : ∃ i, i < s ∧ i ≠ pos := by
    by_cases h : pos = 0
    · exact ⟨1, by omega, by omega⟩
    · exact ⟨0, by omega, by omega⟩
  exact ⟨_, List.mem_map.2 ⟨i, List.mem_range.2 hi, rfl⟩, hne, rfl, rfl⟩

theorem core_of_cores {d e : Dev} (h : e.cores = d.cores) (k : Nat) : e.core k = d.core k := by rw [Dev.core, h, Dev.core]

/-- DISPATCH in a group of at least two has begun its phase and sent its HEADERs, and the phase stays open (R218). -/
theorem runDispatch_waits {d : Dev} (hd : d.Undisturbed) {c : Nat} {a : Accepted} {x : DispatchArgs} {r : Round} {route : List (Nat × Nat × Nat)}
    {cs : Span} (holdest : d.oldest c (fun op => match op with | .dispatch _ => true | _ => false) = some a) (hacc : d.acc a.id = some a)
    (hop : a.cmd.op = .dispatch x) (hfault : d.dispatchFault x = none) (hmay : d.mayDispatch x r) (hready : d.dispatchReady x route cs)
    (hgroup : 2 ≤ x.r.group) :
    let t := d.runDispatch c
    ∃ r' p, t.round? x.r.bwd x.r.layer x.r.microBatch = some r' ∧ r'.disp = some p ∧ p.acc = a.id ∧ p.phase = phaseCode x.r.bwd false ∧
      p.sentHeaders = true ∧ p.arranged = false ∧ (t.acc a.id).map (·.begun) = some true ∧ (x.r.bwd = true → r'.entries = x.r.tokens * x.r.k) ∧
      t.queues = d.queues ∧ t.mem = d.mem ∧ t.cores = d.cores := by
  obtain ⟨e, r1, job, hbegun, -, -, -, hrun⟩ := runDispatch_begins hd holdest hacc hop hfault hmay hready
  obtain ⟨y, hy, hother, hheader, hmissing⟩ := opening_other (phase := phaseCode x.r.bwd false) (a := a) (epoch := x.r.epoch) (f := x.rowsFmt)
    (hTiles := ceilDiv x.r.hidden 32) (experts := localCount route d.fx.rankSelf) (res := x.reservation) (choices := []) hgroup r1.ownPos
  obtain ⟨hexch, x', q, hat, halike, hqacc, hqphase, hqsent, hqarranged⟩ := runPhase_dispatch_open (p := dispatchPhase d a x route) hbegun.unarmed rfl
    hbegun.round hbegun.early hy hother hheader hmissing ((List.range x.r.group).map job)
  obtain ⟨slots, hslots⟩ := hbegun.acc
  have hround := hat.key halike
  rw [← hrun] at hexch hround
  rw [hbegun.bwd, hbegun.layer, hbegun.mb] at hround
  refine ⟨x', q, hround, hat.phase, hqacc, hqphase, hqsent, hqarranged, ?_, fun h => (halike.entries rfl).trans (hbegun.entries h),
    hexch.queues.trans hbegun.queues, hexch.mem.trans hbegun.mem, hexch.cores.trans hbegun.cores⟩
  rw [Dev.acc, hexch.accepted]
  exact congrArg (Option.map (·.begun)) hslots

end Sys2Proof.Machine
end

section
/-! COMBINE reads its operands and begins its phase (R208, R216, R218, R224). -/

namespace Sys2Proof.Machine

open Sys2Proof

/-! ## The operands of a COMBINE -/

/-- The operands of a COMBINE are there and large enough, and its members valid (R185, R208). -/
structure Dev.combineReadyFor (d : Dev) (x : CombineArgs) (r : Round) (p0 : PhaseSt) (ps : List (Nat × Nat)) : Prop where
  expertOut : ∀ e g j, e < localCount r.route d.fx.rankSelf → 32 * g < (p0.rows.filter fun y => y.key == e).length → j < ceilDiv x.r.hidden 32 →
    let off := d.partOff r p0.reservation (ceilDiv x.r.hidden 32 * tileTotal x.expFmt) e + g * (ceilDiv x.r.hidden 32 * tileTotal x.expFmt) +
      j * tileTotal x.expFmt
    ∃ b, d.checkHandle x.expertOut ⟨off, tileTotal x.expFmt, 32, false⟩ = .ok b ∧ d.goodSpan (b.span off (tileTotal x.expFmt))
  members : d.readable x.r.members (2 * x.r.group) = true
  ranks : ∀ i, i < x.r.group → d.rankValid (leNat (d.peek (x.r.members + 2 * i) 2)) = true
  ret : ∃ sp, d.handleSpan x.ret (x.r.tokens * x.r.k * rowSlot x.expFmt (ceilDiv x.r.hidden 32)) true = .ok sp
  out : ∃ sp, d.handleSpan x.out (ceilDiv x.r.tokens 32 * ceilDiv x.r.hidden 32 * tileTotal x.outFmt) true = .ok sp
  record : ∃ sp, d.handleSpan x.r.record (64 + roundUp (ceilDiv x.r.group 8) 32) true = .ok sp
  choices : d.handleSpan x.r.choices (x.r.tokens * (16 * x.r.k + 8)) true = .ok (.mem ps)
  clean : d.clean ps

/-- The spans of tiles under a handle, each of them valid. -/
theorem handleSpans_ok {α : Type} {d : Dev} {w : Word64} {n : Nat} (key off : α → Nat) {ts : List α}
    (h : ∀ t ∈ ts, ∃ b, d.checkHandle w ⟨off t, n, 32, false⟩ = .ok b ∧ d.goodSpan (b.span (off t) n)) {acc : List (Nat × Span)}
    (hacc : ∀ y ∈ acc, d.goodSpan y.2) :
    ∃ ss, ts.foldl (fun (e : Except HaltInfo (List (Nat × Span))) t => e.bind fun ss => match d.checkHandle w ⟨off t, n, 32, false⟩ with
      | .error k => .error (badHandle w k)
      | .ok b => .ok (ss ++ [(key t, b.span (off t) n)])) (.ok acc) = .ok ss ∧ ∀ y ∈ ss, d.goodSpan y.2 := by
  induction ts generalizing acc with
  | nil => exact ⟨acc, rfl, hacc⟩
  | cons t ts ih =>
    obtain ⟨⟨b, hb, hgood⟩, hrest⟩ := List.forall_mem_cons.1 h
    obtain ⟨ss, hss, hall⟩ := ih hrest (acc := acc ++ [(key t, b.span (off t) n)]) fun y hy => by
      rcases List.mem_append.1 hy with hy | hy
      · exact hacc y hy
      · rw [List.mem_singleton.1 hy]
        exact hgood
    refine ⟨ss, ?_, hall⟩
    rw [List.foldl_cons, Except.bind, hb]
    exact hss

/-- The phase that a COMBINE begins. -/
def combinePhase (d : Dev) (a : Accepted) (x : CombineArgs) (ps : List (Nat × Nat)) : PhaseSt :=
  PhaseSt.opening (phaseCode x.r.bwd true) a x.r.epoch x.expFmt (ceilDiv x.r.hidden 32) x.r.group 0 none
    ((choicesOf (d.peekAll ps) x.r.tokens x.r.k).map fun t => t.map fun c => (c.1, c.2.2.2))

/-- COMBINE with such operands: it reads them, and its phase begins under it. -/
theorem combineGo_runs {d : Dev} (hd : d.Undisturbed) {a : Accepted} {x : CombineArgs} {r : Round} {p0 : PhaseSt} {ps : List (Nat × Nat)}
    (h : d.combineReadyFor x r p0 ps) (hround : d.round? x.r.bwd x.r.layer x.r.microBatch = some r) :
    ∃ e slots job, d.exchTo e ∧ e.round? x.r.bwd x.r.layer x.r.microBatch = some { r with members := d.ranksAt x.r.members x.r.group } ∧
      (∀ p, (job p).1 = p) ∧ (∀ p, (∀ y ∈ p0.rows, y.pos ≠ p) → (job p).2.1 = []) ∧ (∀ p, (∀ y ∈ p0.dropTags, y.1 ≠ p) → (job p).2.2.1 = []) ∧
      d.combineGo a x r p0 = (e.beginAcc a.id slots).runPhase x.r.bwd x.r.layer x.r.microBatch true (combinePhase d a x ps)
        ((List.range x.r.group).map job) := by
  obtain ⟨hb, hl, hm⟩ := round?_key hround
  obtain ⟨ret, hret⟩ := h.ret
  obtain ⟨out, hout⟩ := h.out
  obtain ⟨record, hrecord⟩ := h.record
  let f (y : Round) : Round := { y with members := d.ranksAt x.r.members x.r.group }
  unfold Dev.combineGo
  extract_lets ht nCh outBytes recBytes res gb n inExpert places tiles key off spans retBytes small chKey
  have hin : ∀ t ∈ tiles, t.1 < n ∧ 32 * t.2.1 < (inExpert t.1).length ∧ t.2.2 < ht := by
    intro t ht'
    obtain ⟨e, he, ht'⟩ := List.mem_flatMap.1 ht'
    obtain ⟨g, hg, ht'⟩ := List.mem_flatMap.1 ht'
    obtain ⟨j, hj, rfl⟩ := List.mem_map.1 ht'
    have hg := List.mem_range.1 hg
    rw [ceilDiv, if_neg (by decide)] at hg
    exact ⟨List.mem_range.1 he, by dsimp only; omega, List.mem_range.1 hj⟩
  obtain ⟨ss, hss, hgood⟩ := handleSpans_ok (d := d) (w := x.expertOut) (n := tileTotal x.expFmt) key off (ts := tiles) (fun t ht' => by
    obtain ⟨he, hg, hj⟩ := hin t ht'
    exact h.expertOut t.1 t.2.1 t.2.2 he hg hj) (acc := []) (by simp)
  have hhere : ∀ y ∈ ss ++ [(chKey, Span.mem ps)], ∃ qs, y.2 = Span.mem qs := by
    intro y hy
    rcases List.mem_append.1 hy with hy | hy
    · obtain ⟨qs, hqs, -⟩ := hgood y hy
      exact ⟨qs, hqs⟩
    · exact ⟨ps, by rw [List.mem_singleton.1 hy]⟩
  obtain ⟨e1, hranks, hde1⟩ := readRanks_valid hd.unarmed h.members h.ranks (.acc a.id) 3
  have hround1 : e1.round? r.bwd r.layer r.mb = some r := by rw [hb, hl, hm, hde1.round?]; exact hround
  have hround2 := round?_setRound hround1 (f := f) ⟨rfl, rfl, rfl⟩
  generalize he2 : e1.setRound r.bwd r.layer r.mb f = e2 at hround2
  have hde2 : d.exchTo e2 := he2 ▸ hde1.aside.exch.trans (exchTo_setRound ..)
  have he2d : e2.Undisturbed ∧ e2.clean ps ∧ e2.peekAll ps = d.peekAll ps := by
    obtain ⟨_, _, _, rfl⟩ := hde1
    subst he2
    exact ⟨⟨hd.unarmed, hd.apart, hd.primary⟩, h.clean, rfl⟩
  obtain ⟨hund2, hclean2, hpeek2⟩ := he2d
  obtain ⟨e3, hread, -⟩ := readSpan_whole hund2 hclean2 (.acc a.id) chKey
  have he23 : e2.asideTo e3 := by
    have haside := asideTo_readSpan hund2.unarmed hund2.primary (.acc a.id) chKey ps
    rwa [hread] at haside
  have hde3 : d.exchTo e3 := hde2.trans he23.exch
  rw [show spans = .ok ss from hss, h.choices, hret, hout, hrecord]
  dsimp only
  rw [staInputs_here a.id hhere]
  dsimp only
  rw [hranks]
  dsimp only
  rw [show (e1.setRound r.bwd r.layer r.mb fun y => { y with members := d.ranksAt x.r.members x.r.group }) = e2 from he2, hread]
  dsimp only
  rw [hpeek2]
  generalize hgot : e3.bzReads _ _ _ _ _ = got
  have he34 : e3.asideTo got.2 := by
    rw [← hgot]
    refine asideTo_bzReads (hde3.unarmed hd.unarmed) (by rw [hde3.place]; exact hd.primary) _ _ _ _ fun w hw => ?_
    obtain ⟨t, -, rfl⟩ := List.mem_map.1 hw
    exact span_found hgood _
  have hplaces : ∀ t ∈ places, (inExpert t.1).getD t.2 RowSt.none_ ∈ p0.rows := by
    intro t ht'
    obtain ⟨e, -, ht'⟩ := List.mem_flatMap.1 ht'
    obtain ⟨i, hi, rfl⟩ := List.mem_map.1 ht'
    have hi := List.mem_range.1 hi
    dsimp only
    rw [List.getD_eq_getElem _ _ hi]
    exact (List.mem_filter.1 (List.getElem_mem hi)).1
  refine ⟨got.2, _, _, hde3.trans he34.exch, ?_, ?_, fun p hp => ?_, fun p hp => ?_, rfl⟩
  · rw [round?_of_rounds (he23.trans he34).rounds, ← hb, ← hl, ← hm]
    exact hround2
  · exact fun p => rfl
  · refine List.map_eq_nil_iff.2 (List.filter_eq_nil_iff.2 fun y hy => ?_)
    obtain ⟨t, ht', rfl⟩ := List.mem_map.1 hy
    simpa using hp _ (hplaces t ht')
  · exact List.map_eq_nil_iff.2 (List.filter_eq_nil_iff.2 fun y hy => by simpa using hp y hy)

/-- The oldest COMBINE of a core goes on in a round whose dispatch is arranged. -/
theorem runCombine_goes {d : Dev} {c : Nat} {a : Accepted} {x : CombineArgs} {r : Round} {p0 : PhaseSt}
    (holdest : d.oldest c (fun op => match op with | .combine _ => true | _ => false) = some a) (hop : a.cmd.op = .combine x)
    (henabled : wbit d.bz.ctrl 0 = true) (hlimits : roundLimits x.r (ceilDiv x.r.hidden 32) 5 = none) (hentry : outBad x.outFmt x.outEntry = false)
    (hround : d.round? x.r.bwd x.r.layer x.r.microBatch = some r) (hcomb : r.comb = none) (htokens : r.tokens = x.r.tokens) (hk : r.k = x.r.k)
    (hdisp : r.disp = some p0) (harranged : p0.arranged = true) : d.runCombine c = d.combineGo a x r p0 := by
  unfold Dev.runCombine
  split
  · next hnone => exact absurd (hnone.symm.trans holdest) (by simp)
  · next b hb =>
    obtain rfl : b = a := Option.some_inj.1 (hb.symm.trans holdest)
    simp only [hop, henabled, hlimits, hentry, hround, hcomb, htokens, hk, hdisp, harranged, Option.isSome_none, Bool.not_true, ne_eq, not_true_eq_false,
      decide_false, Bool.or_self, Bool.false_eq_true, if_false, if_true]

theorem exec_combine (c : Nat) (s : State) : exec (.combine c) s = .next (s.dev! (s.dev.runCombine c)) := rfl

end Sys2Proof.Machine
end

section
/-! A return phase in which nothing has come back yet (R218, R224): it looks at its rows, finds no token combined, and stays open. -/

namespace Sys2Proof.Machine

open Sys2Proof

/-- No row has come back, and every token has an admitted choice, so no token is combined (R224). -/
def PhaseSt.idle (p : PhaseSt) (tokens k : Nat) : Prop :=
  p.rows = [] ∧ ∀ t, t < tokens → ∃ j, j < k ∧ ((p.choices.getD t []).getD j (false, 0)).1 = true

theorem PhaseSt.idle.tokenDone {p : PhaseSt} {tokens k : Nat} (h : p.idle tokens k) {t : Nat} (ht : t < tokens) : p.tokenDone k t = false := by
  obtain ⟨hrows, hchoices⟩ := h
  obtain ⟨j, hj, hadmitted⟩ := hchoices t ht
  refine Bool.eq_false_iff.2 fun hdone => ?_
  have hback := List.all_eq_true.1 hdone j (List.mem_range.2 hj)
  rw [hadmitted, hrows] at hback
  exact absurd hback (by simp)

/-- The row tiles of a phase in which no token is combined wait. -/
theorem combineReady_idle {d : Dev} {r : Round} {p : PhaseSt} (h : d.phaseAt r true p) (hidle : p.idle r.tokens r.k) {rts : List Nat}
    (hrts : ∀ rt ∈ rts, 32 * rt < r.tokens) : d.combineReady r.bwd r.layer r.mb rts = d := by
  induction rts with
  | nil => rfl
  | cons rt rts ih =>
    obtain ⟨hrt, hrest⟩ := List.forall_mem_cons.1 hrts
    have hwait : (((List.range (min 32 (r.tokens - 32 * rt))).map (· + 32 * rt)).all fun t => p.tokenDone r.k t) = false := by
      refine Bool.eq_false_iff.2 fun hall => ?_
      have hfirst := List.all_eq_true.1 hall (0 + 32 * rt) (List.mem_map_of_mem (List.mem_range.2 (by omega)))
      rw [hidle.tokenDone (by omega)] at hfirst
      exact Bool.false_ne_true hfirst
    have hcomb : r.comb = some p := h.phase
    rw [Dev.combineReady, h.round]
    simp only [hcomb, hwait, Bool.not_false, Bool.or_true, if_true]
    exact ih hrest

/-- A phase after its tokens' entries retired. -/
def PhaseSt.retiredIn (p : PhaseSt) (r : Round) : PhaseSt :=
  { p with retired := (List.range r.tokens).filter fun t => p.retired.contains t || p.tokenDone r.k t }

/-- A round in whose return phase the entries of combined tokens have retired (R227). -/
def Round.retires (r : Round) : Round :=
  match r.comb with
  | none => r
  | some p => { r with entries := r.k * (r.tokens - (p.retiredIn r).retired.length), comb := some (p.retiredIn r) }

theorem retireEntries_eq (d : Dev) (bwd : Bool) (layer mb : Nat) : d.retireEntries bwd layer mb = d.setRound bwd layer mb Round.retires := rfl

theorem alike_retires (r : Round) : r.alike true r.retires := by
  unfold Round.retires
  split <;> exact ⟨rfl, rfl, rfl, rfl, rfl, rfl, rfl, fun h => absurd h (by simp)⟩

theorem retireEntries_at {d : Dev} {r : Round} {p : PhaseSt} (h : d.phaseAt r true p) :
    (d.retireEntries r.bwd r.layer r.mb).phaseAt r.retires true (p.retiredIn r) := by
  have hcomb : r.comb = some p := h.phase
  have halike := alike_retires r
  have hround := round?_setRound h.round (f := Round.retires) ⟨halike.bwd, halike.layer, halike.mb⟩
  refine ⟨?_, by simp only [Round.phase?, Round.retires, hcomb, if_true]⟩
  rw [halike.bwd, halike.layer, halike.mb, retireEntries_eq]
  exact hround

/-- A return phase looks at its tokens, and waits. -/
theorem phaseCheck_return_waits {d : Dev} {r x : Round} {p : PhaseSt} (h : d.phaseAt x true p) (hx : r.alike true x) (hidle : p.idle r.tokens r.k)
    (hwaits : p.waiting) :
    d.exchTo (d.phaseCheck r.bwd r.layer r.mb true) ∧ (d.phaseCheck r.bwd r.layer r.mb true).phaseAt x.retires true (p.retiredIn x) := by
  rw [← hx.tokens, ← hx.k] at hidle
  rw [← hx.bwd, ← hx.layer, ← hx.mb]
  have hat := retireEntries_at h
  have hready : d.combineReady x.bwd x.layer x.mb (List.range (ceilDiv x.tokens 32)) = d := combineReady_idle h hidle fun rt hrt => by
    have hrt := List.mem_range.1 hrt
    rw [ceilDiv, if_neg (by decide)] at hrt
    omega
  have hopen : ((p.retiredIn x).arranged || !(p.retiredIn x).sentHeaders || !(p.retiredIn x).members.all fun m => m.header || m.missing) = true := by
    rcases hwaits with hsent | hopen
    · simp [PhaseSt.retiredIn, hsent]
    · have hall : p.members.all (fun m => m.header || m.missing) = false :=
        Bool.eq_false_iff.2 fun hall => hopen fun y hy => by simpa using List.all_eq_true.1 hall y hy
      simp [PhaseSt.retiredIn, hall]
  have hcheck : d.phaseCheck x.bwd x.layer x.mb true = d.retireEntries x.bwd x.layer x.mb := by
    simp only [Dev.phaseCheck, if_true, h.round, hready, hat.key (alike_retires x), hat.phase, hopen]
  rw [hcheck]
  exact ⟨exchTo_setRound .., hat⟩

/-! ## The sending of a return phase to other members (R216, R220) -/

/-- A phase after messages of the device to itself by which nothing comes back. -/
structure PhaseSt.idleTo (p : PhaseSt) (pos : Nat) (q : PhaseSt) : Prop where
  goes : p.goesTo pos q
  rows : q.rows = []
  choices : q.choices = p.choices

theorem PhaseSt.idleTo.idle {p q : PhaseSt} {pos tokens k : Nat} (h : p.idleTo pos q) (hidle : p.idle tokens k) : q.idle tokens k :=
  ⟨h.rows, by rw [h.choices]; exact hidle.2⟩

section
variable {d : Dev} (hunarmed : d.unarmed = true) {r : Round} {p : PhaseSt} (hsent : p.sentHeaders = false) (hidle : p.idle r.tokens r.k)

include hsent hidle in
theorem sendOne_idleHeader {e : Dev} (h : d.exchIn true r (p.idleTo r.ownPos) e) {x : Round} (hx : r.alike true x) (ph : PhaseSt) (body : List Byte) :
    d.exchIn true r (p.idleTo r.ownPos) (e.sendOne r.bwd r.layer r.mb true ph x x.pos bzHeader body) := by
  obtain ⟨hexch, y, q, hat, hy, hq⟩ := h
  rcases sendOne_ownHeader hat hy hx ph body with ⟨hsame, -⟩ | ⟨f, hsend, hheaded⟩
  · rw [hsame]
    exact ⟨hexch, y, q, hat, hy, hq⟩
  · have hf : p.idleTo r.ownPos (f q) := ⟨hq.goes.trans hheaded.goes, hheaded.rows hq.rows, hheaded.choices.trans hq.choices⟩
    have hyz := hy.trans (alike_mapPhase y true f)
    obtain ⟨hcheck, hatz⟩ := phaseCheck_return_waits (hat.mapPhase f) hyz (hf.idle hidle) (.inl (hf.goes.sentHeaders.trans hsent))
    rw [hsend]
    exact ⟨(hexch.trans (exchTo_mapPhase ..)).trans hcheck, _, _, hatz, hyz.trans (alike_retires _),
      hf.goes.trans (.of_members _ rfl rfl rfl rfl rfl rfl), hf.rows, hf.choices⟩

include hunarmed hsent hidle in
theorem sendMember_idle {e : Dev} (h : d.exchIn true r (p.idleTo r.ownPos) e) (ph : PhaseSt) {pos : Nat} {rows : List RowSt} {drops : List Word64}
    (hown : pos = r.pos → rows = [] ∧ drops = []) (counts : List Nat) :
    d.exchIn true r (p.idleTo r.ownPos) (e.sendMember r.bwd r.layer r.mb true ph pos rows drops counts) := by
  obtain ⟨-, y, q, hat, hy, -⟩ := id h
  have hother (e : Dev) (he : d.exchIn true r (p.idleTo r.ownPos) e) (hpos : pos ≠ r.pos) (kind : Nat) (body : List Byte) :
      d.exchIn true r (p.idleTo r.ownPos) (e.sendOne r.bwd r.layer r.mb true ph y pos kind body) := by
    simp only [Dev.sendOne, hy.pos, hpos, decide_false, Bool.false_eq_true, if_false]
    exact he.bzSend hunarmed ..
  obtain ⟨f, body, hf, hlast⟩ := sendMember_last (I := d.exchIn true r (p.idleTo r.ownPos)) (p := ph) (pos := pos) (rows := rows) (drops := drops)
    (hat.key hy) (fun e n k he => he.mapPhase hy fun q hq => ⟨hq.goes.trans (.of_members _ rfl rfl rfl rfl rfl rfl), hq.rows, hq.choices⟩)
    (fun e kind body hsome he => hother e he (fun hpos => by
      obtain ⟨hrows, hdrops⟩ := hown hpos
      rcases hsome with hsome | hsome <;> contradiction) kind body) h counts
  rw [hlast]
  by_cases hpos : pos = r.pos
  · rw [hpos, ← hy.pos]
    exact sendOne_idleHeader hsent hidle hf hy ph body
  · exact hother f hf hpos bzHeader body

include hunarmed hsent hidle in
/-- A return phase in which nothing comes back from the device itself begins, sends, and stays open for the other members (R218). -/
theorem runPhase_return_open (hround : d.round? r.bwd r.layer r.mb = some r) (hearly : r.early = []) {y : MemberSt} (hy : y ∈ p.members)
    (hother : y.pos ≠ r.ownPos) (hheader : y.header = false) (hmissing : y.missing = false) {jobs : List (Nat × List RowSt × List Word64 × List Nat)}
    (hown : ∀ j ∈ jobs, j.1 = r.pos → j.2.1 = [] ∧ j.2.2.1 = []) :
    d.exchIn true r (fun q => q.acc = p.acc ∧ q.phase = p.phase ∧ q.sentHeaders = true ∧ q.arranged = p.arranged)
      (d.runPhase r.bwd r.layer r.mb true p jobs) := by
  obtain ⟨hopened, x0, hx0, hat0⟩ := phaseOpened_at hround true p
  have hsends := foldl_keeps (I := d.exchIn true r (p.idleTo r.ownPos)) (xs := jobs)
    (f := fun d j => d.sendMember r.bwd r.layer r.mb true p j.1 j.2.1 j.2.2.1 j.2.2.2)
    (fun e j hj he => sendMember_idle hunarmed hsent hidle he p (hown j hj) j.2.2.2) ⟨hopened, x0, p, hat0, hx0, .refl p _, hidle.1, rfl⟩
  obtain ⟨hexch, x, _, hat, hx, q, hq, rfl⟩ := hsends.headersSent
  obtain ⟨hcheck, hatz⟩ := phaseCheck_return_waits hat hx (hq.idle hidle) (.inr (not_settled_of_open (hq.goes.others y hy hother) hheader hmissing))
  rw [runPhase_eq hround hearly true p jobs]
  exact ⟨hexch.trans hcheck, _, _, hatz, hx.trans (alike_retires x), hq.goes.acc, hq.goes.phase, rfl, hq.goes.arranged⟩

end

/-! ## COMBINE -/

/-- The phase of a COMBINE is idle at first, where every token has an admitted choice. -/
theorem combinePhase_idle {d : Dev} {a : Accepted} {x : CombineArgs} {ps : List (Nat × Nat)}
    (h : ∀ l ∈ choicesOf (d.peekAll ps) x.r.tokens x.r.k, ∃ y ∈ l, y.1 = true) : (combinePhase d a x ps).idle x.r.tokens x.r.k := by
  refine ⟨rfl, fun t ht => ?_⟩
  have hlen : t < (choicesOf (d.peekAll ps) x.r.tokens x.r.k).length := by simpa [choicesOf] using ht
  have hget : (combinePhase d a x ps).choices.getD t [] = (choicesOf (d.peekAll ps) x.r.tokens x.r.k)[t].map fun c => (c.1, c.2.2.2) := by
    simp [combinePhase, PhaseSt.opening, List.getD_eq_getElem?_getD, hlen]
  have hk : (choicesOf (d.peekAll ps) x.r.tokens x.r.k)[t].length = x.r.k := by simp [choicesOf]
  obtain ⟨y, hy, hadmitted⟩ := h _ (List.getElem_mem hlen)
  obtain ⟨j, hj, rfl⟩ := List.getElem_of_mem hy
  refine ⟨j, by omega, ?_⟩
  rw [hget, List.getD_eq_getElem?_getD, List.getElem?_map, List.getElem?_eq_getElem hj]
  exact hadmitted

/-- The device whose COMBINE has begun, before its phase sends: what its round keeps, and what it has not touched. -/
structure Dev.combineBegun (d : Dev) (a : Accepted) (x : CombineArgs) (r : Round) (e : Dev) : Prop where
  round : e.round? r.bwd r.layer r.mb = some { r with members := d.ranksAt x.r.members x.r.group }
  cores : e.cores = d.cores
  queues : e.queues = d.queues
  mem : e.mem = d.mem
  unarmed : e.unarmed = true
  handles : ∀ {w u b}, d.checkHandle w u = .ok b → ∃ b', e.checkHandle w u = .ok b'
  acc : ∃ slots, e.acc a.id = some { a with begun := true, refs := slots }

/-- The references that a command takes leave every handle valid (R352). -/
theorem beginAcc_checkHandle {d : Dev} {id : Nat} {slots : List Nat} {w : Word64} {u : Access} {b : Buf} (h : d.checkHandle w u = .ok b) :
    ∃ b', (d.beginAcc id slots).checkHandle w u = .ok b' :=
  (storesTo_foldl storesTo_retain slots d).held.checkHandle h

theorem combineGo_begins {d : Dev} (hd : d.Undisturbed) {a : Accepted} {x : CombineArgs} {r : Round} {p0 : PhaseSt} {ps : List (Nat × Nat)}
    (hacc : d.acc a.id = some a) (h : d.combineReadyFor x r p0 ps) (hround : d.round? x.r.bwd x.r.layer x.r.microBatch = some r) :
    ∃ e job, d.combineBegun a x r e ∧ (∀ p, (job p).1 = p) ∧ (∀ p, (∀ y ∈ p0.rows, y.pos ≠ p) → (job p).2.1 = []) ∧
      (∀ p, (∀ y ∈ p0.dropTags, y.1 ≠ p) → (job p).2.2.1 = []) ∧
      d.combineGo a x r p0 = e.runPhase r.bwd r.layer r.mb true (combinePhase d a x ps) ((List.range x.r.group).map job) := by
  obtain ⟨e, slots, job, hexch, hround1, hjob, hrows, hdrops, hrun⟩ := combineGo_runs hd (a := a) h hround
  have hround2 := (round?_of_rounds (congrArg (·.rounds) (beginAcc_bz e a.id slots)) x.r.bwd x.r.layer x.r.microBatch).trans hround1
  obtain ⟨hb, hl, hm⟩ := round?_key hround
  have haccE : e.acc a.id = some a := by rw [Dev.acc, hexch.accepted]; exact hacc
  refine ⟨e.beginAcc a.id slots, job, ⟨?_, ?_, ?_, ?_, ?_, ?_, ⟨slots, beginAcc_acc e slots haccE⟩⟩, hjob, hrows, hdrops, ?_⟩
  · rw [← hb, ← hl, ← hm] at hround2
    exact hround2
  · rw [beginAcc_cores, hexch.cores]
  · rw [beginAcc_queues, hexch.queues]
  · rw [beginAcc_mem, hexch.mem]
  · exact unarmed_of_slots (by rw [beginAcc_er]) (hexch.unarmed hd.unarmed)
  · intro w u b hb
    exact beginAcc_checkHandle ((hexch.checkHandle w u).trans hb)
  · rw [hrun, hb, hl, hm]

/-- COMBINE in a group of at least two, with nothing to send to itself, has begun its return phase and sent its HEADERs, and the phase stays open. -/
theorem combineGo_waits {d : Dev} (hd : d.Undisturbed) {a : Accepted} {x : CombineArgs} {r : Round} {p0 : PhaseSt} {ps : List (Nat × Nat)}
    (hacc : d.acc a.id = some a) (h : d.combineReadyFor x r p0 ps) (hround : d.round? x.r.bwd x.r.layer x.r.microBatch = some r)
    (hgroup : 2 ≤ x.r.group) (htokens : r.tokens = x.r.tokens) (hk : r.k = x.r.k) (hearly : r.early = []) (hpos : r.pos = x.r.pos)
    (hrows : ∀ y ∈ p0.rows, y.pos ≠ x.r.pos) (hdrops : ∀ y ∈ p0.dropTags, y.1 ≠ x.r.pos)
    (hadmitted : ∀ l ∈ choicesOf (d.peekAll ps) x.r.tokens x.r.k, ∃ y ∈ l, y.1 = true) :
    let t := d.combineGo a x r p0
    ∃ r' p, t.round? x.r.bwd x.r.layer x.r.microBatch = some r' ∧ r'.comb = some p ∧ p.acc = a.id ∧ p.phase = phaseCode x.r.bwd true ∧
      p.sentHeaders = true ∧ p.arranged = false ∧ (t.acc a.id).map (·.begun) = some true ∧ t.queues = d.queues ∧ t.mem = d.mem ∧
      t.cores = d.cores := by
  obtain ⟨e, job, hbegun, hjob, hjobRows, hjobDrops, hrun⟩ := combineGo_begins hd hacc h hround
  obtain ⟨slots, hslots⟩ := hbegun.acc
  obtain ⟨hb, hl, hm⟩ := round?_key hround
  have hidle : (combinePhase d a x ps).idle r.tokens r.k := by
    rw [htokens, hk]
    exact combinePhase_idle hadmitted
  obtain ⟨y, hy, hother, hheader, hmissing⟩ := opening_other (phase := phaseCode x.r.bwd true) (a := a) (epoch := x.r.epoch) (f := x.expFmt)
    (hTiles := ceilDiv x.r.hidden 32) (experts := 0) (res := none)
    (choices := (choicesOf (d.peekAll ps) x.r.tokens x.r.k).map fun t => t.map fun c => (c.1, c.2.2.2)) hgroup
    ({ r with members := d.ranksAt x.r.members x.r.group } : Round).ownPos
  obtain ⟨hexch, x', q, hat, halike, hqacc, hqphase, hqsent, hqarranged⟩ := runPhase_return_open
    (r := { r with members := d.ranksAt x.r.members x.r.group }) (p := combinePhase d a x ps) (jobs := (List.range x.r.group).map job) hbegun.unarmed rfl
    hidle hbegun.round hearly hy hother hheader hmissing (fun j hj hown => by
      obtain ⟨i, -, rfl⟩ := List.mem_map.1 hj
      obtain rfl : i = x.r.pos := (hjob i).symm.trans (hown.trans hpos)
      exact ⟨hjobRows _ hrows, hjobDrops _ hdrops⟩)
  have hround' := hat.key halike
  rw [← hrun] at hexch hround'
  rw [hb, hl, hm] at hround'
  refine ⟨x', q, hround', hat.phase, hqacc, hqphase, hqsent, hqarranged, ?_, hexch.queues.trans hbegun.queues, hexch.mem.trans hbegun.mem,
    hexch.cores.trans hbegun.cores⟩
  rw [Dev.acc, hexch.accepted]
  exact congrArg (Option.map (·.begun)) hslots

end Sys2Proof.Machine
end

section
/-! A DISPATCH or COMBINE of a group of at least two begins its phase, sends its HEADERs and waits (R207, R216, R218). -/

namespace Sys2Proof.Machine

open Sys2Proof

/-- Settles O22: the messages that a phase sends change no core, queue or memory, the phase comes only through messages to itself, and the HEADER of
another member is still out, so the phase stays open. -/
theorem phasesBeginAndSend : Obligations.PhasesBeginAndSend := by
  unfold Obligations.PhasesBeginAndSend
  refine ⟨?_, ?_⟩
  · intro s c a x r route hunarmed hprimary hbit _ holdest hacc hop hfault hgroup hmay hrows hchoices hmembers hranks htable hlength hentries ht n slot
      hrecv hexpertIn hrecord
    obtain ⟨cs, hcs, hgood⟩ := hchoices
    have hready : s.dev.dispatchReady x route cs :=
      ⟨hrows, hcs, hgood, hmembers, hranks, htable, hlength, hentries, hrecv, ⟨{ r with route := route }, rfl, hexpertIn⟩, hrecord⟩
    obtain ⟨r', p, hround, hdisp, hpacc, hphase, hsent, harranged, hbegun, hentries, hqueues, hmem, hcores⟩ :=
      runDispatch_waits ⟨hunarmed, hbit, hprimary⟩ holdest hacc hop hfault hmay hready hgroup
    refine ⟨_, r', p, exec_dispatch c s, hround, hdisp, hpacc, ?_, hsent, harranged, hbegun, hentries, hqueues, hmem, fun k => core_of_cores hcores k,
      rfl, rfl⟩
    rw [hphase]
    cases x.r.bwd <;> rfl
  · intro s c a x r p0 hunarmed hprimary hbit _ holdest hacc hop henabled hlimits hentry hgroup hround hcomb htokens hk hdisp harranged0 hearly hpos
      hrows hdrops ht tile hexpert hmembers hranks hret hout hrecord hchoices
    obtain ⟨ps, hps, hgood, hadmitted⟩ := hchoices
    obtain ⟨qs, hqs, hclean⟩ := hgood
    obtain rfl : ps = qs := by injection hqs
    have hready : s.dev.combineReadyFor x r p0 ps := ⟨hexpert, hmembers, hranks, hret, hout, hrecord, hps, hclean⟩
    obtain ⟨r', p, hround', hcomb', hpacc, hphase, hsent, harranged, hbegun, hqueues, hmem, hcores⟩ :=
      combineGo_waits ⟨hunarmed, hbit, hprimary⟩ hacc hready hround hgroup htokens hk hearly hpos hrows hdrops hadmitted
    refine ⟨s.dev! (s.dev.combineGo a x r p0), r', p, ?_, hround', hcomb', hpacc, ?_, hsent, harranged, hbegun, hqueues, hmem,
      fun k => core_of_cores hcores k, rfl, rfl⟩
    · rw [exec_combine, runCombine_goes holdest hop henabled hlimits hentry hround hcomb htokens hk hdisp harranged0]
    · rw [hphase]
      cases x.r.bwd <;> rfl

end Sys2Proof.Machine
end

section
/-! Messages that come while their phase is open (R214, R219, R220, R230). -/

namespace Sys2Proof.Machine

open Sys2Proof

/-! ## A good message of a phase that has begun -/

/-- A message with a good head from its rank is acknowledged and has its effect (R214). -/
theorem bzIn_taken {s : State} {via : Via} {kind : Nat} {m : BzMsg} (htakes : s.takesMsg via) (hrank : s.dev.fidRank via.srcId = some m.src)
    (hhead : s.dev.headOk kind m = true) (act : Dev → Dev) : s.dev.bzIn via kind m act = act (s.dev.ackMsg via 0) := by
  obtain ⟨hpower, hunarmed, hjob, hjob0, hctrl⟩ := htakes
  have hawake : s.dev.awake = s.dev := by simp only [Dev.awake, hpower, if_true]
  have hin : s.dev.msgIn via = (true, s.dev) := by
    simp only [Dev.msgIn, hawake, hjob, hjob0, hctrl, ne_eq, not_true_eq_false, decide_false, Bool.not_true, Bool.or_self, Bool.false_eq_true, if_false,
      mimic_unarmed s.dev _ hunarmed]
  have hrank' : (s.dev.ackMsg via 0).fidRank via.srcId = some m.src := hrank
  have hhead' : (s.dev.ackMsg via 0).headOk kind m = true := hhead
  simp only [Dev.bzIn, hin, hrank', hhead', ne_eq, not_true_eq_false, if_false, Bool.not_true, Bool.false_eq_true]

theorem exec_rows (via : Via) (m : BzMsg) (s : State) :
    exec (.rows via m) s = .next (s.dev! (s.dev.bzIn via bzRows m fun d => (d.rowsCame via m).phaseMsg m)) := rfl

theorem exec_dropList (via : Via) (m : BzMsg) (s : State) :
    exec (.dropList via m) s = .next (s.dev! (s.dev.bzIn via bzDropList m fun d => d.phaseMsg m)) := rfl

theorem exec_bazaarAbort (via : Via) (m : BzMsg) (s : State) :
    exec (.bazaarAbort via m) s = .next (s.dev! (s.dev.bzIn via bzAbort m fun d => d.phaseMsg m)) := rfl

theorem headOk_kind {d : Dev} {kind : Nat} {m : BzMsg} (h : d.headOk kind m = true) : m.kind = kind := by
  simp only [Dev.headOk, Bool.and_eq_true, beq_iff_eq] at h
  tauto

/-- A message in an open phase, of a member that is not settled, in the phase's epoch and form (R214). -/
structure Dev.fitsPhase (d : Dev) (r : Round) (p : PhaseSt) (m : BzMsg) : Prop where
  at_ : d.phaseAt r (m.phase % 2 == 1) p
  bwd : r.bwd = decide (m.phase ≥ 2)
  layer : r.layer = m.layer
  mb : r.mb = m.microBatch
  arranged : p.arranged = false
  member : ∃ x, p.members.find? (fun y => y.pos == r.members.idxOf m.src) = some x ∧ x.missing = false ∧ x.header = false
  epoch : m.epoch = p.epoch
  format : m.format = fmtCode p.fmt
  hTiles : m.hTiles = p.hTiles

theorem Dev.fitsPhase.of_rounds {d e : Dev} {r : Round} {p : PhaseSt} {m : BzMsg} (h : d.fitsPhase r p m) (hrounds : e.bz.rounds = d.bz.rounds) :
    e.fitsPhase r p m := ⟨h.at_.of_rounds hrounds, h.bwd, h.layer, h.mb, h.arranged, h.member, h.epoch, h.format, h.hTiles⟩

theorem phaseMsg_fits {d : Dev} {r : Round} {p : PhaseSt} {m : BzMsg} (h : d.fitsPhase r p m) :
    d.phaseMsg m = (d.enterBody r (m.phase % 2 == 1) p (r.members.idxOf m.src) m).phaseCheck (decide (m.phase ≥ 2)) m.layer m.microBatch
      (m.phase % 2 == 1) := by
  obtain ⟨x, hmember, hmissing, hheader⟩ := h.member
  have hround := h.at_.round
  rw [h.bwd, h.layer, h.mb] at hround
  simp only [Dev.phaseMsg, hround, h.at_.phase, h.arranged, Bool.false_eq_true, if_false]
  rw [enterMsg_open d h.at_.phase hmember hmissing hheader, h.bwd, h.layer, h.mb]

theorem enterBody_fits {d : Dev} {r : Round} {p : PhaseSt} {m : BzMsg} (h : d.fitsPhase r p m) (ret : Bool) (pos : Nat) :
    d.enterBody r ret p pos m = if m.kind = bzRows then d.enterRows r ret p pos m else if m.kind = bzHeader then d.enterHeader r ret p pos m
      else if m.kind = bzDropList && ret then d.enterDrops r p pos m else d.markMissing r ret pos false := by
  simp only [Dev.enterBody, h.epoch, h.format, h.hTiles, ne_eq, not_true_eq_false, decide_false, Bool.or_self, Bool.false_eq_true, if_false]

/-! ## ROWS -/

/-- The arrival of rows is counted, and nothing else changes (R29). -/
theorem rowsCame_eq (d : Dev) (via : Via) (m : BzMsg) : d.rowsCame via m = { d with ct := (d.rowsCame via m).ct } := by
  unfold Dev.rowsCame
  split
  · rfl
  · unfold Dev.noteTiles
    extract_lets key d1
    have hd1 : d1 = { d with ct := d1.ct } := by
      unfold d1
      split <;> rfl
    split
    · exact hd1
    · rw [hd1]
      rfl

/-- What is kept of rows depends on the device's rank and its job's reservations alone. -/
theorem keepRows_congr {d e : Dev} (hself : e.fx.rankSelf = d.fx.rankSelf) (hjob : e.job = d.job) (r : Round) (ret : Bool) (res : Option Nat)
    (xs : List RowSt) (p : PhaseSt) : e.keepRows r ret res p xs = d.keepRows r ret res p xs := by
  have hreservation : e.reservation = d.reservation := by
    funext i
    rw [Dev.reservation, hjob, Dev.reservation]
  have hcap : e.roundCap = d.roundCap := by
    unfold Dev.roundCap
    rw [hself, hreservation]
  have hshare : e.shareOf = d.shareOf := by
    unfold Dev.shareOf
    rw [hcap]
  have hkeep (p : PhaseSt) (x : RowSt) : e.keepDispatch r p res x = d.keepDispatch r p res x := by
    unfold Dev.keepDispatch
    rw [hself, hshare]
  induction xs generalizing p with
  | nil => rfl
  | cons x xs ih => simp only [Dev.keepRows, hkeep, ih]

theorem fmtOf_fmtCode (f : Fmt) : fmtOf (fmtCode f) = some f := by cases f <;> rfl

/-- Tiles that pass their checks. -/
theorem badTiles_good {d : Dev} (hunarmed : d.unarmed = true) (r : Round) (f : Fmt) (tag : Nat) {ts : List (Nat × List Byte)}
    (hgood : ∀ t ∈ ts, tileGood (fun g => g == f) t.2 = true) : d.badTiles r f tag ts = ([], d) := by
  induction ts with
  | nil => rfl
  | cons t ts ih =>
    obtain ⟨ht, hrest⟩ := List.forall_mem_cons.1 hgood
    simp only [Dev.badTiles, ht, bzCheck_good hunarmed, ih hrest, if_true]

/-- The rows of a message, none of whose tiles failed a check, are kept (R219). -/
theorem enterRows_good {d : Dev} (hunarmed : d.unarmed = true) (r : Round) (ret : Bool) (p : PhaseSt) (pos : Nat) {m : BzMsg}
    (hfmt : m.format = fmtCode p.fmt) (hlen : m.body.length = 544 + m.hTiles * tileTotal p.fmt) (hside : sideGood (m.body.take 544) = true)
    (hlayer : fieldAt (m.body.take 544) 2 2 = r.layer) (hepoch : fieldAt (m.body.take 544) 4 4 = p.epoch)
    (htiles : ∀ t ∈ msgTiles p.fmt m, tileGood (fun g => g == p.fmt) t = true) :
    d.enterRows r ret p pos m = d.keepGroup r ret p pos (min 32 (fieldAt (m.body.take 544) 1 1)) (msgRows p.fmt m pos []) := by
  have hnumbered : ∀ t ∈ numberedTiles p.fmt m, tileGood (fun g => g == p.fmt) t.2 = true := fun t ht =>
    htiles _ (numberedTiles_snd p.fmt m ▸ List.mem_map_of_mem ht)
  rw [enterRows_eq d r ret p pos (hfmt ▸ fmtOf_fmtCode p.fmt) hlen]
  simp only [hside, hlayer, hepoch, beq_self_eq_true, Bool.and_self, bzCheck_good hunarmed, badTiles_good hunarmed r p.fmt _ hnumbered, if_true]

/-- What a dispatch phase keeps of the rows of a good message, with the counts of rows that came twice and of overruns (R219). -/
def Dev.keptOf (d : Dev) (r : Round) (p : PhaseSt) (pos : Nat) (m : BzMsg) : PhaseSt × Nat × Nat :=
  d.keepRows r false ((d.dispatchOf p).bind (·.reservation))
    (p.mapMember pos fun x => { x with rows := x.rows + min 32 (fieldAt (m.body.take 544) 1 1), groups := x.groups + 1 }) (msgRows p.fmt m pos [])

/-- Such rows kept by a phase: its round and the counts of R237. -/
theorem keepGroup_dispatch {d : Dev} {r : Round} {p : PhaseSt} (h : d.phaseAt r false p) (pos : Nat) (m : BzMsg) :
    let t := d.keepGroup r false p pos (min 32 (fieldAt (m.body.take 544) 1 1)) (msgRows p.fmt m pos [])
    let kept := d.keptOf r p pos m
    t.phaseAt (r.mapPhase false fun _ => kept.1) false kept.1 ∧ t.bz.dup = sat32 (d.bz.dup + kept.2.1) ∧
      t.bz.overrun = sat32 (d.bz.overrun + kept.2.2) :=
  ⟨(h.mapPhase fun _ => (d.keptOf r p pos m).1).of_rounds rfl, rfl, rfl⟩

/-- A phase in which a member other than the one at a position is still out, waits. -/
theorem waiting_of_other {p q : PhaseSt} {pos : Nat} (hgoes : p.goesTo pos q) (hother : ∃ y ∈ p.members, y.pos ≠ pos ∧ y.header = false ∧ y.missing = false) :
    q.waiting := by
  obtain ⟨y, hy, hpos, hheader, hmissing⟩ := hother
  exact .inr (not_settled_of_open (hgoes.others y hy hpos) hheader hmissing)

/-- The conditions of the statement on a message, with the device that has acknowledged it. -/
theorem ackMsg_fits {d : Dev} {via : Via} {m : BzMsg} {r : Round} {p : PhaseSt} {x : MemberSt}
    (hround : d.round? (decide (m.phase ≥ 2)) m.layer m.microBatch = some r) (hphase : r.phase? (m.phase % 2 == 1) = some p)
    (harranged : p.arranged = false) (hmember : p.members.find? (fun y => y.pos == r.members.idxOf m.src) = some x) (hmissing : x.missing = false)
    (hheader : x.header = false) (hepoch : m.epoch = p.epoch) (hformat : m.format = fmtCode p.fmt) (hhtiles : m.hTiles = p.hTiles) :
    (d.ackMsg via 0).fitsPhase r p m := by
  obtain ⟨hb, hl, hm⟩ := round?_key hround
  refine ⟨⟨?_, hphase⟩, hb, hl, hm, harranged, ⟨x, hmember, hmissing, hheader⟩, hepoch, hformat, hhtiles⟩
  rw [hb, hl, hm]
  exact hround

end Sys2Proof.Machine
end

section
/-! What the messages of a phase come to (R214, R219, R220, R230). -/

namespace Sys2Proof.Machine

open Sys2Proof

/-- A message that fits its phase, of another kind than ROWS or HEADER: a DROP_LIST in a return phase is followed, any other loses its sender. -/
theorem phaseMsg_other {d : Dev} {r : Round} {p : PhaseSt} {m : BzMsg} (h : d.fitsPhase r p m) (hrows : m.kind ≠ bzRows) (hheader : m.kind ≠ bzHeader) :
    d.phaseMsg m = (if m.kind = bzDropList && m.phase % 2 == 1 then d.enterDrops r p (r.members.idxOf m.src) m
      else d.markMissing r (m.phase % 2 == 1) (r.members.idxOf m.src) false).phaseCheck (decide (m.phase ≥ 2)) m.layer m.microBatch (m.phase % 2 == 1) := by
  rw [phaseMsg_fits h, enterBody_fits h, if_neg hrows, if_neg hheader]

theorem phaseMsg_rows {d : Dev} {r : Round} {p : PhaseSt} {m : BzMsg} (h : d.fitsPhase r p m) (hrows : m.kind = bzRows) :
    d.phaseMsg m = (d.enterRows r (m.phase % 2 == 1) p (r.members.idxOf m.src) m).phaseCheck (decide (m.phase ≥ 2)) m.layer m.microBatch
      (m.phase % 2 == 1) := by
  rw [phaseMsg_fits h, enterBody_fits h, if_pos hrows]

/-- A dispatch phase in which another member is still out, looked at after a message. -/
theorem phaseCheck_other {d e : Dev} {r : Round} {p q : PhaseSt} {m : BzMsg} (h : d.fitsPhase r p m) {x : Round} (hat : e.phaseAt x false q)
    (hx : r.alike false x) (hgoes : p.goesTo (r.members.idxOf m.src) q)
    (hother : ∃ y ∈ p.members, y.pos ≠ r.members.idxOf m.src ∧ y.header = false ∧ y.missing = false) :
    e.phaseCheck (decide (m.phase ≥ 2)) m.layer m.microBatch false = e := by
  rw [← h.bwd, ← h.layer, ← h.mb]
  exact phaseCheck_waits hat hx (waiting_of_other hgoes hother)

theorem goesTo_keptOf (d : Dev) (r : Round) (p : PhaseSt) (pos : Nat) (m : BzMsg) : p.goesTo pos (d.keptOf r p pos m).1 := by
  refine PhaseSt.goesTo.trans ?_ (goesTo_keepRows d r false _ _ _ (msgRows_pos p.fmt m pos []))
  exact goesTo_mapMember p pos (fun _ => rfl) fun _ hx => hx

/-- A ROWS message that passes its checks, and that a dispatch phase keeps in the share of its member (R213, R219). -/
structure rowsPass (m : BzMsg) (p : PhaseSt) : Prop where
  length : m.body.length = 544 + m.hTiles * tileTotal p.fmt
  side : sideGood (m.body.take 544) = true
  layer : fieldAt (m.body.take 544) 2 2 = m.layer
  epoch : fieldAt (m.body.take 544) 4 4 = p.epoch
  tiles : ∀ t ∈ msgTiles p.fmt m, tileGood (fun g => g == p.fmt) t = true

/-- Such a message in a phase in which another member is still out: its rows are kept. -/
theorem phaseMsg_rowsKept {d : Dev} (hunarmed : d.unarmed = true) {r : Round} {p : PhaseSt} {m : BzMsg} (h : d.fitsPhase r p m) (hrows : m.kind = bzRows)
    (hret : (m.phase % 2 == 1) = false) (hother : ∃ y ∈ p.members, y.pos ≠ r.members.idxOf m.src ∧ y.header = false ∧ y.missing = false)
    (hgood : rowsPass m p) :
    let kept := d.keptOf r p (r.members.idxOf m.src) m
    d.exchTo (d.phaseMsg m) ∧ (d.phaseMsg m).round? (decide (m.phase ≥ 2)) m.layer m.microBatch = some (r.mapPhase false fun _ => kept.1) ∧
      (d.phaseMsg m).bz.dup = sat32 (d.bz.dup + kept.2.1) ∧ (d.phaseMsg m).bz.overrun = sat32 (d.bz.overrun + kept.2.2) := by
  intro kept
  have hat : d.phaseAt r false p := hret ▸ h.at_
  have hrows' := enterRows_good hunarmed r false p (r.members.idxOf m.src) h.format hgood.length hgood.side (hgood.layer.trans h.layer.symm) hgood.epoch
    hgood.tiles
  have hexch := (enterRows_reaches hat (r.members.idxOf m.src) hunarmed m).1
  obtain ⟨hkept, hdup, hoverrun⟩ := keepGroup_dispatch hat (r.members.idxOf m.src) m
  have halike := alike_mapPhase r false fun _ => kept.1
  have hround := hkept.round
  rw [halike.bwd, halike.layer, halike.mb, h.bwd, h.layer, h.mb] at hround
  rw [phaseMsg_rows h hrows, hret, hrows', phaseCheck_other h hkept halike (goesTo_keptOf ..) hother]
  exact ⟨hrows' ▸ hexch, hround, hdup, hoverrun⟩

/-- Messages of a begun phase take effect: the first part of O24. -/
theorem messages_takeEffect (s : State) (via : Via) (m : BzMsg) (kind : Nat) (i : Instr) (r : Round) (p : PhaseSt) (htakes : s.takesMsg via)
    (hrank : s.dev.fidRank via.srcId = some m.src) (hi : (kind, i) ∈ [(2, Instr.rows via m), (5, .dropList via m), (6, .bazaarAbort via m)])
    (hhead : s.dev.headOk kind m = true) (hfits : (s.dev.ackMsg via 0).fitsPhase r p m) :
    let bwd := decide (m.phase ≥ 2)
    let ret := m.phase % 2 == 1
    let pos := r.members.idxOf m.src
    let d := s.dev.ackMsg via 0
    let lost := d.mapPhase r ret fun p => p.lose r.k pos false
    let then_ (e : Dev) : Prop := exec i s = .next (s.dev! (e.phaseCheck bwd m.layer m.microBatch ret))
    let stays : Prop := ret = false ∧ ∃ y ∈ p.members, y.pos ≠ pos ∧ y.header = false ∧ y.missing = false
    (kind = 6 → then_ lost ∧ (stays → exec i s = .next (s.dev! lost))) ∧
    (kind = 5 → ret = true → then_ (d.enterDrops r p pos m)) ∧
    (kind = 5 → ret = false → then_ lost) ∧
    (kind = 2 → then_ ((d.rowsCame via m).enterRows r ret p pos m)) := by
  have hkind := headOk_kind hhead
  have htaken := bzIn_taken htakes hrank hhead
  dsimp only
  simp only [List.mem_cons, List.not_mem_nil, Prod.mk.injEq, or_false] at hi
  rcases hi with ⟨rfl, rfl⟩ | ⟨rfl, rfl⟩ | ⟨rfl, rfl⟩
  · refine ⟨fun h => absurd h (by decide), fun h => absurd h (by decide), fun h => absurd h (by decide), fun _ => ?_⟩
    rw [exec_rows, show bzRows = 2 from rfl, htaken, phaseMsg_rows (hfits.of_rounds (by rw [rowsCame_eq])) hkind]
  · have hdrop := phaseMsg_other hfits (by rw [hkind]; decide) (by rw [hkind]; decide)
    refine ⟨fun h => absurd h (by decide), fun _ hret => ?_, fun _ hret => ?_, fun h => absurd h (by decide)⟩
    · rw [exec_dropList, show bzDropList = 5 from rfl, htaken, hdrop, if_pos (by rw [hkind, hret]; rfl)]
    · rw [exec_dropList, show bzDropList = 5 from rfl, htaken, hdrop, if_neg (by rw [hret, Bool.and_false]; exact Bool.false_ne_true)]
      rfl
  · refine ⟨fun _ => ?_, fun h => absurd h (by decide), fun h => absurd h (by decide), fun h => absurd h (by decide)⟩
    have habort : exec (.bazaarAbort via m) s = .next (s.dev! (((s.dev.ackMsg via 0).mapPhase r (m.phase % 2 == 1) fun p =>
        p.lose r.k (r.members.idxOf m.src) false).phaseCheck (decide (m.phase ≥ 2)) m.layer m.microBatch (m.phase % 2 == 1))) := by
      rw [exec_bazaarAbort, show bzAbort = 6 from rfl, htaken, phaseMsg_other hfits (by rw [hkind]; decide) (by rw [hkind]; decide),
        if_neg (by rw [hkind]; exact Bool.false_ne_true)]
      rfl
    refine ⟨habort, fun hstays => ?_⟩
    obtain ⟨hret, hother⟩ := hstays
    rw [habort, hret]
    exact congrArg (fun d => Host.Outcome.next (s.dev! d)) (phaseCheck_other hfits ((hret ▸ hfits.at_).mapPhase _) (alike_mapPhase ..)
      (goesTo_lose p r.k _ false) hother)

theorem keptOf_congr {d e : Dev} (hself : e.fx.rankSelf = d.fx.rankSelf) (hjob : e.job = d.job) (haccepted : e.accepted = d.accepted) (r : Round)
    (p : PhaseSt) (pos : Nat) (m : BzMsg) : e.keptOf r p pos m = d.keptOf r p pos m := by
  have hacc : e.acc = d.acc := by
    unfold Dev.acc
    rw [haccepted]
  unfold Dev.keptOf Dev.dispatchOf
  rw [hacc, keepRows_congr hself hjob]

/-- A good ROWS message of a dispatch phase in which another member is still out. -/
theorem rows_kept {s : State} {via : Via} {m : BzMsg} {r : Round} {p : PhaseSt} (htakes : s.takesMsg via) (hrank : s.dev.fidRank via.srcId = some m.src)
    (hhead : s.dev.headOk 2 m = true) (hfits : (s.dev.ackMsg via 0).fitsPhase r p m) (hret : (m.phase % 2 == 1) = false)
    (hother : ∃ y ∈ p.members, y.pos ≠ r.members.idxOf m.src ∧ y.header = false ∧ y.missing = false) (hgood : rowsPass m p) :
    let kept := s.dev.keptOf r p (r.members.idxOf m.src) m
    ∃ t, exec (.rows via m) s = .next t ∧ t.dev.round? (decide (m.phase ≥ 2)) m.layer m.microBatch = some (r.mapPhase false fun _ => kept.1) ∧
      t.dev.bz.dup = sat32 (s.dev.bz.dup + kept.2.1) ∧ t.dev.bz.overrun = sat32 (s.dev.bz.overrun + kept.2.2) ∧
      t.dev.mem = s.dev.mem ∧ t.dev.cores = s.dev.cores ∧ t.pending = s.pending ∧ t.toll = s.toll := by
  intro kept
  obtain ⟨d, hd⟩ : ∃ d, (s.dev.ackMsg via 0).rowsCame via m = d := ⟨_, rfl⟩
  have hcame := rowsCame_eq (s.dev.ackMsg via 0) via m
  rw [hd] at hcame
  have hunarmed : d.unarmed = true := by
    rw [hcame]
    exact htakes.2.1
  obtain ⟨hexch, hround, hdup, hoverrun⟩ := phaseMsg_rowsKept hunarmed (hfits.of_rounds (by rw [hcame])) (headOk_kind hhead) hret hother hgood
  have hkept : d.keptOf r p (r.members.idxOf m.src) m = kept := keptOf_congr (by rw [hcame]; rfl) (by rw [hcame]; rfl) (by rw [hcame]; rfl) r p _ m
  have hbz : d.bz = s.dev.bz := by rw [hcame]; rfl
  rw [hkept] at hround hdup hoverrun
  rw [hbz] at hdup hoverrun
  refine ⟨s.dev! (d.phaseMsg m), ?_, hround, hdup, hoverrun, hexch.mem.trans (by rw [hcame]; rfl), hexch.cores.trans (by rw [hcame]; rfl), rfl, rfl⟩
  rw [exec_rows, show bzRows = 2 from rfl, bzIn_taken htakes hrank hhead, hd]

end Sys2Proof.Machine
end

section
/-! A dispatch phase ends and is arranged (R221, R223, R230), and a phase's command completes (R235, R352). -/

namespace Sys2Proof.Machine

open Sys2Proof

theorem calmTo_mapPhase (d : Dev) (r : Round) (ret : Bool) (f : PhaseSt → PhaseSt) : d.calmTo (d.mapPhase r ret f) := ⟨rfl, rfl, rfl⟩

/-! ## Placement after a round (R355 to R360) -/

/-- Placement changed alone. -/
structure Dev.placesTo (d e : Dev) : Prop where
  calm : d.calmTo e
  rounds : e.bz.rounds = d.bz.rounds

theorem Dev.placesTo.refl (d : Dev) : d.placesTo d := ⟨.refl d, rfl⟩

theorem Dev.placesTo.trans {d e f : Dev} (hde : d.placesTo e) (hef : e.placesTo f) : d.placesTo f :=
  ⟨hde.calm.trans hef.calm, hef.rounds.trans hde.rounds⟩

theorem placesTo_foldl {α : Type} {f : Dev → α → Dev} (hf : ∀ (d : Dev) x, d.placesTo (f d x)) (xs : List α) (d : Dev) :
    d.placesTo (xs.foldl f d) := foldl_keeps (fun e x _ he => Dev.placesTo.trans he (hf e x)) (.refl d)

theorem Dev.storesTo.places {d e : Dev} (h : d.storesTo e) : d.placesTo e := ⟨h.held.calm, h.rounds⟩

theorem placesTo_startReplica (d : Dev) (g e : Nat) : d.placesTo (d.startReplica g e) := by
  unfold Dev.startReplica
  split
  · dsimp only
    split
    · exact ⟨⟨rfl, rfl, rfl⟩, rfl⟩
    · split
      · exact ⟨⟨rfl, rfl, rfl⟩, rfl⟩
      · next b f halloc =>
        rw [allocIn_eq halloc]
        exact ⟨⟨rfl, rfl, rfl⟩, rfl⟩
  · exact ⟨⟨rfl, rfl, rfl⟩, rfl⟩

theorem placesTo_dropReplica (d : Dev) (slot : Nat) : d.placesTo (d.dropReplica slot) := by
  unfold Dev.dropReplica
  split <;> exact ⟨⟨rfl, rfl, rfl⟩, rfl⟩

theorem placesTo_evalExpert (d : Dev) (g : Nat) (sums : List Nat) (e : Nat) : d.placesTo (d.evalExpert g sums e) := by
  unfold Dev.evalExpert
  extract_lets mine hot noHot warm place cool d1 cold
  split
  · split
    · exact ⟨⟨rfl, rfl, rfl⟩, rfl⟩
    · split
      · exact placesTo_startReplica ..
      · exact .refl d
  · exact Dev.placesTo.trans (e := d1) ⟨⟨rfl, rfl, rfl⟩, rfl⟩ (placesTo_foldl (fun d s => placesTo_dropReplica d s) cold d1)

theorem placesTo_afterArrange (d : Dev) (layer : Nat) (rows : List Nat) : d.placesTo (d.afterArrange layer rows) := by
  unfold Dev.afterArrange
  extract_lets hist win sums total before visits place d1
  have hd1 : d.placesTo d1 := ⟨⟨rfl, rfl, rfl⟩, rfl⟩
  split
  · exact hd1
  · exact hd1.trans (placesTo_foldl (fun d e => placesTo_evalExpert d _ sums e) _ d1)

/-! ## The arrangement of a dispatch phase (R221, R223) -/

theorem writeGroup_arranged {d : Dev} {r : Round} {P : PhaseSt → Prop} (hP : ∀ (q : PhaseSt) (reexpr torn : Nat) (nan : Option Nat), P q →
    P { q with reexpr := reexpr, torn := torn, nan := nan }) (p : PhaseSt) (b : Buf) (off : Nat) (rows : List RowSt) (h : d.phaseIs false r P) :
    d.calmTo (d.writeGroup r p b off rows) ∧ (d.writeGroup r p b off rows).phaseIs false r P := by
  unfold Dev.writeGroup
  extract_lets torn d1
  have hd1 : d.calmTo d1 ∧ d1.phaseIs false r P := by
    refine foldl_keeps (I := fun e => d.calmTo e ∧ e.phaseIs false r P) (fun e j _ he => ?_) ⟨.refl d, h⟩
    obtain ⟨hcalm, hphase⟩ := he
    extract_lets t o e1
    have hstore : e.storesTo e1 := by
      unfold e1
      split
      · exact storesTo_storeTorn ..
      · exact storesTo_storeBuf ..
    exact ⟨(hcalm.trans hstore.held.calm).trans (calmTo_mapPhase ..), (hphase.of_rounds hstore.rounds).mapPhase (.refl r false) fun q hq => hP q _ _ _ hq⟩
  have hside := storesTo_storeBuf d1 b (off + p.hTiles * tileTotal p.fmt) (bzSide r.layer p.epoch rows)
  exact ⟨hd1.1.trans hside.held.calm, hd1.2.of_rounds hside.rounds⟩

/-- A round whose dispatch phase is arranged, with its rows in the order of EXPERT_IN. -/
def Round.arranges (r : Round) (all : List RowSt) : Round :=
  { (r.mapPhase false fun p => { p with rows := all, arranged := true }) with arranged := all.map fun y => (y.key, y.pos, y.tag) }

theorem arranges_phase {r : Round} {p : PhaseSt} (h : r.phase? false = some p) (all : List RowSt) :
    r.alike false (r.arranges all) ∧ (r.arranges all).phase? false = some { p with rows := all, arranged := true } := by
  have hdisp : r.disp = some p := h
  exact ⟨⟨rfl, rfl, rfl, rfl, rfl, rfl, rfl, fun _ => rfl⟩, by simp [Round.arranges, Round.phase?, Round.mapPhase, hdisp]⟩

/-- A dispatch phase without a reservation is arranged: cores and queues stay; without rows it has nothing to push. -/
theorem arrange_arranged {d : Dev} {r : Round} {p : PhaseSt} (h : d.phaseAt r false p) {x : DispatchArgs} (hreservation : x.reservation = none)
    (hpush : p.toPush = []) :
    d.calmTo (d.arrange r p x) ∧ (d.arrange r p x).phaseIs false r fun q => q.acc = p.acc ∧ q.members = p.members ∧ q.arranged = true ∧
      (p.rows = [] → q.rows = [] ∧ q.toPush = []) := by
  unfold Dev.arrange
  extract_lets self n sorted all d1 gb groups noAff
  have hsorted (hrows : p.rows = []) (e : Nat) : sorted e = [] := by
    refine List.flatMap_eq_nil_iff.2 fun pos _ => ?_
    rw [hrows]
    rfl
  let P (q : PhaseSt) : Prop := q.acc = p.acc ∧ q.members = p.members ∧ q.arranged = true ∧ (p.rows = [] → q.rows = [] ∧ q.toPush = [])
  have hd1 : d1.phaseIs false r P := by
    obtain ⟨halike, hphase⟩ := arranges_phase h.phase all
    have hround := round?_setRound h.round (f := fun r => r.arranges all) ⟨halike.bwd, halike.layer, halike.mb⟩
    exact ⟨r.arranges all, _, ⟨hround, hphase⟩, halike, rfl, rfl, rfl, fun hrows => ⟨List.flatMap_eq_nil_iff.2 fun e _ => hsorted hrows e, hpush⟩⟩
  have hc1 : d.calmTo d1 := ⟨rfl, rfl, rfl⟩
  split
  · exact ⟨hc1, hd1⟩
  · next b _ =>
    extract_lets d2 item d3
    have hwrite : d1.calmTo d2 ∧ d2.phaseIs false r P := foldl_keeps (I := fun e => d1.calmTo e ∧ e.phaseIs false r P) (fun e g _ he => by
      obtain ⟨hcalm, hphase⟩ := writeGroup_arranged (P := P) (fun q _ _ _ hq => hq) p b g.2.2.1 g.2.2.2 he.2
      exact ⟨he.1.trans hcalm, hphase⟩) ⟨.refl d1, hd1⟩
    have hgroups (hrows : p.rows = []) : groups = [] := List.flatMap_eq_nil_iff.2 fun e _ => by
      dsimp only
      rw [hsorted hrows, groupRows_nil]
      rfl
    have hd3 : d2.calmTo d3 ∧ d3.phaseIs false r P := by
      unfold d3
      rw [hreservation]
      refine ⟨calmTo_mapPhase .., hwrite.2.mapPhase (.refl r false) fun q hq => ?_⟩
      obtain ⟨hacc, hmembers, harranged, hnone⟩ := hq
      exact ⟨hacc, hmembers, harranged, fun hrows => ⟨(hnone hrows).1, by simp [hgroups hrows]⟩⟩
    have hcalm := (hc1.trans hwrite.1).trans hd3.1
    split
    · exact ⟨hcalm, hd3.2⟩
    · have hplaces := placesTo_afterArrange d3 r.layer ((List.range n).map fun e => (sorted e).length)
      exact ⟨hcalm.trans hplaces.calm, hd3.2.of_rounds hplaces.rounds⟩

/-! ## A phase's command completes -/

theorem placesTo_lossRecord (d : Dev) (core layer mb phase status : Nat) : d.placesTo (d.lossRecord core layer mb phase status) := by
  unfold Dev.lossRecord
  split
  · exact .refl d
  · exact (asideTo_detect ..).stores.places

theorem placesTo_retireTrack (d : Dev) (row key : Nat) : d.placesTo (d.retireTrack row key) := by
  unfold Dev.retireTrack
  split
  · exact .refl d
  · rw [Dev.retireWork_eq]
    exact ⟨⟨rfl, rfl, rfl⟩, rfl⟩

theorem release_frame (d : Dev) (slot : Nat) : d.placesTo (d.release slot) := by
  unfold Dev.release
  split
  · exact .refl d
  · split <;> exact ⟨⟨rfl, rfl, rfl⟩, rfl⟩

/-- A command without signals, and whose core waits for no end, completes: it is gone, and cores, queues and rounds are as they were. -/
theorem completeAcc_silent {d : Dev} {id : Nat} {a : Accepted} (hacc : d.acc id = some a) (hsignals : a.cmd.signals = [])
    (hending : (d.core a.core).ending = none) :
    (d.completeAcc id).cores = d.cores ∧ (d.completeAcc id).queues = d.queues ∧ (d.completeAcc id).bz.rounds = d.bz.rounds ∧
      (d.completeAcc id).acc id = none := by
  have hdrops := placesTo_foldl (fun d s => release_frame d s) a.refs { d with accepted := d.accepted.filter fun x => x.id != id }
  have hdrop : d.dropAcc id = a.refs.foldl (fun d s => d.release s) { d with accepted := d.accepted.filter fun x => x.id != id } := by
    rw [Dev.dropAcc, hacc]
    rfl
  rw [← hdrop] at hdrops
  have hcomplete : d.completeAcc id = d.dropAcc id := by
    have hending' : ((d.dropAcc id).core a.core).ending = none := by rw [core_of_cores hdrops.calm.cores]; exact hending
    simp only [Dev.completeAcc, hacc, hsignals]
    exact finishEnd_none hending'
  rw [hcomplete]
  refine ⟨hdrops.calm.cores, hdrops.calm.queues, hdrops.rounds, ?_⟩
  rw [Dev.acc, hdrops.calm.accepted]
  exact List.find?_eq_none.2 fun x hx => by simpa using (List.mem_filter.1 hx).2

/-- So it does when its phase closes (R231, R235). -/
theorem closeOp_silent {d : Dev} (r : Round) {p : PhaseSt} {a : Accepted} (hacc : d.acc p.acc = some a) (hsignals : a.cmd.signals = [])
    (hnan : a.cmd.nanTrap = false) (hending : (d.core a.core).ending = none) :
    (d.closeOp r p).cores = d.cores ∧ (d.closeOp r p).queues = d.queues ∧ (d.closeOp r p).bz.rounds = d.bz.rounds ∧ (d.closeOp r p).acc p.acc = none := by
  unfold Dev.closeOp
  extract_lets status d1
  have hd1 : d.placesTo d1 := (placesTo_lossRecord ..).trans (placesTo_retireTrack ..)
  have hacc1 : d1.acc p.acc = some a := (hd1.calm.acc _).trans hacc
  have hwrite := (storesTo_writeHandle d1 (opRecord a.cmd.op) 0 (d1.roundRecord r p status)).places
  obtain ⟨hcores, hqueues, hrounds, hgone⟩ := completeAcc_silent ((hwrite.calm.acc _).trans hacc1) hsignals
    (by rw [core_of_cores hwrite.calm.cores, core_of_cores hd1.calm.cores]; exact hending)
  simp only [hacc1, hnan, Dev.closePhase]
  exact ⟨hcores.trans (hwrite.calm.cores.trans hd1.calm.cores), hqueues.trans (hwrite.calm.queues.trans hd1.calm.queues),
    hrounds.trans (hwrite.rounds.trans hd1.rounds), hgone⟩

theorem placesTo_feedItems (xs : List (Nat × WorkItem)) (d : Dev) : d.placesTo (d.feedItems xs).2 := by
  induction xs generalizing d with
  | nil => exact .refl d
  | cons x xs ih =>
    obtain ⟨die, it⟩ := x
    rw [Dev.feedItems]
    split
    · exact Dev.placesTo.trans (e := d.addItem die it) ⟨⟨rfl, rfl, rfl⟩, rfl⟩ (ih (d.addItem die it))
    · exact .refl d

end Sys2Proof.Machine
end

section
/-! A DISPATCH of a device alone in its exchange group (R207, R219, R223): its phase runs to its end within the command. -/

namespace Sys2Proof.Machine

open Sys2Proof

/-! ## The end of a dispatch phase (R230) -/

/-- A command that stands accepted without signals or NAN_TRAP, its core waiting for no end. -/
structure Dev.silent (d : Dev) (id : Nat) (op : Op) : Prop where
  acc : ∃ a, d.acc id = some a ∧ a.cmd.op = op ∧ a.cmd.signals = [] ∧ a.cmd.nanTrap = false ∧ (d.core a.core).ending = none

theorem Dev.silent.of_calm {d e : Dev} {id : Nat} {op : Op} (h : d.silent id op) (hde : d.calmTo e) : e.silent id op := by
  obtain ⟨a, hacc, hop, hsignals, hnan, hending⟩ := h.acc
  exact ⟨a, (hde.acc id).trans hacc, hop, hsignals, hnan, by rw [core_of_cores hde.cores]; exact hending⟩

theorem closeOp_of_silent {d : Dev} (r : Round) {p : PhaseSt} {op : Op} (h : d.silent p.acc op) :
    (d.closeOp r p).cores = d.cores ∧ (d.closeOp r p).queues = d.queues ∧ (d.closeOp r p).bz.rounds = d.bz.rounds ∧ (d.closeOp r p).acc p.acc = none := by
  obtain ⟨a, hacc, -, hsignals, hnan, hending⟩ := h.acc
  exact closeOp_silent r hacc hsignals hnan hending

/-- A phase that has not ended, though every member is settled. -/
structure PhaseSt.endsNow (p : PhaseSt) : Prop where
  arranged : p.arranged = false
  sentHeaders : p.sentHeaders = true
  settled : p.settled
  toPush : p.toPush = []

theorem PhaseSt.endsNow.closes {p : PhaseSt} (h : p.endsNow) :
    ¬(p.arranged || !p.sentHeaders || !p.members.all fun m => m.header || m.missing) = true := by
  have hall : p.members.all (fun m => m.header || m.missing) = true := List.all_eq_true.2 fun y hy => by simpa using h.settled y hy
  simp [h.arranged, h.sentHeaders, hall]

/-- The work items of an arrangement are pushed as far as the lists have room, and then its command completes (R92, R223). -/
theorem feedRound_silent {d : Dev} {r : Round} {p : PhaseSt} (h : d.phaseAt r false p) {op : Op} (hsilent : d.silent p.acc op) :
    (d.feedRound r).cores = d.cores ∧ (d.feedRound r).queues = d.queues ∧ (d.feedRound r).phaseIs false r fun q =>
      q.acc = p.acc ∧ q.members = p.members ∧ q.arranged = p.arranged := by
  have hdisp : r.disp = some p := h.phase
  have hhere : d.phaseIs false r fun q => q.acc = p.acc ∧ q.members = p.members ∧ q.arranged = p.arranged := ⟨r, p, h, .refl r false, rfl, rfl, rfl⟩
  unfold Dev.feedRound
  rw [hdisp]
  dsimp only
  split
  · exact ⟨rfl, rfl, hhere⟩
  · have hfeeds := placesTo_feedItems p.toPush d
    generalize d.feedItems p.toPush = fed at hfeeds
    obtain ⟨rest, e⟩ := fed
    have hpushed : (e.mapPhase r false fun p => { p with toPush := rest }).phaseIs false r fun q =>
        q.acc = p.acc ∧ q.members = p.members ∧ q.arranged = p.arranged := (hhere.of_rounds hfeeds.rounds).mapPhase (.refl r false) fun _ hq => hq
    have hcalm : d.calmTo (e.mapPhase r false fun p => { p with toPush := rest }) := hfeeds.calm.trans (calmTo_mapPhase ..)
    dsimp only
    split
    · obtain ⟨hcores, hqueues, hrounds, -⟩ := closeOp_of_silent r (p := { p with toPush := [] }) (hsilent.of_calm hcalm)
      exact ⟨hcores.trans hcalm.cores, hqueues.trans hcalm.queues, hpushed.of_rounds hrounds⟩
    · exact ⟨hcalm.cores, hcalm.queues, hpushed⟩

theorem dispatchOf_silent {d : Dev} {p : PhaseSt} {x : DispatchArgs} (h : d.silent p.acc (.dispatch x)) : d.dispatchOf p = some x := by
  obtain ⟨a, hacc, hop, -⟩ := h.acc
  simp only [Dev.dispatchOf, hacc, Option.bind_some, hop]

/-- A dispatch phase that ends is arranged; without rows its command has completed. -/
theorem phaseCheck_dispatch_ends {d : Dev} {r : Round} {p : PhaseSt} (h : d.phaseAt r false p) (hends : p.endsNow) {x : DispatchArgs}
    (hreservation : x.reservation = none) (hsilent : d.silent p.acc (.dispatch x)) :
    let t := d.phaseCheck r.bwd r.layer r.mb false
    t.cores = d.cores ∧ t.queues = d.queues ∧ t.phaseIs false r fun q =>
      q.acc = p.acc ∧ q.members = p.members ∧ q.arranged = true ∧ (p.rows = [] → t.acc p.acc = none ∧ q.rows = [] ∧ q.toPush = []) := by
  dsimp only
  unfold Dev.phaseCheck
  simp only [Bool.false_eq_true, if_false]
  rw [h.round]
  dsimp only
  rw [h.phase]
  dsimp only
  rw [if_neg hends.closes]
  generalize hd1 : Dev.bzErr _ _ = d1
  have h1 : d1.phaseAt r false p := hd1 ▸ h.of_rounds rfl
  have hc1 : d.calmTo d1 := hd1 ▸ ⟨rfl, rfl, rfl⟩
  rw [h1.round]
  dsimp only
  rw [h1.phase]
  dsimp only
  rw [dispatchOf_silent (hsilent.of_calm hc1)]
  dsimp only
  obtain ⟨hc2, y, q, hat, hy, hacc, hmembers, harranged, hnone⟩ := arrange_arranged h1 hreservation hends.toPush
  rw [hat.key hy]
  dsimp only
  rw [hat.phase]
  dsimp only
  generalize hd3 : ({ d1.arrange r p x with bz := _ } : Dev) = d3
  have h3 : d3.phaseAt y false q := hd3 ▸ hat.of_rounds rfl
  have hc3 : d.calmTo d3 := hd3 ▸ (hc1.trans hc2).trans ⟨rfl, rfl, rfl⟩
  have hsilent3 : d3.silent q.acc (.dispatch x) := by
    rw [hacc]
    exact hsilent.of_calm hc3
  split
  · obtain ⟨hcores, hqueues, hrounds, hgone⟩ := closeOp_of_silent y hsilent3
    rw [hacc] at hgone
    exact ⟨hcores.trans hc3.cores, hqueues.trans hc3.queues, y, q, h3.of_rounds hrounds, hy, hacc, hmembers, harranged, fun hrows =>
      ⟨hgone, hnone hrows⟩⟩
  · next hpush =>
    obtain ⟨hcores, hqueues, z, s, hatz, hz, hsacc, hsmembers, hsarranged⟩ := feedRound_silent h3 hsilent3
    refine ⟨hcores.trans hc3.cores, hqueues.trans hc3.queues, z, s, hatz, hy.trans hz, hsacc.trans hacc, hsmembers.trans hmembers,
      hsarranged.trans harranged, fun hrows => absurd ?_ hpush⟩
    rw [(hnone hrows).2]
    rfl

/-! ## The sending of the one member to itself (R207, R216) -/

/-- A phase after messages of its one member: it has no rows where there was nothing to send. -/
structure PhaseSt.aloneTo (p : PhaseSt) (pos : Nat) (rows : List RowSt) (q : PhaseSt) : Prop where
  goes : p.goesTo pos q
  rows : p.rows = [] → rows = [] → q.rows = []

section
variable {d : Dev} (hunarmed : d.unarmed = true) {r : Round} {p : PhaseSt} (hsent : p.sentHeaders = false)
include hsent

/-- The HEADER of the one member settles the phase. -/
theorem sendOne_aloneHeader {e : Dev} {rows : List RowSt} (h : d.exchIn false r (p.aloneTo r.ownPos rows) e) {x : Round} (hx : r.alike false x)
    (halone : p.members.map (·.pos) = [r.ownPos]) (body : List Byte) :
    d.exchIn false r (fun q => p.aloneTo r.ownPos rows q ∧ q.settled) (e.sendOne r.bwd r.layer r.mb false p x x.pos bzHeader body) := by
  obtain ⟨hexch, y, q, hat, hy, hq⟩ := h
  have hqalone : q.members.map (·.pos) = [r.ownPos] := hq.goes.positions.trans halone
  rcases sendOne_ownHeader hat hy hx p body with ⟨hsame, hheaded⟩ | ⟨f, hsend, hheaded⟩
  · rw [hsame]
    exact ⟨hexch, y, q, hat, hy, hq, hheaded.alone hqalone⟩
  · have hgoes : p.goesTo r.ownPos (f q) := hq.goes.trans hheaded.goes
    have hyz := hy.trans (alike_mapPhase y false f)
    rw [hsend, phaseCheck_waits (hat.mapPhase f) hyz (.inl (hgoes.sentHeaders.trans hsent))]
    exact ⟨hexch.trans (exchTo_mapPhase ..), _, _, hat.mapPhase f, hyz, ⟨hgoes, fun h1 h2 => hheaded.rows (hq.rows h1 h2)⟩, hheaded.alone hqalone⟩

include hunarmed in
/-- A dispatch phase of one member sends it what its job holds, ending with its HEADER, and is looked at again. -/
theorem runPhase_dispatch_alone (hround : d.round? r.bwd r.layer r.mb = some r) (hearly : r.early = [])
    {j : Nat × List RowSt × List Word64 × List Nat} (hown : j.1 = r.pos) (hdrops : j.2.2.1 = []) (halone : p.members.map (·.pos) = [r.ownPos]) :
    ∃ t x q, d.runPhase r.bwd r.layer r.mb false p [j] = t.phaseCheck r.bwd r.layer r.mb false ∧ d.exchTo t ∧
      t.phaseAt x false { q with sentHeaders := true } ∧ r.alike false x ∧ p.aloneTo r.ownPos j.2.1 q ∧ q.settled := by
  obtain ⟨hopened, x0, hx0, hat0⟩ := phaseOpened_at hround false p
  obtain ⟨e, body, he, hlast⟩ := sendMember_last (I := d.exchIn false r (p.aloneTo r.ownPos j.2.1)) (p := p) (pos := j.1) (rows := j.2.1)
    (drops := j.2.2.1) (hat0.key hx0) (fun e n k he => he.mapPhase hx0 fun q hq => ⟨hq.goes.trans (.of_members _ rfl rfl rfl rfl rfl rfl), hq.rows⟩)
    (fun e kind body hsome he => by
      obtain ⟨hexch, y, q, hat, hy, hq⟩ := he
      obtain ⟨hexch', z, s, hatz, hz, hgoes⟩ := sendOne_dispatch hunarmed hsent ⟨hexch, y, q, hat, hy, hq.goes⟩ hx0 p j.1 kind body
      exact ⟨hexch', z, s, hatz, hz, hgoes, fun _ hnil => absurd hnil (hsome.resolve_right fun h => h hdrops)⟩)
    ⟨hopened, x0, p, hat0, hx0, .refl p _, fun h _ => h⟩ j.2.2.2
  have hheader := sendOne_aloneHeader hsent he hx0 halone body
  rw [hx0.pos, ← hown, ← hlast] at hheader
  obtain ⟨hexch, x, _, hat, hx, q, ⟨hq, hsettled⟩, rfl⟩ := hheader.headersSent
  exact ⟨_, x, q, runPhase_eq hround hearly false p [j], hexch, hat, hx, hq, hsettled⟩

end

end Sys2Proof.Machine
end

section
/-! DISPATCH in a group of one (R207, R219, R223, R225). -/

namespace Sys2Proof.Machine

open Sys2Proof

theorem roundLimits_pos {x : RoundArgs} {ht wide : Nat} (h : roundLimits x ht wide = none) : x.pos < x.group := by
  unfold roundLimits at h
  split at h
  · exact absurd h (by simp)
  · split at h
    · exact absurd h (by simp)
    · next hgroup =>
      simp only [Bool.or_eq_true, decide_eq_true_eq, not_or] at hgroup
      omega

theorem dispatchFault_pos {d : Dev} {x : DispatchArgs} (h : d.dispatchFault x = none) : x.r.pos < x.r.group := by
  unfold Dev.dispatchFault at h
  split at h
  · exact absurd h (by simp)
  · split at h
    · exact absurd h (by simp)
    · next hlimits => exact roundLimits_pos hlimits

/-- In a group of one the one member is at its own position. -/
theorem ownPos_alone {d : Dev} {addr : Nat} {r : Round} (hmembers : r.members = d.ranksAt addr 1) (hpos : r.pos = 0) : r.ownPos = 0 := by
  rw [Round.ownPos, hmembers, hpos]
  simp [Dev.ranksAt]

/-- A command that begins in its phase is as silent as it was. -/
theorem silent_begun {d e : Dev} {a : Accepted} {op : Op} {slots : List Nat} (hop : a.cmd.op = op) (hsignals : a.cmd.signals = [])
    (hnan : a.cmd.nanTrap = false) (hending : (d.core a.core).ending = none) (hcores : e.cores = d.cores)
    (hacc : e.acc a.id = some { a with begun := true, refs := slots }) : e.silent a.id op :=
  ⟨_, hacc, hop, hsignals, hnan, by rw [core_of_cores hcores]; exact hending⟩

/-- DISPATCH alone in its group: the phase is arranged, every member settled; with no choice admitted its command has completed. -/
theorem runDispatch_alone {d : Dev} (hd : d.Undisturbed) {c : Nat} {a : Accepted} {x : DispatchArgs} {r : Round} {route : List (Nat × Nat × Nat)}
    {cs : Span} (holdest : d.oldest c (fun op => match op with | .dispatch _ => true | _ => false) = some a) (hacc : d.acc a.id = some a)
    (hop : a.cmd.op = .dispatch x) (hfault : d.dispatchFault x = none) (hmay : d.mayDispatch x r) (hready : d.dispatchReady x route cs)
    (hsignals : a.cmd.signals = []) (hnan : a.cmd.nanTrap = false) (hending : (d.core a.core).ending = none) (hgroup : x.r.group = 1)
    (hreservation : x.reservation = none) :
    let t := d.runDispatch c
    t.cores = d.cores ∧ t.queues = d.queues ∧ ∃ r' p, t.round? x.r.bwd x.r.layer x.r.microBatch = some r' ∧ r'.disp = some p ∧ p.acc = a.id ∧
      p.arranged = true ∧ p.settled ∧ (x.r.bwd = true → r'.entries = x.r.tokens * x.r.k) ∧
      (d.noneAdmitted x.r cs → t.acc a.id = none ∧ p.rows = [] ∧ p.toPush = []) := by
  obtain ⟨e, r1, job, hbegun, hjob, hnone, hdrops, hrun⟩ := runDispatch_begins hd holdest hacc hop hfault hmay hready
  have hpos : r1.pos = 0 := by
    have hlt := dispatchFault_pos hfault
    rw [hbegun.pos]
    omega
  have hown := ownPos_alone (d := d) (addr := x.r.members) (hgroup ▸ hbegun.members) hpos
  have halone : (dispatchPhase d a x route).members.map (·.pos) = [r1.ownPos] := by
    rw [hown, dispatchPhase, opening_members, hgroup]
    rfl
  obtain ⟨t, x', q, hphase, hexch, hat, halike, hq, hsettled⟩ := runPhase_dispatch_alone (p := dispatchPhase d a x route) hbegun.unarmed rfl hbegun.round
    hbegun.early ((hjob 0).trans hpos.symm) (hdrops 0) halone
  obtain ⟨slots, hslots⟩ := hbegun.acc
  have hsilent : t.silent a.id (.dispatch x) :=
    (silent_begun hop hsignals hnan hending hbegun.cores hslots).of_calm hexch.held.calm
  obtain ⟨hcores, hqueues, y, s, haty, hy, hsacc, hsmembers, hsarranged, hsnone⟩ := phaseCheck_dispatch_ends hat
    ⟨hq.goes.arranged, rfl, hsettled, hq.goes.toPush⟩ hreservation (by rw [hq.goes.acc]; exact hsilent)
  rw [halike.bwd, halike.layer, halike.mb, ← hphase] at hcores hqueues haty hsnone
  have halike' := halike.trans hy
  have hround := haty.key halike'
  have hjobs : (List.range x.r.group).map job = [job 0] := by rw [hgroup]; rfl
  rw [← hjobs, ← hrun] at hcores hqueues hround hsnone
  rw [hbegun.bwd, hbegun.layer, hbegun.mb] at hround
  refine ⟨hcores.trans (hexch.cores.trans hbegun.cores), hqueues.trans (hexch.queues.trans hbegun.queues), y, s, hround, haty.phase,
    hsacc.trans hq.goes.acc, hsarranged, fun z hz => ?_, fun h => (halike'.entries rfl).trans (hbegun.entries h), fun hno => ?_⟩
  · rw [hsmembers] at hz
    exact hsettled z hz
  · obtain ⟨hgone, hrows⟩ := hsnone (hq.rows rfl (hnone hno 0))
    exact ⟨(congrArg (d.runDispatch c).acc hq.goes.acc).symm.trans hgone, hrows⟩

end Sys2Proof.Machine
end

section
/-! A return phase on the device that its COMBINE began it on: drops, the tiles of OUT, its end (R220, R224, R225, R230). -/

namespace Sys2Proof.Machine

open Sys2Proof

/-! ## A return phase changes no core, queue or station command -/

/-- A COMBINE stands under its phase, which can write OUT at all times: OUT has no scale entry, and its handle is valid. -/
structure Dev.combines (d : Dev) (id : Nat) (x : CombineArgs) : Prop where
  silent : d.silent id (.combine x)
  entry : x.outEntry = none
  out : ∃ b, d.checkHandle x.out ⟨0, 0, 1, true⟩ = .ok b

theorem Dev.combines.of_held {d e : Dev} {id : Nat} {x : CombineArgs} (h : d.combines id x) (hde : d.heldTo e) : e.combines id x := by
  obtain ⟨b, hb⟩ := h.out
  exact ⟨h.silent.of_calm hde.calm, h.entry, hde.checkHandle hb⟩

theorem Dev.combines.combineOf {d : Dev} {p : PhaseSt} {x : CombineArgs} (h : d.combines p.acc x) : d.combineOf p = some x := by
  obtain ⟨a, hacc, hop, -⟩ := h.silent.acc
  simp only [Dev.combineOf, hacc, Option.bind_some, hop]

/-- The device has come so far that valid handles are still valid, and its round from phase `p` to one after messages of the member at a position. -/
def Dev.returnsTo (d : Dev) (r : Round) (p : PhaseSt) (pos : Nat) (e : Dev) : Prop := d.heldTo e ∧ e.reaches true r p pos

section
variable {d e : Dev} {r : Round} {p : PhaseSt} {pos : Nat}

theorem Dev.returnsTo.stores (h : d.returnsTo r p pos e) {f : Dev} (hef : e.storesTo f) : d.returnsTo r p pos f :=
  ⟨h.1.trans hef.held, h.2.of_rounds hef.rounds⟩

theorem Dev.returnsTo.mapPhase (h : d.returnsTo r p pos e) {x : Round} (hx : r.alike true x) {f : PhaseSt → PhaseSt}
    (hf : ∀ q : PhaseSt, q.goesTo pos (f q)) : d.returnsTo r p pos (e.mapPhase x true f) :=
  ⟨h.1.trans (exchTo_mapPhase ..).held, h.2.mapPhase hf hx⟩

/-! ## Drops (R220) -/

theorem dropChoice_returns (h : d.returnsTo r p pos e) {x : Round} (hx : r.alike true x) (w tag : Word64) :
    d.returnsTo r p pos (e.dropChoice x w tag) := by
  unfold Dev.dropChoice
  extract_lets t token rank off e1
  split
  · exact h
  · have hwrites : e.storesTo e1 := (storesTo_writeHandle ..).trans (storesTo_writeHandle ..)
    exact (h.stores hwrites).mapPhase hx fun q => .of_members _ rfl rfl rfl rfl rfl rfl

theorem enterDrops_returns {x : Round} {q : PhaseSt} (h : d.returnsTo r p pos e) (hx : r.alike true x) (m : BzMsg) :
    d.returnsTo r p pos (e.enterDrops x q pos m) := by
  unfold Dev.enterDrops
  extract_lets n tags w e1
  refine foldl_keeps (I := d.returnsTo r p pos) (fun e t _ he => dropChoice_returns he hx w t) (h.mapPhase hx fun s => ?_)
  exact goesTo_mapMember s pos (fun _ => rfl) fun _ hy => hy

/-- A message enters a return phase. -/
theorem enterBody_returns (hunarmed : e.unarmed = true) (h : e.phaseAt r true p) (m : BzMsg) : e.returnsTo r p pos (e.enterBody r true p pos m) := by
  by_cases hkind : m.kind = bzDropList
  · have hmissing (stale : Bool) : e.returnsTo r p pos (e.markMissing r true pos stale) :=
      ⟨(exchTo_mapPhase ..).held, markMissing_reaches h pos stale⟩
    unfold Dev.enterBody
    split
    · exact hmissing true
    · split
      · exact hmissing false
      · rw [if_neg (by rw [hkind]; decide), if_neg (by rw [hkind]; decide), if_pos (by rw [hkind]; rfl)]
        exact enterDrops_returns ⟨.refl e, h.reaches pos⟩ (.refl r true) m
  · obtain ⟨hexch, hreaches⟩ := enterBody_reaches h pos hunarmed (m := m) fun hdrop => absurd hdrop hkind
    exact ⟨hexch.held, hreaches⟩

/-! ## The tiles of OUT (R224, R225) -/

theorem combineTile_returns {id : Nat} {x : CombineArgs} (hcombines : d.combines id x) (h : d.returnsTo r p pos e) {y : Round} (hy : r.alike true y)
    (q : PhaseSt) (rt : Nat) (js : List Nat) : ∃ f, e.combineTile y q x rt js = (true, f) ∧ d.returnsTo r p pos f := by
  induction js generalizing e with
  | nil => exact ⟨e, rfl, h⟩
  | cons j js ih =>
    obtain ⟨-, hentry, b, hb⟩ := hcombines.of_held h.1
    rw [Dev.combineTile]
    simp only [Dev.convEntry, hentry, hb]
    refine ih (Dev.returnsTo.mapPhase ?_ hy fun s => .of_members _ rfl rfl rfl rfl rfl rfl)
    split
    · exact h.stores (storesTo_storeTorn ..)
    · exact h.stores (storesTo_storeBuf ..)

theorem combineReady_returns {x : CombineArgs} (hcombines : d.combines p.acc x) (h : d.returnsTo r p pos e) (rts : List Nat) :
    d.returnsTo r p pos (e.combineReady r.bwd r.layer r.mb rts) := by
  induction rts generalizing e with
  | nil => exact h
  | cons rt rts ih =>
    obtain ⟨hheld, y, q, hat, hy, hgoes⟩ := id h
    have hround := hat.key hy
    have hcomb : y.comb = some q := hat.phase
    have hof : e.combineOf q = some x := Dev.combines.combineOf (by rw [hgoes.acc]; exact hcombines.of_held hheld)
    rw [Dev.combineReady]
    simp only [hround, hcomb, hof]
    split
    · exact ih h
    · obtain ⟨f, htile, hf⟩ := combineTile_returns hcombines h hy q rt (List.range q.hTiles)
      rw [htile]
      exact ih (hf.mapPhase hy fun s => .of_members _ rfl rfl rfl rfl rfl rfl)

theorem retireEntries_returns (h : d.returnsTo r p pos e) : d.returnsTo r p pos (e.retireEntries r.bwd r.layer r.mb) := by
  obtain ⟨hheld, y, q, hat, hy, hgoes⟩ := h
  have hretired := retireEntries_at hat
  rw [hy.bwd, hy.layer, hy.mb] at hretired
  exact ⟨hheld.trans (exchTo_setRound ..).held, _, _, hretired, hy.trans (alike_retires y), hgoes.trans (.of_members _ rfl rfl rfl rfl rfl rfl)⟩

/-- A return phase writes the tiles of OUT that are combined, and retires their entries. -/
def Dev.combined (d : Dev) (r : Round) : Dev :=
  (d.combineReady r.bwd r.layer r.mb (List.range (ceilDiv r.tokens 32))).retireEntries r.bwd r.layer r.mb

theorem combined_returns {x : CombineArgs} (hcombines : e.combines p.acc x) (h : e.phaseAt r true p) : e.returnsTo r p pos (e.combined r) :=
  retireEntries_returns (combineReady_returns hcombines ⟨.refl e, h.reaches pos⟩ _)

/-- One that waits stays open. -/
theorem phaseCheck_returns {x : CombineArgs} (hcombines : e.combines p.acc x) (h : e.phaseAt r true p) (hsent : p.sentHeaders = false) :
    e.returnsTo r p pos (e.phaseCheck r.bwd r.layer r.mb true) := by
  have hcombined := combined_returns (pos := pos) hcombines h
  obtain ⟨-, y, q, hat, hy, hgoes⟩ := id hcombined
  have hround := hat.key hy
  have hcheck : e.phaseCheck r.bwd r.layer r.mb true = e.combined r := by
    unfold Dev.phaseCheck
    simp only [if_true, h.round]
    change (match (e.combined r).round? r.bwd r.layer r.mb with | none => _ | some r => _) = _
    simp only [hround, hat.phase, hgoes.sentHeaders.trans hsent, Bool.not_false, Bool.or_true, Bool.true_or, if_true]
    rfl
  rw [hcheck]
  exact hcombined

end

end Sys2Proof.Machine
end

section
/-! A COMBINE of a device alone in its exchange group (R207, R224, R225, R231): its phase runs to its end within the command. -/

namespace Sys2Proof.Machine

open Sys2Proof

/-! ## Messages of the device to itself -/

theorem Dev.returnsTo.trans {d e f : Dev} {r y : Round} {p q : PhaseSt} {pos : Nat} (hde : d.heldTo e) (hy : r.alike true y) (hgoes : p.goesTo pos q)
    (hef : e.returnsTo y q pos f) : d.returnsTo r p pos f := ⟨hde.trans hef.1, .trans hy hgoes hef.2⟩

section
variable {d : Dev} {r : Round} {p : PhaseSt} {x : CombineArgs} (hunarmed : d.unarmed = true) (hsent : p.sentHeaders = false)
  (hcombines : d.combines p.acc x)
include hunarmed hsent hcombines

/-- A message enters a return phase that waits for this device's HEADERs. -/
theorem enterMsg_returns (h : d.phaseAt r true p) (m : BzMsg) : d.returnsTo r p (r.members.idxOf m.src) (d.enterMsg r true m) := by
  rcases enterMsg_cases d m h.phase with ⟨hsame, -⟩ | henter
  · rw [hsame]
    exact ⟨.refl d, h.reaches _⟩
  · obtain ⟨hheld, y, q, hat, hy, hgoes⟩ := enterBody_returns (pos := r.members.idxOf m.src) hunarmed h m
    have hcheck := phaseCheck_returns (pos := r.members.idxOf m.src) (by rw [hgoes.acc]; exact hcombines.of_held hheld) hat
      (hgoes.sentHeaders.trans hsent)
    rw [hy.bwd, hy.layer, hy.mb] at hcheck
    rw [henter]
    exact .trans hheld hy hgoes hcheck

/-- What the device sends itself in a return phase. -/
theorem sendOne_returns {e : Dev} (h : d.returnsTo r p r.ownPos e) {y : Round} (hy : r.alike true y) (ph : PhaseSt) (kind : Nat) (body : List Byte) :
    d.returnsTo r p r.ownPos (e.sendOne r.bwd r.layer r.mb true ph y y.pos kind body) := by
  obtain ⟨hheld, z, q, hat, hz, hgoes⟩ := h
  obtain ⟨m, -, hpos, hsend⟩ := sendOne_own hat hz hy ph kind body
  have henter := enterMsg_returns (hheld.unarmed hunarmed) (hgoes.sentHeaders.trans hsent) (by rw [hgoes.acc]; exact hcombines.of_held hheld) hat m
  rw [hsend]
  exact .trans hheld hz hgoes (hpos ▸ henter)

omit hunarmed in
/-- The HEADER of the one member settles the phase. -/
theorem sendOne_returnHeader {e : Dev} (h : d.returnsTo r p r.ownPos e) {y : Round} (hy : r.alike true y)
    (halone : p.members.map (·.pos) = [r.ownPos]) (ph : PhaseSt) (body : List Byte) :
    let t := e.sendOne r.bwd r.layer r.mb true ph y y.pos bzHeader body
    d.heldTo t ∧ t.phaseIs true r fun q => p.goesTo r.ownPos q ∧ q.settled := by
  obtain ⟨hheld, z, q, hat, hz, hgoes⟩ := h
  have hqalone : q.members.map (·.pos) = [r.ownPos] := hgoes.positions.trans halone
  rcases sendOne_ownHeader hat hz hy ph body with ⟨hsame, hheaded⟩ | ⟨f, hsend, hheaded⟩
  · rw [hsame]
    exact ⟨hheld, z, q, hat, hz, hgoes, hheaded.alone hqalone⟩
  · have hgoes' : p.goesTo r.ownPos (f q) := hgoes.trans hheaded.goes
    have hheld' : d.heldTo (e.mapPhase z true f) := hheld.trans (exchTo_mapPhase ..).held
    obtain ⟨hheld'', w, s, hatw, hw, hgoesw⟩ := phaseCheck_returns (pos := r.ownPos) (by rw [hgoes'.acc]; exact hcombines.of_held hheld')
      (hat.mapPhase f) (hgoes'.sentHeaders.trans hsent)
    have hzz := hz.trans (alike_mapPhase z true f)
    rw [hzz.bwd, hzz.layer, hzz.mb] at hheld'' hatw
    rw [hsend]
    exact ⟨hheld'.trans hheld'', w, s, hatw, hzz.trans hw, hgoes'.trans hgoesw, hgoesw.settled (hheaded.alone hqalone)⟩

/-- A return phase of one member sends it what its job holds, ending with its HEADER, and is looked at again. -/
theorem runPhase_return_alone (hround : d.round? r.bwd r.layer r.mb = some r) (hearly : r.early = [])
    {j : Nat × List RowSt × List Word64 × List Nat} (hown : j.1 = r.pos) (halone : p.members.map (·.pos) = [r.ownPos]) :
    ∃ t y q, d.runPhase r.bwd r.layer r.mb true p [j] = t.phaseCheck r.bwd r.layer r.mb true ∧ d.heldTo t ∧
      t.phaseAt y true { q with sentHeaders := true } ∧ r.alike true y ∧ p.goesTo r.ownPos q ∧ q.settled := by
  obtain ⟨hopened, x0, hx0, hat0⟩ := phaseOpened_at hround true p
  obtain ⟨e, body, he, hlast⟩ := sendMember_last (I := d.returnsTo r p r.ownPos) (p := p) (pos := j.1) (rows := j.2.1) (drops := j.2.2.1) (hat0.key hx0)
    (fun e n k he => he.mapPhase hx0 fun q => .of_members _ rfl rfl rfl rfl rfl rfl)
    (fun e kind body _ he => by
      rw [hown, ← hx0.pos]
      exact sendOne_returns hunarmed hsent hcombines he hx0 p kind body)
    ⟨hopened.held, x0, p, hat0, hx0, .refl p _⟩ j.2.2.2
  have hheader := sendOne_returnHeader hsent hcombines he hx0 halone p body
  rw [hx0.pos, ← hown, ← hlast] at hheader
  obtain ⟨hheld, z, q, hat, hz, hgoes, hsettled⟩ := hheader
  obtain ⟨hheaders, hat'⟩ := headersSent_at hat
  rw [hz.bwd, hz.layer, hz.mb] at hheaders hat'
  exact ⟨_, _, q, runPhase_eq hround hearly true p [j], hheld.trans hheaders.held, hat', hz.trans (alike_mapPhase ..), hgoes, hsettled⟩

end

/-! ## The end of a return phase (R225, R230, R231) -/

theorem tearOut_returns {d e : Dev} {r : Round} {p : PhaseSt} {pos : Nat} (h : d.returnsTo r p pos e) {y : Round} (hy : r.alike true y)
    (x : CombineArgs) : d.returnsTo r p pos (e.tearOut y x) := by
  obtain ⟨hheld, z, q, hat, hz, hgoes⟩ := id h
  unfold Dev.tearOut
  rw [hy.bwd, hy.layer, hy.mb, hat.key hz]
  dsimp only
  split
  · exact (h.stores (storesTo_foldl (fun d o => storesTo_tearBuf ..) _ _)).mapPhase hz fun s => .of_members _ rfl rfl rfl rfl rfl rfl
  · exact h

theorem PhaseSt.endsNow.of_goesTo {p q : PhaseSt} {pos : Nat} (h : p.endsNow) (hgoes : p.goesTo pos q) : q.endsNow :=
  ⟨hgoes.arranged.trans h.arranged, hgoes.sentHeaders.trans h.sentHeaders, hgoes.settled h.settled, hgoes.toPush.trans h.toPush⟩

/-- A return phase that ends closes its round, and its command completes. -/
theorem phaseCheck_return_ends {d : Dev} {r : Round} {p : PhaseSt} (h : d.phaseAt r true p) (hends : p.endsNow) {x : CombineArgs}
    (hcombines : d.combines p.acc x) :
    let t := d.phaseCheck r.bwd r.layer r.mb true
    t.cores = d.cores ∧ t.queues = d.queues ∧ t.round? r.bwd r.layer r.mb = none ∧ t.acc p.acc = none := by
  have hcombined := combined_returns (pos := 0) hcombines h
  obtain ⟨hheld, y, q, hat, hy, hgoes⟩ := id hcombined
  dsimp only
  unfold Dev.phaseCheck
  simp only [if_true, h.round]
  rw [show (d.combineReady r.bwd r.layer r.mb (List.range (ceilDiv r.tokens 32))).retireEntries r.bwd r.layer r.mb = d.combined r from rfl, hat.key hy]
  dsimp only
  rw [hat.phase]
  dsimp only
  rw [if_neg (hends.of_goesTo hgoes).closes]
  generalize hd1 : Dev.bzErr _ _ = d1
  have h1 : d.returnsTo r p 0 d1 := hd1 ▸ hcombined.stores (.of_eq rfl rfl rfl rfl rfl rfl rfl rfl)
  have hat1 : d1.phaseAt y true q := hd1 ▸ hat.of_rounds rfl
  rw [hat1.key hy]
  dsimp only
  rw [hat1.phase]
  dsimp only
  rw [Dev.combines.combineOf (d := d1) (x := x) (by rw [hgoes.acc]; exact hcombines.of_held h1.1)]
  dsimp only
  obtain ⟨hheld2, z, s, hat2, hz, hgoes2⟩ := tearOut_returns h1 hy x
  rw [hat2.key hz]
  dsimp only
  rw [hat2.phase]
  dsimp only
  have hempty : s.toPush.isEmpty = true := by
    rw [hgoes2.toPush, hends.toPush]
    rfl
  rw [if_pos hempty]
  generalize hd3 : ({ d1.tearOut y x with bz := _ } : Dev) = d3
  have hc3 : d.calmTo d3 := hd3 ▸ hheld2.calm.trans ⟨rfl, rfl, rfl⟩
  have hnone : d3.round? r.bwd r.layer r.mb = none := by
    rw [← hd3]
    refine List.find?_eq_none.2 fun w hw => ?_
    have hkey := (List.mem_filter.1 hw).2
    rw [Bool.not_eq_true'] at hkey
    rw [hkey]
    exact Bool.false_ne_true
  obtain ⟨hcores, hqueues, hrounds, hgone⟩ := closeOp_of_silent z (p := s) (op := .combine x) (by rw [hgoes2.acc]; exact hcombines.silent.of_calm hc3)
  exact ⟨hcores.trans hc3.cores, hqueues.trans hc3.queues, (round?_of_rounds hrounds ..).trans hnone, by rw [← hgoes2.acc]; exact hgone⟩

end Sys2Proof.Machine
end

section
/-! COMBINE in a group of one (R207, R224, R225), and the rounds that run through. -/

namespace Sys2Proof.Machine

open Sys2Proof

/-- COMBINE alone in its group: its round is over, and it has completed. -/
theorem combineGo_alone {d : Dev} (hd : d.Undisturbed) {a : Accepted} {x : CombineArgs} {r : Round} {p0 : PhaseSt} {ps : List (Nat × Nat)}
    (hacc : d.acc a.id = some a) (hop : a.cmd.op = .combine x) (h : d.combineReadyFor x r p0 ps)
    (hround : d.round? x.r.bwd x.r.layer x.r.microBatch = some r) (hsignals : a.cmd.signals = []) (hnan : a.cmd.nanTrap = false)
    (hending : (d.core a.core).ending = none) (hentry : x.outEntry = none) (hgroup : x.r.group = 1) (hpos : r.pos = 0) (hearly : r.early = []) :
    let t := d.combineGo a x r p0
    t.cores = d.cores ∧ t.queues = d.queues ∧ t.round? x.r.bwd x.r.layer x.r.microBatch = none ∧ t.acc a.id = none := by
  obtain ⟨e, job, hbegun, hjob, -, -, hrun⟩ := combineGo_begins hd hacc h hround
  obtain ⟨slots, hslots⟩ := hbegun.acc
  obtain ⟨hb, hl, hm⟩ := round?_key hround
  have hout : ∃ b, d.checkHandle x.out ⟨0, 0, 1, true⟩ = .ok b := by
    obtain ⟨sp, hsp⟩ := h.out
    unfold Dev.handleSpan at hsp
    split at hsp
    · exact absurd hsp (by simp)
    · next b hok => exact ⟨b, checkHandle_start hok⟩
  obtain ⟨b, hok⟩ := hout
  have hcombines : e.combines a.id x := ⟨silent_begun hop hsignals hnan hending hbegun.cores hslots, hentry, hbegun.handles hok⟩
  have hown := ownPos_alone (d := d) (addr := x.r.members) (r := { r with members := d.ranksAt x.r.members x.r.group }) (by rw [hgroup]) hpos
  have halone : (combinePhase d a x ps).members.map (·.pos) = [({ r with members := d.ranksAt x.r.members x.r.group } : Round).ownPos] := by
    rw [hown, combinePhase, opening_members, hgroup]
    rfl
  obtain ⟨t, y, q, hphase, hheld, hat, hy, hgoes, hsettled⟩ := runPhase_return_alone (r := { r with members := d.ranksAt x.r.members x.r.group })
    (p := combinePhase d a x ps) hbegun.unarmed rfl hcombines hbegun.round hearly ((hjob 0).trans hpos.symm) halone
  obtain ⟨hcores, hqueues, hgone, hdone⟩ := phaseCheck_return_ends hat ⟨hgoes.arranged, rfl, hsettled, hgoes.toPush⟩ (x := x)
    (by rw [hgoes.acc]; exact hcombines.of_held hheld)
  have hjobs : (List.range x.r.group).map job = [job 0] := by rw [hgroup]; rfl
  rw [hy.bwd, hy.layer, hy.mb, ← hphase, ← hjobs, ← hrun] at hcores hqueues hgone hdone
  rw [hb, hl, hm] at hgone
  exact ⟨hcores.trans (hheld.calm.cores.trans hbegun.cores), hqueues.trans (hheld.calm.queues.trans hbegun.queues), hgone,
    (congrArg (d.combineGo a x r p0).acc hgoes.acc).symm.trans hdone⟩

/-- Settles O24: a message of a begun phase enters it by its kind, and the phase is looked at again; in a group of one the device's own HEADER settles
the phase, which ends within the command. -/
theorem roundsRunThrough : Obligations.RoundsRunThrough := by
  unfold Obligations.RoundsRunThrough
  refine ⟨?_, ?_, ?_⟩
  · intro s via m kind i r p x htakes hrank hi hhead bwd ret pos hround hphase harranged hmember hmissing hheader hepoch hformat hhtiles d lost then_ stays
    have hfits := ackMsg_fits (via := via) hround hphase harranged hmember hmissing hheader hepoch hformat hhtiles
    obtain ⟨habort, hdrops, hlost, hrows⟩ := messages_takeEffect s via m kind i r p htakes hrank hi hhead hfits
    refine ⟨habort, hdrops, hlost, hrows, ?_⟩
    intro tile side n ts row hkind hstays hlen hside hlayer hfieldEpoch htiles
    obtain ⟨hret, hother⟩ := hstays
    obtain rfl : i = .rows via m := by
      rw [hkind] at hi
      simpa using hi
    exact rows_kept htakes hrank (hkind ▸ hhead) hfits hret hother ⟨hlen, hside, hlayer, hfieldEpoch, htiles⟩
  · intro s c a x r route cs hunarmed hprimary hbit _ holdest hacc hop hsignals hnan hending hfault hgroup hreservation hmay hrows hchoices hgood hmembers
      hrank htable hlength hentries ht n hrecv hexpertIn hrecord
    have hready : s.dev.dispatchReady x route cs :=
      ⟨hrows, hchoices, hgood, by rw [hgroup]; exact hmembers, fun i hi => by
        obtain rfl : i = 0 := by omega
        exact hrank, htable, hlength, hentries, hrecv, ⟨{ r with route := route }, rfl, by rw [hreservation]; exact hexpertIn⟩, hrecord⟩
    obtain ⟨hcores, hqueues, r', p, hround, hdisp, hpacc, harranged, hsettled, hbwd, hnone⟩ :=
      runDispatch_alone ⟨hunarmed, hbit, hprimary⟩ holdest hacc hop hfault hmay hready hsignals hnan hending hgroup hreservation
    exact ⟨_, r', p, exec_dispatch c s, hround, hdisp, hpacc, harranged, hsettled, fun k => core_of_cores hcores k, hqueues, hbwd, rfl, rfl,
      fun ps hps hno => hnone ⟨ps, hps, hno⟩⟩
  · intro s c a x r p0 hunarmed hprimary hbit _ holdest hacc hop hsignals hnan hending henabled hlimits hbad hentry hgroup hround hcomb htokens hk hdisp
      harranged hearly hpos ht tile hexpert hmembers hrank hret hout hrecord hchoices
    obtain ⟨cs, hcs, ps, rfl, hclean⟩ := hchoices
    have hready : s.dev.combineReadyFor x r p0 ps :=
      ⟨hexpert, by rw [hgroup]; exact hmembers, fun i hi => by
        obtain rfl : i = 0 := by omega
        exact hrank, hret, hout, hrecord, hcs, hclean⟩
    have hfirst : r.pos = 0 := by
      have hlt := roundLimits_pos hlimits
      omega
    obtain ⟨hcores, hqueues, hgone, hdone⟩ := combineGo_alone ⟨hunarmed, hbit, hprimary⟩ hacc hop hready hround hsignals hnan hending hentry hgroup hfirst
      hearly
    refine ⟨s.dev! (s.dev.combineGo a x r p0), ?_, hgone, hdone, hqueues, fun k => core_of_cores hcores k, rfl, rfl⟩
    rw [exec_combine, runCombine_goes holdest hop henabled hlimits hbad hround hcomb htokens hk hdisp harranged]

end Sys2Proof.Machine
end

section
/-! The order of folds (R256): a fold comes next with the key after those folded, and such keys rise strictly. -/

namespace Sys2Proof.Machine

open Sys2Proof

/-- The key of a fold that has been done, without its LAST mark. -/
def doneKey (x : Nat × Nat × Nat × Bool) : Nat × Nat × Nat := (x.1, x.2.1, x.2.2.1)

/-- The order of keys (R256): by MICRO_BATCH, then USE, then CHUNK. -/
def keyBefore (x y : Nat × Nat × Nat × Bool) : Prop :=
  x.1 < y.1 ∨ (x.1 = y.1 ∧ (x.2.1 < y.2.1 ∨ (x.2.1 = y.2.1 ∧ x.2.2.1 < y.2.2.1)))

theorem keyBefore.trans {x y z : Nat × Nat × Nat × Bool} (hxy : keyBefore x y) (hyz : keyBefore y z) : keyBefore x z := by
  unfold keyBefore at *
  omega

theorem nextKey_append (uses : Nat) (keys : List (Nat × Nat × Nat × Bool)) (x : Nat × Nat × Nat × Bool) :
    nextKey uses (keys ++ [x]) =
      if !x.2.2.2 then (x.1, x.2.1, x.2.2.1 + 1) else if x.2.1 + 1 < uses then (x.1, x.2.1 + 1, 0) else (x.1 + 1, 0, 0) := by
  simp [nextKey]

/-- The key after those folded lies behind the last of them, within the uses of the group. -/
theorem keyBefore_of_next {uses : Nat} {keys : List (Nat × Nat × Nat × Bool)} {x y : Nat × Nat × Nat × Bool} (huse : x.2.1 < uses)
    (hnext : doneKey y = nextKey uses (keys ++ [x])) : keyBefore x y ∧ y.2.1 < uses := by
  have hpos : 0 < uses := Nat.zero_lt_of_lt huse
  rw [nextKey_append] at hnext
  unfold keyBefore
  split at hnext
  · simp only [doneKey, Prod.mk.injEq] at hnext
    omega
  · split at hnext <;> simp only [doneKey, Prod.mk.injEq] at hnext <;> omega

section
variable {uses : Nat} {keys : List (Nat × Nat × Nat × Bool)}
  (hkeys : ∀ i, i < keys.length → doneKey (keys.getD i (0, 0, 0, false)) = nextKey uses (keys.take i))
include hkeys

theorem next_of_take {j : Nat} (hj : j + 1 < keys.length) :
    doneKey (keys.getD (j + 1) (0, 0, 0, false)) = nextKey uses (keys.take j ++ [keys.getD j (0, 0, 0, false)]) := by
  have hlt : j < keys.length := by omega
  rw [hkeys _ hj, List.take_add_one, List.getElem?_eq_getElem hlt, List.getD_eq_getElem _ _ hlt]
  rfl

theorem use_lt_of_chain (huses : 1 ≤ uses) {j : Nat} (hj : j < keys.length) : (keys.getD j (0, 0, 0, false)).2.1 < uses := by
  induction j with
  | zero =>
    have hfirst : doneKey (keys.getD 0 (0, 0, 0, false)) = (0, 0, 0) := hkeys 0 hj
    simp only [doneKey, Prod.mk.injEq] at hfirst
    omega
  | succ j ih => exact (keyBefore_of_next (ih (by omega)) (next_of_take hkeys hj)).2

theorem keyBefore_of_chain (huses : 1 ≤ uses) {i j : Nat} (hij : i < j) (hj : j < keys.length) :
    keyBefore (keys.getD i (0, 0, 0, false)) (keys.getD j (0, 0, 0, false)) := by
  induction j with
  | zero => omega
  | succ j ih =>
    have hstep := (keyBefore_of_next (use_lt_of_chain hkeys huses (by omega)) (next_of_take hkeys hj)).1
    rcases Nat.lt_succ_iff_lt_or_eq.1 hij with hlt | rfl
    · exact (ih hlt (by omega)).trans hstep
    · exact hstep

end

/-- A fold comes next when it is of the accumulator's iteration, or the first of all, and its key follows those folded. -/
theorem foldNext_iff (d : Dev) (f : FoldArgs) :
    d.foldNext f = true ↔ (d.accIter f.group = none ∨ d.accIter f.group = some (f.iter % 65536)) ∧
      (f.microBatch, f.use, f.chunk) = nextKey (d.gUses f.group) (d.foldSt f.group f.expert (f.iter % 65536)).done := by
  have hiter : (d.accIter f.group).getD (f.iter % 65536) = f.iter % 65536 ↔
      d.accIter f.group = none ∨ d.accIter f.group = some (f.iter % 65536) := by
    cases d.accIter f.group <;> simp
  rw [Dev.foldNext, Bool.and_eq_true, decide_eq_true_eq, decide_eq_true_eq, hiter, foldKey]

/-- Settles O32: each key lies behind the one before it, and the order of keys is transitive. -/
theorem foldsInKeyOrder : Obligations.FoldsInKeyOrder := by
  unfold Obligations.FoldsInKeyOrder
  refine ⟨foldNext_iff, ?_⟩
  intro uses keys huses hkeys i j hij hj x y
  exact ⟨keyBefore_of_chain hkeys huses hij hj, use_lt_of_chain hkeys huses hj⟩

end Sys2Proof.Machine
end

section
/-! The lines of the stash reservation (R248): they are found exactly while enough are free, and as many as were asked. -/

namespace Sys2Proof.Machine

open Sys2Proof

/-- Free lines over all Wells. -/
def freeLines (free : List (Nat × List Nat)) : Nat := (free.map (·.2.length)).sum

/-- Every place lies on the rotation from any place on. -/
theorem exists_rotation {m k : Nat} (hk : k < m) (i : Nat) : ∃ j < m, (i + j) % m = k := by
  have hm : 0 < m := by omega
  refine ⟨(k + (m - i % m)) % m, Nat.mod_lt _ hm, ?_⟩
  have hlt := Nat.mod_lt i hm
  have hsum : i + (k + (m - i % m)) = k + m * (i / m + 1) := by
    have hi := Nat.div_add_mod i m
    rw [Nat.mul_add_one]
    omega
  rw [Nat.add_mod_mod, hsum, Nat.add_mul_mod_self_left, Nat.mod_eq_of_lt hk]

/-- Taking the first line of a Well leaves one line fewer. -/
theorem freeLines_set {free : List (Nat × List Nat)} {j w l : Nat} {ls : List Nat} (hj : j < free.length)
    (hwell : free.getD j (0, []) = (w, l :: ls)) : freeLines (free.set j (w, ls)) + 1 = freeLines free := by
  rw [List.getD_eq_getElem _ _ hj] at hwell
  have hsplit : free = free.take j ++ (w, l :: ls) :: free.drop (j + 1) := by
    rw [← hwell, List.getElem_cons_drop, List.take_append_drop]
  have hlen : (free.take j).length = j := List.length_take_of_le hj.le
  have hset : free.set j (w, ls) = free.take j ++ (w, ls) :: free.drop (j + 1) := by
    rw [List.set_eq_take_append_cons_drop, if_pos hj]
  rw [hset]
  conv_rhs => rw [hsplit]
  simp only [freeLines, List.map_append, List.map_cons, List.sum_append, List.sum_cons, List.length_cons]
  omega

theorem takeLine_some {free rest : List (Nat × List Nat)} {i l : Nat} (h : takeLine free i = some (l, rest)) :
    freeLines rest + 1 = freeLines free := by
  obtain ⟨j, hj, hfound⟩ := List.exists_of_findSome?_eq_some h
  obtain ⟨k, hk, rfl⟩ := List.mem_map.1 hj
  have hlt : (i + k) % max 1 free.length < free.length := by
    have hk' := List.mem_range.1 hk
    rw [max_eq_right (by omega)]
    exact Nat.mod_lt _ (by omega)
  split at hfound
  · next w l' ls hwell =>
    obtain ⟨rfl, rfl⟩ : l' = l ∧ free.set ((i + k) % max 1 free.length) (w, ls) = rest := by simpa using hfound
    exact freeLines_set hlt hwell
  · exact absurd hfound (by simp)

theorem takeLine_none {free : List (Nat × List Nat)} {i : Nat} (h : takeLine free i = none) : freeLines free = 0 := by
  refine List.sum_eq_zero fun n hn => ?_
  obtain ⟨x, hx, rfl⟩ := List.mem_map.1 hn
  obtain ⟨k, hk, rfl⟩ := List.getElem_of_mem hx
  obtain ⟨j, hj, hplace⟩ := exists_rotation hk i
  have hmax : max 1 free.length = free.length := max_eq_right (by omega)
  have hnone := List.findSome?_eq_none_iff.1 h k (List.mem_map.2 ⟨j, List.mem_range.2 hj, by rw [hmax, hplace]⟩)
  rw [List.getD_eq_getElem _ _ hk] at hnone
  generalize free[k] = y at hnone ⊢
  obtain ⟨w, _ | ⟨l, ls⟩⟩ := y
  · rfl
  · exact absurd hnone (by simp)

theorem takeLines_isSome (n i : Nat) (free : List (Nat × List Nat)) : (takeLines n i free).isSome = true ↔ n ≤ freeLines free := by
  induction n generalizing i free with
  | zero => simp [takeLines]
  | succ n ih =>
    rw [takeLines]
    cases hline : takeLine free i with
    | none =>
      have hnone := takeLine_none hline
      simp only [Option.isSome_none, Bool.false_eq_true, false_iff]
      omega
    | some x =>
      have hone := takeLine_some (l := x.1) (rest := x.2) hline
      simp only [Option.isSome_map, ih]
      omega

theorem length_takeLines {n i : Nat} {free : List (Nat × List Nat)} {es : List Nat} (h : takeLines n i free = some es) : es.length = n := by
  induction n generalizing i free es with
  | zero =>
    obtain rfl : [] = es := by simpa [takeLines] using h
    rfl
  | succ n ih =>
    rw [takeLines] at h
    cases hline : takeLine free i with
    | none => simp [hline] at h
    | some x =>
      simp only [hline, Option.map_eq_some_iff] at h
      obtain ⟨ls, hls, rfl⟩ := h
      rw [List.length_cons, ih hls]

end Sys2Proof.Machine
end

section
/-! STASH_ALLOC, VERSION_TAKE and VERSION_DROP (R248 to R251, R264, R265, R268), each the only command of its core that has not begun. -/

namespace Sys2Proof.Machine

open Sys2Proof

/-! ## Accepted commands replaced -/

theorem foldl_indep {α : Type} {f : Dev → α → Dev} {xs : List Accepted}
    (hf : ∀ (d : Dev) x, f (d.withAccepted xs) x = (f d x).withAccepted xs)
    (ys : List α) (d : Dev) : ys.foldl f (d.withAccepted xs) = (ys.foldl f d).withAccepted xs := by
  induction ys generalizing d with
  | nil => rfl
  | cons y ys ih => rw [List.foldl_cons, List.foldl_cons, hf, ih]

theorem release_indep (d : Dev) (xs : List Accepted) (slot : Nat) : (d.withAccepted xs).release slot = (d.release slot).withAccepted xs := by
  have hbuf : (d.withAccepted xs).depot.buf slot = d.depot.buf slot := rfl
  unfold Dev.release
  rw [hbuf]
  cases d.depot.buf slot with
  | none => rfl
  | some b =>
    dsimp only
    split <;> rfl

theorem dropReplica_indep (d : Dev) (xs : List Accepted) (slot : Nat) :
    (d.withAccepted xs).dropReplica slot = (d.dropReplica slot).withAccepted xs := by
  have hplace : (d.withAccepted xs).place = d.place := rfl
  unfold Dev.dropReplica
  rw [hplace]
  split <;> rfl

theorem dropVersion_indep (d : Dev) (xs : List Accepted) (g num : Nat) :
    (d.withAccepted xs).dropVersion g num = (d.dropVersion g num).withAccepted xs := by
  have hversion : (d.withAccepted xs).version? g num = d.version? g num := rfl
  unfold Dev.dropVersion
  rw [hversion]
  cases d.version? g num with
  | none => rfl
  | some v =>
    dsimp only
    split
    · rw [← release_indep, ← foldl_indep fun d s => dropReplica_indep d xs s]
      rfl
    · rfl

theorem placesTo_dropVersion (d : Dev) (g num : Nat) : d.placesTo (d.dropVersion g num) := by
  unfold Dev.dropVersion
  split
  · exact .refl d
  · split
    · extract_lets ws d1 reps
      have hd1 : d.placesTo d1 := ⟨⟨rfl, rfl, rfl⟩, rfl⟩
      exact (hd1.trans (placesTo_foldl (fun d s => placesTo_dropReplica d s) reps d1)).trans (release_frame ..)
    · exact ⟨⟨rfl, rfl, rfl⟩, rfl⟩

/-! ## A handle given (R349), and the command complete -/

section
variable {d : Dev} {c : Nat} {a : Accepted} {pre post : List Accepted} (h : d.serves c a pre post)
include h

/-- A command that has begun and holds no buffer completes: it is gone, and nothing else changes. -/
theorem Dev.serves.completes {e : Dev} (haccepted : e.accepted = pre ++ { a with begun := true, refs := [] } :: post) (hcores : e.cores = d.cores) :
    e.completeAcc a.id = e.withAccepted (pre ++ post) := by
  obtain ⟨-, hcore, -, -, hnew, hsignals, hending⟩ := h
  exact completeAcc_at (a := { a with begun := true, refs := [] }) haccepted hnew rfl hcore hsignals (by rw [core_of_cores hcores]; exact hending)

theorem Dev.serves.gives {e : Dev} (haccepted : e.accepted = pre ++ { a with begun := true, refs := [] } :: post) (hcores : e.cores = d.cores)
    (result : Nat) (w : Word64) : e.giveHandle a.id result w = (e.write result (leBytes 8 w.toNat)).withAccepted (pre ++ post) :=
  h.completes ((Dev.write_accepted ..).trans haccepted) ((Dev.write_cores ..).trans hcores)

end

/-- A write drops lines of the stream caches and leaves the Depot's tables. -/
theorem write_depot (d : Dev) (a : Nat) (bs : List Byte) :
    (d.write a bs).depot.bufs = d.depot.bufs ∧ (d.write a bs).depot.spill = d.depot.spill := by
  unfold Dev.write Dev.land Dev.moveHbm
  rw [Dev.markWritten_eq]
  exact ⟨rfl, rfl⟩

/-! ## STASH_ALLOC -/

theorem exec_stashAlloc (c : Nat) (s : State) : exec (.stashAlloc c) s = .next (s.dev! (s.dev.stashAlloc c)) := rfl

/-- The buffer of an allocation of the stash: in lines of the reservation (KIND 0), or whole in the spill ring (KIND 1). -/
def Dev.stashBuf (d : Dev) (slot n kind eb k0 : Nat) (es : List Nat) : Buf :=
  ⟨slot, 255, kind, d.depot.gen slot, n, none, k0, eb, es, 1, false, 0, none⟩

/-- The device with a buffer in lines of the reservation (R248, R365). -/
def Dev.inLines (d : Dev) (b : Buf) : Dev :=
  let e := d.addBuf b
  { e with depot := { e.depot with stashPeak := max e.depot.stashPeak e.depot.stashUsed } }

/-- The device with a buffer at an offset of the spill ring (R251). -/
def Dev.inRing (d : Dev) (b : Buf) (off : Nat) : Dev :=
  let e := d.addBuf b
  { e with depot := { e.depot with spill := e.depot.spill ++ [⟨b.slot, off, b.bytes, false⟩], spillTail := off + b.bytes } }

/-- Bytes that the reservation has left (R248). -/
def Dev.stashLeft (d : Dev) : Nat := 2048 * (d.depot.stashLines - d.depot.stashUsed)

/-- The place of the rotation at which the lines of an allocation begin (R248). -/
def Dev.stashPlace (d : Dev) : Nat := (d.pool 255).elim 0 fun p => d.depot.leastWell d.grade p

/-- What the job says of its stash. -/
def Dev.stashJob (d : Dev) : StashDecl := d.job.elim ⟨0, 0, false, 0, 0⟩ (·.stash)

/-- What STASH_ALLOC finds for `n` bytes: lines of the reservation (inl), an offset of the spill ring (inr), or nothing (R248, R251). -/
def Dev.stashFind (d : Dev) (n : Nat) : Option (List Nat ⊕ Nat) :=
  match (if n ≤ d.stashLeft then takeLines (n / 2048) d.stashPlace d.stashFree else none) with
  | some es => some (.inl es)
  | none => (if d.stashJob.spill then d.depot.spillAt d.stashJob.ringSize n else none).map .inr

/-- What STASH_ALLOC does with what it finds (R249 to R251). -/
def Dev.stashServe (d : Dev) (id r slot n : Nat) : Dev :=
  match d.stashFind n with
  | some (.inl es) =>
    let b := d.stashBuf slot n 0 2048 d.stashPlace es
    ((d.beginAcc id []).inLines b).giveHandle id r (d.handleOf b)
  | some (.inr off) =>
    let b := d.stashBuf slot n 1 n 0 [d.stashJob.ringBase + off]
    ((d.beginAcc id []).inRing b off).giveHandle id r (d.handleOf b)
  | none => d.haltAcc id { reason := 0x0A, unit := 4, d0 := n, d1 := d.stashLeft }

/-- A STASH_ALLOC whose operands are within their limits, with a slot free, is served by what it finds. -/
theorem stashAlloc_serves {d : Dev} {c mb bytes r slot : Nat} {a : Accepted} {pre post : List Accepted} (h : d.serves c a pre post)
    (hop : a.cmd.op = .stashAlloc mb bytes r) (henabled : wbit d.depot.ctrl 0 = true) (hmb : mb ≤ 255) (hlow : 32 ≤ bytes)
    (hhigh : bytes ≤ 2 ^ 32) (haligned : bytes % 32 = 0) (hresult : d.resultFault 2 r = none) (hslot : d.depot.freeSlot = some slot) :
    d.stashAlloc c = d.stashServe a.id r slot (roundUp bytes 2048) := by
  unfold Dev.stashAlloc
  rw [serves_oldest h _ (by rw [hop])]
  simp only [hop, henabled, hresult, hslot, show ¬ mb > 255 by omega, show ¬ bytes < 32 by omega, show ¬ bytes > 2 ^ 32 by omega,
    haligned, ne_eq, not_true_eq_false, decide_false, Bool.or_self, Bool.not_true, Bool.false_eq_true, if_false]
  have hlines : (if roundUp bytes 2048 ≤ 2048 * (d.depot.stashLines - d.depot.stashUsed) then
      takeLines (roundUp bytes 2048 / 2048) ((d.pool 255).elim 0 fun p => d.depot.leastWell d.grade p) d.stashFree else none) =
      if roundUp bytes 2048 ≤ d.stashLeft then takeLines (roundUp bytes 2048 / 2048) d.stashPlace d.stashFree else none := rfl
  have hring : (if (d.job.elim (⟨0, 0, false, 0, 0⟩ : StashDecl) (·.stash)).spill = true then
      d.depot.spillAt (d.job.elim (⟨0, 0, false, 0, 0⟩ : StashDecl) (·.stash)).ringSize (roundUp bytes 2048) else none) =
      if d.stashJob.spill then d.depot.spillAt d.stashJob.ringSize (roundUp bytes 2048) else none := rfl
  unfold Dev.stashServe Dev.stashFind
  rw [hlines, hring]
  generalize (if roundUp bytes 2048 ≤ d.stashLeft then takeLines (roundUp bytes 2048 / 2048) d.stashPlace d.stashFree else none) = lines
  generalize (if d.stashJob.spill then d.depot.spillAt d.stashJob.ringSize (roundUp bytes 2048) else none) = ring
  cases lines with
  | some es => rfl
  | none => cases ring <;> rfl

theorem stashFind_lines {d : Dev} {n : Nat} {es : List Nat} (hfits : n ≤ d.stashLeft)
    (hlines : takeLines (n / 2048) d.stashPlace d.stashFree = some es) : d.stashFind n = some (.inl es) := by
  rw [Dev.stashFind, if_pos hfits, hlines]

/-- Past the bytes left, an allocation goes to the spill ring or nowhere. -/
theorem stashFind_full {d : Dev} {n : Nat} (hfull : d.stashLeft < n) :
    d.stashFind n = (if d.stashJob.spill then d.depot.spillAt d.stashJob.ringSize n else none).map .inr := by
  rw [Dev.stashFind, if_neg (Nat.not_le.2 hfull)]

/-- A handle given on a device that the command has changed: the command is gone, and memory holds the handle. -/
theorem Dev.serves.gives_frame {d e : Dev} {c : Nat} {a : Accepted} {pre post : List Accepted} (h : d.serves c a pre post)
    (haccepted : e.accepted = pre ++ { a with begun := true, refs := [] } :: post) (hcores : e.cores = d.cores) (r : Nat) (w : Word64) :
    let t := e.giveHandle a.id r w
    t.depot.bufs = e.depot.bufs ∧ t.depot.spill = e.depot.spill ∧ t.mem = e.mem.writes r (leBytes 8 w.toNat) ∧ t.accepted = pre ++ post ∧
      ∀ k, t.core k = d.core k := by
  intro t
  have ht : t = (e.write r (leBytes 8 w.toNat)).withAccepted (pre ++ post) := h.gives haccepted hcores r w
  rw [ht]
  generalize leBytes 8 w.toNat = bs
  obtain ⟨hbufs, hspill⟩ := write_depot e r bs
  have hmem : (e.write r bs).mem = e.mem.writes r bs := Dev.write_mem e r bs
  have hsame : (e.write r bs).cores = d.cores := (Dev.write_cores e r bs).trans hcores
  exact ⟨hbufs, hspill, hmem, rfl, fun k => core_of_cores hsame k⟩

/-! ## Versions (R264, R265, R268) -/

/-- The device with the current version of a group taken under a hold (R265). -/
def Dev.takeHold (d : Dev) (g n : Nat) : Dev :=
  let e := d.takeVersion g (d.curNum g)
  { e with wells := { e.wells with holds := e.wells.holds ++ [⟨g, n, d.curNum g⟩] } }

/-- The device with a hold given up, and its version dropped (R264, R265). -/
def Dev.dropHold (d : Dev) (g : Nat) (o : Hold) : Dev :=
  ({ d with wells := { d.wells with holds := d.wells.holds.erase o } } : Dev).dropVersion g o.num

theorem takeHold_indep (d : Dev) (xs : List Accepted) (g n : Nat) : (d.withAccepted xs).takeHold g n = (d.takeHold g n).withAccepted xs := rfl

theorem dropHold_indep (d : Dev) (xs : List Accepted) (g : Nat) (o : Hold) : (d.withAccepted xs).dropHold g o = (d.dropHold g o).withAccepted xs :=
  dropVersion_indep { d with wells := { d.wells with holds := d.wells.holds.erase o } } xs g o.num

theorem dropHold_cores (d : Dev) (g : Nat) (o : Hold) : (d.dropHold g o).cores = d.cores :=
  (placesTo_dropVersion { d with wells := { d.wells with holds := d.wells.holds.erase o } } g o.num).calm.cores

theorem exec_versionTake (c : Nat) (s : State) : exec (.versionTake c) s = .next (s.dev! (s.dev.versionTake c)) := rfl
theorem exec_versionDrop (c : Nat) (s : State) : exec (.versionDrop c) s = .next (s.dev! (s.dev.versionDrop c)) := rfl

theorem versionFault_none {d : Dev} {g n : Nat} (henabled : wbit d.depot.ctrl 0 = true) (hgroup : g < d.groupCount) (hhold : n ≤ 1023) :
    d.versionFault g n = none := by
  rw [Dev.versionFault, henabled, if_neg (by decide), if_neg (by omega), if_neg (by omega)]

/-- A halt with VERSION_LIMIT counts no handle. -/
theorem haltDepot_version (d : Dev) (id g num : Nat) : d.haltDepot id (d.versionHalt g num) = d.haltAcc id (d.versionHalt g num) := rfl

theorem gField_lt (d : Dev) (g o : Nat) : d.gField g o 8 < 2 ^ 64 := by
  have hlt := leNat_lt (d.peek (d.groupAddr g + o) 8)
  have hlen : (d.peek (d.groupAddr g + o) 8).length = 8 := by simp [Dev.peek, Memory.reads]
  rw [hlen] at hlt
  exact hlt

section
variable {d : Dev} {c g n r : Nat} {a : Accepted} {pre post : List Accepted} (h : d.serves c a pre post)
  (henabled : wbit d.depot.ctrl 0 = true) (hgroup : g < d.groupCount) (hhold : n ≤ 1023)
include h henabled hgroup hhold

/-- VERSION_TAKE by the group's mode and the hold. -/
theorem versionTake_cases (hop : a.cmd.op = .versionTake g n r) (hresult : d.resultFault 2 r = none) :
    (d.trainMode g = 1 → d.versionTake c = d.haltAcc a.id (d.versionHalt g (d.curNum g))) ∧
    (∀ o, d.trainMode g ≠ 1 → d.hold? g n = some o → d.versionTake c = d.haltAcc a.id (d.versionHalt g o.num)) ∧
    (d.trainMode g ≠ 1 → d.hold? g n = none →
      d.versionTake c = ((d.beginAcc a.id []).takeHold g n).giveHandle a.id r (BitVec.ofNat 64 (d.gField g 72 8))) := by
  unfold Dev.versionTake
  rw [serves_oldest h _ (by rw [hop])]
  simp only [hop, versionFault_none henabled hgroup hhold, hresult, haltDepot_version]
  refine ⟨fun hmode => if_pos hmode, fun o hmode ho => ?_, fun hmode ho => ?_⟩
  · rw [if_neg hmode, ho]
  · rw [if_neg hmode, ho]
    rfl

/-- VERSION_DROP by the group's mode and the hold. -/
theorem versionDrop_cases (hop : a.cmd.op = .versionDrop g n) :
    (d.trainMode g = 1 ∨ d.hold? g n = none → d.versionDrop c = d.haltAcc a.id (d.versionHalt g (d.curNum g))) ∧
    (∀ o, d.trainMode g ≠ 1 → d.hold? g n = some o →
      d.versionDrop c = ((d.beginAcc a.id []).dropHold g o).completeAcc a.id) := by
  unfold Dev.versionDrop
  rw [serves_oldest h _ (by rw [hop])]
  simp only [hop, versionFault_none henabled hgroup hhold, haltDepot_version]
  refine ⟨fun hnot => ?_, fun o hmode ho => ?_⟩
  · split
    · rfl
    · next hmode => rw [hnot.resolve_left hmode]
  · rw [if_neg hmode, ho]
    rfl

/-- A take that holds: the version's count goes up, the hold is kept, and the handle of the current version goes to RESULT. -/
theorem versionTake_takes (hop : a.cmd.op = .versionTake g n r) (hresult : d.resultFault 2 r = none) (hmode : d.trainMode g ≠ 1)
    (hfree : d.hold? g n = none) :
    d.versionTake c = ((d.takeHold g n).write r (leBytes 8 (d.gField g 72 8))).withAccepted (pre ++ post) := by
  obtain ⟨-, -, htake⟩ := versionTake_cases h henabled hgroup hhold hop hresult
  have hhandle : (BitVec.ofNat 64 (d.gField g 72 8)).toNat = d.gField g 72 8 := Nat.mod_eq_of_lt (gField_lt d g 72)
  let xs := pre ++ { a with begun := true, refs := [] } :: post
  have hbegun : (d.beginAcc a.id []).takeHold g n = (d.takeHold g n).withAccepted xs := by
    rw [beginAcc_at h]
    exact takeHold_indep d xs g n
  rw [htake hmode hfree, hbegun, h.gives (e := (d.takeHold g n).withAccepted xs) rfl rfl, hhandle, write_indep]
  rfl

/-- A drop of a hold: the hold is gone, and the count of its version goes down. -/
theorem versionDrop_drops (hop : a.cmd.op = .versionDrop g n) (hmode : d.trainMode g ≠ 1) {o : Hold} (hheld : d.hold? g n = some o) :
    d.versionDrop c = (d.dropHold g o).withAccepted (pre ++ post) := by
  obtain ⟨-, hdrop⟩ := versionDrop_cases h henabled hgroup hhold hop
  let xs := pre ++ { a with begun := true, refs := [] } :: post
  have hbegun : (d.beginAcc a.id []).dropHold g o = (d.dropHold g o).withAccepted xs := by
    rw [beginAcc_at h]
    exact dropHold_indep d xs g o
  rw [hdrop o hmode hheld, hbegun, h.completes (e := (d.dropHold g o).withAccepted xs) rfl (dropHold_cores d g o)]
  rfl

end

/-- Settles O26: the rotation finds a line while one is free; the rest are the outcomes of the three commands. -/
theorem stashAndVersions : Obligations.StashAndVersions := by
  unfold Obligations.StashAndVersions
  refine ⟨⟨takeLines_isSome, ?_⟩, ?_⟩
  · intro s c a pre post mb bytes r slot h hop henabled hmb hlow hhigh haligned hresult hslot n left st buf
    have hserves := stashAlloc_serves h hop henabled hmb hlow hhigh haligned hresult hslot
    refine ⟨fun es hfits hlines => ?_, fun off hfull hallowed hroom => ?_, fun hfull hnone => ?_⟩
    · have hfind : s.dev.stashFind n = some (.inl es) := stashFind_lines hfits hlines
      rw [Dev.stashServe, hfind] at hserves
      obtain ⟨hbufs, hspill, hmem, haccepted, hcore⟩ := h.gives_frame (e := (s.dev.beginAcc a.id []).inLines (buf 0 2048 s.dev.stashPlace es))
        (congrArg Dev.accepted (beginAcc_at h)) rfl r (s.dev.handleOf (buf 0 2048 s.dev.stashPlace es))
      refine ⟨s.dev! (s.dev.stashAlloc c), s.dev.stashPlace, exec_stashAlloc c s, ?_⟩
      rw [State.dev!_dev, hserves]
      exact ⟨hbufs, length_takeLines hlines, hmem, haccepted, hspill, hcore, rfl, rfl⟩
    · have hfind : s.dev.stashFind n = some (.inr off) := by
        rw [stashFind_full hfull, if_pos (show s.dev.stashJob.spill = true from hallowed)]
        exact congrArg (Option.map Sum.inr) hroom
      rw [Dev.stashServe, hfind] at hserves
      obtain ⟨hbufs, hspill, hmem, haccepted, hcore⟩ := h.gives_frame
        (e := (s.dev.beginAcc a.id []).inRing (buf 1 n 0 [st.ringBase + off]) off) (congrArg Dev.accepted (beginAcc_at h)) rfl r
        (s.dev.handleOf (buf 1 n 0 [st.ringBase + off]))
      refine ⟨s.dev! (s.dev.stashAlloc c), exec_stashAlloc c s, ?_⟩
      rw [State.dev!_dev, hserves]
      exact ⟨hbufs, hspill, hmem, haccepted, hcore, rfl, rfl⟩
    · have hfind : s.dev.stashFind n = none := by
        rw [stashFind_full hfull, Option.map_eq_none_iff, ite_eq_right_iff]
        intro hspill
        exact hnone.resolve_left (ne_false_of_eq_true hspill)
      rw [Dev.stashServe, hfind] at hserves
      rw [exec_stashAlloc, hserves]
      rfl
  · intro s c a pre post g n h henabled hgroup hhold limit
    refine ⟨fun r hop hresult => ?_, fun hop => ?_⟩
    · obtain ⟨hfrozen, htaken, -⟩ := versionTake_cases h henabled hgroup hhold hop hresult
      refine ⟨fun hmode hfree => ?_, fun hmode => ?_, fun o hmode hheld => ?_⟩ <;> rw [exec_versionTake]
      · rw [versionTake_takes h henabled hgroup hhold hop hresult hmode hfree]
        rfl
      · rw [hfrozen hmode]
        rfl
      · rw [htaken o hmode hheld]
        rfl
    · obtain ⟨hhalts, -⟩ := versionDrop_cases h henabled hgroup hhold hop
      refine ⟨fun o hmode hheld => ?_, fun hnot => ?_⟩ <;> rw [exec_versionDrop]
      · rw [versionDrop_drops h henabled hgroup hhold hop hmode hheld]
        rfl
      · rw [hhalts hnot]
        rfl

end Sys2Proof.Machine
end

section
/-! What completions, records and packets leave of device memory, of its poisoned lines and of the Wells (R87, R448 to R453): all of it; and what a
routine's end leaves of the Well commands and the accumulators' progress (R114). -/

namespace Sys2Proof.Machine

open Sys2Proof

/-! ## Memory and Wells -/

/-- Device memory, its poisoned lines and the state of the Wells are as they were. -/
structure Dev.reportsTo (d e : Dev) : Prop where
  mem : e.mem = d.mem
  poison : e.poison = d.poison
  wells : e.wells = d.wells

theorem Dev.reportsTo.refl (d : Dev) : d.reportsTo d := ⟨rfl, rfl, rfl⟩

theorem Dev.reportsTo.trans {d e f : Dev} (hde : d.reportsTo e) (hef : e.reportsTo f) : d.reportsTo f :=
  ⟨hef.mem.trans hde.mem, hef.poison.trans hde.poison, hef.wells.trans hde.wells⟩

theorem Dev.reportsTo.wcmd {d e : Dev} (h : d.reportsTo e) (id : Nat) : e.wcmd id = d.wcmd id := by rw [Dev.wcmd, h.wells, Dev.wcmd]

theorem reportsTo_foldl {α : Type} {f : Dev → α → Dev} (hf : ∀ (d : Dev) x, d.reportsTo (f d x)) (xs : List α) (d : Dev) :
    d.reportsTo (xs.foldl f d) := foldl_keeps (fun e x _ he => Dev.reportsTo.trans he (hf e x)) (.refl d)

theorem Dev.asideTo.reports {d e : Dev} (h : d.asideTo e) : d.reportsTo e := by
  obtain ⟨⟨_, _, _, _, _, _, _, _, rfl, -⟩, -⟩ := h
  exact ⟨rfl, rfl, rfl⟩

theorem reportsTo_detect (d : Dev) (det sev : Nat) (inj : Bool) (addr : Option Nat) (d0 d1 d2 : Nat) :
    d.reportsTo (d.detect det sev inj addr d0 d1 d2) := (asideTo_detect ..).reports

theorem reportsTo_fire (d : Dev) (v : Nat) : d.reportsTo (d.fire v) := ⟨by simp, by simp, by simp⟩

theorem reportsTo_readFor (d : Dev) (req a n : Nat) : d.reportsTo (d.readFor req a n).2 := by
  have hmimic (d : Dev) (det : Nat) : d.reportsTo (d.mimic det).2 := ⟨rfl, rfl, rfl⟩
  have hmimics (d : Dev) (det det' : Nat) (inj : Bool) (addr : Option Nat) (d0 : Nat) : d.reportsTo
      (if (d.mimic det).1 then (d.mimic det).2.detect det' 0 inj addr d0 0 0 else (d.mimic det).2) := by
    split
    · exact (hmimic d det).trans (reportsTo_detect ..)
    · exact hmimic d det
  unfold Dev.readFor
  extract_lets w bad
  cases bad with
  | some l =>
    dsimp only
    exact reportsTo_detect ..
  | none =>
    dsimp only
    split
    · dsimp only
      exact (hmimic d _).trans (reportsTo_detect ..)
    · have hmoved (e : Dev) : e.reportsTo (if (req % 256 = 2 || req % 256 = 8) = true then e.moveTsv w n else e.moveHbm a n false) := by
        split <;> exact ⟨rfl, rfl, rfl⟩
      exact (((hmimic d _).trans (hmimics ..)).trans (hmimics ..)).trans (hmoved _)

/-! ## Rings (R437 to R455) -/

theorem reportsTo_setRing (d : Dev) (r : Ring) : d.reportsTo (d.setRing r) := ⟨rfl, rfl, rfl⟩

theorem reportsTo_fireRing (d : Dev) (v : Nat) : d.reportsTo (d.fireRing v) := by
  unfold Dev.fireRing
  extract_lets rs
  exact Dev.reportsTo.trans (e := { d with host := { d.host with rings := rs } }) ⟨rfl, rfl, rfl⟩ (reportsTo_fire _ v)

theorem reportsTo_countIrq (d : Dev) (n : Nat) : d.reportsTo (d.countIrq n) := by
  unfold Dev.countIrq
  extract_lets r d1 total
  split
  · exact .refl d
  · split
    · exact (reportsTo_setRing ..).trans (reportsTo_fireRing _ _)
    · exact reportsTo_setRing ..

theorem reportsTo_deliverAll (d : Dev) : d.reportsTo d.deliverAll :=
  reportsTo_foldl (fun _ _ => ⟨by simp, by simp, by simp⟩) _ d

theorem reportsTo_putRecord (d : Dev) (n slot status reason result detail errSeq : Nat) :
    d.reportsTo (d.putRecord n slot status reason result detail errSeq) := by
  unfold Dev.putRecord
  split
  · exact .refl d
  · extract_lets d1 r d2 wrap r' d3 d4
    have hd3 : d.reportsTo d3 := (reportsTo_deliverAll d).trans ⟨rfl, rfl, rfl⟩
    have hd4 : d3.reportsTo d4 := by
      unfold d4
      split
      · exact .refl d3
      · exact reportsTo_countIrq d3 n
    exact (hd3.trans hd4).trans (reportsTo_setRing ..)

theorem reportsTo_askHost {d e : Dev} {addr len : Nat} {use : HostUse} (h : d.askHost addr len use = some e) : d.reportsTo e := by
  unfold Dev.askHost at h
  dsimp only at h
  split at h
  · exact absurd h (by simp)
  · rw [← Option.some_inj.1 h]
    exact ⟨rfl, rfl, rfl⟩

theorem reportsTo_askArgs (d : Dev) (n : Nat) (x : Desc) : d.reportsTo (d.askArgs n x) := by
  unfold Dev.askArgs
  split
  · exact .refl d
  · split
    · split
      · exact reportsTo_putRecord ..
      · have hread := reportsTo_readFor d reqFirmware x.argAddr x.argLen
        generalize d.readFor reqFirmware x.argAddr x.argLen = y at hread ⊢
        obtain ⟨_ | bs, e⟩ := y
        · exact hread.trans (reportsTo_putRecord ..)
        · exact hread.trans ⟨rfl, rfl, rfl⟩
    · split
      · exact .refl d
      · next hask => exact (reportsTo_askHost hask).trans ⟨rfl, rfl, rfl⟩

theorem reportsTo_startDesc (d : Dev) (n : Nat) : d.reportsTo (d.startDesc n) := by
  unfold Dev.startDesc
  dsimp only
  split
  · exact .refl d
  · next x _ =>
    split
    · have hstarted : d.reportsTo (d.setDesc n x.slot fun y => { y with started := true }) := ⟨rfl, rfl, rfl⟩
      refine hstarted.trans ?_
      split
      · exact reportsTo_putRecord ..
      · split
        · exact reportsTo_putRecord ..
        · split
          · exact reportsTo_putRecord ..
          · exact reportsTo_askArgs ..
    · exact .refl d

theorem reportsTo_fetchDesc (d : Dev) (n : Nat) : d.reportsTo (d.fetchDesc n) := by
  unfold Dev.fetchDesc
  dsimp only
  split
  · split
    · exact .refl d
    · next hask => exact (reportsTo_askHost hask).trans ⟨rfl, rfl, rfl⟩
  · exact .refl d

theorem reportsTo_advanceRing (d : Dev) (n : Nat) : d.reportsTo (d.advanceRing n) := by
  unfold Dev.advanceRing
  extract_lets d1 k d2 d3
  have hd1 : d.reportsTo d1 := reportsTo_foldl (fun d x => by
    split
    · exact reportsTo_askArgs d n x
    · exact .refl d) _ d
  have hd2 : d1.reportsTo d2 := reportsTo_foldl (fun d _ => reportsTo_startDesc d n) _ d1
  have hd3 : d2.reportsTo d3 := reportsTo_foldl (fun d _ => reportsTo_fetchDesc d n) _ d2
  exact ((hd1.trans hd2).trans hd3).trans (reportsTo_setRing ..)

theorem reportsTo_finishDesc (d : Dev) (n slot status reason result detail errSeq : Nat) :
    d.reportsTo (d.finishDesc n slot status reason result detail errSeq) :=
  (reportsTo_putRecord ..).trans (reportsTo_foldl (fun d (r : Ring) => reportsTo_advanceRing d r.num) _ _)

theorem reportsTo_endStart (d : Dev) (j : Job) (status reason detail errSeq : Nat) : d.reportsTo (d.endStart j status reason detail errSeq) := by
  unfold Dev.endStart
  split
  · exact .refl d
  · next n slot _ =>
    exact Dev.reportsTo.trans (e := { d with job := some { j with start := none } }) ⟨rfl, rfl, rfl⟩ (reportsTo_finishDesc ..)

theorem reportsTo_endHalts (d : Dev) : d.reportsTo d.endHalts := by
  unfold Dev.endHalts
  split
  · exact .refl d
  · next j _ =>
    split
    · exact Dev.reportsTo.trans (e := { d with job := some { j with halters := [] } }) ⟨rfl, rfl, rfl⟩
        (reportsTo_foldl (fun d x => reportsTo_finishDesc ..) _ _)
    · exact .refl d

theorem reportsTo_jobCheck (d : Dev) : d.reportsTo d.jobCheck := by
  unfold Dev.jobCheck
  split
  · exact .refl d
  · split
    · exact .refl d
    · split
      · split
        · exact (reportsTo_endStart ..).trans (reportsTo_endHalts _)
        · exact .refl d
      · split
        · split
          · split <;> exact (reportsTo_endStart ..).trans (reportsTo_endHalts _)
          · exact .refl d
        · split
          · exact reportsTo_endStart ..
          · exact .refl d

/-! ## References and station commands (R87, R352) -/

theorem reportsTo_release (d : Dev) (slot : Nat) : d.reportsTo (d.release slot) := by
  unfold Dev.release
  split
  · exact .refl d
  · split <;> exact ⟨rfl, rfl, rfl⟩

theorem reportsTo_dropRefs (d : Dev) (slots : List Nat) : d.reportsTo (d.dropRefs slots) := reportsTo_foldl reportsTo_release slots d

theorem reportsTo_dropAcc (d : Dev) (id : Nat) : d.reportsTo (d.dropAcc id) := by
  unfold Dev.dropAcc
  split
  · exact .refl d
  · exact Dev.reportsTo.trans (e := { d with accepted := d.accepted.filter fun x => x.id != id }) ⟨rfl, rfl, rfl⟩ (reportsTo_dropRefs ..)

/-- A command without signals completes, its core waiting for no end. -/
theorem reportsTo_completeAcc {d : Dev} {id : Nat}
    (hsilent : ∀ a, d.acc id = some a → a.cmd.signals = [] ∧ (d.core a.core).ending = none) : d.reportsTo (d.completeAcc id) := by
  unfold Dev.completeAcc
  split
  · exact .refl d
  · next a hacc =>
    obtain ⟨hsignals, hending⟩ := hsilent a hacc
    rw [hsignals, Dev.raiseSignals, List.foldl_nil, finishEnd_none (by rw [core_of_cores (dropAcc_cores d id)]; exact hending)]
    exact reportsTo_dropAcc d id

theorem reportsTo_retireTrack (d : Dev) (row key : Nat) : d.reportsTo (d.retireTrack row key) := by
  unfold Dev.retireTrack
  split
  · exact .refl d
  · rw [Dev.retireWork_eq]
    exact ⟨rfl, rfl, rfl⟩

/-! ## Well commands and accumulators -/

/-- The Well commands and the progress of the accumulators are as they were. -/
structure Dev.keepsWork (d e : Dev) : Prop where
  cmds : e.wells.cmds = d.wells.cmds
  folds : e.wells.folds = d.wells.folds

theorem Dev.keepsWork.refl (d : Dev) : d.keepsWork d := ⟨rfl, rfl⟩

theorem Dev.keepsWork.trans {d e f : Dev} (hde : d.keepsWork e) (hef : e.keepsWork f) : d.keepsWork f :=
  ⟨hef.cmds.trans hde.cmds, hef.folds.trans hde.folds⟩

theorem Dev.keepsWork.wcmd {d e : Dev} (h : d.keepsWork e) (id : Nat) : e.wcmd id = d.wcmd id := by rw [Dev.wcmd, h.cmds, Dev.wcmd]

theorem Dev.keepsWork.foldSt {d e : Dev} (h : d.keepsWork e) (g : Nat) (x : Option Nat) (iter : Nat) : e.foldSt g x iter = d.foldSt g x iter := by
  rw [Dev.foldSt, h.folds, Dev.foldSt]

theorem Dev.reportsTo.keepsWork {d e : Dev} (h : d.reportsTo e) : d.keepsWork e := ⟨by rw [h.wells], by rw [h.wells]⟩

theorem keepsWork_foldl {α : Type} {f : Dev → α → Dev} (hf : ∀ (d : Dev) x, d.keepsWork (f d x)) (xs : List α) (d : Dev) :
    d.keepsWork (xs.foldl f d) := foldl_keeps (fun e x _ he => Dev.keepsWork.trans he (hf e x)) (.refl d)

theorem keepsWork_markWritten (d : Dev) (a n : Nat) : d.keepsWork (d.markWritten a n) := keepsWork_foldl (fun d l => by
  dsimp only
  split <;> exact ⟨rfl, rfl⟩) _ d

theorem keepsWork_land (d : Dev) (a : Nat) (bs : List Byte) : d.keepsWork (d.land a bs) := (keepsWork_markWritten d a bs.length).trans ⟨rfl, rfl⟩

theorem keepsWork_write (d : Dev) (a : Nat) (bs : List Byte) : d.keepsWork (d.write a bs) := (keepsWork_land d a bs).trans ⟨rfl, rfl⟩

theorem keepsWork_haltReport (d : Dev) (c : Nat) (h : HaltInfo) : d.keepsWork (d.haltReport c h) := by
  rw [haltReport_eq]
  exact ⟨rfl, rfl⟩

theorem keepsWork_haltBase (d : Dev) (c : Nat) (h : HaltInfo) : d.keepsWork (d.haltBase c h) := by
  cases hrunning : (d.core c).halted with
  | true =>
    rw [haltBase_halted hrunning]
    exact .refl d
  | false =>
    rw [haltBase_eq hrunning]
    exact Dev.keepsWork.trans (e := d.setCore c (·.haltedBy h)) ⟨rfl, rfl⟩ ((keepsWork_write ..).trans (keepsWork_haltReport ..))

theorem keepsWork_raiseOne (d : Dev) (core : Nat) (u : EngUnit) (opIndex seq req : Nat) (x : SigField) :
    d.keepsWork (d.raiseOne core u opIndex seq req x) := by
  unfold Dev.raiseOne
  extract_lets remote target src fail isAdd
  have hfail (st : Nat) : d.keepsWork (fail st d) := by
    have herr : d.keepsWork (d.cplErr none none st req false) := (asideTo_cplErr ..).reports.keepsWork
    unfold fail
    extract_lets e
    split
    · exact herr
    · exact herr.trans (keepsWork_haltBase ..)
  clear_value fail
  split
  · exact ⟨rfl, rfl⟩
  · split
    · exact hfail _
    · split
      · exact hfail _
      · exact (asideTo_issue ..).reports.keepsWork

theorem keepsWork_finishEnd (d : Dev) (c : Nat) : d.keepsWork (d.finishEnd c) := by
  unfold Dev.finishEnd
  extract_lets x
  split
  · exact .refl d
  · split
    · exact .refl d
    · split
      · next id it rest _ =>
        extract_lets d1
        have hd1 : d.keepsWork d1 := ⟨rfl, rfl⟩
        split
        · exact hd1
        · exact hd1.trans (keepsWork_raiseOne ..)
      · exact Dev.keepsWork.trans (e := d.setCore c fun s => { s with cc := .ended, ending := none }) ⟨rfl, rfl⟩ (reportsTo_jobCheck _).keepsWork

theorem keepsWork_completeAcc (d : Dev) (id : Nat) : d.keepsWork (d.completeAcc id) := by
  unfold Dev.completeAcc
  split
  · exact .refl d
  · exact ((reportsTo_dropAcc d id).keepsWork.trans (keepsWork_foldl (fun d x => keepsWork_raiseOne ..) _ _)).trans (keepsWork_finishEnd ..)

end Sys2Proof.Machine
end

section
/-! What the engines of a Well leave when they write tiles and torn marks (R308, R363, R364): cores, station commands, valid handles, the Well
commands and the accumulators' progress. -/

namespace Sys2Proof.Machine

open Sys2Proof

/-- A device after writes and torn marks of its Wells. -/
structure Dev.marksTo (d e : Dev) : Prop where
  stores : d.storesTo e
  work : d.keepsWork e

theorem Dev.marksTo.refl (d : Dev) : d.marksTo d := ⟨.refl d, .refl d⟩

theorem Dev.marksTo.trans {d e f : Dev} (hde : d.marksTo e) (hef : e.marksTo f) : d.marksTo f :=
  ⟨hde.stores.trans hef.stores, hde.work.trans hef.work⟩

theorem marksTo_foldl {α : Type} {f : Dev → α → Dev} (hf : ∀ (d : Dev) x, d.marksTo (f d x)) (xs : List α) (d : Dev) :
    d.marksTo (xs.foldl f d) := foldl_keeps (fun e x _ he => Dev.marksTo.trans he (hf e x)) (.refl d)

/-- Cores, station commands and Well commands are as they were. -/
theorem Dev.marksTo.accepted {d e : Dev} (h : d.marksTo e) : e.accepted = d.accepted := h.stores.held.calm.accepted
theorem Dev.marksTo.cores {d e : Dev} (h : d.marksTo e) : e.cores = d.cores := h.stores.held.calm.cores

theorem marksTo_land (d : Dev) (a : Nat) (bs : List Byte) : d.marksTo (d.land a bs) := by
  refine ⟨?_, keepsWork_land d a bs⟩
  unfold Dev.land
  rw [Dev.markWritten_eq]
  exact .of_eq rfl rfl rfl rfl rfl rfl rfl rfl

theorem marksTo_write (d : Dev) (a : Nat) (bs : List Byte) : d.marksTo (d.write a bs) := ⟨storesTo_write d a bs, keepsWork_write d a bs⟩

theorem marksTo_writePiece1 (d : Dev) (a : Nat) (bs : List Byte) : d.marksTo (d.writePiece1 a bs) := by
  refine ⟨storesTo_writePiece1 d a bs, ?_⟩
  unfold Dev.writePiece1
  split
  · exact ⟨rfl, rfl⟩
  · exact keepsWork_write d a bs

theorem marksTo_writePieces (ps : List (Nat × Nat)) (d : Dev) (bs : List Byte) : d.marksTo (d.writePieces ps bs) := by
  induction ps generalizing d bs with
  | nil => exact .refl d
  | cons p ps ih => exact (marksTo_writePiece1 ..).trans (ih ..)

theorem marksTo_writeHandle (d : Dev) (h : Word64) (off : Nat) (bs : List Byte) : d.marksTo (d.writeHandle h off bs) := by
  unfold Dev.writeHandle
  split
  · exact .refl d
  · exact marksTo_writePieces ..

theorem marksTo_writeTsvPieces (ps : List (Nat × Nat)) (d : Dev) (bs : List Byte) : d.marksTo (d.writeTsvPieces ps bs) := by
  have hkeep {d e : Dev} (he : d.reportsTo e) (hs : d.storesTo e) : d.marksTo e := ⟨hs, he.keepsWork⟩
  induction ps generalizing d bs with
  | nil => exact .refl d
  | cons p ps ih =>
    rw [Dev.writeTsvPieces]
    refine Dev.marksTo.trans ?_ (ih ..)
    split
    · exact hkeep ⟨rfl, rfl, rfl⟩ (.of_eq rfl rfl rfl rfl rfl rfl rfl rfl)
    · exact (marksTo_land d p.1 (bs.take p.2)).trans (hkeep ⟨rfl, rfl, rfl⟩ (.of_eq rfl rfl rfl rfl rfl rfl rfl rfl))

theorem marksTo_putOut (d : Dev) (o : PartOut) : d.marksTo (d.putOut o) := 
  marksTo_foldl (fun d (w : List (Nat × Nat) × List Byte) => marksTo_writeTsvPieces w.1 d w.2) o.writes d

/-! ## Torn marks (R64, R363, R364) -/

theorem marksTo_noteTorn (d : Dev) (a n : Nat) : d.marksTo (d.noteTorn a n) := ⟨storesTo_noteTorn d a n, rfl, rfl⟩

theorem marksTo_poisonLine (d : Dev) (l : Nat) : d.marksTo (d.poisonLine l) := by
  refine ⟨storesTo_poisonLine d l, ?_⟩
  unfold Dev.poisonLine
  split <;> exact ⟨rfl, rfl⟩

theorem marksTo_tearAt (d : Dev) (ps : List (Nat × Nat)) : d.marksTo (d.tearAt ps) := by
  unfold Dev.tearAt
  extract_lets a t
  split
  · split
    · exact marksTo_poisonLine ..
    · exact .refl d
  · exact (marksTo_writePieces ..).trans (marksTo_noteTorn ..)

theorem marksTo_askOrQueue (d : Dev) (addr len : Nat) (use : HostUse) : d.marksTo (d.askOrQueue addr len use) := by
  refine ⟨storesTo_askOrQueue d addr len use, ?_⟩
  unfold Dev.askOrQueue
  split
  · next hask => exact (reportsTo_askHost hask).keepsWork
  · exact ⟨rfl, rfl⟩

theorem marksTo_tearPieces (d : Dev) (ps : List (Nat × Nat)) : d.marksTo (d.tearPieces ps) := by
  unfold Dev.tearPieces
  split
  · exact marksTo_tearAt ..
  · exact (marksTo_foldl (fun d i => marksTo_askOrQueue ..) _ d).trans (marksTo_noteTorn ..)

theorem marksTo_setWell (d : Dev) (w : Nat) (f : WellSt → WellSt) : d.marksTo (d.setWell w f) :=
  ⟨.of_eq rfl rfl rfl rfl rfl rfl rfl rfl, rfl, rfl⟩

theorem marksTo_tearAll (d : Dev) (w : Nat) (tiles : List (List (Nat × Nat))) : d.marksTo (d.tearAll w tiles) := by
  have htorn : d.marksTo (tiles.foldl (fun d ps => d.tearPieces ps) d) := marksTo_foldl marksTo_tearPieces tiles d
  unfold Dev.tearAll
  extract_lets d1
  split
  · exact htorn
  · exact htorn.trans (marksTo_setWell ..)

/-! ## Where a write goes -/

/-- What a write makes of memory depends on memory alone. -/
theorem writePieces_mem_congr (ps : List (Nat × Nat)) {d e : Dev} (hmem : e.mem = d.mem) (bs : List Byte) :
    (e.writePieces ps bs).mem = (d.writePieces ps bs).mem := by
  induction ps generalizing d e bs with
  | nil => exact hmem
  | cons p ps ih =>
    refine ih ?_ _
    unfold Dev.writePiece1
    split
    · exact hmem
    · rw [Dev.write_mem, Dev.write_mem, hmem]

/-- What a write under a handle makes of memory depends on memory and the Depot's tables alone. -/
theorem writeHandle_mem_congr {d e : Dev} (hmem : e.mem = d.mem) (hdepot : e.depot = d.depot)
    (hjob : e.fx.jobId = d.fx.jobId) (h : Word64) (off : Nat) (bs : List Byte) :
    (e.writeHandle h off bs).mem = (d.writeHandle h off bs).mem := by
  have hcheck (u : Access) : e.checkHandle h u = d.checkHandle h u := by simp only [Dev.checkHandle, hdepot, hjob]
  unfold Dev.writeHandle
  rw [hcheck]
  split
  · exact hmem
  · exact writePieces_mem_congr _ hmem bs

end Sys2Proof.Machine
end

section
/-! The completion of a Well command (R308, R309): its record, and that it is gone. -/

namespace Sys2Proof.Machine

open Sys2Proof

/-! ## One Well command changed -/

theorem wcmd_setWcmd {d : Dev} {id : Nat} {k : WellCmd} {f : WellCmd → WellCmd} (hk : d.wcmd id = some k) (hf : ∀ x, (f x).id = x.id) :
    (d.setWcmd id f).wcmd id = some (f k) := by
  have hsame : ((fun x : WellCmd => x.id == id) ∘ fun x => if x.id == id then f x else x) = fun x => x.id == id := by
    funext x
    dsimp only [Function.comp_apply]
    split
    · rw [hf]
    · rfl
  have hfind : d.wells.cmds.find? (fun x => x.id == id) = some k := hk
  have hid : k.id = id := by simpa using List.find?_some hfind
  simp only [Dev.wcmd, Dev.setWcmd, List.find?_map, hsame, hfind, Option.map_some, hid, beq_self_eq_true, if_true]

/-! ## The record (R309) -/

theorem length_padTo {m : Nat} (hm : 0 < m) (bs : List Byte) : (padTo m bs).length = roundUp bs.length m := by
  have hle : bs.length ≤ roundUp bs.length m := by
    have hdiv := Nat.lt_div_mul_add (a := bs.length + m - 1) hm
    rw [roundUp, ceilDiv, if_neg (by omega)]
    omega
  simp only [padTo, List.length_append, List.length_replicate]
  omega

theorem length_wellRecord (d : Dev) (k : WellCmd) (status cause : Nat) :
    (d.wellRecord k status cause).length = wellRecordBytes k.parts.length := by
  simp only [Dev.wellRecord, wellFields, zeros, List.length_append, length_leBytes, length_slice, List.length_replicate,
    length_padTo (show 0 < 32 by decide), wellRecordBytes]

/-- A record begins with its version, the operation and the status. -/
theorem take_wellRecord (d : Dev) (k : WellCmd) (status cause : Nat) :
    (d.wellRecord k status cause).take 3 = [1, BitVec.ofNat 8 (wellOpCode k.op), BitVec.ofNat 8 status] := rfl

/-! ## The command leaves its Well -/

/-- The device with a command's record written and the command gone. -/
def Dev.recorded (d : Dev) (k : WellCmd) (status cause : Nat) : Dev :=
  let e := d.writeHandle k.record 0 (d.wellRecord k status cause)
  { e with wells := { e.wells with cmds := e.wells.cmds.filter fun x => x.id != k.id } }

theorem recorded_wcmd (d : Dev) (k : WellCmd) (status cause : Nat) : (d.recorded k status cause).wcmd k.id = none :=
  List.find?_eq_none.2 fun x hx => by simpa using (List.mem_filter.1 hx).2

theorem recorded_folds (d : Dev) (k : WellCmd) (status cause : Nat) : (d.recorded k status cause).wells.folds = d.wells.folds :=
  (marksTo_writeHandle ..).work.folds

/-- A command of a core that raises no signals as it completes, the core waiting for no end. -/
def Dev.endsSilent (d : Dev) (k : WellCmd) : Prop :=
  ∀ c acc, k.origin = .core c acc → ∀ a, d.acc acc = some a → a.cmd.signals = [] ∧ (d.core a.core).ending = none

theorem Dev.endsSilent.of_calm {d e : Dev} {k l : WellCmd} (h : d.endsSilent k) (haccepted : e.accepted = d.accepted) (hcores : e.cores = d.cores)
    (horigin : l.origin = k.origin) : e.endsSilent l := by
  intro c acc hl a ha
  rw [core_of_cores hcores]
  exact h c acc (horigin.symm.trans hl) a (by rw [Dev.acc, ← haccepted]; exact ha)

/-- A command of a host descriptor gives up its buffers and completes the descriptor (R449, R450). -/
theorem reportsTo_finishWell_host {k : WellCmd} {ring slot : Nat} (horigin : k.origin = .host ring slot) (d : Dev) (status cause : Nat) :
    (d.recorded k status cause).reportsTo (d.finishWell k status cause) := by
  simp only [Dev.finishWell, horigin]
  exact (reportsTo_dropRefs (d.recorded k status cause) k.refs).trans (reportsTo_finishDesc ..)

section
variable {k : WellCmd} (hnan : k.nanTrap = false)
include hnan

theorem finishWell_core {c acc : Nat} (horigin : k.origin = .core c acc) (d : Dev) (status cause : Nat) :
    d.finishWell k status cause = (d.recorded k status cause).completeAcc acc := by
  simp only [Dev.finishWell, Dev.recorded, horigin, hnan]

theorem keepsWork_finishWell (d : Dev) (status cause : Nat) : (d.recorded k status cause).keepsWork (d.finishWell k status cause) := by
  cases horigin : k.origin with
  | core c acc =>
    rw [finishWell_core hnan horigin]
    exact keepsWork_completeAcc ..
  | host ring slot => exact (reportsTo_finishWell_host horigin d status cause).keepsWork

theorem reportsTo_finishWell {d : Dev} (hsilent : d.endsSilent k) (status cause : Nat) :
    (d.recorded k status cause).reportsTo (d.finishWell k status cause) := by
  have hwrite := marksTo_writeHandle d k.record 0 (d.wellRecord k status cause)
  cases horigin : k.origin with
  | core c acc =>
    rw [finishWell_core hnan horigin]
    exact reportsTo_completeAcc (hsilent.of_calm (e := d.recorded k status cause) hwrite.accepted hwrite.cores rfl c acc horigin)
  | host ring slot => exact reportsTo_finishWell_host horigin d status cause

/-- A command of one part completes OK: it is gone, and its record says so. -/
theorem finishWell_ends {d : Dev} (hsilent : d.endsSilent k) (hone : k.parts.length = 1) (cause : Nat) :
    (d.finishWell k 0 cause).wcmd k.id = none ∧ ∃ rec, rec.length = wellRecordBytes 1 ∧
      rec.take 3 = [1, BitVec.ofNat 8 (wellOpCode k.op), 0] ∧ (d.finishWell k 0 cause).mem = (d.writeHandle k.record 0 rec).mem := by
  have hreports := reportsTo_finishWell hnan hsilent 0 cause
  exact ⟨(hreports.wcmd _).trans (recorded_wcmd ..), _, hone ▸ length_wellRecord d k 0 cause, take_wellRecord .., hreports.mem⟩

end

end Sys2Proof.Machine
end

section
/-! WELL_COMMAND_START (R256 to R258, R307, R314). -/

namespace Sys2Proof.Machine

open Sys2Proof

theorem exec_wellCommandStart (id : Nat) (s : State) : exec (.wellCommandStart id) s = .next (s.dev! (s.dev.wellStart id)) := rfl

/-- An accumulator's progress is what was last set (R256). -/
theorem foldSt_setFold (d : Dev) {f : FoldSt} {g : Nat} {e : Option Nat} (hgroup : f.group = g) (hexpert : f.expert = e) (iter : Nat) :
    (d.setFold f).foldSt g e iter = f := by
  subst hgroup hexpert
  simp [Dev.foldSt, Dev.setFold]

theorem foldSt_place (d : Dev) (g : Nat) (e : Option Nat) (iter : Nat) : (d.foldSt g e iter).group = g ∧ (d.foldSt g e iter).expert = e := by
  unfold Dev.foldSt
  cases hfind : d.wells.folds.find? (fun f => f.group == g && f.expert == e) with
  | none => exact ⟨rfl, rfl⟩
  | some f => simpa using List.find?_some hfind

/-- The key of a fold that is done enters its accumulator's progress. -/
theorem foldDone_done (d : Dev) (f : FoldArgs) : ((d.foldDone f).foldSt f.group f.expert (f.iter % 65536)).done =
    (d.foldSt f.group f.expert (f.iter % 65536)).done ++ [(f.microBatch, f.use, f.chunk, f.last)] := by
  obtain ⟨hgroup, hexpert⟩ := foldSt_place d f.group f.expert (f.iter % 65536)
  rw [Dev.foldDone, foldSt_setFold d (by exact hgroup) (by exact hexpert)]

section
variable {d : Dev} {id : Nat} {k : WellCmd} (hparts : ∀ p ∈ k.parts, d.partHeld k p = false) (hucode : (d.well k.well).ucode = false)
  (hfetched : d.fetching id = false) (hnew : k.started = false) (hfree : d.wellBlocked k = false)
include hparts hucode hfetched hnew hfree

/-- Nothing keeps the parts of the command from starting. -/
theorem wellStart_ready : (k.started || d.wellBlocked k || d.fetching id || k.parts.any (d.partHeld k) || (d.well k.well).ucode) = false := by
  have hany : k.parts.any (d.partHeld k) = false := List.any_eq_false.2 fun p hp => by rw [hparts p hp]; decide
  rw [hnew, hfree, hfetched, hany, hucode]
  rfl

variable (hk : d.wcmd id = some k)
include hk

theorem wellStart_plain (hupdate : ∀ g it gr cs n, k.op ≠ .optUpdate g it gr cs n) (hfold : ∀ f, k.op ≠ .fold f) :
    d.wellStart id = d.setWcmd id fun k => { k with started := true } := by
  unfold Dev.wellStart
  rw [hk]
  dsimp only
  rw [wellStart_ready hparts hucode hfetched hnew hfree, if_neg (by decide)]
  cases hop : k.op with
  | optUpdate g it gr cs n => exact absurd hop (hupdate g it gr cs n)
  | fold f => exact absurd hop (hfold f)
  | _ => rfl

theorem wellStart_fold {f : FoldArgs} (hop : k.op = .fold f) (hnext : d.foldNext f = true) : d.wellStart id =
    if k.parts.isEmpty then (d.foldDone f).finishWell { k with heldSince := none, counts := [f.rows, 0, k.counts.getD 2 0] } 0 0
    else d.setWcmd id fun k => { k with started := true, heldSince := none } := by
  unfold Dev.wellStart
  rw [hk]
  dsimp only
  rw [wellStart_ready hparts hucode hfetched hnew hfree, if_neg (by decide), hop]
  simp only [hnext, Bool.not_true, Bool.false_eq_true, if_false]

/-- A ZERO fold completes its key as it starts (R258). -/
theorem wellStart_zero {f : FoldArgs} (hop : k.op = .fold f) (hnext : d.foldNext f = true) (hzero : k.parts = []) (hnan : k.nanTrap = false) :
    (d.wellStart id).wcmd k.id = none ∧ ((d.wellStart id).foldSt f.group f.expert (f.iter % 65536)).done =
      (d.foldSt f.group f.expert (f.iter % 65536)).done ++ [(f.microBatch, f.use, f.chunk, f.last)] := by
  rw [wellStart_fold hparts hucode hfetched hnew hfree hk hop hnext, hzero, List.isEmpty_nil, if_pos rfl]
  have hkeeps := keepsWork_finishWell (k := { k with heldSince := none, parts := [], counts := [f.rows, 0, k.counts.getD 2 0] })
    hnan (d.foldDone f) 0 0
  refine ⟨(hkeeps.wcmd _).trans (recorded_wcmd ..), ?_⟩
  rw [hkeeps.foldSt, Dev.foldSt, recorded_folds]
  exact foldDone_done d f

/-- An update of a dense group without clipping starts at once, its clip factor 1.0 and its one tensor visited (R314, R316). -/
theorem wellStart_update {g it : Nat} {gr : Word64} {cs n : Option Nat} (hop : k.op = .optUpdate g it gr cs n) (hadmitted : k.heldSince = none)
    (hdense : d.gExperts g = 0) (hunclipped : (d.gField g 2 1).testBit 6 = false) (hcounts : d.heldAt (cs.getD 0) 0 = false)
    (hnorm : d.heldAt (n.getD 0) 16 = false) :
    d.wellStart id = d.setWcmd id fun k => { k with started := true, clip := 0x3F800000, visited := [true] } := by
  have hprepare : d.optPrepare k g cs n = (.ok (0x3F800000#32, [true]), d) := by
    simp [Dev.optPrepare, hunclipped, hdense]
  unfold Dev.wellStart
  rw [hk]
  dsimp only
  rw [wellStart_ready hparts hucode hfetched hnew hfree, if_neg (by decide), hop]
  simp only [hadmitted, hdense, Nat.mul_zero, hcounts, hnorm, hprepare, Option.isSome_none, Bool.or_self, Bool.false_eq_true, if_false]
  rfl

end

end Sys2Proof.Machine
end

section
/-! WELL_PART_END (R308): a part of a Well command ends, no injection slot armed. -/

namespace Sys2Proof.Machine

open Sys2Proof

/-! ## The end of a part noted -/

/-- A part noted as ended, failed under a CAUSE or not. -/
def WPart.ended (p : WPart) (cause : Option Nat) : WPart := { p with done := true, failed := cause.isSome, cause := cause.getD 0 }

/-- A command with the end of one of its parts noted. -/
def WellCmd.noted (k : WellCmd) (p : WPart) (cause : Option Nat) (torn : Nat) (o : PartOut) : WellCmd :=
  { k with parts := k.parts.map fun x => if x.idx = p.idx then x.ended cause else x, torn := k.torn + torn, nanAt := k.nanAt.or o.nanAt,
           counts := addCounts k.counts o.counts }

theorem notePart_wcmd {d : Dev} {id : Nat} {k : WellCmd} (hk : d.wcmd id = some k) (p : WPart) (cause : Option Nat) (torn : Nat) (o : PartOut) :
    (d.notePart id p cause torn o).wcmd id = some (k.noted p cause torn o) :=
  wcmd_setWcmd (f := fun k => k.noted p cause torn o) hk fun _ => rfl

section
variable {d : Dev} {id : Nat} {k : WellCmd} (hk : d.wcmd id = some k) {p : WPart} (cause : Option Nat) (torn : Nat) (o : PartOut)
include hk

/-- While another part is to end, the command goes on. -/
theorem wellEnd_open (hopen : ∃ q ∈ k.parts, q.idx ≠ p.idx ∧ q.done = false) :
    (d.notePart id p cause torn o).wellEnd id = d.notePart id p cause torn o := by
  obtain ⟨q, hq, hidx, hdone⟩ := hopen
  have hall : (k.noted p cause torn o).parts.all (·.done) = false :=
    List.all_eq_false.2 ⟨q, List.mem_map.2 ⟨q, hq, if_neg hidx⟩, by rw [hdone]; decide⟩
  unfold Dev.wellEnd
  rw [notePart_wcmd hk]
  dsimp only
  rw [hall, Bool.not_false, Bool.or_true, if_pos rfl]

end

/-- A command whose only part has succeeded has the status OK. -/
theorem noted_single {k : WellCmd} {p : WPart} (hone : k.parts = [p]) (torn : Nat) (o : PartOut) :
    (k.noted p none torn o).parts = [p.ended none] ∧ (k.noted p none torn o).status = 0 := by
  have hparts : (k.noted p none torn o).parts = [p.ended none] := by simp [WellCmd.noted, hone]
  refine ⟨hparts, ?_⟩
  rw [WellCmd.status, hparts]
  rfl

section
variable {d : Dev} {id : Nat} {k : WellCmd} (hk : d.wcmd id = some k) {p : WPart} (hstarted : k.started = true) (hone : k.parts = [p]) (torn : Nat)
  (o : PartOut)
include hk hstarted hone

/-- The last part of a command has succeeded: the command ends. -/
theorem wellEnd_last :
    let e := d.notePart id p none torn o
    let l := k.noted p none torn o
    (∀ bs r, k.op = .sumsq bs r → e.wellEnd id = (e.sumsqEnd l bs r).2.finishWell (e.sumsqEnd l bs r).1 0 l.firstCause) ∧
    (∀ sr ix ds n m h, k.op = .scatterRows sr ix ds n m h →
      ∃ cause, e.wellEnd id = (e.scatterRun l sr ix ds n m h).2.finishWell (e.scatterRun l sr ix ds n m h).1 0 cause) ∧
    ((∃ src dst f x st it n cc, k.op = .requant src dst f x st it n cc) ∨ (∃ h off bytes pat, k.op = .fill h off bytes pat) ∨
      (∃ b n, k.op = .scrub b n) → e.wellEnd id = e.finishWell l 0 l.firstCause) := by
  intro e l
  obtain ⟨hparts, hstatus⟩ := noted_single hone torn o
  have hwcmd : e.wcmd id = some l := notePart_wcmd hk p none torn o
  have hgoes : (!l.started || !l.parts.all (·.done)) = false := by
    have hl : l.started = true := hstarted
    rw [hl, hparts]
    rfl
  unfold Dev.wellEnd
  rw [hwcmd]
  dsimp only
  rw [hgoes, if_neg (by decide), hstatus]
  have hop : l.op = k.op := rfl
  rw [hop]
  refine ⟨fun bs r h => ?_, fun sr ix ds n m h hop' => ?_, ?_⟩
  · rw [h]
  · rw [hop']
    exact ⟨_, rfl⟩
  · rintro (⟨src, dst, f, x, st, it, n, cc, h⟩ | ⟨h', off, bytes, pat, h⟩ | ⟨b, n, h⟩) <;> rw [h]

end

/-! ## A part that ends (R308) -/

theorem engineCheck_unarmed {d : Dev} (h : d.unarmed = true) (w op : Nat) : d.engineCheck w op false = (false, d) := by
  simp [Dev.engineCheck, mimic_unarmed _ _ h]

section
variable {d : Dev} {id : Nat} {k : WellCmd} (hk : d.wcmd id = some k) (hunarmed : d.unarmed = true) {p : WPart}
  (hfind : k.parts.find? (fun x => x.idx == p.idx && !x.done) = some p) (hstarted : k.started = true) (hfree : d.partHeld k p = false)
  (hfirst : d.partBehind k p = false) (ecc : List (Nat × EccOutcome))
include hk hunarmed hfind hstarted hfree hfirst

theorem partEnd_scrub {b l : Nat} (hop : k.op = .scrub b l) :
    let r := d.partScrub p b ecc k.counts
    d.partEnd id p.idx false ecc = ((r.2.setWcmd id fun k => { k with counts := r.1 }).notePart id p none 0 PartOut.none_).wellEnd id := by
  simp only [Dev.partEnd, hk, hfind, hstarted, hfree, hfirst, engineCheck_unarmed hunarmed, hop, Bool.not_true, Bool.or_self, Bool.false_eq_true,
    if_false]

theorem partEnd_fold {f : FoldArgs} {d0 e : Dev} {mask : List Byte} {acc pt : WTiles} {tried torn cause : Nat} {nan : Option Nat}
    (hop : k.op = .fold f) (hmask : d.maskBytes p.well f.group = (some mask, d0))
    (hacc : d.wTiles (d.gHandle f.group 96) .fp32 (f.expert.getD 0 * d.gTiles f.group * tileTotal .fp32) (d.gTiles f.group) true = .ok acc)
    (hpt : d.wTiles (f.part.getD 0) .fp32 0 (d.gTiles f.group) false = .ok pt)
    (hgo : d0.foldGo p.well acc pt f mask f.group (d.gTiles f.group) ((List.range p.count).map (· + p.first)) (0, 0, 0, none) =
      ((tried, torn, cause, nan), e)) :
    d.partEnd id p.idx false ecc = (e.notePart id p (if torn = 0 then none else some cause) torn ⟨[], [tried, torn], nan⟩).wellEnd id := by
  simp only [Dev.partEnd, hk, hfind, hstarted, hfree, hfirst, engineCheck_unarmed hunarmed, hop, hmask, hacc, hpt, hgo, Bool.not_true, Bool.or_self,
    Bool.false_eq_true, if_false]

theorem partEnd_succeeds (hfold : ∀ f, k.op ≠ .fold f) (hscrub : ∀ b l, k.op ≠ .scrub b l) {o : PartOut} {e : Dev}
    (hrun : d.partRun k p = (.ok o, e)) : d.partEnd id p.idx false ecc = ((e.putOut o).notePart id p none 0 o).wellEnd id := by
  simp only [Dev.partEnd, hk, hfind, hstarted, hfree, hfirst, engineCheck_unarmed hunarmed, hrun, Bool.not_true, Bool.or_self, Bool.false_eq_true,
    if_false]

theorem partEnd_fails (hfold : ∀ f, k.op ≠ .fold f) (hscrub : ∀ b l, k.op ≠ .scrub b l) {cause : Nat} {e : Dev}
    (hrun : d.partRun k p = (.error cause, e)) :
    d.partEnd id p.idx false ecc = ((e.tearAll p.well (e.partTargets k p)).notePart id p (some cause) (e.partTargets k p).length
      PartOut.none_).wellEnd id := by
  simp only [Dev.partEnd, hk, hfind, hstarted, hfree, hfirst, engineCheck_unarmed hunarmed, hrun, Bool.not_true, Bool.or_self, Bool.false_eq_true,
    if_false]

end

/-- What a part's end counts, and the update that it may retire, touch no memory and no Well. -/
theorem reportsTo_wellPartEnd (d : Dev) (id part : Nat) (fault : Bool) (ecc : List (Nat × EccOutcome)) :
    (d.partEnd id part fault ecc).reportsTo (d.wellPartEnd id part fault ecc) := by
  unfold Dev.wellPartEnd
  extract_lets w d1
  have hd1 : (d.partEnd id part fault ecc).reportsTo d1 := ⟨rfl, rfl, rfl⟩
  split
  · exact hd1.trans (reportsTo_retireTrack ..)
  · exact hd1

theorem exec_wellPartEnd (id part : Nat) (fault : Bool) (ecc : List (Nat × EccOutcome)) (s : State) :
    exec (.wellPartEnd id part fault ecc) s = .next (s.dev! (s.dev.wellPartEnd id part fault ecc)) := rfl

end Sys2Proof.Machine
end

section
/-! What the end of a part comes to: the command goes on, or it completes with its record (R308, R309). -/

namespace Sys2Proof.Machine

open Sys2Proof

theorem wcmd_of_cmds {d e : Dev} (h : e.wells.cmds = d.wells.cmds) (id : Nat) : e.wcmd id = d.wcmd id := by rw [Dev.wcmd, h, Dev.wcmd]

/-- A part is found among those of its command by its index. -/
theorem find_part {ps : List WPart} {p : WPart} (hp : p ∈ ps) (hopen : p.done = false) (hnodup : (ps.map (·.idx)).Nodup) :
    ps.find? (fun x => x.idx == p.idx && !x.done) = some p := by
  cases hfind : ps.find? (fun x => x.idx == p.idx && !x.done) with
  | none => exact absurd (List.find?_eq_none.1 hfind p hp) (by simp [hopen])
  | some q =>
    have hidx : q.idx = p.idx := by
      have hq := List.find?_some hfind
      simp only [Bool.and_eq_true, beq_iff_eq] at hq
      exact hq.1
    rw [List.inj_on_of_nodup_map hnodup (List.mem_of_find?_eq_some hfind) hp hidx]

/-! ## Another part is to end -/

/-- The parts of a command once its part `p` has ended. -/
def WellCmd.partsAfter (k : WellCmd) (p : WPart) (failed : Bool) (cause : Nat) : List WPart :=
  k.parts.map fun x => if x.idx = p.idx then { x with done := true, failed := failed, cause := cause } else x

section
variable {s : State} {id : Nat} {k : WellCmd} {p : WPart} {ecc : List (Nat × EccOutcome)}

theorem part_goesOn {e : Dev} {cause : Option Nat} {torn : Nat} {o : PartOut} (hk : e.wcmd id = some k)
    (hopen : ∃ q ∈ k.parts, q.idx ≠ p.idx ∧ q.done = false)
    (hend : s.dev.partEnd id p.idx false ecc = (e.notePart id p cause torn o).wellEnd id) :
    let t := s.dev! (s.dev.wellPartEnd id p.idx false ecc)
    t.dev.mem = e.mem ∧ t.dev.poison = e.poison ∧ t.dev.wells.folds = e.wells.folds ∧
      (t.dev.wcmd id).map (·.parts) = some (k.parts.map fun x => if x.idx = p.idx then x.ended cause else x) := by
  intro t
  rw [wellEnd_open hk cause torn o hopen] at hend
  have hreports : (e.notePart id p cause torn o).reportsTo t.dev := hend ▸ reportsTo_wellPartEnd s.dev id p.idx false ecc
  refine ⟨hreports.mem, hreports.poison, hreports.keepsWork.folds, ?_⟩
  rw [hreports.wcmd, notePart_wcmd hk]
  rfl

/-! ## The last part has ended -/

/-- A Well command whose part, result and counts have been filled in. -/
structure WellCmd.sameAs (k l : WellCmd) : Prop where
  id : l.id = k.id
  origin : l.origin = k.origin
  record : l.record = k.record
  op : l.op = k.op
  nanTrap : l.nanTrap = k.nanTrap
  parts : l.parts.length = k.parts.length

theorem noted_sameAs (k : WellCmd) (p : WPart) (cause : Option Nat) (torn : Nat) (o : PartOut) : k.sameAs (k.noted p cause torn o) :=
  ⟨rfl, rfl, rfl, rfl, rfl, List.length_map ..⟩

theorem sumsqEnd_sameAs (d : Dev) (k : WellCmd) (bs : List (Word64 × Fmt × Nat)) (r : Nat) : k.sameAs (d.sumsqEnd k bs r).1 :=
  ⟨rfl, rfl, rfl, rfl, rfl, rfl⟩

theorem scatterRun_sameAs (d : Dev) (k : WellCmd) (sr ix ds : Word64) (n m h : Nat) : k.sameAs (d.scatterRun k sr ix ds n m h).1 := by
  unfold Dev.scatterRun
  split <;> exact ⟨rfl, rfl, rfl, rfl, rfl, rfl⟩

theorem WellCmd.sameAs.trans {k l m : WellCmd} (hkl : k.sameAs l) (hlm : l.sameAs m) : k.sameAs m :=
  ⟨hlm.id.trans hkl.id, hlm.origin.trans hkl.origin, hlm.record.trans hkl.record, hlm.op.trans hkl.op, hlm.nanTrap.trans hkl.nanTrap,
    hlm.parts.trans hkl.parts⟩

theorem marksTo_scatterRun (d : Dev) (k : WellCmd) (sr ix ds : Word64) (n m h : Nat) : d.marksTo (d.scatterRun k sr ix ds n m h).2 := by
  unfold Dev.scatterRun
  split
  · next s it t _ _ _ =>
    extract_lets idx good d1 bad d2 rows inRange done hit
    have hd1 : d.marksTo d1 := List.foldlRecOn (motive := fun x : Dev × List Nat => d.marksTo x.1) _ _ (.refl d) fun x hx i _ => by
      dsimp only
      split
      · exact hx
      · exact List.foldlRecOn (motive := fun x : Dev × List Nat => d.marksTo x.1) _ _ hx fun y hy _ _ => hy.trans (marksTo_writeTsvPieces ..)
    exact hd1.trans (marksTo_foldl (fun d j => marksTo_tearAll ..) bad d1)
  · exact .refl d

/-- The end of the only part of `k` completes the command: it is gone, and its record is written over the device `d`. -/
def State.completes (s : State) (id : Nat) (k : WellCmd) (p : WPart) (ecc : List (Nat × EccOutcome)) (d : Dev) : Prop :=
  ∃ t rec, exec (.wellPartEnd id p.idx false ecc) s = .next t ∧ t.dev.wcmd id = none ∧ rec.length = wellRecordBytes 1 ∧
    rec.take 3 = [1, BitVec.ofNat 8 (wellOpCode k.op), 0] ∧ t.dev.mem = (d.writeHandle k.record 0 rec).mem ∧ t.pending = s.pending ∧
    t.toll = s.toll

/-- The last part of a command of one part has succeeded, and the command completes on a device with the memory and Depot of `x`. -/
theorem part_ends {x e : Dev} {l : WellCmd} {cause : Nat} (hid : k.id = id) (hone : k.parts = [p]) (hnan : k.nanTrap = false)
    (hsilent : s.dev.endsSilent k) (hend : s.dev.partEnd id p.idx false ecc = e.finishWell l 0 cause) (hl : k.sameAs l)
    (haccepted : e.accepted = s.dev.accepted) (hcores : e.cores = s.dev.cores) (hmem : e.mem = x.mem) (hdepot : e.depot = x.depot)
    (hjob : e.fx.jobId = x.fx.jobId) : s.completes id k p ecc x := by
  have hreports := reportsTo_wellPartEnd s.dev id p.idx false ecc
  rw [hend] at hreports
  obtain ⟨hgone, rec, hlength, hhead, hwritten⟩ := finishWell_ends (hl.nanTrap.trans hnan) (hsilent.of_calm haccepted hcores hl.origin)
    (hl.parts.trans (congrArg List.length hone)) cause
  rw [hl.id, hid] at hgone
  rw [hl.op] at hhead
  rw [hl.record, writeHandle_mem_congr hmem hdepot hjob] at hwritten
  exact ⟨_, rec, exec_wellPartEnd .., (hreports.wcmd id).trans hgone, hlength, hhead, hreports.mem.trans hwritten, rfl, rfl⟩

end

/-! ## What each kind of part leaves when another is to end -/

section
variable {s : State} {id : Nat} {k : WellCmd} {p : WPart} {ecc : List (Nat × EccOutcome)}
  (hk : s.dev.wcmd id = some k) (hunarmed : s.dev.unarmed = true) (hunheld : s.dev.partHeld k p = false) (hstarted : k.started = true)
  (hfind : k.parts.find? (fun x => x.idx == p.idx && !x.done) = some p) (hfirst : s.dev.partBehind k p = false)
include hk hunarmed hunheld hstarted hfind hfirst

section
variable (hopen : ∃ q ∈ k.parts, q.idx ≠ p.idx ∧ q.done = false)
include hopen

theorem foldPart_goesOn {f : FoldArgs} {d0 e : Dev} {mask : List Byte} {acc pt : WTiles} {tried torn cause : Nat} {nan : Option Nat}
    (hop : k.op = .fold f) (hmask : s.dev.maskBytes p.well f.group = (some mask, d0))
    (hacc : s.dev.wTiles (s.dev.gHandle f.group 96) .fp32 (f.expert.getD 0 * s.dev.gTiles f.group * tileTotal .fp32) (s.dev.gTiles f.group) true =
      .ok acc)
    (hpt : s.dev.wTiles (f.part.getD 0) .fp32 0 (s.dev.gTiles f.group) false = .ok pt)
    (hgo : d0.foldGo p.well acc pt f mask f.group (s.dev.gTiles f.group) ((List.range p.count).map (· + p.first)) (0, 0, 0, none) =
      ((tried, torn, cause, nan), e)) (hcmds : e.wells.cmds = s.dev.wells.cmds) :
    ∃ t, exec (.wellPartEnd id p.idx false ecc) s = .next t ∧ t.dev.mem = e.mem ∧ t.dev.wells.folds = e.wells.folds ∧
      (t.dev.wcmd id).map (·.parts) = some (k.partsAfter p (decide (torn ≠ 0)) (if torn = 0 then 0 else cause)) ∧ t.pending = s.pending ∧
      t.toll = s.toll := by
  have hend := partEnd_fold hk hunarmed hfind hstarted hunheld hfirst ecc hop hmask hacc hpt hgo
  obtain ⟨hmem, -, hfolds, hnoted⟩ := part_goesOn ((wcmd_of_cmds hcmds id).trans hk) hopen hend
  refine ⟨_, exec_wellPartEnd .., hmem, hfolds, ?_, rfl, rfl⟩
  rw [hnoted]
  by_cases htorn : torn = 0 <;> simp [WellCmd.partsAfter, htorn, WPart.ended]

theorem scrubPart_goesOn {b l : Nat} (hop : k.op = .scrub b l) :
    let r := s.dev.partScrub p b ecc k.counts
    r.2.wells.cmds = s.dev.wells.cmds →
    ∃ t, exec (.wellPartEnd id p.idx false ecc) s = .next t ∧ t.dev.mem = r.2.mem ∧ t.dev.poison = r.2.poison ∧
      (t.dev.wcmd id).map (·.parts) = some (k.partsAfter p false 0) ∧ t.pending = s.pending ∧ t.toll = s.toll := by
  intro r hcmds
  have hend := partEnd_scrub hk hunarmed hfind hstarted hunheld hfirst ecc hop
  have hcounts := wcmd_setWcmd (f := fun k => { k with counts := r.1 }) ((wcmd_of_cmds hcmds id).trans hk) fun _ => rfl
  obtain ⟨hmem, hpoison, -, hnoted⟩ := part_goesOn hcounts hopen hend
  exact ⟨_, exec_wellPartEnd .., hmem, hpoison, hnoted, rfl, rfl⟩

theorem goodPart_goesOn (hfold : ∀ f, k.op ≠ .fold f) (hscrub : ∀ b l, k.op ≠ .scrub b l) {o : PartOut} {e : Dev}
    (hrun : s.dev.partRun k p = (.ok o, e)) (hcmds : e.wells.cmds = s.dev.wells.cmds) :
    ∃ t, exec (.wellPartEnd id p.idx false ecc) s = .next t ∧ t.dev.mem = (e.putOut o).mem ∧ t.pending = s.pending ∧ t.toll = s.toll ∧
      (t.dev.wcmd id).map (·.parts) = some (k.partsAfter p false 0) := by
  have hend := partEnd_succeeds hk hunarmed hfind hstarted hunheld hfirst ecc hfold hscrub hrun
  have hput := (wcmd_of_cmds (marksTo_putOut e o).work.cmds id).trans ((wcmd_of_cmds hcmds id).trans hk)
  obtain ⟨hmem, -, -, hnoted⟩ := part_goesOn hput hopen hend
  exact ⟨_, exec_wellPartEnd .., hmem, rfl, rfl, hnoted⟩

theorem failedPart_goesOn (hfold : ∀ f, k.op ≠ .fold f) (hscrub : ∀ b l, k.op ≠ .scrub b l) {cause : Nat} {e : Dev}
    (hrun : s.dev.partRun k p = (.error cause, e)) (hcmds : e.wells.cmds = s.dev.wells.cmds) :
    ∃ t, exec (.wellPartEnd id p.idx false ecc) s = .next t ∧ t.dev.mem = (e.tearAll p.well (e.partTargets k p)).mem ∧
      (t.dev.wcmd id).map (·.parts) = some (k.partsAfter p true cause) ∧ t.pending = s.pending ∧ t.toll = s.toll := by
  have hend := partEnd_fails hk hunarmed hfind hstarted hunheld hfirst ecc hfold hscrub hrun
  have htear := (wcmd_of_cmds (marksTo_tearAll e p.well (e.partTargets k p)).work.cmds id).trans ((wcmd_of_cmds hcmds id).trans hk)
  obtain ⟨hmem, -, -, hnoted⟩ := part_goesOn htear hopen hend
  exact ⟨_, exec_wellPartEnd .., hmem, hnoted, rfl, rfl⟩

end

/-! ## How the last part of each kind of command completes it -/

section
variable (hid : k.id = id) (hone : k.parts = [p]) (hnan : k.nanTrap = false) (hsilent : s.dev.endsSilent k)
include hid hone hnan hsilent

theorem fill_completes {h : Word64} {off bytes : Nat} {pat : FillPattern} {b : Buf} (hop : k.op = .fill h off bytes pat)
    (hbuf : s.dev.depot.buf (slotOf h) = some b) :
    s.completes id k p ecc (s.dev.putOut (fillOut b off bytes pat s.dev.rd.epoch.toNat p)) := by
  have hrun : s.dev.partRun k p = (.ok (fillOut b off bytes pat s.dev.rd.epoch.toNat p), s.dev) := by simp only [Dev.partRun, hop, hbuf]
  have hend := partEnd_succeeds hk hunarmed hfind hstarted hunheld hfirst ecc (by simp [hop]) (by simp [hop]) hrun
  have hput := marksTo_putOut s.dev (fillOut b off bytes pat s.dev.rd.epoch.toNat p)
  obtain ⟨-, -, hlast⟩ :=
    wellEnd_last ((wcmd_of_cmds hput.work.cmds id).trans hk) hstarted hone 0 (fillOut b off bytes pat s.dev.rd.epoch.toNat p)
  exact part_ends hid hone hnan hsilent (hend.trans (hlast (.inr (.inl ⟨_, _, _, _, hop⟩)))) (noted_sameAs ..) hput.accepted hput.cores
    rfl rfl rfl

theorem scrub_completes {b l : Nat} (hop : k.op = .scrub b l) (hcmds : (s.dev.partScrub p b ecc k.counts).2.wells.cmds = s.dev.wells.cmds)
    (haccepted : (s.dev.partScrub p b ecc k.counts).2.accepted = s.dev.accepted)
    (hcores : (s.dev.partScrub p b ecc k.counts).2.cores = s.dev.cores) : s.completes id k p ecc (s.dev.partScrub p b ecc k.counts).2 := by
  have hend := partEnd_scrub hk hunarmed hfind hstarted hunheld hfirst ecc hop
  generalize s.dev.partScrub p b ecc k.counts = r at hend hcmds haccepted hcores ⊢
  have hcounts := wcmd_setWcmd (f := fun k' => { k' with counts := r.1 }) ((wcmd_of_cmds hcmds id).trans hk) fun _ => rfl
  obtain ⟨-, -, hlast⟩ := wellEnd_last hcounts hstarted hone 0 PartOut.none_
  have hcounted : k.sameAs { k with counts := r.1 } := ⟨rfl, rfl, rfl, rfl, rfl, rfl⟩
  exact part_ends hid hone hnan hsilent (hend.trans (hlast (.inr (.inr ⟨b, l, hop⟩))))
    (hcounted.trans (noted_sameAs _ p none 0 PartOut.none_)) haccepted hcores rfl rfl rfl

section
variable {o : PartOut} {e : Dev} (hrun : s.dev.partRun k p = (.ok o, e)) (hcmds : e.wells.cmds = s.dev.wells.cmds)
  (haccepted : e.accepted = s.dev.accepted) (hcores : e.cores = s.dev.cores)
include hrun hcmds haccepted hcores

theorem requant_completes {src dst : TensorLayout} {f : Fmt} {x : Option ScaleRef} {st : Bool} {it n cc : Nat}
    (hop : k.op = .requant src dst f x st it n cc) : s.completes id k p ecc (e.putOut o) := by
  have hend := partEnd_succeeds hk hunarmed hfind hstarted hunheld hfirst ecc (by simp [hop]) (by simp [hop]) hrun
  have hput := marksTo_putOut e o
  obtain ⟨-, -, hlast⟩ := wellEnd_last ((wcmd_of_cmds hput.work.cmds id).trans ((wcmd_of_cmds hcmds id).trans hk)) hstarted hone 0 o
  exact part_ends hid hone hnan hsilent (hend.trans (hlast (.inl ⟨_, _, _, _, _, _, _, _, hop⟩))) (noted_sameAs ..)
    (hput.accepted.trans haccepted) (hput.cores.trans hcores) rfl rfl rfl

theorem sumsq_completes {bs : List (Word64 × Fmt × Nat)} {r : Nat} (hop : k.op = .sumsq bs r) :
    s.completes id k p ecc (((e.putOut o).notePart id p none 0 o).sumsqEnd (k.noted p none 0 o) bs r).2 := by
  have hend := partEnd_succeeds hk hunarmed hfind hstarted hunheld hfirst ecc (by simp [hop]) (by simp [hop]) hrun
  have hput := marksTo_putOut e o
  obtain ⟨hlast, -, -⟩ := wellEnd_last ((wcmd_of_cmds hput.work.cmds id).trans ((wcmd_of_cmds hcmds id).trans hk)) hstarted hone 0 o
  have hwrite : ((e.putOut o).notePart id p none 0 o).marksTo
    (((e.putOut o).notePart id p none 0 o).sumsqEnd (k.noted p none 0 o) bs r).2 := marksTo_write ..
  exact part_ends hid hone hnan hsilent (hend.trans (hlast bs r hop)) ((noted_sameAs ..).trans (sumsqEnd_sameAs ..))
    (hwrite.accepted.trans (hput.accepted.trans haccepted)) (hwrite.cores.trans (hput.cores.trans hcores)) rfl rfl rfl

theorem scatter_completes {sr ix ds : Word64} {n m h : Nat} (hop : k.op = .scatterRows sr ix ds n m h) :
    s.completes id k p ecc (((e.putOut o).notePart id p none 0 o).scatterRun (k.noted p none 0 o) sr ix ds n m h).2 := by
  have hend := partEnd_succeeds hk hunarmed hfind hstarted hunheld hfirst ecc (by simp [hop]) (by simp [hop]) hrun
  have hput := marksTo_putOut e o
  obtain ⟨-, hscatter, -⟩ := wellEnd_last ((wcmd_of_cmds hput.work.cmds id).trans ((wcmd_of_cmds hcmds id).trans hk)) hstarted hone 0 o
  obtain ⟨cause, hlast⟩ := hscatter sr ix ds n m h hop
  have hadds := marksTo_scatterRun ((e.putOut o).notePart id p none 0 o) (k.noted p none 0 o) sr ix ds n m h
  exact part_ends hid hone hnan hsilent (hend.trans hlast) ((noted_sameAs ..).trans (scatterRun_sameAs ..))
    (hadds.accepted.trans (hput.accepted.trans haccepted)) (hadds.cores.trans (hput.cores.trans hcores)) rfl rfl rfl

end

end

end

/-! ## O33 -/

/-- Settles O33: what an accepted command that nothing blocks does at its start, and what each end of a part writes, tears and notes. -/
theorem wellPartsRun : Obligations.WellPartsRun := by
  unfold Obligations.WellPartsRun
  intro s id k hk hid hunarmed hparts hucode hfetched
  refine ⟨fun hnew hfree => ⟨?_, ?_, ?_, ?_⟩, ?_, ?_⟩
  · intro hupdate hfold
    rw [exec_wellCommandStart, wellStart_plain hparts hucode hfetched hnew hfree hk hupdate hfold]
  · intro f hop hnext hsome
    rw [exec_wellCommandStart, wellStart_fold hparts hucode hfetched hnew hfree hk hop hnext, if_neg (by simpa using hsome)]
  · intro f hop hnext hzero hnan
    obtain ⟨hgone, hdone⟩ := wellStart_zero hparts hucode hfetched hnew hfree hk hop hnext hzero hnan
    exact ⟨_, exec_wellCommandStart id s, hid ▸ hgone, hdone, rfl, rfl⟩
  · intro g it gr cs n hop hadmitted hdense hunclipped hcounts hnorm
    rw [exec_wellCommandStart, wellStart_update hparts hucode hfetched hnew hfree hk hop hadmitted hdense hunclipped hcounts hnorm]
  · intro p ecc hstarted hp hundone hnodup hfirst hopen fin
    have hfind := find_part hp hundone hnodup
    have hunheld := hparts p hp
    refine ⟨?_, ?_, fun hfold hscrub => ⟨?_, ?_⟩⟩
    · intro f d0 e mask acc pt tried torn cause nan hop hmask hacc hpt hgo hcmds
      exact foldPart_goesOn hk hunarmed hunheld hstarted hfind hfirst hopen hop hmask hacc hpt hgo hcmds
    · intro b l hop r hcmds
      exact scrubPart_goesOn hk hunarmed hunheld hstarted hfind hfirst hopen hop hcmds
    · intro o e hrun hcmds
      exact goodPart_goesOn hk hunarmed hunheld hstarted hfind hfirst hopen hfold hscrub hrun hcmds
    · intro cause e hrun hcmds
      exact failedPart_goesOn hk hunarmed hunheld hstarted hfind hfirst hopen hfold hscrub hrun hcmds
  · intro p ecc hstarted hone hundone hnan hfirst hsilent same ends
    have hp : p ∈ k.parts := by rw [hone]; exact List.mem_singleton_self p
    have hfind := find_part hp hundone (by rw [hone]; exact List.nodup_singleton _)
    have hunheld := hparts p hp
    refine ⟨?_, ?_, ?_⟩
    · intro h off bytes pat b hop hbuf
      exact fill_completes hk hunarmed hunheld hstarted hfind hfirst hid hone hnan hsilent hop hbuf
    · intro b l hop hsame
      obtain ⟨hcmds, haccepted, hcores⟩ := hsame
      exact scrub_completes hk hunarmed hunheld hstarted hfind hfirst hid hone hnan hsilent hop hcmds haccepted hcores
    · intro o e hrun hsame d1
      obtain ⟨hcmds, haccepted, hcores⟩ := hsame
      have hput := (wcmd_of_cmds (marksTo_putOut e o).work.cmds id).trans ((wcmd_of_cmds hcmds id).trans hk)
      refine ⟨?_, fun k1 hk1 => ?_⟩
      · intro src dst f x st it n cc hop
        exact requant_completes hk hunarmed hunheld hstarted hfind hfirst hid hone hnan hsilent hrun hcmds haccepted hcores hop
      · obtain rfl : k.noted p none 0 o = k1 := Option.some_inj.1 ((notePart_wcmd hput p none 0 o).symm.trans hk1)
        refine ⟨?_, ?_⟩
        · intro bs r hop
          exact sumsq_completes hk hunarmed hunheld hstarted hfind hfirst hid hone hnan hsilent hrun hcmds haccepted hcores hop
        · intro sr ix ds n m h hop
          exact scatter_completes hk hunarmed hunheld hstarted hfind hfirst hid hone hnan hsilent hrun hcmds haccepted hcores hop

end Sys2Proof.Machine
end
